-- ==== Sys2Proof/Word.lean ====
section
/-! DEFINITION. The word types of the V96 (R3: 64-bit words, little-endian, bit 0 least significant). -/

namespace Sys2Proof

/-- A 64-bit word. -/
abbrev Word := BitVec 64

/-- A 32-bit lane value (R27). -/
abbrev Lane := BitVec 32

/-- A byte. -/
abbrev Byte := BitVec 8

/-- Bits `h` to `l` of a word as a number (R3). -/
def bits (x : Word) (h l : Nat) : Nat := (x.toNat >>> l) % 2 ^ (h + 1 - l)

/-- Bit `n` of a word. -/
def bit (x : Word) (n : Nat) : Bool := x.getLsbD n

end Sys2Proof
end

