-- ==== Sys2Proof/Syntax.lean ====
section
/-! DEFINITION. Instructions as written: the fields of the formats of R246 to R253 under the manual's own
names, and one constructor per row of the opcode table. A constructor of a word carries every field of
its format that the opcode does not fix; `WellFormed` says which values the entry allows. -/

namespace Sys2Proof

/-- The V format (R246). -/
structure VF where
  guard : BitVec 4
  d : BitVec 8
  a : BitVec 8
  b : BitVec 8
  c : BitVec 8
  ty : BitVec 4
  bg : Bool
  cg : Bool
  mod : BitVec 4
  sat : Bool
  fs : Bool
  sub : BitVec 6
  deriving DecidableEq, Repr

/-- The VI format (R247). -/
structure VIF where
  guard : BitVec 4
  d : BitVec 8
  a : BitVec 8
  ty : BitVec 4
  imm : BitVec 30
  deriving DecidableEq, Repr

/-- The VM format (R248). -/
structure VMF where
  ena : Bool
  enb : Bool
  ty2 : BitVec 2
  da : BitVec 8
  aa : BitVec 8
  ba : BitVec 8
  db : BitVec 8
  ab : BitVec 8
  bb : BitVec 8
  cx : BitVec 2
  deriving DecidableEq, Repr

/-- The M format (R249). -/
structure MF where
  guard : BitVec 4
  data : BitVec 8
  vo : BitVec 8
  gb : BitVec 6
  size : BitVec 3
  scale : BitVec 2
  sg : Bool
  ord : BitVec 3
  scope : BitVec 3
  fs : Bool
  off : BitVec 15
  deriving DecidableEq, Repr

/-- The G format (R250). -/
structure GF where
  guard : BitVec 4
  d : BitVec 6
  a : BitVec 6
  sub : BitVec 4
  i : Bool
  w : Bool
  b : BitVec 32
  deriving DecidableEq, Repr

/-- The C format (R251). -/
structure CF where
  guard : BitVec 4
  off : BitVec 26
  aux : BitVec 24
  deriving DecidableEq, Repr

/-- The X format (R252). -/
structure XF where
  guard : BitVec 4
  w1 : BitVec 4
  w2 : BitVec 4
  bar : BitVec 4
  gp : BitVec 6
  vop : BitVec 8
  fs : Bool
  sub : BitVec 4
  mode : BitVec 19
  deriving DecidableEq, Repr

/-- The S format (R253). -/
structure SF where
  guard : BitVec 4
  sys : BitVec 8
  g : BitVec 6
  imm : BitVec 36
  deriving DecidableEq, Repr

/-- The clause header (R243). -/
structure HF where
  len : BitVec 4
  wait : BitVec 12
  seta : BitVec 4
  setb : BitVec 4
  meld : Bool
  zero : BitVec 33
  deriving DecidableEq, Repr

/-- The name of a fragment: its team, its group and its key in the group. -/
structure Sel where
  tid : Nat
  grp : Nat
  frag : Nat
  deriving DecidableEq, Repr

/-- One constructor per row of the opcode table: the instruction words, and the events by which the
machine's other agents and its surroundings act. -/
inductive Instr where
  /-- BRA: OPC 0x001, C format. -/
  | bra (f : CF)
  /-- BRG: OPC 0x002, C format. -/
  | brg (f : CF)
  /-- BRI: OPC 0x004, C format. -/
  | bri (f : CF)
  /-- CALL: OPC 0x006, C format. -/
  | call (f : CF)
  /-- CALLI: OPC 0x007, C format. -/
  | calli (f : CF)
  /-- RET: OPC 0x008, C format. -/
  | ret (f : CF)
  /-- YIELD: OPC 0x00B, C format. -/
  | yield (f : CF)
  /-- NOP: OPC 0x00C, C format. -/
  | nop (f : CF)
  /-- IDLE: OPC 0x010, C format. -/
  | idle (f : CF)
  /-- LNCH: OPC 0x011, C format. -/
  | lnch (f : CF)
  /-- BRV: OPC 0x003, C format. -/
  | brv (f : CF)
  /-- BRIV: OPC 0x005, C format. -/
  | briv (f : CF)
  /-- EXIT: OPC 0x00A, C format. -/
  | exit (f : CF)
  /-- JOIN: OPC 0x009, C format. -/
  | join (f : CF)
  /-- MOPEN: OPC 0x00D, C format. -/
  | mopen (f : CF)
  /-- MCLOSE: OPC 0x00E, C format. -/
  | mclose (f : CF)
  /-- MREP: OPC 0x00F, C format. -/
  | mrep (f : CF)
  /-- GADD: OPC 0x040, G format. -/
  | gadd (f : GF)
  /-- GSUB: OPC 0x041, G format. -/
  | gsub (f : GF)
  /-- GMUL: OPC 0x042, G format. -/
  | gmul (f : GF)
  /-- GMULH: OPC 0x043, G format. -/
  | gmulh (f : GF)
  /-- GMAD: OPC 0x044, G format. -/
  | gmad (f : GF)
  /-- GDIV: OPC 0x045, G format. -/
  | gdiv (f : GF)
  /-- GREM: OPC 0x046, G format. -/
  | grem (f : GF)
  /-- GAND: OPC 0x047, G format. -/
  | gand (f : GF)
  /-- GOR: OPC 0x048, G format. -/
  | gor (f : GF)
  /-- GXOR: OPC 0x049, G format. -/
  | gxor (f : GF)
  /-- GSHL: OPC 0x04A, G format. -/
  | gshl (f : GF)
  /-- GSHR: OPC 0x04B, G format. -/
  | gshr (f : GF)
  /-- GSAR: OPC 0x04C, G format. -/
  | gsar (f : GF)
  /-- GMIN: OPC 0x04D, G format. -/
  | gmin (f : GF)
  /-- GMAX: OPC 0x04E, G format. -/
  | gmax (f : GF)
  /-- GMOV: OPC 0x04F, G format. -/
  | gmov (f : GF)
  /-- GMOVH: OPC 0x050, G format. -/
  | gmovh (f : GF)
  /-- GCMP: OPC 0x051, G format. -/
  | gcmp (f : GF)
  /-- GSEL: OPC 0x052, G format. -/
  | gsel (f : GF)
  /-- GBITS: OPC 0x053, G format. -/
  | gbits (f : GF)
  /-- GPLOG: OPC 0x081, G format. -/
  | gplog (f : GF)
  /-- EMOV: OPC 0x083, G format. -/
  | emov (f : GF)
  /-- PLOG: OPC 0x080, V format. -/
  | plog (f : VF)
  /-- BALLOT: OPC 0x082, V format. -/
  | ballot (f : VF)
  /-- VBC: OPC 0x084, V format. -/
  | vbc (f : VF)
  /-- VRDL: OPC 0x085, V format. -/
  | vrdl (f : VF)
  /-- VRED: OPC 0x086, V format. -/
  | vred (f : VF)
  /-- VSHFL: OPC 0x087, V format. -/
  | vshfl (f : VF)
  /-- VADD: OPC 0x0C0, V format. -/
  | vadd (f : VF)
  /-- VSUB: OPC 0x0C1, V format. -/
  | vsub (f : VF)
  /-- VMUL: OPC 0x0C2, V format. -/
  | vmul (f : VF)
  /-- VMULH: OPC 0x0C3, V format. -/
  | vmulh (f : VF)
  /-- VMAD: OPC 0x0C4, V format. -/
  | vmad (f : VF)
  /-- VAND: OPC 0x0C5, V format. -/
  | vand (f : VF)
  /-- VOR: OPC 0x0C6, V format. -/
  | vor (f : VF)
  /-- VXOR: OPC 0x0C7, V format. -/
  | vxor (f : VF)
  /-- VSHL: OPC 0x0C8, V format. -/
  | vshl (f : VF)
  /-- VSHR: OPC 0x0C9, V format. -/
  | vshr (f : VF)
  /-- VSAR: OPC 0x0CA, V format. -/
  | vsar (f : VF)
  /-- VMIN: OPC 0x0CB, V format. -/
  | vmin (f : VF)
  /-- VMAX: OPC 0x0CC, V format. -/
  | vmax (f : VF)
  /-- VABS: OPC 0x0CD, V format. -/
  | vabs (f : VF)
  /-- VBITS: OPC 0x0CE, V format. -/
  | vbits (f : VF)
  /-- VBFE: OPC 0x0CF, V format. -/
  | vbfe (f : VF)
  /-- VBFI: OPC 0x0D0, V format. -/
  | vbfi (f : VF)
  /-- VCMP: OPC 0x0D1, V format. -/
  | vcmp (f : VF)
  /-- VSEL: OPC 0x0D2, V format. -/
  | vsel (f : VF)
  /-- VMOV: OPC 0x0D3, V format. -/
  | vmov (f : VF)
  /-- VFADD: OPC 0x100, V format. -/
  | vfadd (f : VF)
  /-- VFSUB: OPC 0x101, V format. -/
  | vfsub (f : VF)
  /-- VFMUL: OPC 0x102, V format. -/
  | vfmul (f : VF)
  /-- VFMA: OPC 0x103, V format. -/
  | vfma (f : VF)
  /-- VFMIN: OPC 0x104, V format. -/
  | vfmin (f : VF)
  /-- VFMAX: OPC 0x105, V format. -/
  | vfmax (f : VF)
  /-- VFCMP: OPC 0x106, V format. -/
  | vfcmp (f : VF)
  /-- VFRCP: OPC 0x107, V format. -/
  | vfrcp (f : VF)
  /-- VFRSQ: OPC 0x108, V format. -/
  | vfrsq (f : VF)
  /-- VFSQRT: OPC 0x109, V format. -/
  | vfsqrt (f : VF)
  /-- VFEX2: OPC 0x10A, V format. -/
  | vfex2 (f : VF)
  /-- VFLG2: OPC 0x10B, V format. -/
  | vflg2 (f : VF)
  /-- VFSIN: OPC 0x10C, V format. -/
  | vfsin (f : VF)
  /-- VFCOS: OPC 0x10D, V format. -/
  | vfcos (f : VF)
  /-- VFCLS: OPC 0x10E, V format. -/
  | vfcls (f : VF)
  /-- VFSCL: OPC 0x10F, V format. -/
  | vfscl (f : VF)
  /-- VFDP4: OPC 0x110, V format. -/
  | vfdp4 (f : VF)
  /-- VCVT: OPC 0x140, V format. -/
  | vcvt (f : VF)
  /-- VNARW: OPC 0x141, V format. -/
  | vnarw (f : VF)
  /-- VWIDE: OPC 0x142, V format. -/
  | vwide (f : VF)
  /-- VSCL: OPC 0x143, V format. -/
  | vscl (f : VF)
  /-- VPACK: OPC 0x144, V format. -/
  | vpack (f : VF)
  /-- VUNPK: OPC 0x145, V format. -/
  | vunpk (f : VF)
  /-- MMAS: OPC 0x180, V format. -/
  | mmas (f : VF)
  /-- XLUT: OPC 0x183, V format. -/
  | xlut (f : VF)
  /-- XUNP: OPC 0x186, V format. -/
  | xunp (f : VF)
  /-- MMLP: OPC 0x181, X format. -/
  | mmlp (f : XF)
  /-- EPTAB: OPC 0x182, X format. -/
  | eptab (f : XF)
  /-- XTAB: OPC 0x184, X format. -/
  | xtab (f : XF)
  /-- XLZ: OPC 0x185, X format. -/
  | xlz (f : XF)
  /-- LD: OPC 0x1C0, M format. -/
  | ld (f : MF)
  /-- ST: OPC 0x1C1, M format. -/
  | st (f : MF)
  /-- ATOM: OPC 0x200, M format. -/
  | atom (f : MF)
  /-- ACAS: OPC 0x201, M format. -/
  | acas (f : MF)
  /-- GLD: OPC 0x1C2, M format. -/
  | gld (f : MF)
  /-- GST: OPC 0x1C3, M format. -/
  | gst (f : MF)
  /-- GATOM: OPC 0x202, M format. -/
  | gatom (f : MF)
  /-- FENCE: OPC 0x203, M format. -/
  | fence (f : MF)
  /-- CCLEAN: OPC 0x204, M format. -/
  | cclean (f : MF)
  /-- CINVAL: OPC 0x205, M format. -/
  | cinval (f : MF)
  /-- CFLUSH: OPC 0x206, M format. -/
  | cflush (f : MF)
  /-- PTSYNC: OPC 0x207, M format. -/
  | ptsync (f : MF)
  /-- PRF: OPC 0x1C4, M format. -/
  | prf (f : MF)
  /-- WOPEN: OPC 0x240, X format. -/
  | wopen (f : XF)
  /-- WRET: OPC 0x241, X format. -/
  | wret (f : XF)
  /-- WLD: OPC 0x242, X format. -/
  | wld (f : XF)
  /-- WST: OPC 0x243, X format. -/
  | wst (f : XF)
  /-- WADV: OPC 0x244, X format. -/
  | wadv (f : XF)
  /-- WGET: OPC 0x245, X format. -/
  | wget (f : XF)
  /-- WCHK: OPC 0x246, X format. -/
  | wchk (f : XF)
  /-- CPA: OPC 0x247, X format. -/
  | cpa (f : XF)
  /-- CPG: OPC 0x249, X format. -/
  | cpg (f : XF)
  /-- CPX: OPC 0x24A, X format. -/
  | cpx (f : XF)
  /-- CPW: OPC 0x248, X format. -/
  | cpw (f : XF)
  /-- CPM: OPC 0x24B, X format. -/
  | cpm (f : XF)
  /-- BINI: OPC 0x24C, X format. -/
  | bini (f : XF)
  /-- BARR: OPC 0x24D, X format. -/
  | barr (f : XF)
  /-- BWAIT: OPC 0x24E, X format. -/
  | bwait (f : XF)
  /-- BSYNC: OPC 0x24F, X format. -/
  | bsync (f : XF)
  /-- BTEST: OPC 0x250, X format. -/
  | btest (f : XF)
  /-- CRV: OPC 0x251, X format. -/
  | crv (f : XF)
  /-- GRANT: OPC 0x252, X format. -/
  | grant (f : XF)
  /-- REVK: OPC 0x253, X format. -/
  | revk (f : XF)
  /-- TRAP: OPC 0x3C0, S format. -/
  | trap (f : SF)
  /-- TRRET: OPC 0x3C1, S format. -/
  | trret (f : SF)
  /-- TFENCE: OPC 0x3C2, S format. -/
  | tfence (f : SF)
  /-- BRK: OPC 0x3C3, S format. -/
  | brk (f : SF)
  /-- SRD: OPC 0x3C4, S format. -/
  | srd (f : SF)
  /-- SWR: OPC 0x3C5, S format. -/
  | swr (f : SF)
  /-- PGTK: OPC 0x3C6, S format. -/
  | pgtk (f : SF)
  /-- PGMAP: OPC 0x3C7, S format. -/
  | pgmap (f : SF)
  /-- MARK: OPC 0x3C8, S format. -/
  | mark (f : SF)
  /-- SIG: OPC 0x3C9, S format. -/
  | sig (f : SF)
  /-- VADD_IMM: OPC 0x0E0, VI format. -/
  | vaddImm (f : VIF)
  /-- VSUB_IMM: OPC 0x0E1, VI format. -/
  | vsubImm (f : VIF)
  /-- VMUL_IMM: OPC 0x0E2, VI format. -/
  | vmulImm (f : VIF)
  /-- VMULH_IMM: OPC 0x0E3, VI format. -/
  | vmulhImm (f : VIF)
  /-- VAND_IMM: OPC 0x0E5, VI format. -/
  | vandImm (f : VIF)
  /-- VOR_IMM: OPC 0x0E6, VI format. -/
  | vorImm (f : VIF)
  /-- VXOR_IMM: OPC 0x0E7, VI format. -/
  | vxorImm (f : VIF)
  /-- VSHL_IMM: OPC 0x0E8, VI format. -/
  | vshlImm (f : VIF)
  /-- VSHR_IMM: OPC 0x0E9, VI format. -/
  | vshrImm (f : VIF)
  /-- VSAR_IMM: OPC 0x0EA, VI format. -/
  | vsarImm (f : VIF)
  /-- VMIN_IMM: OPC 0x0EB, VI format. -/
  | vminImm (f : VIF)
  /-- VMAX_IMM: OPC 0x0EC, VI format. -/
  | vmaxImm (f : VIF)
  /-- VCMP_IMM: OPC 0x0F1, VI format. -/
  | vcmpImm (f : VIF)
  /-- VMOV_IMM: OPC 0x0F3, VI format. -/
  | vmovImm (f : VIF)
  /-- VFADD_IMM: OPC 0x120, VI format. -/
  | vfaddImm (f : VIF)
  /-- VFSUB_IMM: OPC 0x121, VI format. -/
  | vfsubImm (f : VIF)
  /-- VFMUL_IMM: OPC 0x122, VI format. -/
  | vfmulImm (f : VIF)
  /-- VFMIN_IMM: OPC 0x124, VI format. -/
  | vfminImm (f : VIF)
  /-- VFMAX_IMM: OPC 0x125, VI format. -/
  | vfmaxImm (f : VIF)
  /-- VFCMP_IMM: OPC 0x126, VI format. -/
  | vfcmpImm (f : VIF)
  /-- VADD_MELDED: OPC 0x0C0, VM format. -/
  | vaddMelded (f : VMF)
  /-- VSUB_MELDED: OPC 0x0C1, VM format. -/
  | vsubMelded (f : VMF)
  /-- VMUL_MELDED: OPC 0x0C2, VM format. -/
  | vmulMelded (f : VMF)
  /-- VMAD_MELDED: OPC 0x0C4, VM format. -/
  | vmadMelded (f : VMF)
  /-- VAND_MELDED: OPC 0x0C5, VM format. -/
  | vandMelded (f : VMF)
  /-- VOR_MELDED: OPC 0x0C6, VM format. -/
  | vorMelded (f : VMF)
  /-- VXOR_MELDED: OPC 0x0C7, VM format. -/
  | vxorMelded (f : VMF)
  /-- VSHL_MELDED: OPC 0x0C8, VM format. -/
  | vshlMelded (f : VMF)
  /-- VSHR_MELDED: OPC 0x0C9, VM format. -/
  | vshrMelded (f : VMF)
  /-- VSAR_MELDED: OPC 0x0CA, VM format. -/
  | vsarMelded (f : VMF)
  /-- VMIN_MELDED: OPC 0x0CB, VM format. -/
  | vminMelded (f : VMF)
  /-- VMAX_MELDED: OPC 0x0CC, VM format. -/
  | vmaxMelded (f : VMF)
  /-- VCMP_MELDED: OPC 0x0D1, VM format. -/
  | vcmpMelded (f : VMF)
  /-- VMOV_MELDED: OPC 0x0D3, VM format. -/
  | vmovMelded (f : VMF)
  /-- VFADD_MELDED: OPC 0x100, VM format. -/
  | vfaddMelded (f : VMF)
  /-- VFSUB_MELDED: OPC 0x101, VM format. -/
  | vfsubMelded (f : VMF)
  /-- VFMUL_MELDED: OPC 0x102, VM format. -/
  | vfmulMelded (f : VMF)
  /-- VFMA_MELDED: OPC 0x103, VM format. -/
  | vfmaMelded (f : VMF)
  /-- VFMIN_MELDED: OPC 0x104, VM format. -/
  | vfminMelded (f : VMF)
  /-- VFMAX_MELDED: OPC 0x105, VM format. -/
  | vfmaxMelded (f : VMF)
  /-- VFCMP_MELDED: OPC 0x106, VM format. -/
  | vfcmpMelded (f : VMF)
  /-- LD_MELDED: OPC 0x1C0, VM format. -/
  | ldMelded (f : VMF)
  /-- ST_MELDED: OPC 0x1C1, VM format. -/
  | stMelded (f : VMF)
  /-- WLD_MELDED: OPC 0x242, VM format. -/
  | wldMelded (f : VMF)
  /-- WST_MELDED: OPC 0x243, VM format. -/
  | wstMelded (f : VMF)
  /-- CLAUSE_START (R30). -/
  | clauseStart
  /-- METER_WINDOW_END (R184). -/
  | meterWindowEnd (core : Nat)
  /-- THROTTLE_DELIVERY (R185). -/
  | throttleDelivery
  /-- GRACE_ISSUE (R185). -/
  | graceIssue (who : Sel)
  /-- STARVATION_PROMOTION (R182). -/
  | starvationPromotion (who : Sel)
  /-- TIMING_EVENT (R213). -/
  | timingEvent (core slice : Nat) (victim : Sel) (behind : List Sel)
  /-- REPLAY_BUBBLE_END (R213). -/
  | replayBubbleEnd (core slice : Nat)
  /-- LIMP_MODE_END (R216). -/
  | limpModeEnd (core slice : Nat)
  /-- SUPPLY_SETTLED (R217). -/
  | supplySettled (core : Nat)
  /-- QUIET_PERIOD_EXPIRY (R221). -/
  | quietPeriodExpiry (core : Nat)
  /-- TE_WINDOW_END (R218). -/
  | teWindowEnd (core : Nat)
  /-- EGRESS_GATE_RELEASE (R215). -/
  | egressGateRelease (core op : Nat)
  /-- LAUNCH_TAKE (R175). -/
  | launchTake (q : Nat)
  /-- TEAM_ADMISSION (R179). -/
  | teamAdmission (lid core : Nat)
  /-- PREEMPTION_SAVE (R205). -/
  | preemptionSave (tid : Nat)
  /-- SAVE_FRAME_FREE (R206). -/
  | saveFrameFree
  /-- TEAM_RESUME (R209). -/
  | teamResume (tid core : Nat)
  /-- TEAM_END (R47). -/
  | teamEnd (tid : Nat)
  /-- LAUNCH_COMPLETE (R176). -/
  | launchComplete (lid : Nat)
  /-- CARVE_EFFECT (R45). -/
  | carveEffect (tid : Nat)
  /-- OPERATION_COMPLETION (R32). -/
  | operationCompletion (core op : Nat)
  /-- ENGINE_COMMAND_COMPLETION (R161). -/
  | engineCommandCompletion (core cmd : Nat)
  /-- MMLP_STEP (R94). -/
  | mmlpStep (core loop : Nat)
  /-- PIPE_JOB_REPLY (R99). -/
  | pipeJobReply (core pipe : Nat)
  /-- SCRATCH_LINE_ARRIVAL (R135). -/
  | scratchLineArrival (tid line : Nat)
  /-- MULTICAST_LINE_ARRIVAL (R167). -/
  | multicastLineArrival (n : Nat)
  /-- DEFERRED_FAULT_TAKEN (R340). -/
  | deferredFaultTaken (who : Sel)
  /-- PENDING_TRAP_ENTRY (R195). -/
  | pendingTrapEntry (who : Sel)
  /-- PC_SAMPLE (R227). -/
  | pcSample (core slice : Nat)
  /-- FAULT_RING_ACCEPT (R235). -/
  | faultRingAccept
  /-- PAGE_MOVE_COPY (R129). -/
  | pageMoveCopy (ia : Nat) (frame : Word)
  /-- PAGE_MOVE_SWITCH (R129). -/
  | pageMoveSwitch
  /-- APERTURE_WRITEBACK (R88). -/
  | apertureWriteback (line : Nat)
  /-- SLICE_RATIO_CHANGE (R187). -/
  | sliceRatioChange (core slice : Nat)
  /-- RATIO_DEADLINE (R187). -/
  | ratioDeadline (core slice : Nat)
  /-- BIN_DEADLINE (R237). -/
  | binDeadline (die : Nat)
  /-- BIN_SWITCH (R237). -/
  | binSwitch (die : Nat)
  /-- POWER_ON_START (R238). -/
  | powerOnStart (failed : Option Nat)
  /-- ALARM_LEVEL_2 (R240). -/
  | alarmLevel2 (source : Nat)
  /-- ALARM_LEVEL_3 (R240). -/
  | alarmLevel3 (source : Nat)
  /-- LINK_STATE_CHANGE (R233). -/
  | linkStateChange (linkB up : Bool)
  /-- ATTESTATION_DONE (R239). -/
  | attestationDone
  /-- PROVISION_DONE (R241). -/
  | provisionDone
  /-- QTAIL_WRITE (R173). -/
  | qtailWrite (q : Nat) (x : Word)
  /-- QCTL_WRITE (R173). -/
  | qctlWrite (q : Nat) (x : Word)
  /-- QERR_CLEAR (R175). -/
  | qerrClear (q : Nat) (x : Word)
  /-- HFQHEAD_WRITE (R234). -/
  | hfqheadWrite (x : Word)
  /-- INTSTAT_CLEAR (R234). -/
  | intstatClear (x : Word)
  /-- INTMASK_WRITE (R234). -/
  | intmaskWrite (x : Word)
  /-- DBGCMD_RESUME (R200, R226). -/
  | dbgcmdResume (core : Nat)
  /-- DBGCMD_STEP_BACK (R232). -/
  | dbgcmdStepBack (core : Nat)
  /-- DBGCMD_END_LAUNCH (R235). -/
  | dbgcmdEndLaunch (core : Nat)
  /-- DBGVDATA_ACCESS (R235). -/
  | dbgvdataAccess (core : Nat) (data : Option Word)
  /-- DBGSDATA_ACCESS (R235). -/
  | dbgsdataAccess (core : Nat) (data : Option Word)
  /-- WAKE (R297). -/
  | wake (core : Nat) (x : Word)
  /-- SRATIO_WRITE (R186). -/
  | sratioWrite (core slice : Nat) (x : Word)
  /-- MGNCTL_WRITE (R219). -/
  | mgnctlWrite (core : Nat) (x : Word)
  /-- QSTAT_CLEAR (R218). -/
  | qstatClear (core : Nat) (x : Word)
  /-- DIECLK_WRITE (R237). -/
  | dieclkWrite (die : Nat) (x : Word)
  /-- STCMD_WARM (R238). -/
  | stcmdWarm (failed : Option Nat)
  /-- STCMD_COLD (R238). -/
  | stcmdCold (failed : Option Nat)
  /-- ATCMD (R239). -/
  | atcmd (x : Word)
  /-- PROVCMD (R241). -/
  | provcmd (x : Word)
  /-- TRGCTL_WRITE (R230). -/
  | trgctlWrite (core : Nat) (x : Word)
  /-- BROADCAST_WRITE (R234). -/
  | broadcastWrite (off : Nat) (x : Word)
  /-- REGISTER_WRITE (R234). -/
  | registerWrite (off : Nat) (x : Word)
  /-- HOST_BAR2_READ (R233). -/
  | hostBar2Read (linkB : Bool) (ia n : Nat)
  /-- HOST_BAR2_WRITE (R233). -/
  | hostBar2Write (linkB : Bool) (ia : Nat) (data : List Byte)
  /-- HOST_BAR4_ACCESS (R233). -/
  | hostBar4Access (linkB : Bool) (off n : Nat) (data : Option (List Byte))
  /-- PEER_ACCESS_ARRIVAL (R157). -/
  | peerAccessArrival (port ia n : Nat) (data : Option (List Byte))
  /-- PEER_PORT_STATE_CHANGE (R236). -/
  | peerPortStateChange (port : Nat) (up : Bool)
  deriving DecidableEq, Repr

end Sys2Proof
end

