-- ==== Sys2Proof/Config.lean ====
section
/-! DEFINITION. What an implementation fixes, and the free values: constants with no body, so that no
proof can see what they are. Each is applied to the state's counter `fresh` (log 6) and, where one step
takes several, to an index that tells them apart. -/

namespace Sys2Proof.Config

/-- A free word: h0 to h7 at handler entry (R196), tag counts (R228) and other open register values. -/
opaque freeWord : Nat → Nat → Word

/-- Whether g62 takes bits 60:56 of a return address as copies of its bit 55 (R63) or as they are (R271): they are the
same of every address but 2^55. -/
opaque linkExtended : Nat → Bool

/-- A free byte of storage the manual gives no contents for. -/
opaque freeByte : Nat → Nat → Byte

/-- Whether an L1 line had been evicted before this step looked it up (R149: no eviction is promised,
none is forbidden). -/
opaque l1Evicted : Nat → Nat → Bool

/-- Whether a dirty L2 line had been written back before this step dropped it (R131, R133). -/
opaque l2WrittenBack : Nat → Nat → Bool

/-- Whether a walker still used its stale copy of an entry (R128, R202). -/
opaque walkerStale : Nat → Nat → Bool

/-- Which of the operations of a victim's group a timing event hits, where it could hit several (R212, R213). -/
opaque teTarget : Nat → Nat

/-- The stage in which an element of an engine command is moved, whose source another element of the command writes: it
reads the old value there, or the new one (R159, R276, R277: either is allowed). -/
opaque engineStage : Nat → Nat → Nat

/-- Whether an `xlut` job still reads an entry of its table as it stood before an engine wrote it: the old value or the
new one, for each entry (R336). -/
opaque lutOld : Nat → Nat → Bool

/-- Which free frame of a die's pool a request receives, before reduction (R307: left open). -/
opaque frameChoice : Nat → Nat

/-- A choice of the distributor that is not architectural (R40, R180): the slot a team takes and the slice it
tries first for a group, before reduction. -/
opaque placement : Nat → Nat → Nat

/-- The team a weakly parallel launch starts next, before reduction (R179: any order). -/
opaque teamChoice : Nat → Nat

/-- The debug bit of a team (R225, R231): what sets it is not given. -/
opaque debugBit : Nat → Bool

/-- Whether an engine command of a launch that is ended is still performed (R175, R235). -/
opaque endPerformed : Nat → Nat → Bool

/-- The frames that the firmware puts in each pool at start-up (R307): by 2 × die and the size. -/
opaque poolFrames : Nat → List Word

/-- The save frames that the firmware reserves in device memory at start-up (R206): the PA and the size of each. -/
opaque saveFrames : List (Nat × Nat)

/-- How far a store that leaves the egress settling gate comes in this step (R144): modulo 3, to every agent, to
its core's L1 only, or in some of its single-copy atomic pieces (R141). -/
opaque gateStage : Nat → Nat

/-- Whether a piece of a store is performed in this step, where not all of it is (R141, R142). -/
opaque gatePart : Nat → Nat → Bool

/-- What the module's memory holds after a start (R238): the training and the self-test leave it open. -/
opaque memoryAfter : Nat → List (Nat × Byte)

/-- Whether a warm start found its retained values valid (R238). -/
opaque retained : Nat → Bool

/-- The home L2 slice of an IA line, before reduction modulo 384 (R131: the hash is not architectural). -/
opaque homeSlice : Nat → Nat

/-- The sign of `vfsin` at a half-integer, where the sine is zero and R74 states no sign. -/
opaque zeroSign : Nat → Lane → Bool

/-- The module reference time in ns of a trace record (R229). -/
opaque timestamp : Nat → Word

/-- The core clock in MHz that the fuses give clock bin `b` above 0 (R237). -/
opaque fuseBin : Nat → BitVec 16

/-- The fuse configuration, as attestation reads it (R239): with the serial last installed, which the fuses keep
(R241). -/
opaque fuses : Nat → List Byte

/-- The firmware image, as attestation reads it (R239). -/
opaque firmware : List Byte

/-- The attestation private key that a provisioning package installs, or for the empty one the key that the module came
with (R239, R241). -/
opaque attestKey : List Byte → List Byte

/-- RSA-4096 under a key, before `attestSign` takes its 512 bytes (R239). -/
opaque rsa4096 : List Byte → List Byte → Nat → Byte

/-- The attestation signature of a digest under a key (R239): 512 bytes. -/
def attestSign (key digest : List Byte) : List Byte := (List.range 512).map (rsa4096 key digest)

/-- The reason (R241: 1, 2, 4 or 5) with which the checks of a provisioning package fail, its serial apart, or 0:
the signature, the wrapping, the module and the header. -/
opaque provReason : List Byte → Nat

/-- The serial a provisioning package carries (R241). -/
opaque provSerial : List Byte → Nat

/-- OMAX as the margin search of a cold start finds it for a core (R221, R238). -/
opaque marginSearch : Nat → BitVec 5

/-- The correctly rounded value of a function where the model's enclosure does not decide it (R74). -/
opaque undecided : Nat → Lane → Lane

/-- The event that moves next when the agenda of the state is empty, with the fragment that it acts at where it
needs one; none where a slice issues. The clocks, the units and the outside world decide it. -/
opaque schedule : Nat → Option (Option Sel × Instr)

/-- The core and the slice that issue next, where no event moves. -/
opaque scheduleSlice : Nat → Nat × Nat

/-- Core clock of bin `b` in MHz: bin 0 is 1,800 MHz and the highest (R23, R237), the rest come from the fuses. -/
def binFreq (b : Nat) : BitVec 16 :=
  if b = 0 then 1800 else if (fuseBin b).toNat ≤ 1800 then fuseBin b else 1800

end Sys2Proof.Config
end

