-- ==== Sys2Proof/WellFormed.lean ====
section
/-! DEFINITION. Which words an entry allows, as far as the word alone decides it: the RESERVED_FIELD and
FLAG_FIELD rows of R245. A field that a format or an entry marks zero or reserved must be zero (R244). -/

namespace Sys2Proof

/-- The INSTR causes (R189). -/
inductive InstrCause where
  | illegalOpc | reservedField | badHeader | notHeader | headerPos | regRange | formatCode
  | meldDepth | meldOp | meldSplit | pttIndex | pttTarget | trretOutside | badTstat | priv
  | width | flagField
  deriving DecidableEq, Repr

/-- The detail of an INSTR cause (R189). -/
def InstrCause.detail : InstrCause → Nat
  | .illegalOpc => 0x01 | .reservedField => 0x02 | .badHeader => 0x03 | .notHeader => 0x04
  | .headerPos => 0x05 | .regRange => 0x06 | .formatCode => 0x07 | .meldDepth => 0x08
  | .meldOp => 0x09 | .meldSplit => 0x0A | .pttIndex => 0x0B | .pttTarget => 0x0C
  | .trretOutside => 0x0D | .badTstat => 0x0E | .priv => 0x0F | .width => 0x10 | .flagField => 0x11

/-- The integer TY codes (R246). -/
def tyInt (t : BitVec 4) : Bool := t == 0 || (2 ≤ t && t ≤ 8)

/-- The types that move a value (R319, R325 to R327): s32, f32, n32, s64, n64. -/
def tyMove (t : BitVec 4) : Bool := t ≤ 2 || t == 7 || t == 8

/-- B names a vector register, or with BG a g register below 64 (R246). -/
def VF.bOk (f : VF) : Bool := !f.bg || f.b < 64

/-- C names a vector register, or with CG a g register below 64 (R246). -/
def VF.cOk (f : VF) : Bool := !f.cg || f.c < 64

/-- B is not used. -/
def VF.b0 (f : VF) : Bool := f.b == 0 && !f.bg

/-- C is not used. -/
def VF.c0 (f : VF) : Bool := f.c == 0 && !f.cg

/-- MOD, SAT and SUB are zero. -/
def VF.plain (f : VF) : Bool := f.mod == 0 && !f.sat && f.sub == 0

/-- D of a compare: bits 7:6 zero, and a condition up to `top` in bits 5:3 (R246, R318). -/
def condOk (d : BitVec 8) (top : BitVec 8) : Bool := d < 64 && d >>> 3 ≤ top

/-- The two-operand integer mould (R316, R324). -/
def VF.int2 (f : VF) : Bool := tyInt f.ty && f.bOk && f.c0 && f.plain

/-- MOD as R73 lays it out, with the rounding mode free. -/
def VF.rm (f : VF) : Bool := f.mod ≤ 3

/-- The two-operand float mould with a rounding mode (R321). -/
def VF.flt2 (f : VF) : Bool := f.ty == 1 && f.bOk && f.c0 && f.rm && !f.sat && f.sub == 0

/-- The one-operand float mould (R321, R322). -/
def VF.flt1 (f : VF) : Bool := f.ty == 1 && f.b0 && f.c0 && f.rm && !f.sat && f.sub == 0

/-- One arm of a melded word: a disabled arm has zero fields, an enabled one meets its cells (R57, R58). -/
def armOk (en : Bool) (d a b : BitVec 8) (cell : BitVec 8 → BitVec 8 → BitVec 8 → Bool) : Bool :=
  if en then cell d a b else d == 0 && a == 0 && b == 0

/-- A melded word: an arm is enabled, TY2 and CX are allowed, both arms meet their cells (R56 to R58). -/
def VMF.ok (f : VMF) (tys : BitVec 2 → Bool) (cxTop : BitVec 2)
    (cell : BitVec 8 → BitVec 8 → BitVec 8 → Bool) : Bool :=
  (f.ena || f.enb) && tys f.ty2 && f.cx ≤ cxTop &&
  armOk f.ena f.da f.aa f.ba cell && armOk f.enb f.db f.ab f.bb cell

/-- TY2 s32 or n32 (R58). -/
def ty2Int (t : BitVec 2) : Bool := t == 0 || t == 2

/-- TY2 f32 (R58). -/
def ty2Flt (t : BitVec 2) : Bool := t == 1

/-- TY2 s32, f32 or n32 (R58). -/
def ty2Any (t : BitVec 2) : Bool := t ≤ 2

/-- Every cell of three source and destination fields is allowed. -/
def cellAny (_ _ _ : BitVec 8) : Bool := true

/-- BX is zero. -/
def cellB0 (_ _ b : BitVec 8) : Bool := b == 0

/-- DX is zero. -/
def cellD0 (d _ _ : BitVec 8) : Bool := d == 0

/-- A melded compare with conditions up to `top`; with both arms enabled the conditions agree (R58). -/
def VMF.cmpOk (f : VMF) (tys : BitVec 2 → Bool) (top : BitVec 8) : Bool :=
  f.ok tys 0 (fun d _ _ => condOk d top) &&
  (!(f.ena && f.enb) || f.da >>> 3 == f.db >>> 3)

/-- With VO = 0xFF, SCALE and SG are zero (R249). -/
def MF.voOk (f : MF) : Bool := f.vo != 0xFF || (f.scale == 0 && !f.sg)

/-- No vector offset (R249). -/
def MF.vo0 (f : MF) : Bool := f.vo == 0xFF && f.scale == 0 && !f.sg

/-- The order is in `allowed`, the scope is defined, and `.rlx` and `.cg` carry scope 0 (R139). -/
def MF.ordOk (f : MF) (allowed : List (BitVec 3)) : Bool :=
  allowed.contains f.ord && f.scope ≤ 5 && ((f.ord != 0 && f.ord != 4) || f.scope == 0)

/-- OP of an atomic, bits 14:11 (R249). -/
def MF.op (f : MF) : BitVec 4 := f.off.extractLsb' 11 4

/-- SIZE and OP of an atomic (R263). -/
def MF.atomOk (f : MF) : Bool :=
  (f.size == 2 || f.size == 3) && f.op ≤ 11 && (f.op < 9 || f.size == 2)

/-- ORD and SCOPE are zero. -/
def MF.ord0 (f : MF) : Bool := f.ord == 0 && f.scope == 0

/-- A cache maintenance word (R273). -/
def MF.cacheOk (f : MF) : Bool :=
  f.data < 64 && f.vo0 && f.size == 0 && f.ord == 0 && f.scope ≤ 2

/-- B of the G format: with I clear, bits 31:6 are zero (R250). -/
def GF.bOk (f : GF) : Bool := f.i || f.b < 64

/-- SUB bits 2:0. -/
def GF.sel (f : GF) : BitVec 3 := f.sub.extractLsb' 0 3

/-- U, SUB bit 3 (R250). -/
def GF.u (f : GF) : Bool := f.sub.getLsbD 3

/-- An entry whose columns "SUB 2:0" and "U with W = 1" read 0 (R284, R285). -/
def GF.plain (f : GF) : Bool := f.bOk && f.sel == 0 && !(f.u && f.w)

/-- An entry whose U is its signedness (R284). -/
def GF.signed (f : GF) : Bool := f.bOk && f.sel == 0

/-- OFF26 and AUX24 are zero. -/
def CF.zero (f : CF) : Bool := f.off == 0 && f.aux == 0

/-- MODE bit 4 is BE; with BE clear the barrier field is zero (R275). -/
def XF.beOk (f : XF) : Bool := f.mode.getLsbD 4 || f.bar == 0

/-- The bits of MODE outside `m` are zero. -/
def XF.modeIn (f : XF) (m : BitVec 19) : Bool := f.mode &&& ~~~m == 0

/-- W1, W2, VOP and SUB are zero (R265, R280, R290). -/
def XF.team (f : XF) : Bool := f.w1 == 0 && f.w2 == 0 && f.vop == 0 && f.sub == 0

/-- The numbers of the system register map (R256). -/
def sysListed (n : BitVec 8) : Bool :=
  n ≤ 0x0C || (0x10 ≤ n && n ≤ 0x16) || (0x18 ≤ n && n ≤ 0x24) || (0x28 ≤ n && n ≤ 0x37) ||
  (0x40 ≤ n && n ≤ 0xE3)

/-- No field that the format or the entry marks zero or reserved is set (R244). -/
def Instr.fieldsOk : Instr → Bool
  | .bra f => f.aux == 0
  | .brg f => f.aux < 16
  | .bri f => f.off == 0 && f.aux < 64
  | .call f => f.aux == 0
  | .calli f => f.off == 0 && f.aux < 64
  | .ret f => f.zero
  | .yield f => f.zero
  | .nop f => f.zero
  | .idle f => f.zero
  | .lnch f => f.off == 0 && f.aux < 0x8000
  | .brv _ => true
  | .briv f => f.off == 0 && f.aux < 0x4000
  | .exit f => f.zero
  | .join f => f.guard == 0 && f.zero
  | .mopen f => f.guard == 0 && f.off == 0 && f.aux < 8
  | .mclose f => f.guard == 0 && f.zero
  | .mrep f => f.guard == 0 && f.aux < 256
  | .gadd f => f.plain
  | .gsub f => f.plain
  | .gmul f => f.plain
  | .gmulh f => f.signed
  | .gmad f => f.plain
  | .gdiv f => f.signed
  | .grem f => f.signed
  | .gand f => f.plain
  | .gor f => f.plain
  | .gxor f => f.plain
  | .gshl f => f.plain
  | .gshr f => f.plain
  | .gsar f => f.plain
  | .gmin f => f.signed
  | .gmax f => f.signed
  | .gmov f => f.plain && f.a == 0
  | .gmovh f => f.bOk && f.sub == 0 && f.a == 0 && f.w
  | .gcmp f => f.bOk && f.sel ≤ 5 && f.d < 8
  | .gsel f => f.bOk && !(f.u && f.w)
  | .gbits f => f.bOk && f.sel ≤ 4 && !(f.u && f.w) && f.a == 0
  | .gplog f => f.d < 8 && f.a < 8 && f.b < 8 && !f.i && !f.w && !f.u
  | .emov f => !f.i && !f.w && f.b == 0 && !f.u && ((f.sel == 0 && f.a == 0) || (f.sel == 1 && f.d == 0) || (f.sel == 2 && f.a < 8) || (f.sel == 3 && f.d < 8))
  | .plog f => f.d < 8 && f.a < 8 && f.b < 8 && !f.bg && f.c0 && f.ty == 0 && f.mod == 0 && !f.sat && f.sub < 8
  | .ballot f => f.a < 8 && f.b0 && f.c0 && f.ty == 0 && f.mod == 0 && !f.sat && ((f.sub == 0 && f.d < 64) || ((f.sub == 1 || f.sub == 2) && f.d < 8))
  | .vbc f => f.bg && f.bOk && f.a == 0 && f.c0 && (f.ty == 0 || f.ty == 2 || f.ty == 7 || f.ty == 8) && f.plain
  | .vrdl f => tyMove f.ty && f.d < 64 && f.b0 && f.cOk && f.plain
  | .vred f => f.d < 64 && f.b0 && f.c0 && f.mod == 0 && !f.sat && ((f.sub ≤ 5 && tyInt f.ty) || (6 ≤ f.sub && f.sub ≤ 8 && f.ty == 1))
  | .vshfl f => tyMove f.ty && f.mod == 0 && !f.sat && ((f.sub == 0 && f.bOk && f.c0) || (1 ≤ f.sub && f.sub ≤ 3 && f.b0 && f.cOk))
  | .vadd f => tyInt f.ty && f.bOk && f.c0 && f.mod == 0 && f.sub == 0
  | .vsub f => f.int2
  | .vmul f => f.int2
  | .vmulh f => f.int2
  | .vmad f => tyInt f.ty && f.bOk && f.cOk && f.plain
  | .vand f => f.int2
  | .vor f => f.int2
  | .vxor f => f.int2
  | .vshl f => f.int2
  | .vshr f => f.int2
  | .vsar f => f.int2
  | .vmin f => f.int2
  | .vmax f => f.int2
  | .vabs f => (f.ty == 0 || f.ty == 3 || f.ty == 5 || f.ty == 7) && f.b0 && f.c0 && f.mod == 0 && f.sub == 0
  | .vbits f => (f.ty == 2 || f.ty == 8) && f.b0 && f.c0 && f.mod == 0 && !f.sat && f.sub ≤ 4
  | .vbfe f => (f.ty == 0 || f.ty == 2) && f.bOk && f.cOk && f.plain
  | .vbfi f => (f.ty == 0 || f.ty == 2) && f.bOk && f.cOk && f.plain
  | .vcmp f => tyInt f.ty && condOk f.d 5 && f.bOk && f.c0 && f.plain
  | .vsel f => tyMove f.ty && f.c < 8 && !f.cg && f.bOk && f.plain
  | .vmov f => tyMove f.ty && f.b0 && f.c0 && f.mod == 0 && !f.sat && (f.sub == 0 || (f.sub == 1 && f.a == 0))
  | .vfadd f => f.flt2
  | .vfsub f => f.flt2
  | .vfmul f => f.flt2
  | .vfma f => f.ty == 1 && f.bOk && f.cOk && f.rm && !f.sat && f.sub == 0
  | .vfmin f => f.flt2 && f.mod == 0
  | .vfmax f => f.flt2 && f.mod == 0
  | .vfcmp f => f.flt2 && f.mod == 0 && condOk f.d 6
  | .vfrcp f => f.flt1
  | .vfrsq f => f.flt1
  | .vfsqrt f => f.flt1
  | .vfex2 f => f.flt1 && f.mod == 0
  | .vflg2 f => f.flt1 && f.mod == 0
  | .vfsin f => f.flt1 && f.mod == 0
  | .vfcos f => f.flt1 && f.mod == 0
  | .vfcls f => f.flt1 && f.mod == 0
  | .vfscl f => f.flt2
  | .vfdp4 f => (f.ty == 1 || f.ty == 9 || f.ty == 10) && !f.bg && f.cOk && f.rm && !f.sat && f.sub == 0
  | .vcvt f => f.ty ≤ 10 && f.b0 && !f.cg && f.rm && f.sub == 0
  | .vnarw f => f.bg && f.bOk && f.ty == 0 && f.sub < 32 && ((f.mod == 4 && f.cg && f.cOk) || (f.mod == 0 && f.c0))
  | .vwide f => (f.ty == 1 || f.ty == 9 || f.ty == 10) && f.sub < 32 && f.c < 4 && !f.cg && ((f.bg && f.b < 64) || f.b0) && f.mod == 0 && !f.sat
  | .vscl f => f.d < 64 && !f.cg && f.b0 && f.ty == 0 && f.plain
  | .vpack f => 3 ≤ f.ty && f.ty ≤ 6 && f.b0 && f.c0 && f.mod == 0 && f.sub == 0
  | .vunpk f => 3 ≤ f.ty && f.ty ≤ 6 && f.b0 && f.c0 && f.plain
  | .mmas f => f.ty == 0 && !f.bg && !f.cg && f.plain
  | .xlut f => f.ty == 0 && f.bg && f.bOk && f.c0 && f.plain
  | .xunp f => f.ty == 0 && f.bg && f.bOk && f.c ≤ 1 && !f.cg && f.plain
  | .mmlp f => f.bar == 0 && f.sub == 0 && f.mode ≤ 1
  | .eptab f => f.w2 == 0 && f.bar == 0 && f.vop == 0 && f.sub == 0 && f.mode == 0
  | .xtab f => f.w2 == 0 && f.bar == 0 && f.gp == 0 && f.vop == 0 && f.sub == 0 && f.mode < 4
  | .xlz f => f.w1 == 0 && f.w2 == 0 && f.bar == 0 && f.vop == 0 && f.sub == 0 && f.mode == 0
  | .ld f => f.voOk && f.size ≤ 4 && f.ordOk [0, 1, 4]
  | .st f => f.voOk && f.size ≤ 4 && f.ordOk [0, 2]
  | .atom f => f.voOk && f.atomOk && f.ordOk [0, 1, 2, 3]
  | .acas f => f.voOk && f.atomOk && f.op == 0 && f.ordOk [0, 1, 2, 3]
  | .gld f => f.data < 64 && f.vo0 && f.size ≤ 3 && f.ordOk [0, 1, 4]
  | .gst f => f.data < 64 && f.vo0 && f.size ≤ 3 && f.ordOk [0, 2]
  | .gatom f => f.data < 64 && f.vo0 && f.atomOk && f.ordOk [0, 1, 2, 3]
  | .fence f => f.data == 0 && f.gb == 0 && f.vo0 && f.size == 0 && f.ord == 0 && f.scope ≤ 5 && f.off == 0
  | .cclean f => f.cacheOk
  | .cinval f => f.cacheOk
  | .cflush f => f.cacheOk
  | .ptsync f => f.data == 0 && f.gb == 0 && f.vo0 && f.size == 0 && f.ord0 && f.off == 0
  | .prf f => f.data == 0 && f.voOk && f.size ≤ 4 && f.ord0 && !f.fs
  | .wopen f => f.w2 == 0 && f.bar == 0 && f.vop == 0 && f.sub == 0 && f.mode ≤ 5
  | .wret f => f.w2 == 0 && f.bar == 0 && f.gp == 0 && f.vop == 0 && f.sub == 0 && f.mode ≤ 5
  | .wld f => f.w2 == 0 && f.bar == 0 && f.gp == 0 && f.sub == 0 && f.mode < 512
  | .wst f => f.w2 == 0 && f.bar == 0 && f.gp == 0 && f.sub == 0 && f.mode < 512
  | .wadv f => f.w2 == 0 && f.bar == 0 && f.vop == 0 && f.sub == 0 && f.mode == 0
  | .wget f => f.w2 == 0 && f.bar == 0 && f.vop == 0 && f.sub == 0 && f.mode == 0
  | .wchk f => f.bar == 0 && f.gp == 0 && f.vop == 0 && f.sub == 0 && f.mode < 8
  | .cpa f => f.w1 == 0 && f.w2 == 0 && f.sub == 0 && f.modeIn 0x7FC10 && f.mode.extractLsb' 11 2 != 3 && f.beOk && (f.vop != 0xFF || !f.mode.getLsbD 10)
  | .cpg f => f.gp == 0 && f.sub == 0 && f.modeIn 0x10 && f.beOk
  | .cpx f => f.gp == 0 && f.sub == 0 && f.modeIn 0x10 && f.beOk
  | .cpw f => f.gp == 0 && f.vop == 0 && f.sub == 0 && f.modeIn 0xF0 && f.beOk
  | .cpm f => f.w1 == 0 && f.vop == 0 && f.sub == 0 && f.modeIn 0x17 && f.beOk
  | .bini f => f.team && f.mode == 0
  | .barr f => f.team && f.gp == 0 && f.mode == 0
  | .bwait f => f.team && f.gp == 0 && f.mode == 0
  | .bsync f => f.team && f.gp == 0 && f.mode == 0
  | .btest f => f.team && f.gp == 0 && f.mode < 8
  | .crv f => f.team && f.bar == 0 && f.mode < 8
  | .grant f => f.team && f.bar == 0 && f.modeIn 0x33F
  | .revk f => f.team && f.bar == 0 && f.gp == 0 && f.modeIn 0x300
  | .trap f => f.sys == 0 && f.g == 0 && f.imm < 64
  | .trret f => f.sys == 0 && f.g == 0 && f.imm == 0
  | .tfence f => f.sys == 0 && f.g == 0 && f.imm == 0
  | .brk f => f.sys == 0 && f.g == 0 && f.imm == 0
  | .srd f => sysListed f.sys && f.imm == 0
  | .swr f => sysListed f.sys && f.imm == 0
  | .pgtk f => f.sys == 0 && f.imm &&& ~~~0x107#36 == 0
  | .pgmap f => f.sys == 0 && f.imm &&& ~~~0x13F#36 == 0
  | .mark f => f.sys == 0 && f.imm < 0x10000
  | .sig f => f.sys == 0 && f.imm < 64
  | .vaddImm f => tyInt f.ty
  | .vsubImm f => tyInt f.ty
  | .vmulImm f => tyInt f.ty
  | .vmulhImm f => tyInt f.ty
  | .vandImm f => tyInt f.ty
  | .vorImm f => tyInt f.ty
  | .vxorImm f => tyInt f.ty
  | .vshlImm f => tyInt f.ty
  | .vshrImm f => tyInt f.ty
  | .vsarImm f => tyInt f.ty
  | .vminImm f => tyInt f.ty
  | .vmaxImm f => tyInt f.ty
  | .vcmpImm f => tyInt f.ty && condOk f.d 5
  | .vmovImm f => tyMove f.ty && f.a == 0
  | .vfaddImm f => f.ty == 1
  | .vfsubImm f => f.ty == 1
  | .vfmulImm f => f.ty == 1
  | .vfminImm f => f.ty == 1
  | .vfmaxImm f => f.ty == 1
  | .vfcmpImm f => f.ty == 1 && condOk f.d 6
  | .vaddMelded f => f.ok ty2Int 0 cellAny
  | .vsubMelded f => f.ok ty2Int 0 cellAny
  | .vmulMelded f => f.ok ty2Int 0 cellAny
  | .vmadMelded f => f.ok ty2Int 1 cellAny
  | .vandMelded f => f.ok ty2Int 0 cellAny
  | .vorMelded f => f.ok ty2Int 0 cellAny
  | .vxorMelded f => f.ok ty2Int 0 cellAny
  | .vshlMelded f => f.ok ty2Int 0 cellAny
  | .vshrMelded f => f.ok ty2Int 0 cellAny
  | .vsarMelded f => f.ok ty2Int 0 cellAny
  | .vminMelded f => f.ok ty2Int 0 cellAny
  | .vmaxMelded f => f.ok ty2Int 0 cellAny
  | .vcmpMelded f => f.cmpOk ty2Int 5
  | .vmovMelded f => f.ok ty2Any 0 cellB0
  | .vfaddMelded f => f.ok ty2Flt 0 cellAny
  | .vfsubMelded f => f.ok ty2Flt 0 cellAny
  | .vfmulMelded f => f.ok ty2Flt 0 cellAny
  | .vfmaMelded f => f.ok ty2Flt 1 cellAny
  | .vfminMelded f => f.ok ty2Flt 0 cellAny
  | .vfmaxMelded f => f.ok ty2Flt 0 cellAny
  | .vfcmpMelded f => f.cmpOk ty2Flt 6
  | .ldMelded f => f.ok ty2Any 0 cellB0
  | .stMelded f => f.ok ty2Any 0 cellD0
  | .wldMelded f => f.ok (· == 0) 0 (fun _ a b => a < 16 && b == 0)
  | .wstMelded f => f.ok (· == 0) 0 (fun d a _ => a < 16 && d == 0)
  | .clauseStart => true
  | .meterWindowEnd _ => true
  | .throttleDelivery => true
  | .graceIssue _ => true
  | .starvationPromotion _ => true
  | .timingEvent _ _ _ _ => true
  | .replayBubbleEnd _ _ => true
  | .limpModeEnd _ _ => true
  | .supplySettled _ => true
  | .quietPeriodExpiry _ => true
  | .teWindowEnd _ => true
  | .egressGateRelease _ _ => true
  | .launchTake _ => true
  | .teamAdmission _ _ => true
  | .preemptionSave _ => true
  | .saveFrameFree => true
  | .teamResume _ _ => true
  | .teamEnd _ => true
  | .launchComplete _ => true
  | .carveEffect _ => true
  | .operationCompletion _ _ => true
  | .engineCommandCompletion _ _ => true
  | .mmlpStep _ _ => true
  | .pipeJobReply _ _ => true
  | .scratchLineArrival _ _ => true
  | .multicastLineArrival _ => true
  | .deferredFaultTaken _ => true
  | .pendingTrapEntry _ => true
  | .pcSample _ _ => true
  | .faultRingAccept => true
  | .pageMoveCopy _ _ => true
  | .pageMoveSwitch => true
  | .apertureWriteback _ => true
  | .sliceRatioChange _ _ => true
  | .ratioDeadline _ _ => true
  | .binDeadline _ => true
  | .binSwitch _ => true
  | .powerOnStart _ => true
  | .alarmLevel2 _ => true
  | .alarmLevel3 _ => true
  | .linkStateChange _ _ => true
  | .attestationDone => true
  | .provisionDone => true
  | .qtailWrite _ _ => true
  | .qctlWrite _ _ => true
  | .qerrClear _ _ => true
  | .hfqheadWrite _ => true
  | .intstatClear _ => true
  | .intmaskWrite _ => true
  | .dbgcmdResume _ => true
  | .dbgcmdStepBack _ => true
  | .dbgcmdEndLaunch _ => true
  | .dbgvdataAccess _ _ => true
  | .dbgsdataAccess _ _ => true
  | .wake _ _ => true
  | .sratioWrite _ _ _ => true
  | .mgnctlWrite _ _ => true
  | .qstatClear _ _ => true
  | .dieclkWrite _ _ => true
  | .stcmdWarm _ => true
  | .stcmdCold _ => true
  | .atcmd _ => true
  | .provcmd _ => true
  | .trgctlWrite _ _ => true
  | .broadcastWrite _ _ => true
  | .registerWrite _ _ => true
  | .hostBar2Read _ _ _ => true
  | .hostBar2Write _ _ _ => true
  | .hostBar4Access _ _ _ _ => true
  | .peerAccessArrival _ _ _ _ => true
  | .peerPortStateChange _ _ => true

/-- An entry that allows no flag has FS zero (R32, R302). FS of `prf`, a cell that R249 marks zero, has been judged before with
the fields (R245, log 63). -/
def Instr.flagOk : Instr → Bool
  | .bra _ => true
  | .brg _ => true
  | .bri _ => true
  | .call _ => true
  | .calli _ => true
  | .ret _ => true
  | .yield _ => true
  | .nop _ => true
  | .idle _ => true
  | .lnch _ => true
  | .brv _ => true
  | .briv _ => true
  | .exit _ => true
  | .join _ => true
  | .mopen _ => true
  | .mclose _ => true
  | .mrep _ => true
  | .gadd _ => true
  | .gsub _ => true
  | .gmul _ => true
  | .gmulh _ => true
  | .gmad _ => true
  | .gdiv _ => true
  | .grem _ => true
  | .gand _ => true
  | .gor _ => true
  | .gxor _ => true
  | .gshl _ => true
  | .gshr _ => true
  | .gsar _ => true
  | .gmin _ => true
  | .gmax _ => true
  | .gmov _ => true
  | .gmovh _ => true
  | .gcmp _ => true
  | .gsel _ => true
  | .gbits _ => true
  | .gplog _ => true
  | .emov _ => true
  | .plog f => !f.fs
  | .ballot f => !f.fs
  | .vbc f => !f.fs
  | .vrdl f => !f.fs
  | .vred f => !f.fs
  | .vshfl f => !f.fs
  | .vadd f => !f.fs
  | .vsub f => !f.fs
  | .vmul f => !f.fs
  | .vmulh f => !f.fs
  | .vmad f => !f.fs
  | .vand f => !f.fs
  | .vor f => !f.fs
  | .vxor f => !f.fs
  | .vshl f => !f.fs
  | .vshr f => !f.fs
  | .vsar f => !f.fs
  | .vmin f => !f.fs
  | .vmax f => !f.fs
  | .vabs f => !f.fs
  | .vbits f => !f.fs
  | .vbfe f => !f.fs
  | .vbfi f => !f.fs
  | .vcmp f => !f.fs
  | .vsel f => !f.fs
  | .vmov f => !f.fs
  | .vfadd f => !f.fs
  | .vfsub f => !f.fs
  | .vfmul f => !f.fs
  | .vfma f => !f.fs
  | .vfmin f => !f.fs
  | .vfmax f => !f.fs
  | .vfcmp f => !f.fs
  | .vfrcp f => !f.fs
  | .vfrsq f => !f.fs
  | .vfsqrt f => !f.fs
  | .vfex2 f => !f.fs
  | .vflg2 f => !f.fs
  | .vfsin f => !f.fs
  | .vfcos f => !f.fs
  | .vfcls f => !f.fs
  | .vfscl f => !f.fs
  | .vfdp4 f => !f.fs
  | .vcvt f => !f.fs
  | .vnarw f => !f.fs
  | .vwide f => !f.fs
  | .vscl f => !f.fs
  | .vpack f => !f.fs
  | .vunpk f => !f.fs
  | .mmas f => !f.fs
  | .xlut _ => true
  | .xunp _ => true
  | .mmlp _ => true
  | .eptab _ => true
  | .xtab _ => true
  | .xlz _ => true
  | .ld _ => true
  | .st _ => true
  | .atom _ => true
  | .acas _ => true
  | .gld _ => true
  | .gst _ => true
  | .gatom _ => true
  | .fence _ => true
  | .cclean _ => true
  | .cinval _ => true
  | .cflush _ => true
  | .ptsync _ => true
  | .prf f => !f.fs
  | .wopen _ => true
  | .wret _ => true
  | .wld _ => true
  | .wst _ => true
  | .wadv f => !f.fs
  | .wget f => !f.fs
  | .wchk f => !f.fs
  | .cpa _ => true
  | .cpg _ => true
  | .cpx _ => true
  | .cpw _ => true
  | .cpm _ => true
  | .bini f => !f.fs
  | .barr f => !f.fs
  | .bwait f => !f.fs
  | .bsync f => !f.fs
  | .btest f => !f.fs
  | .crv f => !f.fs
  | .grant _ => true
  | .revk _ => true
  | .trap _ => true
  | .trret _ => true
  | .tfence _ => true
  | .brk _ => true
  | .srd _ => true
  | .swr _ => true
  | .pgtk _ => true
  | .pgmap _ => true
  | .mark _ => true
  | .sig _ => true
  | .vaddImm _ => true
  | .vsubImm _ => true
  | .vmulImm _ => true
  | .vmulhImm _ => true
  | .vandImm _ => true
  | .vorImm _ => true
  | .vxorImm _ => true
  | .vshlImm _ => true
  | .vshrImm _ => true
  | .vsarImm _ => true
  | .vminImm _ => true
  | .vmaxImm _ => true
  | .vcmpImm _ => true
  | .vmovImm _ => true
  | .vfaddImm _ => true
  | .vfsubImm _ => true
  | .vfmulImm _ => true
  | .vfminImm _ => true
  | .vfmaxImm _ => true
  | .vfcmpImm _ => true
  | .vaddMelded _ => true
  | .vsubMelded _ => true
  | .vmulMelded _ => true
  | .vmadMelded _ => true
  | .vandMelded _ => true
  | .vorMelded _ => true
  | .vxorMelded _ => true
  | .vshlMelded _ => true
  | .vshrMelded _ => true
  | .vsarMelded _ => true
  | .vminMelded _ => true
  | .vmaxMelded _ => true
  | .vcmpMelded _ => true
  | .vmovMelded _ => true
  | .vfaddMelded _ => true
  | .vfsubMelded _ => true
  | .vfmulMelded _ => true
  | .vfmaMelded _ => true
  | .vfminMelded _ => true
  | .vfmaxMelded _ => true
  | .vfcmpMelded _ => true
  | .ldMelded _ => true
  | .stMelded _ => true
  | .wldMelded _ => true
  | .wstMelded _ => true
  | .clauseStart => true
  | .meterWindowEnd _ => true
  | .throttleDelivery => true
  | .graceIssue _ => true
  | .starvationPromotion _ => true
  | .timingEvent _ _ _ _ => true
  | .replayBubbleEnd _ _ => true
  | .limpModeEnd _ _ => true
  | .supplySettled _ => true
  | .quietPeriodExpiry _ => true
  | .teWindowEnd _ => true
  | .egressGateRelease _ _ => true
  | .launchTake _ => true
  | .teamAdmission _ _ => true
  | .preemptionSave _ => true
  | .saveFrameFree => true
  | .teamResume _ _ => true
  | .teamEnd _ => true
  | .launchComplete _ => true
  | .carveEffect _ => true
  | .operationCompletion _ _ => true
  | .engineCommandCompletion _ _ => true
  | .mmlpStep _ _ => true
  | .pipeJobReply _ _ => true
  | .scratchLineArrival _ _ => true
  | .multicastLineArrival _ => true
  | .deferredFaultTaken _ => true
  | .pendingTrapEntry _ => true
  | .pcSample _ _ => true
  | .faultRingAccept => true
  | .pageMoveCopy _ _ => true
  | .pageMoveSwitch => true
  | .apertureWriteback _ => true
  | .sliceRatioChange _ _ => true
  | .ratioDeadline _ _ => true
  | .binDeadline _ => true
  | .binSwitch _ => true
  | .powerOnStart _ => true
  | .alarmLevel2 _ => true
  | .alarmLevel3 _ => true
  | .linkStateChange _ _ => true
  | .attestationDone => true
  | .provisionDone => true
  | .qtailWrite _ _ => true
  | .qctlWrite _ _ => true
  | .qerrClear _ _ => true
  | .hfqheadWrite _ => true
  | .intstatClear _ => true
  | .intmaskWrite _ => true
  | .dbgcmdResume _ => true
  | .dbgcmdStepBack _ => true
  | .dbgcmdEndLaunch _ => true
  | .dbgvdataAccess _ _ => true
  | .dbgsdataAccess _ _ => true
  | .wake _ _ => true
  | .sratioWrite _ _ _ => true
  | .mgnctlWrite _ _ => true
  | .qstatClear _ _ => true
  | .dieclkWrite _ _ => true
  | .stcmdWarm _ => true
  | .stcmdCold _ => true
  | .atcmd _ => true
  | .provcmd _ => true
  | .trgctlWrite _ _ => true
  | .broadcastWrite _ _ => true
  | .registerWrite _ _ => true
  | .hostBar2Read _ _ _ => true
  | .hostBar2Write _ _ _ => true
  | .hostBar4Access _ _ _ _ => true
  | .peerAccessArrival _ _ _ _ => true
  | .peerPortStateChange _ _ => true

/-- The first cause that the word alone decides (R245, places 4 and 5). -/
def Instr.check (i : Instr) : Option InstrCause :=
  if !i.fieldsOk then some .reservedField else if !i.flagOk then some .flagField else none

/-- A well-formed instruction: no cause of the word alone. -/
abbrev Instr.WellFormed (i : Instr) : Prop := i.check = none

/-- A header is well formed when LEN is 1 to 15, SETA and SETB are 0 to 11 or 15, and bits 32:0 are
zero (R243). -/
def HF.ok (h : HF) : Bool :=
  h.len != 0 && (h.seta < 12 || h.seta == 15) && (h.setb < 12 || h.setb == 15) && h.zero == 0

end Sys2Proof
end

