-- ==== Sys2Proof/Decode.lean ====
section
/-! DEFINITION. Decoding and encoding by the tables of R243 to R254: a word to its format's fields, the
opcode map, and the causes of R245 that the word alone decides. -/

namespace Sys2Proof

/-- A bit of a word as a field. -/
def bitField (w : Word) (n : Nat) : Bool := w.getLsbD n

/-- Bits 53:0 of a V word (R246). -/
def VF.unpack (w : Word) : VF :=
  { guard := w.extractLsb' 50 4, d := w.extractLsb' 42 8, a := w.extractLsb' 34 8,
    b := w.extractLsb' 26 8, c := w.extractLsb' 18 8, ty := w.extractLsb' 14 4,
    bg := bitField w 13, cg := bitField w 12, mod := w.extractLsb' 8 4, sat := bitField w 7,
    fs := bitField w 6, sub := w.extractLsb' 0 6 }

/-- A V word (R246). -/
def VF.pack (opc : BitVec 10) (f : VF) : Word :=
  opc ++ f.guard ++ f.d ++ f.a ++ f.b ++ f.c ++ f.ty ++ BitVec.ofBool f.bg ++ BitVec.ofBool f.cg ++
    f.mod ++ BitVec.ofBool f.sat ++ BitVec.ofBool f.fs ++ f.sub

/-- Bits 53:0 of a VI word (R247). -/
def VIF.unpack (w : Word) : VIF :=
  { guard := w.extractLsb' 50 4, d := w.extractLsb' 42 8, a := w.extractLsb' 34 8,
    ty := w.extractLsb' 30 4, imm := w.extractLsb' 0 30 }

/-- A VI word (R247). -/
def VIF.pack (opc : BitVec 10) (f : VIF) : Word := opc ++ f.guard ++ f.d ++ f.a ++ f.ty ++ f.imm

/-- Bits 53:0 of a VM word (R248). -/
def VMF.unpack (w : Word) : VMF :=
  { ena := bitField w 53, enb := bitField w 52, ty2 := w.extractLsb' 50 2, da := w.extractLsb' 42 8,
    aa := w.extractLsb' 34 8, ba := w.extractLsb' 26 8, db := w.extractLsb' 18 8,
    ab := w.extractLsb' 10 8, bb := w.extractLsb' 2 8, cx := w.extractLsb' 0 2 }

/-- A VM word (R248). -/
def VMF.pack (opc : BitVec 10) (f : VMF) : Word :=
  opc ++ BitVec.ofBool f.ena ++ BitVec.ofBool f.enb ++ f.ty2 ++ f.da ++ f.aa ++ f.ba ++ f.db ++ f.ab ++
    f.bb ++ f.cx

/-- Bits 53:0 of an M word (R249). -/
def MF.unpack (w : Word) : MF :=
  { guard := w.extractLsb' 50 4, data := w.extractLsb' 42 8, vo := w.extractLsb' 34 8,
    gb := w.extractLsb' 28 6, size := w.extractLsb' 25 3, scale := w.extractLsb' 23 2,
    sg := bitField w 22, ord := w.extractLsb' 19 3, scope := w.extractLsb' 16 3, fs := bitField w 15,
    off := w.extractLsb' 0 15 }

/-- An M word (R249). -/
def MF.pack (opc : BitVec 10) (f : MF) : Word :=
  opc ++ f.guard ++ f.data ++ f.vo ++ f.gb ++ f.size ++ f.scale ++ BitVec.ofBool f.sg ++ f.ord ++
    f.scope ++ BitVec.ofBool f.fs ++ f.off

/-- Bits 53:0 of a G word (R250). -/
def GF.unpack (w : Word) : GF :=
  { guard := w.extractLsb' 50 4, d := w.extractLsb' 44 6, a := w.extractLsb' 38 6,
    sub := w.extractLsb' 34 4, i := bitField w 33, w := bitField w 32, b := w.extractLsb' 0 32 }

/-- A G word (R250). -/
def GF.pack (opc : BitVec 10) (f : GF) : Word :=
  opc ++ f.guard ++ f.d ++ f.a ++ f.sub ++ BitVec.ofBool f.i ++ BitVec.ofBool f.w ++ f.b

/-- Bits 53:0 of a C word (R251). -/
def CF.unpack (w : Word) : CF :=
  { guard := w.extractLsb' 50 4, off := w.extractLsb' 24 26, aux := w.extractLsb' 0 24 }

/-- A C word (R251). -/
def CF.pack (opc : BitVec 10) (f : CF) : Word := opc ++ f.guard ++ f.off ++ f.aux

/-- Bits 53:0 of an X word (R252). -/
def XF.unpack (w : Word) : XF :=
  { guard := w.extractLsb' 50 4, w1 := w.extractLsb' 46 4, w2 := w.extractLsb' 42 4,
    bar := w.extractLsb' 38 4, gp := w.extractLsb' 32 6, vop := w.extractLsb' 24 8,
    fs := bitField w 23, sub := w.extractLsb' 19 4, mode := w.extractLsb' 0 19 }

/-- An X word (R252). -/
def XF.pack (opc : BitVec 10) (f : XF) : Word :=
  opc ++ f.guard ++ f.w1 ++ f.w2 ++ f.bar ++ f.gp ++ f.vop ++ BitVec.ofBool f.fs ++ f.sub ++ f.mode

/-- Bits 53:0 of an S word (R253). -/
def SF.unpack (w : Word) : SF :=
  { guard := w.extractLsb' 50 4, sys := w.extractLsb' 42 8, g := w.extractLsb' 36 6,
    imm := w.extractLsb' 0 36 }

/-- An S word (R253). -/
def SF.pack (opc : BitVec 10) (f : SF) : Word := opc ++ f.guard ++ f.sys ++ f.g ++ f.imm

/-- The header pattern, bits 63:58 (R243). -/
def isHeader (w : Word) : Bool := w.extractLsb' 58 6 == 0b101000#6

/-- The fields of a header (R243). -/
def HF.unpack (w : Word) : HF :=
  { len := w.extractLsb' 54 4, wait := w.extractLsb' 42 12, seta := w.extractLsb' 38 4,
    setb := w.extractLsb' 34 4, meld := bitField w 33, zero := w.extractLsb' 0 33 }

/-- A header word (R243). -/
def HF.pack (h : HF) : Word :=
  0b101000#6 ++ h.len ++ h.wait ++ h.seta ++ h.setb ++ BitVec.ofBool h.meld ++ h.zero

/-- The OPC of a word, bits 63:54 (R244). -/
def opcOf (w : Word) : BitVec 10 := w.extractLsb' 54 10

/-- The opcode map outside melded clauses (R254). -/
def ofOpc (opc : Nat) (w : Word) : Option Instr :=
  match opc with
  | 0x001 => some (.bra (CF.unpack w))
  | 0x002 => some (.brg (CF.unpack w))
  | 0x003 => some (.brv (CF.unpack w))
  | 0x004 => some (.bri (CF.unpack w))
  | 0x005 => some (.briv (CF.unpack w))
  | 0x006 => some (.call (CF.unpack w))
  | 0x007 => some (.calli (CF.unpack w))
  | 0x008 => some (.ret (CF.unpack w))
  | 0x009 => some (.join (CF.unpack w))
  | 0x00A => some (.exit (CF.unpack w))
  | 0x00B => some (.yield (CF.unpack w))
  | 0x00C => some (.nop (CF.unpack w))
  | 0x00D => some (.mopen (CF.unpack w))
  | 0x00E => some (.mclose (CF.unpack w))
  | 0x00F => some (.mrep (CF.unpack w))
  | 0x010 => some (.idle (CF.unpack w))
  | 0x011 => some (.lnch (CF.unpack w))
  | 0x040 => some (.gadd (GF.unpack w))
  | 0x041 => some (.gsub (GF.unpack w))
  | 0x042 => some (.gmul (GF.unpack w))
  | 0x043 => some (.gmulh (GF.unpack w))
  | 0x044 => some (.gmad (GF.unpack w))
  | 0x045 => some (.gdiv (GF.unpack w))
  | 0x046 => some (.grem (GF.unpack w))
  | 0x047 => some (.gand (GF.unpack w))
  | 0x048 => some (.gor (GF.unpack w))
  | 0x049 => some (.gxor (GF.unpack w))
  | 0x04A => some (.gshl (GF.unpack w))
  | 0x04B => some (.gshr (GF.unpack w))
  | 0x04C => some (.gsar (GF.unpack w))
  | 0x04D => some (.gmin (GF.unpack w))
  | 0x04E => some (.gmax (GF.unpack w))
  | 0x04F => some (.gmov (GF.unpack w))
  | 0x050 => some (.gmovh (GF.unpack w))
  | 0x051 => some (.gcmp (GF.unpack w))
  | 0x052 => some (.gsel (GF.unpack w))
  | 0x053 => some (.gbits (GF.unpack w))
  | 0x080 => some (.plog (VF.unpack w))
  | 0x081 => some (.gplog (GF.unpack w))
  | 0x082 => some (.ballot (VF.unpack w))
  | 0x083 => some (.emov (GF.unpack w))
  | 0x084 => some (.vbc (VF.unpack w))
  | 0x085 => some (.vrdl (VF.unpack w))
  | 0x086 => some (.vred (VF.unpack w))
  | 0x087 => some (.vshfl (VF.unpack w))
  | 0x0C0 => some (.vadd (VF.unpack w))
  | 0x0C1 => some (.vsub (VF.unpack w))
  | 0x0C2 => some (.vmul (VF.unpack w))
  | 0x0C3 => some (.vmulh (VF.unpack w))
  | 0x0C4 => some (.vmad (VF.unpack w))
  | 0x0C5 => some (.vand (VF.unpack w))
  | 0x0C6 => some (.vor (VF.unpack w))
  | 0x0C7 => some (.vxor (VF.unpack w))
  | 0x0C8 => some (.vshl (VF.unpack w))
  | 0x0C9 => some (.vshr (VF.unpack w))
  | 0x0CA => some (.vsar (VF.unpack w))
  | 0x0CB => some (.vmin (VF.unpack w))
  | 0x0CC => some (.vmax (VF.unpack w))
  | 0x0CD => some (.vabs (VF.unpack w))
  | 0x0CE => some (.vbits (VF.unpack w))
  | 0x0CF => some (.vbfe (VF.unpack w))
  | 0x0D0 => some (.vbfi (VF.unpack w))
  | 0x0D1 => some (.vcmp (VF.unpack w))
  | 0x0D2 => some (.vsel (VF.unpack w))
  | 0x0D3 => some (.vmov (VF.unpack w))
  | 0x0E0 => some (.vaddImm (VIF.unpack w))
  | 0x0E1 => some (.vsubImm (VIF.unpack w))
  | 0x0E2 => some (.vmulImm (VIF.unpack w))
  | 0x0E3 => some (.vmulhImm (VIF.unpack w))
  | 0x0E5 => some (.vandImm (VIF.unpack w))
  | 0x0E6 => some (.vorImm (VIF.unpack w))
  | 0x0E7 => some (.vxorImm (VIF.unpack w))
  | 0x0E8 => some (.vshlImm (VIF.unpack w))
  | 0x0E9 => some (.vshrImm (VIF.unpack w))
  | 0x0EA => some (.vsarImm (VIF.unpack w))
  | 0x0EB => some (.vminImm (VIF.unpack w))
  | 0x0EC => some (.vmaxImm (VIF.unpack w))
  | 0x0F1 => some (.vcmpImm (VIF.unpack w))
  | 0x0F3 => some (.vmovImm (VIF.unpack w))
  | 0x100 => some (.vfadd (VF.unpack w))
  | 0x101 => some (.vfsub (VF.unpack w))
  | 0x102 => some (.vfmul (VF.unpack w))
  | 0x103 => some (.vfma (VF.unpack w))
  | 0x104 => some (.vfmin (VF.unpack w))
  | 0x105 => some (.vfmax (VF.unpack w))
  | 0x106 => some (.vfcmp (VF.unpack w))
  | 0x107 => some (.vfrcp (VF.unpack w))
  | 0x108 => some (.vfrsq (VF.unpack w))
  | 0x109 => some (.vfsqrt (VF.unpack w))
  | 0x10A => some (.vfex2 (VF.unpack w))
  | 0x10B => some (.vflg2 (VF.unpack w))
  | 0x10C => some (.vfsin (VF.unpack w))
  | 0x10D => some (.vfcos (VF.unpack w))
  | 0x10E => some (.vfcls (VF.unpack w))
  | 0x10F => some (.vfscl (VF.unpack w))
  | 0x110 => some (.vfdp4 (VF.unpack w))
  | 0x120 => some (.vfaddImm (VIF.unpack w))
  | 0x121 => some (.vfsubImm (VIF.unpack w))
  | 0x122 => some (.vfmulImm (VIF.unpack w))
  | 0x124 => some (.vfminImm (VIF.unpack w))
  | 0x125 => some (.vfmaxImm (VIF.unpack w))
  | 0x126 => some (.vfcmpImm (VIF.unpack w))
  | 0x140 => some (.vcvt (VF.unpack w))
  | 0x141 => some (.vnarw (VF.unpack w))
  | 0x142 => some (.vwide (VF.unpack w))
  | 0x143 => some (.vscl (VF.unpack w))
  | 0x144 => some (.vpack (VF.unpack w))
  | 0x145 => some (.vunpk (VF.unpack w))
  | 0x180 => some (.mmas (VF.unpack w))
  | 0x181 => some (.mmlp (XF.unpack w))
  | 0x182 => some (.eptab (XF.unpack w))
  | 0x183 => some (.xlut (VF.unpack w))
  | 0x184 => some (.xtab (XF.unpack w))
  | 0x185 => some (.xlz (XF.unpack w))
  | 0x186 => some (.xunp (VF.unpack w))
  | 0x1C0 => some (.ld (MF.unpack w))
  | 0x1C1 => some (.st (MF.unpack w))
  | 0x1C2 => some (.gld (MF.unpack w))
  | 0x1C3 => some (.gst (MF.unpack w))
  | 0x1C4 => some (.prf (MF.unpack w))
  | 0x200 => some (.atom (MF.unpack w))
  | 0x201 => some (.acas (MF.unpack w))
  | 0x202 => some (.gatom (MF.unpack w))
  | 0x203 => some (.fence (MF.unpack w))
  | 0x204 => some (.cclean (MF.unpack w))
  | 0x205 => some (.cinval (MF.unpack w))
  | 0x206 => some (.cflush (MF.unpack w))
  | 0x207 => some (.ptsync (MF.unpack w))
  | 0x240 => some (.wopen (XF.unpack w))
  | 0x241 => some (.wret (XF.unpack w))
  | 0x242 => some (.wld (XF.unpack w))
  | 0x243 => some (.wst (XF.unpack w))
  | 0x244 => some (.wadv (XF.unpack w))
  | 0x245 => some (.wget (XF.unpack w))
  | 0x246 => some (.wchk (XF.unpack w))
  | 0x247 => some (.cpa (XF.unpack w))
  | 0x248 => some (.cpw (XF.unpack w))
  | 0x249 => some (.cpg (XF.unpack w))
  | 0x24A => some (.cpx (XF.unpack w))
  | 0x24B => some (.cpm (XF.unpack w))
  | 0x24C => some (.bini (XF.unpack w))
  | 0x24D => some (.barr (XF.unpack w))
  | 0x24E => some (.bwait (XF.unpack w))
  | 0x24F => some (.bsync (XF.unpack w))
  | 0x250 => some (.btest (XF.unpack w))
  | 0x251 => some (.crv (XF.unpack w))
  | 0x252 => some (.grant (XF.unpack w))
  | 0x253 => some (.revk (XF.unpack w))
  | 0x3C0 => some (.trap (SF.unpack w))
  | 0x3C1 => some (.trret (SF.unpack w))
  | 0x3C2 => some (.tfence (SF.unpack w))
  | 0x3C3 => some (.brk (SF.unpack w))
  | 0x3C4 => some (.srd (SF.unpack w))
  | 0x3C5 => some (.swr (SF.unpack w))
  | 0x3C6 => some (.pgtk (SF.unpack w))
  | 0x3C7 => some (.pgmap (SF.unpack w))
  | 0x3C8 => some (.mark (SF.unpack w))
  | 0x3C9 => some (.sig (SF.unpack w))
  | _ => none

/-- The meldable set (R58). -/
def ofOpcMelded (opc : Nat) (w : Word) : Option Instr :=
  match opc with
  | 0x0C0 => some (.vaddMelded (VMF.unpack w))
  | 0x0C1 => some (.vsubMelded (VMF.unpack w))
  | 0x0C2 => some (.vmulMelded (VMF.unpack w))
  | 0x0C4 => some (.vmadMelded (VMF.unpack w))
  | 0x0C5 => some (.vandMelded (VMF.unpack w))
  | 0x0C6 => some (.vorMelded (VMF.unpack w))
  | 0x0C7 => some (.vxorMelded (VMF.unpack w))
  | 0x0C8 => some (.vshlMelded (VMF.unpack w))
  | 0x0C9 => some (.vshrMelded (VMF.unpack w))
  | 0x0CA => some (.vsarMelded (VMF.unpack w))
  | 0x0CB => some (.vminMelded (VMF.unpack w))
  | 0x0CC => some (.vmaxMelded (VMF.unpack w))
  | 0x0D1 => some (.vcmpMelded (VMF.unpack w))
  | 0x0D3 => some (.vmovMelded (VMF.unpack w))
  | 0x100 => some (.vfaddMelded (VMF.unpack w))
  | 0x101 => some (.vfsubMelded (VMF.unpack w))
  | 0x102 => some (.vfmulMelded (VMF.unpack w))
  | 0x103 => some (.vfmaMelded (VMF.unpack w))
  | 0x104 => some (.vfminMelded (VMF.unpack w))
  | 0x105 => some (.vfmaxMelded (VMF.unpack w))
  | 0x106 => some (.vfcmpMelded (VMF.unpack w))
  | 0x1C0 => some (.ldMelded (VMF.unpack w))
  | 0x1C1 => some (.stMelded (VMF.unpack w))
  | 0x242 => some (.wldMelded (VMF.unpack w))
  | 0x243 => some (.wstMelded (VMF.unpack w))
  | _ => none

/-- What decoding a word at an instruction-word position gives. -/
inductive Decoded where
  | instr (i : Instr)
  | bad (c : InstrCause)
  deriving DecidableEq, Repr

/-- Fields after the opcode: the causes of the word alone, in the order of R245. -/
def Decoded.ofInstr (i : Instr) : Decoded :=
  match i.check with
  | none => .instr i
  | some c => .bad c

/-- Decode the word at an instruction-word position of a clause whose header has MELD as `meld`, with the
causes in the order of R245: ILLEGAL_OPC, HEADER_POS, MELD_OP, RESERVED_FIELD, FLAG_FIELD. -/
def decode (meld : Bool) (w : Word) : Decoded :=
  if isHeader w then .bad .headerPos
  else
    match ofOpc (opcOf w).toNat w with
    | none => .bad .illegalOpc
    | some i =>
      if meld then
        match ofOpcMelded (opcOf w).toNat w with
        | none => .bad .meldOp
        | some j => Decoded.ofInstr j
      else Decoded.ofInstr i

/-- A word from its eight bytes, lowest address first (R3). -/
def wordOfBytes (b0 b1 b2 b3 b4 b5 b6 b7 : Byte) : Word :=
  b7 ++ b6 ++ b5 ++ b4 ++ b3 ++ b2 ++ b1 ++ b0

/-- Decode the first word of a list of bytes: the result and the rest of the list. -/
def decodeBytes (meld : Bool) : List Byte → Option (Decoded × List Byte)
  | b0 :: b1 :: b2 :: b3 :: b4 :: b5 :: b6 :: b7 :: rest =>
    some (decode meld (wordOfBytes b0 b1 b2 b3 b4 b5 b6 b7), rest)
  | _ => none

/-- The bytes of a word, lowest address first (R3). -/
def bytesOfWord (w : Word) : List Byte :=
  [w.extractLsb' 0 8, w.extractLsb' 8 8, w.extractLsb' 16 8, w.extractLsb' 24 8,
   w.extractLsb' 32 8, w.extractLsb' 40 8, w.extractLsb' 48 8, w.extractLsb' 56 8]

/-- The instruction whose first `nbits` bits are `w` and whose other bits are zero, outside a melded
clause. -/
def decodeTableWord (nbits w : Nat) : Option Instr :=
  match decodeBytes false (bytesOfWord (BitVec.ofNat 64 (w % 2 ^ nbits))) with
  | some (.instr i, _) => some i
  | _ => none

/-- The word of an instruction; an event has none. -/
def encode : Instr → Option Word
  | .bra f => some (f.pack 0x001)
  | .brg f => some (f.pack 0x002)
  | .bri f => some (f.pack 0x004)
  | .call f => some (f.pack 0x006)
  | .calli f => some (f.pack 0x007)
  | .ret f => some (f.pack 0x008)
  | .yield f => some (f.pack 0x00B)
  | .nop f => some (f.pack 0x00C)
  | .idle f => some (f.pack 0x010)
  | .lnch f => some (f.pack 0x011)
  | .brv f => some (f.pack 0x003)
  | .briv f => some (f.pack 0x005)
  | .exit f => some (f.pack 0x00A)
  | .join f => some (f.pack 0x009)
  | .mopen f => some (f.pack 0x00D)
  | .mclose f => some (f.pack 0x00E)
  | .mrep f => some (f.pack 0x00F)
  | .gadd f => some (f.pack 0x040)
  | .gsub f => some (f.pack 0x041)
  | .gmul f => some (f.pack 0x042)
  | .gmulh f => some (f.pack 0x043)
  | .gmad f => some (f.pack 0x044)
  | .gdiv f => some (f.pack 0x045)
  | .grem f => some (f.pack 0x046)
  | .gand f => some (f.pack 0x047)
  | .gor f => some (f.pack 0x048)
  | .gxor f => some (f.pack 0x049)
  | .gshl f => some (f.pack 0x04A)
  | .gshr f => some (f.pack 0x04B)
  | .gsar f => some (f.pack 0x04C)
  | .gmin f => some (f.pack 0x04D)
  | .gmax f => some (f.pack 0x04E)
  | .gmov f => some (f.pack 0x04F)
  | .gmovh f => some (f.pack 0x050)
  | .gcmp f => some (f.pack 0x051)
  | .gsel f => some (f.pack 0x052)
  | .gbits f => some (f.pack 0x053)
  | .gplog f => some (f.pack 0x081)
  | .emov f => some (f.pack 0x083)
  | .plog f => some (f.pack 0x080)
  | .ballot f => some (f.pack 0x082)
  | .vbc f => some (f.pack 0x084)
  | .vrdl f => some (f.pack 0x085)
  | .vred f => some (f.pack 0x086)
  | .vshfl f => some (f.pack 0x087)
  | .vadd f => some (f.pack 0x0C0)
  | .vsub f => some (f.pack 0x0C1)
  | .vmul f => some (f.pack 0x0C2)
  | .vmulh f => some (f.pack 0x0C3)
  | .vmad f => some (f.pack 0x0C4)
  | .vand f => some (f.pack 0x0C5)
  | .vor f => some (f.pack 0x0C6)
  | .vxor f => some (f.pack 0x0C7)
  | .vshl f => some (f.pack 0x0C8)
  | .vshr f => some (f.pack 0x0C9)
  | .vsar f => some (f.pack 0x0CA)
  | .vmin f => some (f.pack 0x0CB)
  | .vmax f => some (f.pack 0x0CC)
  | .vabs f => some (f.pack 0x0CD)
  | .vbits f => some (f.pack 0x0CE)
  | .vbfe f => some (f.pack 0x0CF)
  | .vbfi f => some (f.pack 0x0D0)
  | .vcmp f => some (f.pack 0x0D1)
  | .vsel f => some (f.pack 0x0D2)
  | .vmov f => some (f.pack 0x0D3)
  | .vfadd f => some (f.pack 0x100)
  | .vfsub f => some (f.pack 0x101)
  | .vfmul f => some (f.pack 0x102)
  | .vfma f => some (f.pack 0x103)
  | .vfmin f => some (f.pack 0x104)
  | .vfmax f => some (f.pack 0x105)
  | .vfcmp f => some (f.pack 0x106)
  | .vfrcp f => some (f.pack 0x107)
  | .vfrsq f => some (f.pack 0x108)
  | .vfsqrt f => some (f.pack 0x109)
  | .vfex2 f => some (f.pack 0x10A)
  | .vflg2 f => some (f.pack 0x10B)
  | .vfsin f => some (f.pack 0x10C)
  | .vfcos f => some (f.pack 0x10D)
  | .vfcls f => some (f.pack 0x10E)
  | .vfscl f => some (f.pack 0x10F)
  | .vfdp4 f => some (f.pack 0x110)
  | .vcvt f => some (f.pack 0x140)
  | .vnarw f => some (f.pack 0x141)
  | .vwide f => some (f.pack 0x142)
  | .vscl f => some (f.pack 0x143)
  | .vpack f => some (f.pack 0x144)
  | .vunpk f => some (f.pack 0x145)
  | .mmas f => some (f.pack 0x180)
  | .xlut f => some (f.pack 0x183)
  | .xunp f => some (f.pack 0x186)
  | .mmlp f => some (f.pack 0x181)
  | .eptab f => some (f.pack 0x182)
  | .xtab f => some (f.pack 0x184)
  | .xlz f => some (f.pack 0x185)
  | .ld f => some (f.pack 0x1C0)
  | .st f => some (f.pack 0x1C1)
  | .atom f => some (f.pack 0x200)
  | .acas f => some (f.pack 0x201)
  | .gld f => some (f.pack 0x1C2)
  | .gst f => some (f.pack 0x1C3)
  | .gatom f => some (f.pack 0x202)
  | .fence f => some (f.pack 0x203)
  | .cclean f => some (f.pack 0x204)
  | .cinval f => some (f.pack 0x205)
  | .cflush f => some (f.pack 0x206)
  | .ptsync f => some (f.pack 0x207)
  | .prf f => some (f.pack 0x1C4)
  | .wopen f => some (f.pack 0x240)
  | .wret f => some (f.pack 0x241)
  | .wld f => some (f.pack 0x242)
  | .wst f => some (f.pack 0x243)
  | .wadv f => some (f.pack 0x244)
  | .wget f => some (f.pack 0x245)
  | .wchk f => some (f.pack 0x246)
  | .cpa f => some (f.pack 0x247)
  | .cpg f => some (f.pack 0x249)
  | .cpx f => some (f.pack 0x24A)
  | .cpw f => some (f.pack 0x248)
  | .cpm f => some (f.pack 0x24B)
  | .bini f => some (f.pack 0x24C)
  | .barr f => some (f.pack 0x24D)
  | .bwait f => some (f.pack 0x24E)
  | .bsync f => some (f.pack 0x24F)
  | .btest f => some (f.pack 0x250)
  | .crv f => some (f.pack 0x251)
  | .grant f => some (f.pack 0x252)
  | .revk f => some (f.pack 0x253)
  | .trap f => some (f.pack 0x3C0)
  | .trret f => some (f.pack 0x3C1)
  | .tfence f => some (f.pack 0x3C2)
  | .brk f => some (f.pack 0x3C3)
  | .srd f => some (f.pack 0x3C4)
  | .swr f => some (f.pack 0x3C5)
  | .pgtk f => some (f.pack 0x3C6)
  | .pgmap f => some (f.pack 0x3C7)
  | .mark f => some (f.pack 0x3C8)
  | .sig f => some (f.pack 0x3C9)
  | .vaddImm f => some (f.pack 0x0E0)
  | .vsubImm f => some (f.pack 0x0E1)
  | .vmulImm f => some (f.pack 0x0E2)
  | .vmulhImm f => some (f.pack 0x0E3)
  | .vandImm f => some (f.pack 0x0E5)
  | .vorImm f => some (f.pack 0x0E6)
  | .vxorImm f => some (f.pack 0x0E7)
  | .vshlImm f => some (f.pack 0x0E8)
  | .vshrImm f => some (f.pack 0x0E9)
  | .vsarImm f => some (f.pack 0x0EA)
  | .vminImm f => some (f.pack 0x0EB)
  | .vmaxImm f => some (f.pack 0x0EC)
  | .vcmpImm f => some (f.pack 0x0F1)
  | .vmovImm f => some (f.pack 0x0F3)
  | .vfaddImm f => some (f.pack 0x120)
  | .vfsubImm f => some (f.pack 0x121)
  | .vfmulImm f => some (f.pack 0x122)
  | .vfminImm f => some (f.pack 0x124)
  | .vfmaxImm f => some (f.pack 0x125)
  | .vfcmpImm f => some (f.pack 0x126)
  | .vaddMelded f => some (f.pack 0x0C0)
  | .vsubMelded f => some (f.pack 0x0C1)
  | .vmulMelded f => some (f.pack 0x0C2)
  | .vmadMelded f => some (f.pack 0x0C4)
  | .vandMelded f => some (f.pack 0x0C5)
  | .vorMelded f => some (f.pack 0x0C6)
  | .vxorMelded f => some (f.pack 0x0C7)
  | .vshlMelded f => some (f.pack 0x0C8)
  | .vshrMelded f => some (f.pack 0x0C9)
  | .vsarMelded f => some (f.pack 0x0CA)
  | .vminMelded f => some (f.pack 0x0CB)
  | .vmaxMelded f => some (f.pack 0x0CC)
  | .vcmpMelded f => some (f.pack 0x0D1)
  | .vmovMelded f => some (f.pack 0x0D3)
  | .vfaddMelded f => some (f.pack 0x100)
  | .vfsubMelded f => some (f.pack 0x101)
  | .vfmulMelded f => some (f.pack 0x102)
  | .vfmaMelded f => some (f.pack 0x103)
  | .vfminMelded f => some (f.pack 0x104)
  | .vfmaxMelded f => some (f.pack 0x105)
  | .vfcmpMelded f => some (f.pack 0x106)
  | .ldMelded f => some (f.pack 0x1C0)
  | .stMelded f => some (f.pack 0x1C1)
  | .wldMelded f => some (f.pack 0x242)
  | .wstMelded f => some (f.pack 0x243)
  | .clauseStart => none
  | .meterWindowEnd _ => none
  | .throttleDelivery => none
  | .graceIssue _ => none
  | .starvationPromotion _ => none
  | .timingEvent _ _ _ _ => none
  | .replayBubbleEnd _ _ => none
  | .limpModeEnd _ _ => none
  | .supplySettled _ => none
  | .quietPeriodExpiry _ => none
  | .teWindowEnd _ => none
  | .egressGateRelease _ _ => none
  | .launchTake _ => none
  | .teamAdmission _ _ => none
  | .preemptionSave _ => none
  | .saveFrameFree => none
  | .teamResume _ _ => none
  | .teamEnd _ => none
  | .launchComplete _ => none
  | .carveEffect _ => none
  | .operationCompletion _ _ => none
  | .engineCommandCompletion _ _ => none
  | .mmlpStep _ _ => none
  | .pipeJobReply _ _ => none
  | .scratchLineArrival _ _ => none
  | .multicastLineArrival _ => none
  | .deferredFaultTaken _ => none
  | .pendingTrapEntry _ => none
  | .pcSample _ _ => none
  | .faultRingAccept => none
  | .pageMoveCopy _ _ => none
  | .pageMoveSwitch => none
  | .apertureWriteback _ => none
  | .sliceRatioChange _ _ => none
  | .ratioDeadline _ _ => none
  | .binDeadline _ => none
  | .binSwitch _ => none
  | .powerOnStart _ => none
  | .alarmLevel2 _ => none
  | .alarmLevel3 _ => none
  | .linkStateChange _ _ => none
  | .attestationDone => none
  | .provisionDone => none
  | .qtailWrite _ _ => none
  | .qctlWrite _ _ => none
  | .qerrClear _ _ => none
  | .hfqheadWrite _ => none
  | .intstatClear _ => none
  | .intmaskWrite _ => none
  | .dbgcmdResume _ => none
  | .dbgcmdStepBack _ => none
  | .dbgcmdEndLaunch _ => none
  | .dbgvdataAccess _ _ => none
  | .dbgsdataAccess _ _ => none
  | .wake _ _ => none
  | .sratioWrite _ _ _ => none
  | .mgnctlWrite _ _ => none
  | .qstatClear _ _ => none
  | .dieclkWrite _ _ => none
  | .stcmdWarm _ => none
  | .stcmdCold _ => none
  | .atcmd _ => none
  | .provcmd _ => none
  | .trgctlWrite _ _ => none
  | .broadcastWrite _ _ => none
  | .registerWrite _ _ => none
  | .hostBar2Read _ _ _ => none
  | .hostBar2Write _ _ _ => none
  | .hostBar4Access _ _ _ _ => none
  | .peerAccessArrival _ _ _ _ => none
  | .peerPortStateChange _ _ => none

/-- Whether the instruction stands in melded clauses (R56). -/
def Instr.melded : Instr → Bool
  | .bra _ => false
  | .brg _ => false
  | .bri _ => false
  | .call _ => false
  | .calli _ => false
  | .ret _ => false
  | .yield _ => false
  | .nop _ => false
  | .idle _ => false
  | .lnch _ => false
  | .brv _ => false
  | .briv _ => false
  | .exit _ => false
  | .join _ => false
  | .mopen _ => false
  | .mclose _ => false
  | .mrep _ => false
  | .gadd _ => false
  | .gsub _ => false
  | .gmul _ => false
  | .gmulh _ => false
  | .gmad _ => false
  | .gdiv _ => false
  | .grem _ => false
  | .gand _ => false
  | .gor _ => false
  | .gxor _ => false
  | .gshl _ => false
  | .gshr _ => false
  | .gsar _ => false
  | .gmin _ => false
  | .gmax _ => false
  | .gmov _ => false
  | .gmovh _ => false
  | .gcmp _ => false
  | .gsel _ => false
  | .gbits _ => false
  | .gplog _ => false
  | .emov _ => false
  | .plog _ => false
  | .ballot _ => false
  | .vbc _ => false
  | .vrdl _ => false
  | .vred _ => false
  | .vshfl _ => false
  | .vadd _ => false
  | .vsub _ => false
  | .vmul _ => false
  | .vmulh _ => false
  | .vmad _ => false
  | .vand _ => false
  | .vor _ => false
  | .vxor _ => false
  | .vshl _ => false
  | .vshr _ => false
  | .vsar _ => false
  | .vmin _ => false
  | .vmax _ => false
  | .vabs _ => false
  | .vbits _ => false
  | .vbfe _ => false
  | .vbfi _ => false
  | .vcmp _ => false
  | .vsel _ => false
  | .vmov _ => false
  | .vfadd _ => false
  | .vfsub _ => false
  | .vfmul _ => false
  | .vfma _ => false
  | .vfmin _ => false
  | .vfmax _ => false
  | .vfcmp _ => false
  | .vfrcp _ => false
  | .vfrsq _ => false
  | .vfsqrt _ => false
  | .vfex2 _ => false
  | .vflg2 _ => false
  | .vfsin _ => false
  | .vfcos _ => false
  | .vfcls _ => false
  | .vfscl _ => false
  | .vfdp4 _ => false
  | .vcvt _ => false
  | .vnarw _ => false
  | .vwide _ => false
  | .vscl _ => false
  | .vpack _ => false
  | .vunpk _ => false
  | .mmas _ => false
  | .xlut _ => false
  | .xunp _ => false
  | .mmlp _ => false
  | .eptab _ => false
  | .xtab _ => false
  | .xlz _ => false
  | .ld _ => false
  | .st _ => false
  | .atom _ => false
  | .acas _ => false
  | .gld _ => false
  | .gst _ => false
  | .gatom _ => false
  | .fence _ => false
  | .cclean _ => false
  | .cinval _ => false
  | .cflush _ => false
  | .ptsync _ => false
  | .prf _ => false
  | .wopen _ => false
  | .wret _ => false
  | .wld _ => false
  | .wst _ => false
  | .wadv _ => false
  | .wget _ => false
  | .wchk _ => false
  | .cpa _ => false
  | .cpg _ => false
  | .cpx _ => false
  | .cpw _ => false
  | .cpm _ => false
  | .bini _ => false
  | .barr _ => false
  | .bwait _ => false
  | .bsync _ => false
  | .btest _ => false
  | .crv _ => false
  | .grant _ => false
  | .revk _ => false
  | .trap _ => false
  | .trret _ => false
  | .tfence _ => false
  | .brk _ => false
  | .srd _ => false
  | .swr _ => false
  | .pgtk _ => false
  | .pgmap _ => false
  | .mark _ => false
  | .sig _ => false
  | .vaddImm _ => false
  | .vsubImm _ => false
  | .vmulImm _ => false
  | .vmulhImm _ => false
  | .vandImm _ => false
  | .vorImm _ => false
  | .vxorImm _ => false
  | .vshlImm _ => false
  | .vshrImm _ => false
  | .vsarImm _ => false
  | .vminImm _ => false
  | .vmaxImm _ => false
  | .vcmpImm _ => false
  | .vmovImm _ => false
  | .vfaddImm _ => false
  | .vfsubImm _ => false
  | .vfmulImm _ => false
  | .vfminImm _ => false
  | .vfmaxImm _ => false
  | .vfcmpImm _ => false
  | .vaddMelded _ => true
  | .vsubMelded _ => true
  | .vmulMelded _ => true
  | .vmadMelded _ => true
  | .vandMelded _ => true
  | .vorMelded _ => true
  | .vxorMelded _ => true
  | .vshlMelded _ => true
  | .vshrMelded _ => true
  | .vsarMelded _ => true
  | .vminMelded _ => true
  | .vmaxMelded _ => true
  | .vcmpMelded _ => true
  | .vmovMelded _ => true
  | .vfaddMelded _ => true
  | .vfsubMelded _ => true
  | .vfmulMelded _ => true
  | .vfmaMelded _ => true
  | .vfminMelded _ => true
  | .vfmaxMelded _ => true
  | .vfcmpMelded _ => true
  | .ldMelded _ => true
  | .stMelded _ => true
  | .wldMelded _ => true
  | .wstMelded _ => true
  | .clauseStart => false
  | .meterWindowEnd _ => false
  | .throttleDelivery => false
  | .graceIssue _ => false
  | .starvationPromotion _ => false
  | .timingEvent _ _ _ _ => false
  | .replayBubbleEnd _ _ => false
  | .limpModeEnd _ _ => false
  | .supplySettled _ => false
  | .quietPeriodExpiry _ => false
  | .teWindowEnd _ => false
  | .egressGateRelease _ _ => false
  | .launchTake _ => false
  | .teamAdmission _ _ => false
  | .preemptionSave _ => false
  | .saveFrameFree => false
  | .teamResume _ _ => false
  | .teamEnd _ => false
  | .launchComplete _ => false
  | .carveEffect _ => false
  | .operationCompletion _ _ => false
  | .engineCommandCompletion _ _ => false
  | .mmlpStep _ _ => false
  | .pipeJobReply _ _ => false
  | .scratchLineArrival _ _ => false
  | .multicastLineArrival _ => false
  | .deferredFaultTaken _ => false
  | .pendingTrapEntry _ => false
  | .pcSample _ _ => false
  | .faultRingAccept => false
  | .pageMoveCopy _ _ => false
  | .pageMoveSwitch => false
  | .apertureWriteback _ => false
  | .sliceRatioChange _ _ => false
  | .ratioDeadline _ _ => false
  | .binDeadline _ => false
  | .binSwitch _ => false
  | .powerOnStart _ => false
  | .alarmLevel2 _ => false
  | .alarmLevel3 _ => false
  | .linkStateChange _ _ => false
  | .attestationDone => false
  | .provisionDone => false
  | .qtailWrite _ _ => false
  | .qctlWrite _ _ => false
  | .qerrClear _ _ => false
  | .hfqheadWrite _ => false
  | .intstatClear _ => false
  | .intmaskWrite _ => false
  | .dbgcmdResume _ => false
  | .dbgcmdStepBack _ => false
  | .dbgcmdEndLaunch _ => false
  | .dbgvdataAccess _ _ => false
  | .dbgsdataAccess _ _ => false
  | .wake _ _ => false
  | .sratioWrite _ _ _ => false
  | .mgnctlWrite _ _ => false
  | .qstatClear _ _ => false
  | .dieclkWrite _ _ => false
  | .stcmdWarm _ => false
  | .stcmdCold _ => false
  | .atcmd _ => false
  | .provcmd _ => false
  | .trgctlWrite _ _ => false
  | .broadcastWrite _ _ => false
  | .registerWrite _ _ => false
  | .hostBar2Read _ _ _ => false
  | .hostBar2Write _ _ _ => false
  | .hostBar4Access _ _ _ _ => false
  | .peerAccessArrival _ _ _ _ => false
  | .peerPortStateChange _ _ => false

/-- The guard of an instruction word (R244): whether it is tested per lane, whether it negates, and the
predicate it names. -/
structure Guard where
  lane : Bool
  neg : Bool
  p : BitVec 3
  deriving DecidableEq, Repr

/-- The guard field, by its kind. -/
def Guard.of (lane : Bool) (g : BitVec 4) : Guard :=
  { lane := lane, neg := g.getLsbD 3, p := g.extractLsb' 0 3 }

/-- The payload of an instruction by its format, for what depends on the fields alone. -/
inductive Shape where
  | v (f : VF) | vi (f : VIF) | vm (f : VMF) | m (f : MF) | g (f : GF) | c (f : CF) | x (f : XF)
  | s (f : SF) | event
  deriving DecidableEq, Repr

/-- The format of an instruction. -/
def Instr.shape : Instr → Shape
  | .bra f => .c f
  | .brg f => .c f
  | .bri f => .c f
  | .call f => .c f
  | .calli f => .c f
  | .ret f => .c f
  | .yield f => .c f
  | .nop f => .c f
  | .idle f => .c f
  | .lnch f => .c f
  | .brv f => .c f
  | .briv f => .c f
  | .exit f => .c f
  | .join f => .c f
  | .mopen f => .c f
  | .mclose f => .c f
  | .mrep f => .c f
  | .gadd f => .g f
  | .gsub f => .g f
  | .gmul f => .g f
  | .gmulh f => .g f
  | .gmad f => .g f
  | .gdiv f => .g f
  | .grem f => .g f
  | .gand f => .g f
  | .gor f => .g f
  | .gxor f => .g f
  | .gshl f => .g f
  | .gshr f => .g f
  | .gsar f => .g f
  | .gmin f => .g f
  | .gmax f => .g f
  | .gmov f => .g f
  | .gmovh f => .g f
  | .gcmp f => .g f
  | .gsel f => .g f
  | .gbits f => .g f
  | .gplog f => .g f
  | .emov f => .g f
  | .plog f => .v f
  | .ballot f => .v f
  | .vbc f => .v f
  | .vrdl f => .v f
  | .vred f => .v f
  | .vshfl f => .v f
  | .vadd f => .v f
  | .vsub f => .v f
  | .vmul f => .v f
  | .vmulh f => .v f
  | .vmad f => .v f
  | .vand f => .v f
  | .vor f => .v f
  | .vxor f => .v f
  | .vshl f => .v f
  | .vshr f => .v f
  | .vsar f => .v f
  | .vmin f => .v f
  | .vmax f => .v f
  | .vabs f => .v f
  | .vbits f => .v f
  | .vbfe f => .v f
  | .vbfi f => .v f
  | .vcmp f => .v f
  | .vsel f => .v f
  | .vmov f => .v f
  | .vfadd f => .v f
  | .vfsub f => .v f
  | .vfmul f => .v f
  | .vfma f => .v f
  | .vfmin f => .v f
  | .vfmax f => .v f
  | .vfcmp f => .v f
  | .vfrcp f => .v f
  | .vfrsq f => .v f
  | .vfsqrt f => .v f
  | .vfex2 f => .v f
  | .vflg2 f => .v f
  | .vfsin f => .v f
  | .vfcos f => .v f
  | .vfcls f => .v f
  | .vfscl f => .v f
  | .vfdp4 f => .v f
  | .vcvt f => .v f
  | .vnarw f => .v f
  | .vwide f => .v f
  | .vscl f => .v f
  | .vpack f => .v f
  | .vunpk f => .v f
  | .mmas f => .v f
  | .xlut f => .v f
  | .xunp f => .v f
  | .mmlp f => .x f
  | .eptab f => .x f
  | .xtab f => .x f
  | .xlz f => .x f
  | .ld f => .m f
  | .st f => .m f
  | .atom f => .m f
  | .acas f => .m f
  | .gld f => .m f
  | .gst f => .m f
  | .gatom f => .m f
  | .fence f => .m f
  | .cclean f => .m f
  | .cinval f => .m f
  | .cflush f => .m f
  | .ptsync f => .m f
  | .prf f => .m f
  | .wopen f => .x f
  | .wret f => .x f
  | .wld f => .x f
  | .wst f => .x f
  | .wadv f => .x f
  | .wget f => .x f
  | .wchk f => .x f
  | .cpa f => .x f
  | .cpg f => .x f
  | .cpx f => .x f
  | .cpw f => .x f
  | .cpm f => .x f
  | .bini f => .x f
  | .barr f => .x f
  | .bwait f => .x f
  | .bsync f => .x f
  | .btest f => .x f
  | .crv f => .x f
  | .grant f => .x f
  | .revk f => .x f
  | .trap f => .s f
  | .trret f => .s f
  | .tfence f => .s f
  | .brk f => .s f
  | .srd f => .s f
  | .swr f => .s f
  | .pgtk f => .s f
  | .pgmap f => .s f
  | .mark f => .s f
  | .sig f => .s f
  | .vaddImm f => .vi f
  | .vsubImm f => .vi f
  | .vmulImm f => .vi f
  | .vmulhImm f => .vi f
  | .vandImm f => .vi f
  | .vorImm f => .vi f
  | .vxorImm f => .vi f
  | .vshlImm f => .vi f
  | .vshrImm f => .vi f
  | .vsarImm f => .vi f
  | .vminImm f => .vi f
  | .vmaxImm f => .vi f
  | .vcmpImm f => .vi f
  | .vmovImm f => .vi f
  | .vfaddImm f => .vi f
  | .vfsubImm f => .vi f
  | .vfmulImm f => .vi f
  | .vfminImm f => .vi f
  | .vfmaxImm f => .vi f
  | .vfcmpImm f => .vi f
  | .vaddMelded f => .vm f
  | .vsubMelded f => .vm f
  | .vmulMelded f => .vm f
  | .vmadMelded f => .vm f
  | .vandMelded f => .vm f
  | .vorMelded f => .vm f
  | .vxorMelded f => .vm f
  | .vshlMelded f => .vm f
  | .vshrMelded f => .vm f
  | .vsarMelded f => .vm f
  | .vminMelded f => .vm f
  | .vmaxMelded f => .vm f
  | .vcmpMelded f => .vm f
  | .vmovMelded f => .vm f
  | .vfaddMelded f => .vm f
  | .vfsubMelded f => .vm f
  | .vfmulMelded f => .vm f
  | .vfmaMelded f => .vm f
  | .vfminMelded f => .vm f
  | .vfmaxMelded f => .vm f
  | .vfcmpMelded f => .vm f
  | .ldMelded f => .vm f
  | .stMelded f => .vm f
  | .wldMelded f => .vm f
  | .wstMelded f => .vm f
  | .clauseStart => .event
  | .meterWindowEnd _ => .event
  | .throttleDelivery => .event
  | .graceIssue _ => .event
  | .starvationPromotion _ => .event
  | .timingEvent _ _ _ _ => .event
  | .replayBubbleEnd _ _ => .event
  | .limpModeEnd _ _ => .event
  | .supplySettled _ => .event
  | .quietPeriodExpiry _ => .event
  | .teWindowEnd _ => .event
  | .egressGateRelease _ _ => .event
  | .launchTake _ => .event
  | .teamAdmission _ _ => .event
  | .preemptionSave _ => .event
  | .saveFrameFree => .event
  | .teamResume _ _ => .event
  | .teamEnd _ => .event
  | .launchComplete _ => .event
  | .carveEffect _ => .event
  | .operationCompletion _ _ => .event
  | .engineCommandCompletion _ _ => .event
  | .mmlpStep _ _ => .event
  | .pipeJobReply _ _ => .event
  | .scratchLineArrival _ _ => .event
  | .multicastLineArrival _ => .event
  | .deferredFaultTaken _ => .event
  | .pendingTrapEntry _ => .event
  | .pcSample _ _ => .event
  | .faultRingAccept => .event
  | .pageMoveCopy _ _ => .event
  | .pageMoveSwitch => .event
  | .apertureWriteback _ => .event
  | .sliceRatioChange _ _ => .event
  | .ratioDeadline _ _ => .event
  | .binDeadline _ => .event
  | .binSwitch _ => .event
  | .powerOnStart _ => .event
  | .alarmLevel2 _ => .event
  | .alarmLevel3 _ => .event
  | .linkStateChange _ _ => .event
  | .attestationDone => .event
  | .provisionDone => .event
  | .qtailWrite _ _ => .event
  | .qctlWrite _ _ => .event
  | .qerrClear _ _ => .event
  | .hfqheadWrite _ => .event
  | .intstatClear _ => .event
  | .intmaskWrite _ => .event
  | .dbgcmdResume _ => .event
  | .dbgcmdStepBack _ => .event
  | .dbgcmdEndLaunch _ => .event
  | .dbgvdataAccess _ _ => .event
  | .dbgsdataAccess _ _ => .event
  | .wake _ _ => .event
  | .sratioWrite _ _ _ => .event
  | .mgnctlWrite _ _ => .event
  | .qstatClear _ _ => .event
  | .dieclkWrite _ _ => .event
  | .stcmdWarm _ => .event
  | .stcmdCold _ => .event
  | .atcmd _ => .event
  | .provcmd _ => .event
  | .trgctlWrite _ _ => .event
  | .broadcastWrite _ _ => .event
  | .registerWrite _ _ => .event
  | .hostBar2Read _ _ _ => .event
  | .hostBar2Write _ _ _ => .event
  | .hostBar4Access _ _ _ _ => .event
  | .peerAccessArrival _ _ _ _ => .event
  | .peerPortStateChange _ _ => .event

/-- The OPC of an instruction word; 0 for an event (R254). -/
def Instr.opc : Instr → Nat
  | .bra _ => 0x001
  | .brg _ => 0x002
  | .bri _ => 0x004
  | .call _ => 0x006
  | .calli _ => 0x007
  | .ret _ => 0x008
  | .yield _ => 0x00B
  | .nop _ => 0x00C
  | .idle _ => 0x010
  | .lnch _ => 0x011
  | .brv _ => 0x003
  | .briv _ => 0x005
  | .exit _ => 0x00A
  | .join _ => 0x009
  | .mopen _ => 0x00D
  | .mclose _ => 0x00E
  | .mrep _ => 0x00F
  | .gadd _ => 0x040
  | .gsub _ => 0x041
  | .gmul _ => 0x042
  | .gmulh _ => 0x043
  | .gmad _ => 0x044
  | .gdiv _ => 0x045
  | .grem _ => 0x046
  | .gand _ => 0x047
  | .gor _ => 0x048
  | .gxor _ => 0x049
  | .gshl _ => 0x04A
  | .gshr _ => 0x04B
  | .gsar _ => 0x04C
  | .gmin _ => 0x04D
  | .gmax _ => 0x04E
  | .gmov _ => 0x04F
  | .gmovh _ => 0x050
  | .gcmp _ => 0x051
  | .gsel _ => 0x052
  | .gbits _ => 0x053
  | .gplog _ => 0x081
  | .emov _ => 0x083
  | .plog _ => 0x080
  | .ballot _ => 0x082
  | .vbc _ => 0x084
  | .vrdl _ => 0x085
  | .vred _ => 0x086
  | .vshfl _ => 0x087
  | .vadd _ => 0x0C0
  | .vsub _ => 0x0C1
  | .vmul _ => 0x0C2
  | .vmulh _ => 0x0C3
  | .vmad _ => 0x0C4
  | .vand _ => 0x0C5
  | .vor _ => 0x0C6
  | .vxor _ => 0x0C7
  | .vshl _ => 0x0C8
  | .vshr _ => 0x0C9
  | .vsar _ => 0x0CA
  | .vmin _ => 0x0CB
  | .vmax _ => 0x0CC
  | .vabs _ => 0x0CD
  | .vbits _ => 0x0CE
  | .vbfe _ => 0x0CF
  | .vbfi _ => 0x0D0
  | .vcmp _ => 0x0D1
  | .vsel _ => 0x0D2
  | .vmov _ => 0x0D3
  | .vfadd _ => 0x100
  | .vfsub _ => 0x101
  | .vfmul _ => 0x102
  | .vfma _ => 0x103
  | .vfmin _ => 0x104
  | .vfmax _ => 0x105
  | .vfcmp _ => 0x106
  | .vfrcp _ => 0x107
  | .vfrsq _ => 0x108
  | .vfsqrt _ => 0x109
  | .vfex2 _ => 0x10A
  | .vflg2 _ => 0x10B
  | .vfsin _ => 0x10C
  | .vfcos _ => 0x10D
  | .vfcls _ => 0x10E
  | .vfscl _ => 0x10F
  | .vfdp4 _ => 0x110
  | .vcvt _ => 0x140
  | .vnarw _ => 0x141
  | .vwide _ => 0x142
  | .vscl _ => 0x143
  | .vpack _ => 0x144
  | .vunpk _ => 0x145
  | .mmas _ => 0x180
  | .xlut _ => 0x183
  | .xunp _ => 0x186
  | .mmlp _ => 0x181
  | .eptab _ => 0x182
  | .xtab _ => 0x184
  | .xlz _ => 0x185
  | .ld _ => 0x1C0
  | .st _ => 0x1C1
  | .atom _ => 0x200
  | .acas _ => 0x201
  | .gld _ => 0x1C2
  | .gst _ => 0x1C3
  | .gatom _ => 0x202
  | .fence _ => 0x203
  | .cclean _ => 0x204
  | .cinval _ => 0x205
  | .cflush _ => 0x206
  | .ptsync _ => 0x207
  | .prf _ => 0x1C4
  | .wopen _ => 0x240
  | .wret _ => 0x241
  | .wld _ => 0x242
  | .wst _ => 0x243
  | .wadv _ => 0x244
  | .wget _ => 0x245
  | .wchk _ => 0x246
  | .cpa _ => 0x247
  | .cpg _ => 0x249
  | .cpx _ => 0x24A
  | .cpw _ => 0x248
  | .cpm _ => 0x24B
  | .bini _ => 0x24C
  | .barr _ => 0x24D
  | .bwait _ => 0x24E
  | .bsync _ => 0x24F
  | .btest _ => 0x250
  | .crv _ => 0x251
  | .grant _ => 0x252
  | .revk _ => 0x253
  | .trap _ => 0x3C0
  | .trret _ => 0x3C1
  | .tfence _ => 0x3C2
  | .brk _ => 0x3C3
  | .srd _ => 0x3C4
  | .swr _ => 0x3C5
  | .pgtk _ => 0x3C6
  | .pgmap _ => 0x3C7
  | .mark _ => 0x3C8
  | .sig _ => 0x3C9
  | .vaddImm _ => 0x0E0
  | .vsubImm _ => 0x0E1
  | .vmulImm _ => 0x0E2
  | .vmulhImm _ => 0x0E3
  | .vandImm _ => 0x0E5
  | .vorImm _ => 0x0E6
  | .vxorImm _ => 0x0E7
  | .vshlImm _ => 0x0E8
  | .vshrImm _ => 0x0E9
  | .vsarImm _ => 0x0EA
  | .vminImm _ => 0x0EB
  | .vmaxImm _ => 0x0EC
  | .vcmpImm _ => 0x0F1
  | .vmovImm _ => 0x0F3
  | .vfaddImm _ => 0x120
  | .vfsubImm _ => 0x121
  | .vfmulImm _ => 0x122
  | .vfminImm _ => 0x124
  | .vfmaxImm _ => 0x125
  | .vfcmpImm _ => 0x126
  | .vaddMelded _ => 0x0C0
  | .vsubMelded _ => 0x0C1
  | .vmulMelded _ => 0x0C2
  | .vmadMelded _ => 0x0C4
  | .vandMelded _ => 0x0C5
  | .vorMelded _ => 0x0C6
  | .vxorMelded _ => 0x0C7
  | .vshlMelded _ => 0x0C8
  | .vshrMelded _ => 0x0C9
  | .vsarMelded _ => 0x0CA
  | .vminMelded _ => 0x0CB
  | .vmaxMelded _ => 0x0CC
  | .vcmpMelded _ => 0x0D1
  | .vmovMelded _ => 0x0D3
  | .vfaddMelded _ => 0x100
  | .vfsubMelded _ => 0x101
  | .vfmulMelded _ => 0x102
  | .vfmaMelded _ => 0x103
  | .vfminMelded _ => 0x104
  | .vfmaxMelded _ => 0x105
  | .vfcmpMelded _ => 0x106
  | .ldMelded _ => 0x1C0
  | .stMelded _ => 0x1C1
  | .wldMelded _ => 0x242
  | .wstMelded _ => 0x243
  | .clauseStart => 0
  | .meterWindowEnd _ => 0
  | .throttleDelivery => 0
  | .graceIssue _ => 0
  | .starvationPromotion _ => 0
  | .timingEvent _ _ _ _ => 0
  | .replayBubbleEnd _ _ => 0
  | .limpModeEnd _ _ => 0
  | .supplySettled _ => 0
  | .quietPeriodExpiry _ => 0
  | .teWindowEnd _ => 0
  | .egressGateRelease _ _ => 0
  | .launchTake _ => 0
  | .teamAdmission _ _ => 0
  | .preemptionSave _ => 0
  | .saveFrameFree => 0
  | .teamResume _ _ => 0
  | .teamEnd _ => 0
  | .launchComplete _ => 0
  | .carveEffect _ => 0
  | .operationCompletion _ _ => 0
  | .engineCommandCompletion _ _ => 0
  | .mmlpStep _ _ => 0
  | .pipeJobReply _ _ => 0
  | .scratchLineArrival _ _ => 0
  | .multicastLineArrival _ => 0
  | .deferredFaultTaken _ => 0
  | .pendingTrapEntry _ => 0
  | .pcSample _ _ => 0
  | .faultRingAccept => 0
  | .pageMoveCopy _ _ => 0
  | .pageMoveSwitch => 0
  | .apertureWriteback _ => 0
  | .sliceRatioChange _ _ => 0
  | .ratioDeadline _ _ => 0
  | .binDeadline _ => 0
  | .binSwitch _ => 0
  | .powerOnStart _ => 0
  | .alarmLevel2 _ => 0
  | .alarmLevel3 _ => 0
  | .linkStateChange _ _ => 0
  | .attestationDone => 0
  | .provisionDone => 0
  | .qtailWrite _ _ => 0
  | .qctlWrite _ _ => 0
  | .qerrClear _ _ => 0
  | .hfqheadWrite _ => 0
  | .intstatClear _ => 0
  | .intmaskWrite _ => 0
  | .dbgcmdResume _ => 0
  | .dbgcmdStepBack _ => 0
  | .dbgcmdEndLaunch _ => 0
  | .dbgvdataAccess _ _ => 0
  | .dbgsdataAccess _ _ => 0
  | .wake _ _ => 0
  | .sratioWrite _ _ _ => 0
  | .mgnctlWrite _ _ => 0
  | .qstatClear _ _ => 0
  | .dieclkWrite _ _ => 0
  | .stcmdWarm _ => 0
  | .stcmdCold _ => 0
  | .atcmd _ => 0
  | .provcmd _ => 0
  | .trgctlWrite _ _ => 0
  | .broadcastWrite _ _ => 0
  | .registerWrite _ _ => 0
  | .hostBar2Read _ _ _ => 0
  | .hostBar2Write _ _ _ => 0
  | .hostBar4Access _ _ _ _ => 0
  | .peerAccessArrival _ _ _ _ => 0
  | .peerPortStateChange _ _ => 0

/-- Whether an OPC has a lane guard (R254). -/
def laneGuardOpc (opc : Nat) : Bool :=
  opc = 0x003 || opc = 0x005 || opc = 0x00A || opc = 0x080 || opc = 0x082 ||
  (0x084 ≤ opc && opc ≤ 0x145) || opc = 0x180 || opc = 0x183 || opc = 0x186 || opc = 0x1C0 ||
  opc = 0x1C1 || opc = 0x1C4 || opc = 0x200 || opc = 0x201 || opc = 0x242 || opc = 0x243 ||
  opc = 0x247 || opc = 0x249 || opc = 0x24A

/-- The guard of an instruction; a melded word and an event carry none. -/
def Instr.guard (i : Instr) : Guard :=
  let k := laneGuardOpc i.opc
  match i.shape with
  | .v f => Guard.of k f.guard
  | .vi f => Guard.of k f.guard
  | .m f => Guard.of k f.guard
  | .g f => Guard.of k f.guard
  | .c f => Guard.of k f.guard
  | .x f => Guard.of k f.guard
  | .s f => Guard.of k f.guard
  | .vm _ => Guard.of true 0
  | .event => Guard.of false 0

/-- The opcode weight (R254): the VI forms weigh as their V forms. -/
def weightOpc (opc : Nat) : Nat :=
  let o := if (0x0E0 ≤ opc && opc ≤ 0x0F3) || (0x120 ≤ opc && opc ≤ 0x126) then opc - 0x20 else opc
  if 0x042 ≤ o && o ≤ 0x044 then 1
  else if o = 0x045 || o = 0x046 then 2
  else if o = 0x080 || o = 0x082 || o = 0x084 || o = 0x085 then 1
  else if o = 0x086 || o = 0x087 then 3
  else if o = 0x0C2 || o = 0x0C3 || o = 0x0C4 then 4
  else if 0x0C0 ≤ o && o ≤ 0x0D3 then 2
  else if o = 0x103 then 4
  else if 0x107 ≤ o && o ≤ 0x10D then 5
  else if o = 0x110 then 12
  else if 0x100 ≤ o && o ≤ 0x10F then 3
  else if o = 0x140 || o = 0x143 then 3
  else if o = 0x141 then 4
  else if o = 0x142 || o = 0x144 || o = 0x145 then 2
  else if o = 0x180 then 15
  else if o = 0x182 || o = 0x184 then 1
  else if o = 0x183 then 4
  else if o = 0x185 then 2
  else if o = 0x186 then 3
  else if o = 0x1C0 || o = 0x1C1 then 2
  else if o = 0x1C2 || o = 0x1C3 || o = 0x1C4 then 1
  else if o = 0x200 || o = 0x201 then 3
  else if o = 0x202 || (0x204 ≤ o && o ≤ 0x206) then 1
  else if o = 0x242 || o = 0x243 then 2
  else if 0x247 ≤ o && o ≤ 0x24B then 1
  else 0

/-- The FS bit, where the entry allows a flag (R32). -/
def Instr.flag (i : Instr) : Option Bool :=
  match i.shape with
  | .v f => if i.opc = 0x183 || i.opc = 0x186 then some f.fs else none
  | .m f => if i.opc = 0x1C4 then none else some f.fs
  | .x f =>
    if i.opc = 0x244 || i.opc = 0x245 || i.opc = 0x246 || (0x24C ≤ i.opc && i.opc ≤ 0x251) then none
    else some f.fs
  | _ => none

end Sys2Proof
end

