-- ==== Sys2Proof/Machine/AMap.lean ====
section
/-! DEFINITION. Sorted association lists: how the state holds sparse data. A map has strictly rising
keys; a map with a default lists no entry equal to it, so equal contents are equal lists. -/

namespace Sys2Proof.Machine

/-- Sparse data by key, in rising order of keys. -/
abbrev AMap (α : Type) := List (Nat × α)

/-- The entry at `k`, if one is listed. -/
def AMap.find {α : Type} : AMap α → Nat → Option α
  | [], _ => none
  | (j, x) :: m, k => if j = k then some x else AMap.find m k

/-- The map without an entry at `k`. -/
def AMap.erase {α : Type} : AMap α → Nat → AMap α
  | [], _ => []
  | (j, x) :: m, k => if j = k then AMap.erase m k else (j, x) :: AMap.erase m k

/-- The map with `x` at `k`. -/
def AMap.insert {α : Type} : AMap α → Nat → α → AMap α
  | [], k, x => [(k, x)]
  | (j, y) :: m, k, x =>
    if k < j then (k, x) :: (j, y) :: m
    else if j = k then (k, x) :: m
    else (j, y) :: AMap.insert m k x

/-- Read with a default: what an unlisted key holds. -/
def AMap.get {α : Type} (d : α) (m : AMap α) (k : Nat) : α := (AMap.find m k).getD d

/-- Write with a default: an entry equal to the default is not listed. -/
def AMap.set {α : Type} [DecidableEq α] (d : α) (m : AMap α) (k : Nat) (x : α) : AMap α :=
  if x = d then AMap.erase m k else AMap.insert m k x

/-- Keys strictly rising. -/
def AMap.sorted {α : Type} : AMap α → Bool
  | [] => true
  | (j, _) :: m => m.all (fun e => decide (j < e.1)) && AMap.sorted m

/-- No entry equal to the default. -/
def AMap.noDefault {α : Type} [DecidableEq α] (d : α) (m : AMap α) : Bool :=
  m.all (fun e => decide (e.2 ≠ d))

/-- Replace the entry at `k` by its image, if one is listed. -/
def AMap.modify {α : Type} : AMap α → Nat → (α → α) → AMap α
  | [], _, _ => []
  | (j, x) :: m, k, f => if j = k then (j, f x) :: m else (j, x) :: AMap.modify m k f

/-- Replace every value by its image. -/
def AMap.mapVal {α : Type} (m : AMap α) (f : Nat → α → α) : AMap α :=
  m.map (fun e => (e.1, f e.1 e.2))

/-- The map with the entries at some keys put back as another has them. -/
def AMap.putBack {α : Type} (m before : AMap α) (ks : List Nat) : AMap α :=
  ks.foldl (fun m k => match AMap.find before k with | none => AMap.erase m k | some x => AMap.insert m k x) m

/-- A key above every listed one. -/
def AMap.next {α : Type} (m : AMap α) : Nat := m.foldl (fun a e => max a (e.1 + 1)) 0

end Sys2Proof.Machine
end

