-- ==== Sys2Proof/Machine/Flags.lean ====
section
/-! DEFINITION. The sticky flags of `%gstat` (R192) as a set of bits. -/

namespace Sys2Proof.Machine

/-- A set of sticky flags at the positions of `%gstat` (R192). -/
abbrev Flags := BitVec 8

/-- Invalid operation. -/
def flNV : Flags := 0x01
/-- Division by zero. -/
def flDZ : Flags := 0x02
/-- Overflow. -/
def flOF : Flags := 0x04
/-- Underflow: tiny and inexact (R72). -/
def flUF : Flags := 0x08
/-- Inexact. -/
def flNX : Flags := 0x10
/-- Saturated (R70, R80). -/
def flSAT : Flags := 0x20
/-- An element out of bounds under BP 0x00 (R107). -/
def flOOB : Flags := 0x40
/-- A multicast line was dropped (R136). -/
def flXDROP : Flags := 0x80

/-- `f` when `b` holds, no flag otherwise. -/
def flIf (b : Bool) (f : Flags) : Flags := if b then f else 0

end Sys2Proof.Machine
end

