-- ==== Sys2Proof/Machine/State.lean ====
section
/-! DEFINITION. The state of the module as plain data: groups with their fragments, teams, cores, queues,
launches, memory, the host's registers, and the model's own counters. Sparse parts are sorted lists. -/

namespace Sys2Proof.Machine

/-! Causes. -/

/-- MEM kinds (R188). -/
inductive MemKind where
  | load | store | atomic | engine
  deriving DecidableEq, Repr

/-- MEM reasons (R122). -/
inductive MemReason where
  | noncanon | wrap | windowMiss | windowPerm | windowCross | misalign | pageInvalid | pagePerm
  | formatAtomic | engineRange | scratchRange | vaultRange | ioSize | uncorrectable
  deriving DecidableEq, Repr

/-- VIEW causes (R190). -/
inductive ViewCause where
  | closed | busy | record | dirQuota | oob | xdrop | grantBad | barState | carve | xlzFormat | xlzCap
  | table
  deriving DecidableEq, Repr

/-- The causes (R188 to R191). -/
inductive Cause where
  | mem (k : MemKind) (r : MemReason)
  | arith (m : BitVec 6)
  | instr (c : InstrCause)
  | view (c : ViewCause)
  | marginEscalate | marginQuarantine
  | debug (kind : BitVec 2) (slot : BitVec 4)
  | doubleFault | faultLoop | poolEmpty | hostResume
  | soft (n : BitVec 6)
  deriving DecidableEq, Repr

/-- Bits 5:4 of a MEM cause (R188). -/
def MemKind.num : MemKind → Nat
  | .load => 0 | .store => 1 | .atomic => 2 | .engine => 3

/-- Bits 3:0 of a MEM cause (R122). -/
def MemReason.num : MemReason → Nat
  | .noncanon => 1 | .wrap => 2 | .windowMiss => 3 | .windowPerm => 4 | .windowCross => 5 | .misalign => 6
  | .pageInvalid => 7 | .pagePerm => 8 | .formatAtomic => 9 | .engineRange => 10 | .scratchRange => 11
  | .vaultRange => 12 | .ioSize => 13 | .uncorrectable => 14

/-- The detail of a VIEW cause (R190). -/
def ViewCause.detail : ViewCause → Nat
  | .closed => 1 | .busy => 2 | .record => 3 | .dirQuota => 4 | .oob => 5 | .xdrop => 6 | .grantBad => 7
  | .barState => 8 | .carve => 9 | .xlzFormat => 10 | .xlzCap => 11 | .table => 12

/-- The 9-bit cause: class in bits 8:6, detail in bits 5:0 (R188). -/
def Cause.code : Cause → Nat
  | .mem k r => k.num * 16 + r.num
  | .arith m => 0x040 + m.toNat
  | .instr c => 0x080 + c.detail
  | .view c => 0x0C0 + c.detail
  | .marginEscalate => 0x101
  | .marginQuarantine => 0x102
  | .debug k n => 0x140 + k.toNat * 16 + n.toNat
  | .doubleFault => 0x181
  | .faultLoop => 0x182
  | .poolEmpty => 0x183
  | .hostResume => 0x184
  | .soft n => 0x1C0 + n.toNat

/-! Fragments and groups. -/

/-- Where a fragment stands in a clause (R30, R31): the words left of it, 0 at a clause-start position,
and the fields of its header that its words use. -/
structure Clause where
  left : Nat := 0
  hdr : Word := 0
  seta : BitVec 4 := 15
  setb : BitVec 4 := 15
  meld : Bool := false
  deriving DecidableEq, Repr

/-- A place to continue at: the next word and its clause. -/
structure Pos where
  pc : Word := 0
  cl : Clause := {}
  deriving DecidableEq, Repr

/-- Why a fragment's next word does not complete yet (R227 names the reasons a sample reports). -/
inductive Stall where
  /-- arrived at barrier n, waits for its phase (R165) -/
  | bar (n : Nat)
  /-- parked on an absent scratchpad line (R135) -/
  | line
  /-- engine directory entries are full (R115) -/
  | dir
  /-- a flag counter stands at 63 (R32) -/
  | flag
  /-- a register is pending (R33) -/
  | reg
  /-- the weir or `wret` waits for engine work (R111, R116, R117) -/
  | weir
  /-- `ptsync` waits for earlier `pgmap`s, and for the walkers to drop what they still hold (R309) -/
  | sync
  /-- the matrix unit, a pipe queue or a table is held (R90, R98, R99) -/
  | unit
  /-- the record of `sig` or `pgtk` has not entered the hold (R235) -/
  | post
  /-- the phase of barrier n that it waited for has completed (R165 step 4); it goes on at its next issue -/
  | freed (n : Nat)
  deriving DecidableEq, Repr

/-- The states of a fragment (R34 to R39). -/
inductive FragSt where
  | running | joined | waiting
  deriving DecidableEq, Repr

/-- A trap decided for a fragment: what the trap registers take (R192). -/
structure TrapInfo where
  cause : Cause
  pc : Word
  va : Word := 0
  lanes : Word
  stat : Word := 0
  next : Word := 0
  /-- a deferred fault of a word that `trret` had issued again (R201) -/
  again : Bool := false
  deriving DecidableEq, Repr

/-- What an execution restarted by `trret` restores when its word has completed (R197). -/
structure Re where
  exec : Word
  cont : Pos
  /-- the `mmlp` step to resume at, with LOOP (R96) -/
  step : Option Nat := none
  deriving DecidableEq, Repr

/-- A fragment of a group (R34 to R39, R208). -/
structure Frag where
  key : Nat := 0
  pos : Pos := {}
  exec : Word := 0
  st : FragSt := .running
  /-- it holds a carousel entry of its own; else it stands in its record's home context -/
  entry : Bool := false
  /-- its innermost split record, and the lanes that record gave it -/
  split : Option Nat := none
  mask : Word := 0
  /-- it waits because it resumed without the entry it had held (R208) -/
  late : Bool := false
  inH : Bool := false
  /-- the executions that `trret` restarted, the innermost first -/
  re : List Re := []
  /-- a trap decided and not yet entered (R195, R204), with its clause position -/
  held : Option (TrapInfo × Pos × Pos) := none
  stall : Option Stall := none
  yielded : Bool := false
  promoted : Bool := false
  grace : Bool := false
  /-- its clause is tried again after a trap at its header (R201) -/
  retry : Bool := false
  deriving DecidableEq, Repr

/-- An issue that the comparators do not test: a word that a timing event squashed and that issues again, with the times
it has been a victim, or the word at which a debug stop came (R216, R224, R226). It is told by its fragment, its VA, and
whether it stands in a handler or is executed again by `trret`. -/
structure Again where
  frag : Nat
  pc : Word
  inH : Bool := false
  redo : Nat := 0
  count : Nat := 0
  deriving DecidableEq, Repr

/-- A split record (R34, R39, R208). `home` says whether its home context is a carousel entry that the
splitting fragment held of its own; `outer`
holds the lanes that the record outside it gave the fragment that split. -/
structure SplitRec where
  id : Nat
  parent : Option Nat
  join : Word
  lanes : Word
  outer : Word
  serial : Bool
  home : Bool
  key : Nat
  inH : Bool
  deriving DecidableEq, Repr

/-- One level of the meld stack (R50). -/
structure MeldLevel where
  region : Word
  saved : Word
  deriving DecidableEq, Repr

/-- A fault decided after issue (R340), with the clause of its word. -/
structure Deferred where
  info : TrapInfo
  cl : Clause
  deriving DecidableEq, Repr

/-- The handler a group is in (R195 to R201). -/
structure Handler where
  /-- the fragment that is in it, as it stood at the trap -/
  frag : Frag
  /-- the trap as it was entered, for a host resume (R200) -/
  info : TrapInfo
  /-- the handler's own `exec` at entry -/
  entry : Word
  /-- the word to execute again, with its clause, and where the fragment continues after it -/
  word : Pos
  cont : Pos
  tpcWritten : Bool := false
  deriving DecidableEq, Repr

/-- A register with a pending write and the word that writes it (R33). -/
structure Pending where
  reg : Nat
  op : Nat
  pc : Word
  deriving DecidableEq, Repr

/-- An open view (R105, R109): the record outside the origins, and the scope of its first `wopen`. -/
structure View where
  base : Word := 0
  ctl : Word := 0
  ext10 : Word := 0
  ext32 : Word := 0
  str10 : Word := 0
  str32 : Word := 0
  scope : Nat := 0
  deriving DecidableEq, Repr

/-- A matrix loop in flight (R94). -/
structure Loop where
  who : Sel
  instr : Instr
  flag : Option Nat := none
  pc : Word := 0
  cl : Clause := {}
  exec : Word := 0
  a : View × Word × Word
  b : View × Word × Word
  bias : Option (View × Word × Word) := none
  dst : Option (View × Word × Word) := none
  gs : List Word := []
  /-- the C block, row i of lane l at 64 * i + l -/
  c : AMap Lane := []
  /-- the operation that its pending registers name -/
  op : Nat := 0
  step : Nat := 0
  steps : Nat := 0
  /-- it was issued again by `trret`, or in a handler (R201) -/
  redo : Bool := false
  inH : Bool := false
  /-- how often it was the victim of a timing event (R216) -/
  replays : Nat := 0
  /-- resumed, it waits for its directory entries (R115) -/
  queued : Bool := false
  deriving DecidableEq, Repr

/-- A group (R27). Vector register v[r][l] is the entry 64 * r + l of `v`. -/
structure Group where
  ended : Bool := false
  core : Nat := 0
  slice : Nat := 0
  v : AMap Lane := []
  p : AMap Word := []
  g : AMap Word := []
  gp : AMap Bool := []
  k : AMap Nat := []
  h : AMap Word := []
  live : Word := 0
  frags : AMap Frag := []
  splits : List SplitRec := []
  meld : List MeldLevel := []
  hmeld : List MeldLevel := []
  floor : Nat := 0
  hfloor : Nat := 0
  gstat : Flags := 0
  tarm : Flags := 0
  thr : Bool := false
  thrp : Bool := false
  evvec : Word := 0
  tvec : Word := 0
  tcause : Word := 0
  tpc : Word := 0
  tva : Word := 0
  tlanes : Word := 0
  tstat : Word := 0
  hsa : Word := 0
  tnext : Word := 0
  te : BitVec 32 := 0
  stepOn : Bool := false
  stopped : Bool := false
  stopCause : BitVec 9 := 0
  hzn : Bool := false
  /-- LP and LV of each barrier (R165); an entry is a set LV -/
  lp : AMap Bool := []
  /-- the views it holds and their four origins, dims 1 and 0 in the first word (R109) -/
  holds : AMap (Word × Word) := []
  hnd : Option Handler := none
  halted : Bool := false
  /-- the inner trap of a halt (R199, R200), and where the word stood -/
  haltRec : Option (TrapInfo × Pos × Pos) := none
  haltKey : Nat := 0
  idle : Bool := false
  wake : Bool := false
  /-- a wake that the distributor holds until the team resumes (R297) -/
  heldWake : Bool := false
  /-- identical traps in a row and the trap they repeat (R201) -/
  loops : Nat := 0
  lastTrap : Option (Nat × Word × Word) := none
  deferred : List Deferred := []
  /-- a record of such a fault whose lanes have ended waits at the group for the hold to have room (R235, R340) -/
  posting : Bool := false
  /-- the issues to come that the comparators do not test, in order for each fragment (R216, R224, R226) -/
  again : List Again := []
  pend : List Pending := []
  /-- the reply predicate of a `crv` of this phase (R43) -/
  carveGp : Option Nat := none
  /-- a `btest` has read true while a granted carve waits to take effect: the group stays at the barrier until then
  (R135) -/
  atCarve : Bool := false
  /-- the origins of A and B of a stopped `mmlp` (R96, R208) -/
  loopA : Word × Word := (0, 0)
  loopB : Word × Word := (0, 0)
  /-- a matrix loop that a pre-emption stopped at a step boundary (R96, R205) -/
  halfLoop : Option Loop := none
  nextKey : Nat := 1
  nextRec : Nat := 0
  /-- what the host has written and the resume will take (R235): words of the record by offset, lanes of vector
  registers as `v` numbers them, and bytes of the team's scratchpad -/
  hostRec : AMap Word := []
  hostVec : AMap Lane := []
  hostScr : AMap Byte := []
  /-- commands of the host that wait behind the group's operations in flight, the oldest first: a step back (`true`) or
  a resume (R226, R232) -/
  hostCmds : List Bool := []
  deriving DecidableEq, Repr

/-! Teams and launches. -/

/-- A barrier (R164). -/
structure Bar where
  ph : Bool := false
  grp : Nat := 0
  eng : Nat := 0
  /-- groups that have arrived in this phase -/
  arr : List Nat := []
  earr : Nat := 0
  held : Nat := 0
  /-- arrivals of this phase that later phases no longer expect (R46) -/
  fewer : Nat := 0
  deriving DecidableEq, Repr

/-- A grant (R136, R291): its scratchpad range on the granting core. -/
structure Grant where
  lo : Nat
  len : Nat
  core : Nat
  deriving DecidableEq, Repr

/-- A carve request (R43), and its granted form once decided. -/
structure Carve where
  regs : Nat
  scr : Option Nat
  deriving DecidableEq, Repr

/-- Kernel descriptor fields (R257). -/
structure Desc where
  entry : Word := 0
  width : Nat := 32
  regs : Nat := 8
  team : Nat := 1
  pair : Bool := false
  prog : Nat := 0
  views : Nat := 0
  bars : Nat := 0
  scr : Nat := 0
  handler : Word := 0
  ptt : Word := 0
  ptn : Nat := 0
  hsa : Word := 0
  hsan : Nat := 0
  deriving DecidableEq, Repr

/-- Where a resident team stands: its core (the lower of a pair), and its slot on each. -/
structure Place where
  core : Nat
  slot : Nat
  slot2 : Nat := 0
  deriving DecidableEq, Repr

/-- A byte of a store: its key, or with `scr` its scratchpad offset, its IA for L1, its value, and the
single-copy atomic piece of its instruction that it belongs to (R141). -/
structure StByte where
  scr : Bool
  key : Nat
  ia : Nat
  val : Byte
  piece : Nat := 0
  deriving DecidableEq, Repr

/-- An entry of the undo log (R231): the group before and after the word, and the old bytes its stores
wrote over. -/
structure Undo where
  grp : Nat
  frag : Nat
  before : Group
  after : Group
  bytes : List StByte
  /-- the registers that it left pending, as the scoreboard numbers them, and the lanes of the vector registers among
  them: they are written after it -/
  dests : List Nat := []
  lanes : Word := 0
  /-- the views of the team before the word and after it -/
  views : AMap View := []
  viewsAfter : AMap View := []
  /-- the word has had an effect and waits to commit: the entry is not held yet -/
  opened : Bool := false
  deriving DecidableEq, Repr

/-- A save frame (R206): its PA and its size in bytes. -/
abbrev SaveFrame := Nat × Nat

/-- A team (R40 to R47). -/
structure Team where
  lid : Nat := 0
  desc : Desc := {}
  ctx : Nat := 0
  prio : Nat := 0
  idx : Nat := 0
  x : Nat := 0
  y : Nat := 0
  z : Nat := 0
  /-- its admission order (R182) -/
  age : Nat := 0
  place : Option Place := none
  /-- the core it was saved on (R209) -/
  lastCore : Nat := 0
  groups : AMap Group := []
  regs : Nat := 8
  scrGran : Nat := 0
  views : AMap View := []
  bars : AMap Bar := []
  grants : AMap Grant := []
  scr : List Host.Cell := []
  /-- scratchpad bytes that ECC cannot correct (R131) -/
  bad : List Nat := []
  absent : AMap Bool := []
  carve : Option Carve := none
  /-- the carves granted and not yet in effect, the oldest first (R44, R135) -/
  granted : List Carve := []
  dbgBit : Bool := false
  undo : List Undo := []
  /-- being pre-empted: it issues nothing more (R205) -/
  stopping : Bool := false
  /-- the reason of the pre-emption that stopped it last, as its trace record has it: 1 a carve, 2 priority,
  3 a slice ratio, 4 a clock bin, 5 a quarantine -/
  why : Nat := 0
  /-- the fault service mode it was admitted under (R242) -/
  fsHw : Bool := true
  /-- the modes of its launch likewise (R242): margin control of its core and of a pair's other core, and trace
  collection by the buffer -/
  mgnHw : Bool × Bool := (false, false)
  trcBuf : Bool := false
  /-- the frame that holds its image while it is saved (R205, R206) -/
  frame : Option SaveFrame := none
  deriving DecidableEq, Repr

/-- A launch taken and not complete (R174 to R176). -/
structure Launch where
  q : Nat := 0
  qhead : Nat := 0
  tx : Nat := 1
  ty : Nat := 1
  tz : Nat := 1
  prio : Nat := 0
  wen : Bool := false
  wctr : Nat := 0
  wval : Word := 0
  sen : Bool := false
  sctr : Nat := 0
  sadd : Word := 0
  args : List Word := []
  desc : Desc := {}
  /-- teams started and teams ended -/
  started : Nat := 0
  ended : Nat := 0
  /-- the teams started of a weakly parallel launch, which are admitted in any order (R179) -/
  begun : List Nat := []
  /-- the modes it was admitted under (R242): host-assisted placement, hardware fault service, trace collection by the
  buffer, and the cores in hardware margin control -/
  place : Bool := false
  fsHw : Bool := true
  trcBuf : Bool := false
  hwCores : List Nat := []
  /-- cores on which its first team has issued or its L1 has been invalidated (R176) -/
  fresh : List Nat := []
  deriving DecidableEq, Repr

/-- A launch queue (R172). -/
structure Queue where
  base : Word := 0
  en : Bool := false
  dev : Bool := false
  qprio : Nat := 0
  size : Nat := 0
  head : BitVec 32 := 0
  tail : BitVec 32 := 0
  err : Bool := false
  reason : BitVec 8 := 0
  errHead : BitVec 32 := 0
  last : Nat := 0
  deriving DecidableEq, Repr

/-! Cores. -/

/-- An operation in flight (R32): a load, store or atomic that holds a flag, or a store at the gate. -/
structure Op where
  who : Sel
  flag : Option Nat := none
  opc : Nat := 0
  pc : Word := 0
  /-- it is a store that has not been performed everywhere, with the bytes that are left of it -/
  gated : Bool := false
  /-- it has left the gate and been applied to its core's L1 (R144 stage 2) -/
  applied : Bool := false
  /-- it has left the gate, whole or in part, and is not replayed any more (R215) -/
  left : Bool := false
  /-- the other groups, by team and number, that have read from it while only its core saw it (R147) -/
  readers : List (Nat × Nat) := []
  bytes : List StByte := []
  /-- the views a `wst` used, for R116 -/
  views : List View := []
  /-- the level and the die that a load tag reports (R228) -/
  tag : Option (Nat × Nat) := none
  /-- what its issue charged to the meter (R184) -/
  charge : Nat := 0
  /-- how often it was the victim of a timing event (R216) -/
  replays : Nat := 0
  deriving DecidableEq, Repr

/-- An engine command in flight (R159): the instruction as issued, with what it read at issue. -/
structure Cmd where
  who : Sel
  instr : Instr
  flag : Option Nat := none
  pc : Word := 0
  cl : Clause := {}
  exec : Word := 0
  bar : Option Nat := none
  src : Option (View × Word × Word) := none
  dst : Option (View × Word × Word) := none
  /-- g registers and the vector operand read at issue -/
  gs : List Word := []
  vs : List Lane := []
  /-- scratchpad lines whose presence it cleared, and those of them that have arrived (R135) -/
  lines : List Nat := []
  arrived : List Nat := []
  /-- its sequence number on the core (R229) -/
  seq : BitVec 32 := 0
  /-- it was issued again by `trret`, or in a handler (R201) -/
  redo : Bool := false
  inH : Bool := false
  /-- how often it was the victim of a timing event (R216) -/
  replays : Nat := 0
  deriving DecidableEq, Repr

/-- A transform pipe job (R99). -/
structure Job where
  who : Sel
  instr : Instr
  flag : Option Nat := none
  pc : Word := 0
  cl : Clause := {}
  exec : Word := 0
  inH : Bool := false
  gs : List Word := []
  vs : List (List Lane) := []
  op : Nat := 0
  /-- bytes of its table, by scratchpad offset, as they stood before a write that it does not see (R140, R336) -/
  seen : AMap Byte := []
  /-- its sequence number on the core (R229) -/
  seq : BitVec 32 := 0
  /-- it was issued again by `trret` (R201) -/
  redo : Bool := false
  /-- how often it was the victim of a timing event (R216) -/
  replays : Nat := 0
  deriving DecidableEq, Repr

/-- A slice (R20, R186, R213, R216). -/
structure Slice where
  target : Nat := 8
  ratio : Nat := 8
  pend : Bool := false
  /-- the ratio deadline has passed and waits for save frames (R206) -/
  due : Bool := false
  limp : Bool := false
  bubble : Bool := false
  /-- the fragments squashed, in their original order (R213) -/
  squashed : List Sel := []
  /-- the fragment that `yield` keeps out of the next slice cycle (R339) -/
  rest : Option Sel := none
  /-- the previous issue was heavy (R183) -/
  heavy : Bool := false
  /-- the fragment that issued in the last slice cycle (R227) -/
  issued : Option Sel := none
  teWin : Nat := 0
  /-- the activation table, the team that loaded it, and lo, h and 64 entries (R98) -/
  act : Option (Nat × List Word) := none
  /-- the group sampled last (R227) -/
  sample : Option Sel := none
  deriving DecidableEq, Repr

/-- A comparator set (R223). -/
structure Cmpr where
  ctl : Word := 0
  lo : Word := 0
  hi : Word := 0
  deriving DecidableEq, Repr

/-- A core (R20). -/
structure Core where
  slices : AMap Slice := []
  cursoft : Nat := 0xFFFFFFFF
  curhard : Nat := 0xFFFFFFFF
  sum : Nat := 0
  denials : Nat := 0
  curmSum : Nat := 0
  curmDen : Nat := 0
  /-- margin block (R219) -/
  hofs : Nat := 0
  omax : Nat := 0
  hw : Bool := false
  quiet : Nat := 16
  ofs : Nat := 0
  /-- the supply rises and issue stops; it falls and issue goes on (R217, R221) -/
  settle : Bool := false
  slew : Bool := false
  quar : Bool := false
  escal : Nat := 0
  tecnt : BitVec 32 := 0
  win : Nat := 0
  stepped : Bool := false
  replim : Nat := 3
  limpcyc : Nat := 0x1000
  escstep : Nat := 2
  qthr : Nat := 0x40
  qcount : Nat := 0
  /-- a quarantine's POOL_EMPTY record has been posted (R206) -/
  qposted : Bool := false
  /-- debug block (R223, R227 to R230) -/
  cmps : AMap Cmpr := []
  smp : Word := 0
  tagctl : Word := 0
  tagcnt : Nat := 0
  trcmask : Word := 0
  trgStart : Nat := 0
  trgStop : Nat := 0
  trgState : Nat := 0
  /-- the cycle in which STOP became true, whose records are captured to its end (R230) -/
  trgLast : Option Nat := none
  lost : Nat := 0
  cmdseq : BitVec 32 := 0
  /-- L1 lines by IA line number (R130) -/
  l1 : AMap (BitVec 1024) := []
  /-- conversion tables: the loading team, and the 256 entries (R90) -/
  cvt : AMap (Nat × List (BitVec 16)) := []
  ops : AMap Op := []
  cmds : AMap Cmd := []
  loops : AMap Loop := []
  pipes : AMap (List Job) := []
  /-- admissions of each team slot, modulo 2^16 (R136) -/
  inst : AMap (BitVec 16) := []
  wakeid : Word := 0
  dbgsel : Word := 0
  dbgvsel : Word := 0
  dbgsaddr : Word := 0
  deriving DecidableEq, Repr

/-! The module. -/

/-- What a walker or an indirection table may still hold of a page (R128): the entry as it stood before it was
written, and who has written it since, a team's group or, as `none`, the host or the firmware. -/
structure Stale where
  entry : Word
  writers : List (Option (Nat × Nat)) := []
  deriving DecidableEq, Repr

/-- A sluice window (R124). -/
structure Win where
  va : Word := 0
  len : Word := 0
  ia : Word := 0
  ctl : Word := 0
  deriving DecidableEq, Repr

/-- A record of the host fault queue (R199, R220, R310), whose source waits with it. -/
structure FRec where
  words : List Word
  margin : Bool := false
  src : Option Sel := none
  deriving DecidableEq, Repr

/-- A trace record (R229). -/
structure TRec where
  kind : Nat
  core : Nat
  slice : Nat := 0
  slot : Nat := 0
  grp : Nat := 0
  launch : Nat := 0
  time : Word := 0
  payload : List Word := []
  deriving DecidableEq, Repr

/-- A format window (R86). -/
structure FmtWin where
  ctl : Word := 0
  pkb : Word := 0
  len : Word := 0
  scb : Word := 0
  apb : Word := 0
  deriving DecidableEq, Repr

/-- A line of a format aperture in its home slice (R87, R88): whether it is dirty, the window that decoded it, and
its bytes. -/
structure AperLine where
  dirty : Bool := false
  win : FmtWin := {}
  data : BitVec 1024 := 0
  deriving DecidableEq, Repr

/-- A memory controller's registers (R86, R127). -/
structure Ctrl where
  ptbase : Word := 0
  fmt : AMap FmtWin := []
  satc : Word := 0
  deriving DecidableEq, Repr

/-- A multicast line in flight (R136, R167): the command it belongs to, the token it is sent under, and the
offset it holds on both sides. -/
structure McLine where
  who : Sel
  core : Nat
  cmd : Nat
  token : Word
  off : Nat
  /-- the VA it is read at -/
  va : Word := 0
  deriving DecidableEq, Repr

/-- A page move in progress (R129). -/
structure PageMove where
  ia : Nat
  frame : Word
  deriving DecidableEq, Repr

/-- A die's clock bin (R237). -/
structure DieClk where
  req : Nat := 0
  cur : Nat := 0
  pend : Bool := false
  due : Bool := false
  deriving DecidableEq, Repr

/-- The phases of STSTAT (R238). -/
inductive Phase where
  | off | cold | warm | running | safe
  deriving DecidableEq, Repr

/-- The host's register file outside queues, counters and cores (R234). -/
structure HostRegs where
  hfqbase : Word := 0
  hfqEn : Bool := false
  hfqS : Nat := 0
  hfqtail : BitVec 32 := 0
  hfqhead : BitVec 32 := 0
  hfqlost : Nat := 0
  /-- INTSTAT bits 4:0 -/
  intstat : BitVec 5 := 0
  intmask : BitVec 5 := 0x1F
  haerr : Word := 0
  place : Bool := false
  fwprog : Bool := false
  fsmode : Word := BitVec.allOnes 64
  plmask : AMap Word := []
  trcEn : Bool := false
  trcBuf : Bool := false
  trcWrap : Bool := false
  tbbase : Word := 0
  tblen : Word := 0
  tbptr : Word := 0
  deriving DecidableEq, Repr

/-- The start and security block (R236 to R241). -/
structure StartRegs where
  phase : Phase := .off
  lastFail : Nat := 0
  warmFail : Nat := 0
  coldFail : Nat := 0
  nonce : List Byte := List.replicate 32 0
  atBusy : Bool := false
  atDone : Bool := false
  atOut : List Byte := []
  /-- the highest alarm level seen and the last source (R240) -/
  alLevel : Nat := 0
  alSource : Nat := 0
  /-- the key store (R241): the package whose runtime and attestation keys it holds, the empty one standing for the keys
  that the module came with, or none once they are erased -/
  keys : Option (List Byte) := some []
  /-- likewise the keys that step 7 of the last start derived, and that serve (R238) -/
  served : Option (List Byte) := none
  serial : Nat := 0
  provBusy : Bool := false
  provDone : Bool := false
  provFail : Bool := false
  provReason : Nat := 0
  provBuf : AMap Byte := []
  /-- a start under way: whether it is cold, and the step that is to fail in it (R238) -/
  run : Option (Bool × Option Nat) := none
  /-- OMAX and HW of each core as retained for a warm start (R221, R238) -/
  omax : AMap Nat := []
  hw : AMap Bool := []
  deriving DecidableEq, Repr

/-- What moves next (log 5): an event of the table, with the fragment it acts at where it needs one, or an issue
of a slice. -/
inductive Turn where
  | event (who : Option Sel) (i : Instr)
  | issue (core slice : Nat)
  deriving DecidableEq, Repr

/-- The whole machine. -/
structure State where
  mem : List Host.Cell := []
  /-- what memory holds beneath the dirty bytes of the L2, by PA (R131, R133) -/
  l2 : List Host.Cell := []
  /-- bytes that ECC cannot correct (R131), by the key they are read at -/
  bad : List Nat := []
  /-- decoded lines of format apertures that a home slice holds, by IA line (R87, R88) -/
  aper : AMap AperLine := []
  teams : AMap Team := []
  cores : AMap Core := []
  launches : AMap Launch := []
  queues : AMap Queue := []
  rr : Nat := 0
  ectr : AMap Word := []
  ctxs : AMap Win := []
  ctrls : AMap Ctrl := []
  /-- stale translations a walker may still hold, by page (R128) -/
  stale : AMap Stale := []
  /-- free frames of the device-local pool (R307): of 64 KiB at 2 × die, of 2 MiB at 2 × die + 1 -/
  pool : AMap (List Word) := []
  /-- the free save frames (R206) -/
  frames : List SaveFrame := []
  move : Option PageMove := none
  mcast : AMap McLine := []
  host : HostRegs := {}
  start : StartRegs := {}
  hold : List FRec := []
  waiting : List FRec := []
  trace : List TRec := []
  dies : AMap DieClk := []
  peers : AMap Word := []
  linkA : Bool := true
  linkB : Bool := true
  msix : List Nat := []
  hostOut : List (List Byte) := []
  /-- which of those reads completed with the poisoned-data indication (R233) -/
  poison : List Nat := []
  agenda : List Turn := []
  cur : Option Sel := none
  fresh : Nat := 0
  nextTid : Nat := 0
  deriving DecidableEq, Repr

/-- The ways the model stops. Both are safe: the machine itself cannot be in these cases, since a word
issues only from a group. -/
inductive Fault where
  /-- Raised by the meaning of an instruction word, or of an event that acts at the issuing fragment, when
  `State.cur` names no fragment of a resident team. Safe: no group issues, so nothing happens. -/
  | noIssuer
  deriving DecidableEq, Repr

/-- The ways the model refuses. -/
inductive Refusal where
  /-- Raised by an arm of `exec` that has no meaning yet. Safe: the run stops. -/
  | notModelled (mnemonic : String)
  deriving DecidableEq, Repr

/-- The module right after reset: nothing started, every register at its reset value (R234 to R241),
memory with nothing listed. -/
def State.reset : State := {}

end Sys2Proof.Machine
end

