-- ==== Sys2Proof/Machine/Access.lean ====
section
/-! DEFINITION. The access paths of the state, the registers of a group, and the issuing fragment. -/

namespace Sys2Proof.Machine

/-- Core `c`; an unlisted core is as at reset. -/
def State.core (s : State) (c : Nat) : Core := AMap.get {} s.cores c

/-- The state with core `c` changed. -/
def State.modCore (s : State) (c : Nat) (f : Core → Core) : State :=
  { s with cores := AMap.set {} s.cores c (f (s.core c)) }

/-- Slice `n` of a core. -/
def Core.slice (c : Core) (n : Nat) : Slice := AMap.get {} c.slices n

/-- The core with slice `n` changed. -/
def Core.modSlice (c : Core) (n : Nat) (f : Slice → Slice) : Core :=
  { c with slices := AMap.set {} c.slices n (f (c.slice n)) }

/-- The state with a slice changed. -/
def State.modSlice (s : State) (c n : Nat) (f : Slice → Slice) : State :=
  s.modCore c (fun k => k.modSlice n f)

/-- The state with a team changed. -/
def State.modTeam (s : State) (tid : Nat) (f : Team → Team) : State :=
  { s with teams := AMap.modify s.teams tid f }

/-- The team with a group changed. -/
def Team.modGrp (t : Team) (n : Nat) (f : Group → Group) : Team :=
  { t with groups := AMap.modify t.groups n f }

/-- The state with a group changed. -/
def State.modGrp (s : State) (w : Sel) (f : Group → Group) : State :=
  s.modTeam w.tid (fun t => t.modGrp w.grp f)

/-- The group with a fragment changed. -/
def Group.modFrag (g : Group) (k : Nat) (f : Frag → Frag) : Group :=
  { g with frags := AMap.modify g.frags k f }

/-- The state with a fragment changed. -/
def State.modFrag (s : State) (w : Sel) (f : Frag → Frag) : State :=
  s.modGrp w (fun g => g.modFrag w.frag f)

/-- The group that a name means. -/
def State.grp? (s : State) (w : Sel) : Option Group :=
  match AMap.find s.teams w.tid with
  | none => none
  | some t => AMap.find t.groups w.grp

/-- The fragment that a name means. -/
def State.frag? (s : State) (w : Sel) : Option Frag :=
  match s.grp? w with
  | none => none
  | some g => AMap.find g.frags w.frag

/-- A launch queue; an unlisted queue is as at reset. -/
def State.queue (s : State) (q : Nat) : Queue := AMap.get {} s.queues q

/-- The state with a queue changed. -/
def State.modQueue (s : State) (q : Nat) (f : Queue → Queue) : State :=
  { s with queues := AMap.set {} s.queues q (f (s.queue q)) }

/-- A lane mask from a test of each lane. -/
def maskIf (p : Nat → Bool) : Word :=
  BitVec.ofNat 64 ((List.range 64).foldl (fun a l => if p l then a + 2 ^ l else a) 0)

/-- The lanes of a mask in ascending order. -/
def lanesOf (m : Word) : List Nat := (List.range 64).filter (fun l => m.getLsbD l)

/-- The number of lanes of a mask. -/
def popcount (m : Word) : Nat := (lanesOf m).length

/-- The lanes of a width (R26). -/
def widthMask (w : Nat) : Word := maskIf (fun l => decide (l < w))

/-! Registers of a group. -/

/-- A g register, or with `inH` and a number from 56 the banked h register (R196). -/
def Group.gReg (gr : Group) (inH : Bool) (n : Nat) : Word :=
  if inH && decide (56 ≤ n) then AMap.get 0 gr.h (n - 56) else AMap.get 0 gr.g n

/-- Write a g register, or the banked h register (R196). -/
def Group.setG (gr : Group) (inH : Bool) (n : Nat) (x : Word) : Group :=
  if inH && decide (56 ≤ n) then { gr with h := AMap.set 0 gr.h (n - 56) x }
  else { gr with g := AMap.set 0 gr.g n x }

/-- A group predicate; gp0 reads true (R27). -/
def Group.gpReg (gr : Group) (n : Nat) : Bool := n == 0 || AMap.get false gr.gp n

/-- Write a group predicate; gp0 ignores writes (R27). -/
def Group.setGp (gr : Group) (n : Nat) (b : Bool) : Group :=
  if n = 0 then gr else { gr with gp := AMap.set false gr.gp n b }

/-- A lane predicate as a mask; p0 reads true (R27). -/
def Group.pReg (gr : Group) (n : Nat) : Word := if n = 0 then BitVec.allOnes 64 else AMap.get 0 gr.p n

/-- Write the lanes `m` of a lane predicate with the bits of `x`; p0 ignores writes (R27). -/
def Group.setP (gr : Group) (n : Nat) (m x : Word) : Group :=
  if n = 0 then gr else { gr with p := AMap.set 0 gr.p n ((gr.pReg n &&& ~~~m) ||| (x &&& m)) }

/-- Vector register `r` in lane `l`. -/
def Group.vReg (gr : Group) (r l : Nat) : Lane := AMap.get 0 gr.v (64 * r + l)

/-- Write vector register `r` in lane `l`. -/
def Group.setV (gr : Group) (r l : Nat) (x : Lane) : Group :=
  { gr with v := AMap.set 0 gr.v (64 * r + l) x }

/-- The 64-bit value of an even register and the one above it (R28). -/
def Group.vReg64 (gr : Group) (r l : Nat) : Word := gr.vReg (r + 1) l ++ gr.vReg r l

/-- Write a 64-bit pair (R28). -/
def Group.setV64 (gr : Group) (r l : Nat) (x : Word) : Group :=
  (gr.setV r l (x.extractLsb' 0 32)).setV (r + 1) l (x.extractLsb' 32 32)

/-- A completion flag's counter. -/
def Group.flag (gr : Group) (n : Nat) : Nat := AMap.get 0 gr.k n

/-- A completion flag counts one up (R32). -/
def Group.flagUp (gr : Group) (k : Option Nat) : Group :=
  match k with
  | none => gr
  | some n => { gr with k := AMap.set 0 gr.k n (gr.flag n + 1) }

/-- A completion flag counts one down, never below zero (R32). -/
def Group.flagDown (gr : Group) (k : Option Nat) : Group :=
  match k with
  | none => gr
  | some n => { gr with k := AMap.set 0 gr.k n (gr.flag n - 1) }

/-- Sticky flags are raised (R192). -/
def Group.raise (gr : Group) (f : Flags) : Group := { gr with gstat := gr.gstat ||| f }

/-! The issuing fragment. -/

/-- What a meaning sees of its issuer: its name and its team, group and fragment as they stand at issue. -/
structure Env where
  who : Sel
  tm : Team
  gr : Group
  fr : Frag
  deriving DecidableEq, Repr

/-- A fragment that waits for an absent line, for its record to enter the hold, or in `ptsync`: its group issues
nothing meanwhile (R135, R235, R309). -/
def Frag.parksGroup (f : Frag) : Bool := f.stall == some .line || f.stall == some .post || f.stall == some .sync

/-- A fragment of the group, other than `k`, parks the group. -/
def Group.parkedBut (g : Group) (k : Nat) : Bool := g.frags.any (fun f => f.1 != k && f.2.parksGroup)

/-- The group has seen its phase over and stays at the barrier until its team's granted carves take effect (R135). -/
def Env.atCarve (e : Env) : Bool := e.gr.atCarve && !e.tm.granted.isEmpty

/-- The fragment can issue: its team is resident and not stopping, its group is neither ended, halted,
stopped, in `idle`, kept at a barrier, waiting with a record nor parked by another fragment, and it runs with no trap
held (R135, R182, R195, R199, R205, R226, R235). -/
def Env.canIssue (e : Env) : Bool :=
  e.tm.place.isSome && !e.tm.stopping && !e.gr.ended && !e.gr.halted && !e.gr.stopped && !e.gr.idle &&
  !e.gr.posting && e.fr.st == .running && e.fr.held.isNone && !e.atCarve && !e.gr.parkedBut e.who.frag

/-- The environment of a fragment by name. -/
def State.envOf (s : State) (w : Sel) : Option Env :=
  match AMap.find s.teams w.tid with
  | none => none
  | some t =>
    match AMap.find t.groups w.grp with
    | none => none
    | some g =>
      match AMap.find g.frags w.frag with
      | none => none
      | some f => some { who := w, tm := t, gr := g, fr := f }

/-- The issuer that `State.cur` names, if it can issue. -/
def State.env (s : State) : Option Env :=
  match s.cur with
  | none => none
  | some w =>
    match s.envOf w with
    | none => none
    | some e => if e.canIssue then some e else none

/-- A g register as the issuer reads it. -/
def Env.g (e : Env) (n : Nat) : Word := e.gr.gReg e.fr.inH n

/-- The group of the issuer with a g register written. -/
def Env.putG (e : Env) (n : Nat) (x : Word) (g : Group) : Group := g.setG e.fr.inH n x

/-- The group's width in lanes (R26). -/
def Env.width (e : Env) : Nat := e.tm.desc.width

/-- A register number lies at or above the allocation (R28). -/
def Env.over (e : Env) (r : Nat) : Bool := decide (e.tm.regs ≤ r)

/-- The guard as a group-wide test (R244). -/
def Env.groupGuard (e : Env) (gd : Guard) : Bool := gd.neg != e.gr.gpReg gd.p.toNat

/-- The lanes in which a lane guard holds (R244). -/
def Env.laneGuard (e : Env) (gd : Guard) : Word :=
  if gd.neg then ~~~(e.gr.pReg gd.p.toNat) else e.gr.pReg gd.p.toNat

/-- The active lanes (R29). -/
def Env.active (e : Env) (gd : Guard) : Word :=
  if gd.lane then e.fr.exec &&& e.laneGuard gd
  else if e.groupGuard gd then e.fr.exec else 0

/-- The meld stack the issuer sees (R66, R195). -/
def Env.meld (e : Env) : List MeldLevel := if e.fr.inH then e.gr.hmeld else e.gr.meld

/-- DEPTH (R50). -/
def Env.depth (e : Env) : Nat := e.meld.length

/-- FLOOR (R50). -/
def Env.floor (e : Env) : Nat := if e.fr.inH then e.gr.hfloor else e.gr.floor

/-- The group with the issuer's meld stack and FLOOR written. -/
def Env.putMeld (e : Env) (m : List MeldLevel) (fl : Nat) (g : Group) : Group :=
  if e.fr.inH then { g with hmeld := m, hfloor := fl } else { g with meld := m, floor := fl }

/-- The top region mask (R57); the list holds the top level first. -/
def Env.region (e : Env) : Word :=
  match e.meld with
  | [] => 0
  | m :: _ => m.region

/-- The open split records the issuer sees (R195). -/
def Env.splits (e : Env) : List SplitRec := e.gr.splits.filter (fun r => r.inH == e.fr.inH)

/-- The flag an instruction attaches to (R32). -/
def Env.flagOf (e : Env) (i : Instr) : Option Nat :=
  match i.flag with
  | none => none
  | some fs =>
    let k := (if fs then e.fr.pos.cl.setb else e.fr.pos.cl.seta).toNat
    if k = 15 then none else some k

/-- The VA of the word that issues. -/
def Env.pc (e : Env) : Word := e.fr.pos.pc

/-- The position after the word that issues. -/
def Env.after (e : Env) : Pos :=
  { pc := e.fr.pos.pc + 8, cl := { e.fr.pos.cl with left := e.fr.pos.cl.left - 1 } }

/-- The header after the clause (R31). -/
def Env.afterClause (e : Env) : Word := e.fr.pos.pc + BitVec.ofNat 64 (8 * e.fr.pos.cl.left)

/-- The trap registers for a cause whose lanes are `exec` (R192). -/
def Env.trapOf (e : Env) (c : Cause) : TrapInfo := { cause := c, pc := e.pc, lanes := e.fr.exec }

/-- The current value of `%launch`, `%team`, `%core`, `%slice` and `%grp` packed as R199 has them at
offset 0x20. -/
def placeWord (core slice grp team : Nat) : Word :=
  BitVec.ofNat 64 (core % 512 + slice % 8 * 2 ^ 16 + grp % 64 * 2 ^ 24 + team % 2 ^ 32 * 2 ^ 32)

/-- The outcome of a meaning, before the fragment moves on. -/
inductive Res where
  /-- the word has issued; the next word follows -/
  | done (s : State)
  /-- control goes to a clause header -/
  | go (s : State) (pc : Word)
  /-- the meaning has placed the fragment itself -/
  | gone (s : State)
  /-- a cause is taken; `s` holds what the other lanes did -/
  | trap (t : TrapInfo) (s : State)
  /-- the word does not issue yet -/
  | wait (w : Stall) (s : State)
  /-- a debug stop before effect (R226) -/
  | stop (c : BitVec 9) (s : State)

end Sys2Proof.Machine
end

