-- ==== Sys2Proof/Machine/Num.lean ====
section
/-! DEFINITION. Exact binary numbers, the wide floating formats (R71, R72), rounding (R73, R79) and the
binary8 family (R75 to R82). Arithmetic is exact over integers; a result is rounded once at its end. -/

namespace Sys2Proof.Machine

/-- An exact number `m * 2^e`. -/
structure Dy where
  m : Int
  e : Int
  deriving DecidableEq, Repr

/-- Exact sum. -/
def Dy.add (x y : Dy) : Dy :=
  let e := min x.e y.e
  { m := x.m * 2 ^ (x.e - e).toNat + y.m * 2 ^ (y.e - e).toNat, e := e }

/-- Exact product. -/
def Dy.mul (x y : Dy) : Dy := { m := x.m * y.m, e := x.e + y.e }

/-- Exact negation. -/
def Dy.neg (x : Dy) : Dy := { x with m := -x.m }

/-- Exact difference. -/
def Dy.sub (x y : Dy) : Dy := x.add y.neg

/-- Exact scaling by a power of two. -/
def Dy.scale (x : Dy) (k : Int) : Dy := { x with e := x.e + k }

/-- Exact order. -/
def Dy.le (x y : Dy) : Bool := decide ((x.sub y).m ≤ 0)

/-- Strict order. -/
def Dy.lt (x y : Dy) : Bool := decide ((x.sub y).m < 0)

/-- Zero. -/
def Dy.zero : Dy := { m := 0, e := 0 }

/-- The exact value of an integer. -/
def Dy.ofInt (n : Int) : Dy := { m := n, e := 0 }

/-- What a floating code denotes: `fin neg m e` is `(-1)^neg * m * 2^e`, so zero keeps its sign. -/
inductive FVal where
  | nan
  | inf (neg : Bool)
  | fin (neg : Bool) (m : Nat) (e : Int)
  deriving DecidableEq, Repr

/-- The exact number of a finite value; zero for the others. -/
def FVal.dy : FVal → Dy
  | .fin neg m e => { m := if neg then -(m : Int) else m, e := e }
  | _ => Dy.zero

/-- The sign of a value (R71). -/
def FVal.sign : FVal → Bool
  | .nan => false
  | .inf n => n
  | .fin n _ _ => n

/-- The value is zero. -/
def FVal.isZero : FVal → Bool
  | .fin _ 0 _ => true
  | _ => false

/-- The value with its sign turned. -/
def FVal.neg : FVal → FVal
  | .nan => .nan
  | .inf n => .inf (!n)
  | .fin n m e => .fin (!n) m e

/-- A wide floating format: exponent bits, fraction bits, bias (R71). -/
structure FFmt where
  eb : Nat
  fb : Nat
  bias : Nat
  deriving DecidableEq, Repr

/-- f32 (R71). -/
def f32 : FFmt := { eb := 8, fb := 23, bias := 127 }
/-- f16 (R71). -/
def f16 : FFmt := { eb := 5, fb := 10, bias := 15 }
/-- e8m7 (R71). -/
def e8m7 : FFmt := { eb := 8, fb := 7, bias := 127 }

/-- The code of +inf. -/
def FFmt.infCode (f : FFmt) : Nat := (2 ^ f.eb - 1) * 2 ^ f.fb

/-- The canonical NaN (R72): the quiet bit alone. -/
def FFmt.nanCode (f : FFmt) : Nat := f.infCode + 2 ^ (f.fb - 1)

/-- The sign bit of a code. -/
def FFmt.signCode (f : FFmt) (neg : Bool) : Nat := if neg then 2 ^ (f.eb + f.fb) else 0

/-- Decode a code as IEEE 754 does (R71). -/
def FFmt.decode (f : FFmt) (c : Nat) : FVal :=
  let frac := c % 2 ^ f.fb
  let ex := c / 2 ^ f.fb % 2 ^ f.eb
  let neg := decide (c / 2 ^ (f.fb + f.eb) % 2 = 1)
  if ex = 2 ^ f.eb - 1 then (if frac = 0 then .inf neg else .nan)
  else if ex = 0 then .fin neg frac (1 - (f.bias : Int) - f.fb)
  else .fin neg (frac + 2 ^ f.fb) ((ex : Int) - f.bias - f.fb)

/-- The rounding modes of R73. -/
inductive RMode where
  | rne | rz | rup | rdn
  deriving DecidableEq, Repr

/-- RM, bits 9:8 of a V word (R73). -/
def RMode.of (mod : BitVec 4) : RMode :=
  match (mod.extractLsb' 0 2).toNat with
  | 0 => .rne
  | 1 => .rz
  | 2 => .rup
  | _ => .rdn

/-- Whether a magnitude between two multiples goes to the upper one: `odd` says the lower one is odd,
`half` how the rest compares with half (`lt`, `eq`, `gt`), `inexact` that there is a rest. -/
def roundUp (mode : RMode) (neg odd : Bool) (half : Ordering) (inexact : Bool) : Bool :=
  match mode with
  | .rne => half == .gt || (half == .eq && odd)
  | .rz => false
  | .rup => inexact && !neg
  | .rdn => inexact && neg

/-- Round the magnitude `m * 2^e` to a multiple of `2^q`: the multiple, and whether it is inexact. With
`st` the magnitude lies strictly between `m * 2^e` and `(m + 1) * 2^e`, and then `e < q` is asked for. -/
def roundAt (mode : RMode) (neg : Bool) (m : Nat) (e : Int) (st : Bool) (q : Int) : Nat × Bool :=
  if q ≤ e then (m * 2 ^ (e - q).toNat, st)
  else
    let s := (q - e).toNat
    let lo := m / 2 ^ s
    let rem := m % 2 ^ s
    let inexact := decide (rem ≠ 0) || st
    let half : Ordering :=
      match compare (2 * rem) (2 ^ s) with
      | .eq => if st then .gt else .eq
      | o => o
    let up := roundUp mode neg (lo % 2 == 1) half inexact
    (if up then lo + 1 else lo, inexact)

/-- Round the non-zero magnitude `m * 2^e` (strictly above it, with `st`) to a wide format, with OF, UF
and NX as R72 raises them: tininess after rounding, UF only when tiny and inexact. With `sat` an overflow
gives the largest finite magnitude and raises SAT instead (R79). -/
def FFmt.round (f : FFmt) (mode : RMode) (sat : Bool) (neg : Bool) (m0 : Nat) (e0 : Int) (st : Bool) :
    Nat × Flags :=
  let m := if st then m0 * 2 ^ (f.fb + 4) else m0
  let e := if st then e0 - (f.fb + 4) else e0
  let top : Int := m.log2 + e
  let emin : Int := 1 - (f.bias : Int)
  let q := max top emin - f.fb
  let (mant, inexact) := roundAt mode neg m e st q
  let tiny := decide (top < emin) && decide ((roundAt mode neg m e st (top - f.fb)).1 < 2 ^ (f.fb + 1)
    ∨ top < emin - 1)
  let code := (q + f.fb + f.bias - 1).toNat * 2 ^ f.fb + mant
  if f.infCode ≤ code then
    if sat then (f.signCode neg + (f.infCode - 1), flSAT)
    else
      let toInf := match mode with
        | .rne => true
        | .rz => false
        | .rup => !neg
        | .rdn => neg
      (f.signCode neg + (if toInf then f.infCode else f.infCode - 1), flOF ||| flNX)
  else (f.signCode neg + code, flIf inexact flNX ||| flIf (tiny && inexact) flUF)

/-- Round an exact number; an exact zero takes the sign `zneg`. -/
def FFmt.roundDy (f : FFmt) (mode : RMode) (sat : Bool) (zneg : Bool) (x : Dy) : Nat × Flags :=
  if x.m = 0 then (f.signCode zneg, 0)
  else f.round mode sat (decide (x.m < 0)) x.m.natAbs x.e false

/-- The sign of an exact zero sum of addends with the signs given, all of them zeros or not (R322): zeros
of one sign keep it, every other exact zero is +0, or -0 under RDN. R322 speaks of two addends; a sum of more follows it
(log 74). -/
def zeroSign (mode : RMode) (addends : List FVal) : Bool :=
  if addends.all (fun x => x.isZero && x.sign) then true
  else if addends.all (fun x => x.isZero && !x.sign) then false
  else mode == .rdn

/-- An infinity of the sign among the terms. -/
def hasInf (neg : Bool) (terms : List FVal) : Bool := terms.any (· == .inf neg)

/-- A product term as R83 forms it: exact, and `none` for infinity times zero. -/
def prodTerm (a b : FVal) : Option FVal :=
  match a, b with
  | .nan, _ => some .nan
  | _, .nan => some .nan
  | .inf n, .inf k => some (.inf (n != k))
  | .inf n, y => if y.isZero then none else some (.inf (n != y.sign))
  | x, .inf k => if x.isZero then none else some (.inf (x.sign != k))
  | .fin n m e, .fin k o g => some (.fin (n != k) (m * o) (e + g))

/-- The sum of exact terms rounded once (R83): a NaN term gives the canonical NaN; infinity times zero,
or infinities of both signs, give NaN and NV; an infinite term gives that infinity. A NaN term beside such a product or
such infinities raises no NV (log 73). -/
def FFmt.sum (f : FFmt) (mode : RMode) (terms : List (Option FVal)) : Nat × Flags :=
  let ts := terms.filterMap id
  if ts.any (· == .nan) then (f.nanCode, 0)
  else if terms.any Option.isNone || (hasInf true ts && hasInf false ts) then (f.nanCode, flNV)
  else if hasInf true ts then (f.signCode true + f.infCode, 0)
  else if hasInf false ts then (f.infCode, 0)
  else f.roundDy mode false (zeroSign mode ts) ((ts.map FVal.dy).foldl Dy.add Dy.zero)

/-- An f32 lane value. -/
def f32Of (x : Lane) : FVal := f32.decode x.toNat

/-- A lane result of an f32 code. -/
def lane32 (r : Nat × Flags) : Lane × Flags := (BitVec.ofNat 32 r.1, r.2)

/-- a + b (R322). -/
def fadd (mode : RMode) (a b : Lane) : Lane × Flags :=
  lane32 (f32.sum mode [some (f32Of a), some (f32Of b)])

/-- a - b (R322): the addends are a and -b. -/
def fsub (mode : RMode) (a b : Lane) : Lane × Flags :=
  lane32 (f32.sum mode [some (f32Of a), some (f32Of b).neg])

/-- a * b (R322). -/
def fmul (mode : RMode) (a b : Lane) : Lane × Flags :=
  lane32 (f32.sum mode [prodTerm (f32Of a) (f32Of b)])

/-- a * b + c, rounded once (R322). -/
def ffma (mode : RMode) (a b c : Lane) : Lane × Flags :=
  lane32 (f32.sum mode [prodTerm (f32Of a) (f32Of b), some (f32Of c)])

/-- The canonical NaN of f32 (R72). -/
def nan32 : Lane := 0x7FC00000

/-- The order of R72 for `vfmin` and `vfmax`: -0 is less than +0. Neither operand is NaN. -/
def fless (a b : FVal) : Bool :=
  match a, b with
  | .nan, _ => false
  | _, .nan => false
  | .inf n, .inf k => n && !k
  | .inf n, .fin _ _ _ => n
  | .fin _ _ _, .inf k => !k
  | x, y => if x.isZero && y.isZero then x.sign && !y.sign else x.dy.lt y.dy

/-- The smaller operand (R72): the other one when exactly one is NaN. -/
def fmin (a b : Lane) : Lane × Flags :=
  match f32Of a, f32Of b with
  | .nan, .nan => (nan32, 0)
  | .nan, _ => (b, 0)
  | _, .nan => (a, 0)
  | x, y => (if fless y x then b else a, 0)

/-- The larger operand (R72). -/
def fmax (a b : Lane) : Lane × Flags :=
  match f32Of a, f32Of b with
  | .nan, .nan => (nan32, 0)
  | .nan, _ => (b, 0)
  | _, .nan => (a, 0)
  | x, y => (if fless x y then b else a, 0)

/-- The condition codes of R58 over an order; `none` when unordered, where only ne and unordered hold
(R322). -/
def condHolds (c : Nat) (o : Option Ordering) : Bool :=
  match o with
  | none => c == 1 || c == 6
  | some o =>
    match c with
    | 0 => o == .eq
    | 1 => o != .eq
    | 2 => o == .lt
    | 3 => o != .gt
    | 4 => o == .gt
    | 5 => o != .lt
    | _ => false

/-- The order of two f32 values: -0 equals +0, a NaN is unordered (R322). -/
def fcompare (a b : Lane) : Option Ordering :=
  match f32Of a, f32Of b with
  | .nan, _ => none
  | _, .nan => none
  | x, y =>
    if x.isZero && y.isZero then some .eq
    else if fless x y then some .lt else if fless y x then some .gt else some .eq

/-- The largest `r` with `r * r ≤ n`, found from bit `k - 1` downward. -/
def isqrtFrom (n : Nat) : Nat → Nat → Nat
  | 0, r => r
  | k + 1, r =>
    let t := r + 2 ^ k
    if t * t ≤ n then isqrtFrom n k t else isqrtFrom n k r

/-- Integer square root. -/
def isqrt (n : Nat) : Nat := isqrtFrom n (n.log2 / 2 + 1) 0

/-- 1/x (R74). -/
def frcp (mode : RMode) (x : Lane) : Lane × Flags :=
  match f32Of x with
  | .nan => (nan32, 0)
  | .inf n => (BitVec.ofNat 32 (f32.signCode n), 0)
  | .fin n 0 _ => (BitVec.ofNat 32 (f32.signCode n + f32.infCode), flDZ)
  | .fin n m e =>
    let k := m.log2 + 64
    let q := 2 ^ k / m
    lane32 (f32.round mode false n q (-e - k) (decide (2 ^ k % m ≠ 0)))

/-- √x (R74). -/
def fsqrt (mode : RMode) (x : Lane) : Lane × Flags :=
  match f32Of x with
  | .nan => (nan32, 0)
  | .inf false => (0x7F800000, 0)
  | .inf true => (nan32, flNV)
  | .fin _ 0 _ => (x, 0)
  | .fin true _ _ => (nan32, flNV)
  | .fin false m e =>
    let odd := e % 2 ≠ 0
    let n := (if odd then 2 * m else m) * 2 ^ 128
    let g := ((if odd then e - 1 else e) - 128) / 2
    let r := isqrt n
    lane32 (f32.round mode false false r g (decide (r * r ≠ n)))

/-- 1/√x (R74). -/
def frsqrt (mode : RMode) (x : Lane) : Lane × Flags :=
  match f32Of x with
  | .nan => (nan32, 0)
  | .inf false => (0, 0)
  | .inf true => (nan32, flNV)
  | .fin n 0 _ => (BitVec.ofNat 32 (f32.signCode n + f32.infCode), flDZ)
  | .fin true _ _ => (nan32, flNV)
  | .fin false m e =>
    let odd := e % 2 ≠ 0
    let m' := if odd then 2 * m else m
    let h := (if odd then e - 1 else e) / 2
    let k := m'.log2 / 2 + 64
    let r := isqrt (2 ^ (2 * k) / m')
    lane32 (f32.round mode false false r (-h - k) (decide (r * r * m' ≠ 2 ^ (2 * k))))

/-- The class mask of R322. -/
def fclass (x : Lane) : Lane :=
  let k : Nat := match f32Of x with
    | .nan => 8
    | .inf true => 0
    | .inf false => 7
    | .fin n 0 _ => if n then 3 else 4
    | .fin n m _ => if m < 2 ^ 23 then (if n then 2 else 5) else (if n then 1 else 6)
  BitVec.ofNat 32 (2 ^ k)

/-- a * 2^b, rounded once (R322). -/
def fscale (mode : RMode) (a : Lane) (b : Int) : Lane × Flags :=
  match f32Of a with
  | .nan => (nan32, 0)
  | .inf _ => (a, 0)
  | .fin _ 0 _ => (a, 0)
  | .fin n m e => lane32 (f32.round mode false n m (e + (max (-1000) (min b 1000))) false)

/-- A value in a wide format to another by rounding mode; a NaN becomes canonical and raises nothing
(R72, R79, R320). -/
def FFmt.ofVal (f : FFmt) (mode : RMode) (sat : Bool) : FVal → Nat × Flags
  | .nan => (f.nanCode, 0)
  | .inf n => (f.signCode n + f.infCode, 0)
  | .fin n 0 _ => (f.signCode n, 0)
  | .fin n m e => f.round mode sat n m e false

/-- An integer to a wide format (R79): zero is +0. Beyond the range of f16 with SAT set, where R79 speaks of float
sources only, the result is the largest finite magnitude with SAT raised (log 49). -/
def FFmt.ofIntVal (f : FFmt) (mode : RMode) (sat : Bool) (n : Int) : Nat × Flags :=
  f.roundDy mode sat false (Dy.ofInt n)

/-- A finite value rounded to an integer (R79), and whether it is inexact. -/
def roundInt (mode : RMode) (neg : Bool) (m : Nat) (e : Int) : Int × Bool :=
  let (a, ix) := roundAt mode neg m e false 0
  (if neg then -(a : Int) else a, ix)

/-- A wide value to an integer between bounds (R79): NaN gives 0 with NV, a value outside gives the
nearest bound with NV, an inexact one inside raises NX. -/
def intOfVal (mode : RMode) (lo hi : Int) : FVal → Int × Flags
  | .nan => (0, flNV)
  | .inf n => (if n then lo else hi, flNV)
  | .fin n m e =>
    let (v, ix) := roundInt mode n m (max e (-400))
    if v < lo then (lo, flNV) else if hi < v then (hi, flNV) else (v, flIf ix flNX)

/-! The binary8 family. -/

/-- A binary8 format: precision, infinities, unsigned (R77). -/
structure B8 where
  p : Nat
  inf : Bool
  uns : Bool
  deriving DecidableEq, Repr

/-- The bias (R75, R76). -/
def B8.bias (f : B8) : Int := 2 ^ ((if f.uns then 8 else 7) - f.p)

/-- The format of a code byte of R78, if it is a binary8 code. -/
def b8OfCode (c : Nat) : Option B8 :=
  let p := c % 64
  if 1 ≤ p ∧ p ≤ 7 ∧ c < 256 then some { p := p, inf := c / 64 % 2 = 1, uns := c / 128 % 2 = 1 } else none

/-- The largest finite code without its sign (R75, R76). -/
def B8.maxCode (f : B8) : Nat := (if f.uns then 0xFE else 0x7F) - (if f.inf then 1 else 0)

/-- The value of a code without its sign. -/
def B8.mag (f : B8) (c : Nat) : Nat × Int :=
  let t := c % 2 ^ (f.p - 1)
  let e := c / 2 ^ (f.p - 1)
  let q : Int := (if e = 0 then 1 else (e : Int)) - f.bias - (f.p - 1 : Nat)
  (if e = 0 then t else t + 2 ^ (f.p - 1), q)

/-- The largest finite value. -/
def B8.maxFinite (f : B8) : Dy := { m := (f.mag f.maxCode).1, e := (f.mag f.maxCode).2 }

/-- Decode a binary8 code (R75, R76). -/
def B8.decode (f : B8) (c : Nat) : FVal :=
  if f.uns then
    if c = 0xFF then .nan
    else if f.inf && c = 0xFE then .inf false
    else .fin false (f.mag c).1 (f.mag c).2
  else if c = 0x80 then .nan
  else
    let neg := decide (128 ≤ c)
    if f.inf && c % 128 = 0x7F then .inf neg else .fin neg (f.mag (c % 128)).1 (f.mag (c % 128)).2

/-- What encoding a value gives: the code, the flags, and whether it passes no residual (NaN, infinity or
saturated, R80, R82). -/
structure Enc where
  code : Nat
  fl : Flags
  stop : Bool
  deriving DecidableEq, Repr

/-- The code of the sign and magnitude code. -/
def B8.signed (f : B8) (neg : Bool) (c : Nat) : Nat := if neg && c ≠ 0 && !f.uns then c + 128 else c

/-- The code of an infinity. -/
def B8.infCode (f : B8) (neg : Bool) : Nat := if f.uns then 0xFE else if neg then 0xFF else 0x7F

/-- `EncB8` (R80): the value is exact. -/
def B8.encode (f : B8) (sat : Bool) (x : FVal) : Enc :=
  match x with
  | .nan => { code := if f.uns then 0xFF else 0x80, fl := 0, stop := true }
  | .inf neg =>
    if f.inf && !sat && !(neg && f.uns) then { code := f.infCode neg, fl := 0, stop := true }
    else if neg && f.uns then { code := 0, fl := flSAT, stop := true }
    else if f.inf && !sat then { code := f.infCode neg, fl := flOF ||| flNX, stop := true }
    else { code := f.signed neg f.maxCode, fl := flSAT, stop := true }
  | .fin _ 0 _ => { code := 0, fl := 0, stop := false }
  | .fin neg m e =>
    let top : Int := m.log2 + e
    let emin := 1 - f.bias
    let q := max top emin - (f.p - 1 : Nat)
    let (mant, ix) := roundAt .rne neg m e false q
    let c := (q + (f.p - 1 : Nat) + f.bias - 1).toNat * 2 ^ (f.p - 1) + mant
    if neg && f.uns then
      if mant = 0 then { code := 0, fl := 0, stop := false } else { code := 0, fl := flSAT, stop := true }
    else if f.maxCode < c then
      if f.inf && !sat then { code := f.infCode neg, fl := flOF ||| flNX, stop := true }
      else { code := f.signed neg f.maxCode, fl := flSAT, stop := true }
    else
      let small := Dy.lt { m := mant, e := q } { m := 1, e := emin }
      { code := f.signed neg c, fl := flIf ix flNX ||| flIf (ix && small) flUF, stop := false }

/-- The block scale exponent of R81 for a largest magnitude `x`, against the largest finite value. -/
def blockScale (maxFin x : Dy) : Int :=
  if x.m = 0 then -127
  else
    match (List.range 255).find? (fun (i : Nat) => x.le (maxFin.scale ((i : Int) - 127))) with
    | some i => (i : Int) - 127
    | none => 127

/-- A finite exact number as a value. -/
def FVal.ofDy (x : Dy) : FVal := .fin (decide (x.m < 0)) x.m.natAbs x.e

/-- One element of R82: the value divided by 2^s with the residual added, its encoding, and the residual
it passes on. A NaN or an infinity keeps its class. -/
def narrowOne (f : B8) (sat ef : Bool) (s : Int) (res : Dy) (v : FVal) : Enc × Dy :=
  let x : FVal := match v with
    | .fin n 0 e => if res.m = 0 then .fin n 0 e else FVal.ofDy res
    | .fin _ _ _ => FVal.ofDy ((v.dy.scale (-s)).add res)
    | w => w
  let b := f.encode sat x
  (b, if ef then (if b.stop then Dy.zero else x.dy.sub (f.decode b.code).dy) else Dy.zero)

/-- A scale operand clamped to -127 to 127 (R82). -/
def clampScale (x : Word) : Int := max (-127) (min 127 x.toInt)

end Sys2Proof.Machine
end

