-- ==== Sys2Proof/Machine/Mem.lean ====
section
/-! DEFINITION. Addresses, windows and the memory hierarchy (R105 to R135): view geometry, sluice windows,
paging, format apertures, the caches, the scratchpad and the bytes behind them. A byte outside the
scratchpad has a key: its PA for device memory, its IA for vaults, peers and the host, and its IA plus
`aperBase` for a format aperture. -/

namespace Sys2Proof.Machine

/-- The canonical form of memory: keys strictly rising, and no byte listed that an unlisted key reads as,
which is 0 (log 1). -/
def Memory.wf (m : List Host.Cell) : Bool := AMap.sorted m && AMap.noDefault 0 m

/-! Views as geometry. -/

/-- The signed half of a word. -/
def half (x : Word) (hi : Bool) : Int := if hi then (x.extractLsb' 32 32).toInt else (x.extractLsb' 0 32).toInt

/-- The unsigned half of a word. -/
def uhalf (x : Word) (hi : Bool) : Nat :=
  if hi then (x.extractLsb' 32 32).toNat else (x.extractLsb' 0 32).toNat

/-- FMT of a view (R105). -/
def View.fmt (v : View) : Nat := bits v.ctl 7 0
/-- RANK of a view (R105). -/
def View.rank (v : View) : Nat := bits v.ctl 15 8
/-- SWZ of a view (R105). -/
def View.swz (v : View) : Nat := bits v.ctl 23 16
/-- BP of a view is 0x00, so that OOB is raised (R107). -/
def View.noisy (v : View) : Bool := bits v.ctl 31 24 == 0
/-- EXT of a dim (R105). -/
def View.ext (v : View) (d : Nat) : Nat := uhalf (if d < 2 then v.ext10 else v.ext32) (d % 2 == 1)
/-- STR of a dim (R105). -/
def View.str (v : View) (d : Nat) : Int := half (if d < 2 then v.str10 else v.str32) (d % 2 == 1)
/-- ORG of a dim (R105). -/
def orgOf (o : Word × Word) (d : Nat) : Int := half (if d < 2 then o.1 else o.2) (d % 2 == 1)

/-- The element size of a format code in bytes; 0 for a reserved code (R78, R105). -/
def fmtSize (c : Nat) : Nat :=
  if (b8OfCode c).isSome || c = 0x10 || c = 0x11 then 1
  else if c = 0x12 || c = 0x13 || c = 0x20 || c = 0x21 then 2
  else if c = 0x14 || c = 0x15 || c = 0x22 then 4
  else if c = 0x16 || c = 0x17 then 8
  else 0

/-- The element size of a view. -/
def View.esize (v : View) : Nat := fmtSize v.fmt

/-- The span of a swizzle (R108). -/
def View.span (v : View) : Nat := 16 * 2 ^ v.swz

/-- The dims below RANK. -/
def View.dims (v : View) : List Nat := List.range v.rank

/-- The footprint as a byte interval, or none when it is empty (R113). -/
def View.foot (v : View) : Option (Int × Int) :=
  if v.dims.any (fun d => v.ext d == 0) then none
  else
    let at_ (d : Nat) : Int := ((v.ext d : Int) - 1) * v.str d
    let lo := v.dims.foldl (fun a d => a + min 0 (at_ d)) (v.base.toNat : Int)
    let hi := v.dims.foldl (fun a d => a + max 0 (at_ d)) (v.base.toNat : Int) + v.esize
    if v.swz = 0 then some (lo, hi)
    else
      let s : Int := v.span
      some (lo / s * s, (hi + s - 1) / s * s)

/-- Two byte intervals share a byte; an empty one shares none. -/
def overlap (a b : Int × Int) : Bool := decide (max a.1 b.1 < min a.2 b.2)

/-- Whether two circular residue intervals of `e1` and `e2` bytes modulo `s` are disjoint (R114). -/
def residuesApart (r1 e1 r2 e2 s : Nat) : Bool :=
  decide (e1 ≤ (r2 + s - r1) % s) && decide (e2 ≤ (r1 + s - r2) % s)

/-- `MayMeet` (R114). -/
def mayMeet (v w : View) : Bool :=
  match v.foot, w.foot with
  | some f, some g =>
    let s := (v.str 0).natAbs
    let apart :=
      v.swz == 0 && w.swz == 0 && v.str 0 == w.str 0 && s != 0 &&
      v.dims.all (fun d => v.str d % s == 0) && w.dims.all (fun d => w.str d % s == 0) &&
      decide (v.esize ≤ s) && decide (w.esize ≤ s) &&
      residuesApart (v.base.toNat % s) v.esize (w.base.toNat % s) w.esize s
    overlap f g && !apart
  | _, _ => false

/-- The address of element `i` (a coordinate for each dim below RANK), or none out of bounds (R107, R108). -/
def View.addr (v : View) (o : Word × Word) (i : Nat → Int) : Option Word :=
  let c (d : Nat) : Int := orgOf o d + i d
  if v.dims.all (fun d => decide (0 ≤ c d) && decide (c d < v.ext d)) then
    let a : Int := v.dims.foldl (fun a d => a + c d * v.str d) (v.base.toNat : Int)
    let x : Word := BitVec.ofInt 64 a
    if v.swz = 0 then some x
    else
      let k := ((c 1) % 8).toNat % (v.span / 16)
      some (x ^^^ BitVec.ofNat 64 (k * 16))
  else none

/-! Windows. -/

/-- Bits 63:56 equal bit 55 (R122). -/
def canonical (a : Word) : Bool := a.extractLsb' 55 9 == 0 || a.extractLsb' 55 9 == 0x1FF

/-- The `n` bytes from `a` pass a canonical top (R122, order 2). -/
def wraps (a n : Nat) : Bool :=
  (decide (a < 2 ^ 55) && decide (2 ^ 55 < a + n)) || decide (2 ^ 64 < a + n)

/-- The regions of IA space (R126). -/
inductive Region where
  | dev | vault | peer (port : Nat) | host | hole
  deriving DecidableEq, Repr

/-- The region of an IA (R126). Die fields above 7 lie in the vault region up to 2^49 (log 40). -/
def regionOf (ia : Nat) : Region :=
  if ia < 2 ^ 40 then .dev
  else if 2 ^ 48 ≤ ia ∧ ia < 2 ^ 49 then .vault
  else if 2 ^ 50 ≤ ia ∧ ia < 2 ^ 50 + 2 ^ 48 then .peer ((ia - 2 ^ 50) / 2 ^ 44)
  else if 2 ^ 51 ≤ ia ∧ ia < 2 ^ 52 then .host
  else .hole

/-- The first IA of the region, or of the hole, that holds an IA (R126). The vault area is one region, each peer port is
one, and so is each hole: what one region of a window is, the manual leaves open there (log 68). -/
def regionBase (ia : Nat) : Nat :=
  match regionOf ia with
  | .dev => 0
  | .vault => 2 ^ 48
  | .peer p => 2 ^ 50 + p * 2 ^ 44
  | .host => 2 ^ 51
  | .hole => if ia < 2 ^ 48 then 2 ^ 40 else if ia < 2 ^ 50 then 2 ^ 49 else if ia < 2 ^ 51 then 2 ^ 50 + 2 ^ 48 else 2 ^ 52

/-- A window is enabled and its fields keep the rules of R124. One that lies in a hole of R126 matches as well
(log 68). The limits of a first IA hold for the scratchpad offset of an SCR window too (log 80). -/
def Win.ok (w : Win) : Bool :=
  let va := w.va.toNat
  let len := w.len.toNat
  bit w.ctl 0 && w.ctl.toNat < 16 && va % 2 ^ 16 == 0 && len != 0 && len % 2 ^ 16 == 0 &&
  w.ia.toNat % 2 ^ 16 == 0 && w.ia.toNat < 2 ^ 52 && canonical w.va && !wraps va len &&
  (bit w.ctl 3 || (w.ia.toNat + len ≤ 2 ^ 52 && regionBase w.ia.toNat == regionBase (w.ia.toNat + len - 1)))

/-- The window holds the address. -/
def Win.holds (w : Win) (a : Nat) : Bool :=
  w.ok && decide (w.va.toNat ≤ a) && decide (a < w.va.toNat + w.len.toNat)

/-- Window `n` of a launch context. -/
def State.win (s : State) (ctx n : Nat) : Win := AMap.get {} s.ctxs (16 * ctx + n)

/-- The lowest-numbered enabled window that holds an address (R124). -/
def State.window (s : State) (ctx a : Nat) : Option Win :=
  ((List.range 16).map (s.win ctx)).find? (fun w => w.holds a)

/-! Paging. -/

/-- The keys of aperture bytes begin here. -/
def aperBase : Nat := 2 ^ 60

/-- A byte that memory or another agent holds behind a key below `aperBase`. -/
def State.rd (s : State) (k : Nat) : Byte := AMap.get 0 s.mem k

/-- `n` bytes from a key upward as a number, little-endian. -/
def State.rdNat (s : State) (k n : Nat) : Nat :=
  (List.range n).foldl (fun a i => a + (s.rd (k + i)).toNat * 256 ^ i) 0

/-- A controller's registers. -/
def State.ctrl (s : State) (c : Nat) : Ctrl := AMap.get {} s.ctrls c

/-- Every controller holds the same registers as controller 0, as R86 and R127 ask. -/
def State.ctrlsAlike (s : State) : Bool :=
  (List.range 16).all (fun c => decide ((s.ctrl c).ptbase = (s.ctrl 0).ptbase) &&
    decide ((s.ctrl c).fmt = (s.ctrl 0).fmt))

/-- The controller that serves an IA line: the one of its home slice's die half (R128, R131). -/
def homeCtrl (line : Nat) : Nat :=
  let h := Config.homeSlice line % 384
  2 * (h / 48) + (if h % 48 < 24 then 0 else 1)

/-- The controller whose registers decide for an IA line. -/
def State.ctrlFor (s : State) (line : Nat) : Nat := if s.ctrlsAlike then 0 else homeCtrl line

/-- A translated page: its frame's PA and its permissions. -/
structure Leaf where
  pa : Nat
  r : Bool
  w : Bool
  deriving DecidableEq, Repr

/-- A leaf entry that keeps R127, at the top level or the second. -/
def leafOf (top : Bool) (e : Word) : Option Leaf :=
  if bit e 0 && bits e 63 40 == 0 && bits e 15 4 == 0 && bit e 1 == top &&
      (!top || bits e 20 16 == 0) then
    some { pa := bits e 39 16 * 2 ^ 16, r := bit e 2, w := bit e 3 }
  else none

/-- The PA of the top entry of an IA (R127). -/
def State.topPa (s : State) (ia : Nat) : Nat :=
  (s.ctrl (s.ctrlFor (ia / 128))).ptbase.toNat % 2 ^ 40 + 8 * (ia / 2 ^ 21 % 2 ^ 19)

/-- A pointer entry of the top table: the PA of the second-level table (R127). -/
def nextOf (e : Word) : Option Nat :=
  if bit e 0 && !bit e 1 && !bit e 2 && !bit e 3 && bits e 63 40 == 0 && bits e 7 4 == 0 then
    some (bits e 39 8 * 2 ^ 8)
  else none

/-- The PA of the second-level entry of an IA in a table. -/
def secondPa (table ia : Nat) : Nat := table + 8 * (ia / 2 ^ 16 % 32)

/-- A walk's answer as the second-level entry that a walker may still hold. -/
def entryOf (l : Option Leaf) : Word :=
  match l with
  | none => 0
  | some l => BitVec.ofNat 64 (l.pa + (if l.w then 8 else 0) + (if l.r then 4 else 0) + 1)

/-- The walk as the tables stand, for the 64 KiB page of an IA (R127, R128). Whether a walker sees what an L2 home slice
still holds of a table is not stated; it does (log 56). -/
def State.walkNow (s : State) (ia : Nat) : Option Leaf :=
  let top := BitVec.ofNat 64 (s.rdNat (s.topPa ia) 8)
  match leafOf true top with
  | some l => some { l with pa := l.pa + ia / 2 ^ 16 % 32 * 2 ^ 16 }
  | none =>
    match nextOf top with
    | none => none
    | some t => leafOf false (BitVec.ofNat 64 (s.rdNat (secondPa t ia) 8))

/-- The walk of an access: a walker may still use the stale copy of a page's entry (R128, R202). -/
def State.walk (s : State) (ia : Nat) : Option Leaf :=
  match AMap.find s.stale (ia / 2 ^ 16) with
  | some e => if Config.walkerStale s.fresh (ia / 2 ^ 16) then leafOf false e.entry else s.walkNow ia
  | none => s.walkNow ia

/-! Format apertures. -/

/-- FWCTL EN. -/
def FmtWin.en (f : FmtWin) : Bool := bit f.ctl 0
/-- WIDE: f32 elements (R86). -/
def FmtWin.wide (f : FmtWin) : Bool := bit f.ctl 16
/-- Bytes of one wide element. -/
def FmtWin.esize (f : FmtWin) : Nat := if f.wide then 4 else 2
/-- The aperture holds the IA (R86). -/
def FmtWin.holds (f : FmtWin) (ia : Nat) : Bool :=
  f.en && decide (f.apb.toNat ≤ ia) && decide (ia < f.apb.toNat + f.len.toNat * f.esize)

/-- The format window whose aperture holds an IA: the lowest-numbered one (R86). -/
def State.aperture (s : State) (ia : Nat) : Option FmtWin :=
  let c := s.ctrl (s.ctrlFor (ia / 128))
  ((List.range 16).map (AMap.get {} c.fmt)).find? (fun f => f.holds ia)

/-- The key of a device-memory IA by the tables as they stand, where its page is mapped. -/
def State.devKey (s : State) (ia : Nat) : Option Nat :=
  match s.walkNow ia with
  | none => none
  | some l => some (l.pa + ia % 2 ^ 16)

/-- A byte of device memory by its IA; an unmapped byte reads 0. -/
def State.rdIa (s : State) (ia : Nat) : Byte :=
  match s.devKey ia with
  | none => 0
  | some k => s.rd k

/-- Element `i` of an aperture as the controller decodes it (R87), as a code of its wide format. -/
def State.aperElem (s : State) (f : FmtWin) (i : Nat) : Nat :=
  let c := (s.rdIa (f.scb.toNat + i / 32)).toNat
  let wf := if f.wide then f32 else e8m7
  match b8OfCode (bits f.ctl 15 8) with
  | none => 0
  | some b =>
    if c = 0xFF then wf.nanCode
    else
      match b.decode (s.rdIa (f.pkb.toNat + i)).toNat with
      | .fin n m e => (wf.ofVal .rne false (.fin n m (e + ((c : Int) - 127)))).1
      | x => (wf.ofVal .rne false x).1

/-- A byte of an aperture: from the home slice's line when it holds one, else by a fill (R87). Without a flush R89
allows the old value or the new one; a held line gives the old, and a fill the new (log 41). -/
def State.rdAper (s : State) (ia : Nat) : Byte :=
  match AMap.find s.aper (ia / 128) with
  | some l => l.data.extractLsb' (8 * (ia % 128)) 8
  | none =>
    match s.aperture ia with
    | none => 0
    | some f =>
      let o := ia - f.apb.toNat
      BitVec.ofNat 8 (s.aperElem f (o / f.esize) / 256 ^ (o % f.esize))

/-- The byte behind a key, at its point of coherence (R131). -/
def State.rdKey (s : State) (k : Nat) : Byte :=
  if k < aperBase then s.rd k else s.rdAper (k - aperBase)

/-- The pages whose translation a byte of the tables decides: those of a top entry, or the one of a second-level
entry (R127), by the tables of controller 0 (log 56). -/
def State.pagesOf (s : State) (k : Nat) : List Nat :=
  let base := (s.ctrl 0).ptbase.toNat % 2 ^ 40
  if base ≤ k ∧ k < base + 2 ^ 22 then (List.range 32).map ((k - base) / 8 * 32 + ·)
  else
    ((s.mem.filter (fun c => decide (base ≤ c.1) && decide (c.1 < base + 2 ^ 22) && (c.1 - base) % 8 == 0)).filter
      (fun c => nextOf (BitVec.ofNat 64 (s.rdNat c.1 8)) == some (k / 2 ^ 8 * 2 ^ 8))).map
      (fun c => (c.1 - base) / 8 * 32 + k % 2 ^ 8 / 8)

/-- A page's entry is about to be written: with `keep`, what stood there before may still be held (R128), and the
writer is noted, on whose `ptsync` it is dropped (R309). -/
def State.holdStale (s : State) (writer : Option (Nat × Nat)) (keep : Option Leaf → Bool) (m : AMap Stale) (p : Nat) :
    AMap Stale :=
  match AMap.find m p with
  | some x => AMap.insert m p { x with writers := writer :: x.writers.erase writer }
  | none =>
    let l := s.walkNow (p * 2 ^ 16)
    if keep l then AMap.insert m p { entry := entryOf l, writers := [writer] } else m

/-- Bytes are about to be written by one access: the walkers may keep the valid translations of the pages whose entries
these are, as they stand before it; no table holds an invalid entry (R128, log 56). -/
def State.recall (s : State) (writer : Option (Nat × Nat)) (keys : List Nat) : State :=
  let pages := ((((keys.filter (fun k => decide (k < 2 ^ 40))).map (· / 8 * 8)).eraseDups).flatMap s.pagesOf)
  { s with stale := pages.foldl (s.holdStale writer (·.isSome)) s.stale }

/-- Write one byte of plain memory; device memory keeps beneath it what the stack holds until the L2
writes the line back (R131). -/
def State.wr (s : State) (k : Nat) (x : Byte) : State :=
  { s with mem := AMap.set 0 s.mem k x
           l2 := if k < 2 ^ 40 && (AMap.find s.l2 k).isNone then AMap.insert s.l2 k (s.rd k) else s.l2 }

/-- A controller writes one byte of a stack: the line is not dirty in the L2. -/
def State.wrStack (s : State) (k : Nat) (x : Byte) : State :=
  { s with mem := AMap.set 0 s.mem k x, l2 := AMap.erase s.l2 k }

/-- Write one byte of an aperture into the line its home slice holds (R88). A store that finds neither a held line nor an
enabled window, since EN was cleared while it stood at the gate, is lost (log 67). -/
def State.wrAper (s : State) (ia : Nat) (x : Byte) : State :=
  let line := (List.range 128).foldl
    (fun (a : BitVec 1024) i => a ||| ((s.rdAper (ia / 128 * 128 + i)).zeroExtend 1024 <<< (8 * i))) 0
  let o := 8 * (ia % 128)
  let line' := (line &&& ~~~((0xFF : BitVec 1024) <<< o)) ||| (x.zeroExtend 1024 <<< o)
  let win := match AMap.find s.aper (ia / 128) with | some l => some l.win | none => s.aperture ia
  { s with aper := match win with
      | none => s.aper
      | some f => AMap.insert s.aper (ia / 128) { dirty := true, win := f, data := line' } }

/-- Write the byte behind a key, at its point of coherence. -/
def State.wrKey (s : State) (k : Nat) (x : Byte) : State :=
  if k < aperBase then s.wr k x else s.wrAper (k - aperBase) x

/-! Access checks. -/

/-- An access to be checked by R122. -/
structure Acc where
  n : Nat
  rd : Bool
  wr : Bool
  /-- an atomic, for the alignment and target rules -/
  atomic : Bool := false
  /-- natural alignment is asked for -/
  aligned : Bool := false
  /-- the footprints it must not hit (R118) -/
  feet : List (Int × Int) := []
  /-- peer and host IA fault IO_SIZE (R275) -/
  noIo : Bool := false
  /-- its bytes are read by the access itself -/
  data : Bool := true
  /-- the core whose L1 may serve it (R130) -/
  l1 : Option Nat := none
  deriving Repr

/-- Where an access goes: a scratchpad offset, or an IA with the key of each byte. -/
inductive Where where
  | scr (off : Nat)
  | mem (ia : Nat) (keys : List Nat)
  deriving DecidableEq, Repr

/-- A failed check: its reason and the address that `%tva` holds (R123). -/
abbrev Miss := MemReason × Word

/-- The scratchpad bytes of a team: its carve, on both cores of a pair (R41, R42). -/
def Team.scrBytes (t : Team) : Nat := t.scrGran * 2 ^ 14 * (if t.desc.pair then 2 else 1)

/-- The bytes are in the hole of a die's vault block or beyond die 7 (R126). -/
def vaultHole (ia : Nat) : Bool := decide (0xC000000 ≤ ia % 2 ^ 28) || decide (2 ^ 48 + 8 * 2 ^ 28 ≤ ia)

/-- The bytes are in an enabled trace buffer (R229). -/
def State.inTrace (s : State) (ia n : Nat) : Bool :=
  s.host.trcEn && s.host.trcBuf && decide (ia < s.host.tbbase.toNat + s.host.tblen.toNat) &&
  decide (s.host.tbbase.toNat < ia + n)

/-- The page check of one device-memory byte (R122 order 9, R128): its key, or the reason. Every access meets it,
one that a cache serves too (log 42). -/
def State.pageByte (s : State) (acc : Acc) (ia : Nat) : Except MemReason Nat :=
  match s.walk ia with
  | none => .error .pageInvalid
  | some l =>
    if (acc.rd && !l.r) || (acc.wr && !l.w) then .error .pagePerm else .ok (l.pa + ia % 2 ^ 16)

/-- The packed and the scale byte behind an aperture element pass their page checks (log 43). -/
def State.aperPages (s : State) (acc : Acc) (f : FmtWin) (ia : Nat) : Except MemReason Unit :=
  let i := (ia - f.apb.toNat) / f.esize
  match s.pageByte acc (f.pkb.toNat + i), s.pageByte acc (f.scb.toNat + i / 32) with
  | .error r, _ => .error r
  | _, .error r => .error r
  | _, _ => .ok ()

/-- The key of one byte of device-memory IA that passes its page checks: of an aperture (R86), or of a page. -/
def State.devByte (s : State) (acc : Acc) (ia : Nat) : Except MemReason Nat :=
  match s.aperture ia with
  | some f => match s.aperPages acc f ia with | .error r => .error r | .ok _ => .ok (ia + aperBase)
  | none => s.pageByte acc ia

/-- The keys of the bytes of a device-memory access, in order; the first failing byte decides (R123). -/
def State.pageKeys (s : State) (acc : Acc) (ia : Nat) (a : Word) : Nat → Nat → Except Miss (List Nat)
  | 0, _ => .ok []
  | n + 1, i =>
    match s.devByte acc (ia + i) with
    | .error r => .error (r, a + BitVec.ofNat 64 i)
    | .ok k =>
      match s.pageKeys acc ia a n (i + 1) with
      | .error e => .error e
      | .ok ks => .ok (k :: ks)

/-- The target checks of R122, order 8, at an IA: the reason that applies. -/
def State.target8 (s : State) (acc : Acc) (ia : Nat) : Option MemReason :=
  let keys := (List.range acc.n).map (fun i => ia + i)
  match regionOf ia with
  | .hole => some .windowMiss
  | .vault => if keys.any vaultHole || s.inTrace ia acc.n then some .vaultRange else none
  | .peer p =>
    if acc.noIo || acc.n = 16 || acc.atomic then some .ioSize
    else if bit (AMap.get 0 s.peers p) 0 && bit (AMap.get 0 s.peers p) 1 then none
    else some .windowMiss
  | .host =>
    if acc.noIo || acc.n = 16 || acc.atomic then some .ioSize
    else if s.linkA || s.linkB then none
    else some .windowMiss
  | .dev => if acc.atomic && keys.any (fun k => (s.aperture k).isSome) then some .formatAtomic else none

/-- The target checks of R122, orders 8 and 9, at an IA. -/
def State.target (s : State) (acc : Acc) (ia : Nat) (a : Word) : Except Miss Where :=
  match s.target8 acc ia with
  | some r => .error (r, a)
  | none =>
    if regionOf ia == .dev then
      match s.pageKeys acc ia a acc.n 0 with
      | .error e => .error e
      | .ok ks => .ok (.mem ia ks)
    else .ok (.mem ia ((List.range acc.n).map (fun i => ia + i)))

/-- The data behind a key cannot be corrected (R131); a fill of an aperture reads the packed byte and the scale
byte of its element (R87). -/
def State.keyBad (s : State) (k : Nat) : Bool :=
  if k < aperBase then s.bad.contains k
  else
    match AMap.find s.aper ((k - aperBase) / 128), s.aperture (k - aperBase) with
    | none, some f =>
      let i := (k - aperBase - f.apb.toNat) / f.esize
      (s.devKey (f.pkb.toNat + i)).any (s.bad.contains ·) || (s.devKey (f.scb.toNat + i / 32)).any (s.bad.contains ·)
    | _, _ => false

/-- L1 holds lines of this region (R130). -/
def cached (ia : Nat) : Bool := regionOf ia == .dev || regionOf ia == .vault

/-- The L1 line of a core, if it holds one that has not been evicted (R149). -/
def State.l1Line (s : State) (core line : Nat) : Option (BitVec 1024) :=
  match AMap.find (s.core core).l1 line with
  | none => none
  | some x => if Config.l1Evicted s.fresh line then none else some x

/-- A byte that its L1 line serves is read from there (R130). -/
def State.l1Serves (s : State) (l1 : Option Nat) (ia : Nat) : Bool :=
  l1.any (fun c => cached ia && (s.l1Line c (ia / 128)).isSome)

/-- The lowest byte of a read whose data cannot be corrected in memory, L2, a vault or the scratchpad (R122 order
10, R131). -/
def State.badByte (s : State) (t : Team) (acc : Acc) (p : Where) : Option Nat :=
  if !acc.rd || !acc.data || (s.bad.isEmpty && t.bad.isEmpty) then none
  else
    (List.range acc.n).find? (fun i =>
      match p with
      | .scr o => t.bad.contains (o + i)
      | .mem ia keys => (keys[i]?).any s.keyBad && !s.l1Serves acc.l1 (ia + i))

/-- Every check of R122 in its order, for an access at `a` by a group of team `t`. -/
def State.access (s : State) (t : Team) (acc : Acc) (a : Word) : Except Miss Where :=
  if !canonical a then .error (.noncanon, a)
  else if wraps a.toNat acc.n then .error (.wrap, a)
  else if (acc.aligned || acc.n = 16) && a.toNat % acc.n != 0 then .error (.misalign, a)
  else
    match s.window t.ctx a.toNat with
    | none => .error (.windowMiss, a)
    | some w =>
      if w.va.toNat + w.len.toNat < a.toNat + acc.n then .error (.windowCross, a)
      else if (acc.rd && !bit w.ctl 1) || (acc.wr && !bit w.ctl 2) then .error (.windowPerm, a)
      else if acc.feet.any (fun f => overlap f (a.toNat, a.toNat + acc.n)) then .error (.engineRange, a)
      else
        let o := w.ia.toNat + (a.toNat - w.va.toNat)
        let place : Except Miss Where :=
          if bit w.ctl 3 then
            if t.scrBytes < o + acc.n then .error (.scratchRange, a) else .ok (.scr o)
          else s.target acc o a
        match place with
        | .error m => .error m
        | .ok p =>
          match s.badByte t acc p with
          | some i => .error (.uncorrectable, a + BitVec.ofNat 64 i)
          | none => .ok p

/-! The scratchpad and the L1. -/

/-- A scratchpad byte (R134). -/
def Team.scrRd (t : Team) (o : Nat) : Byte := AMap.get 0 t.scr o

/-- Write a scratchpad byte. -/
def Team.scrWr (t : Team) (o : Nat) (x : Byte) : Team := { t with scr := AMap.set 0 t.scr o x }

/-- The access touches an absent scratchpad line (R135). -/
def Team.absentAt (t : Team) (o n : Nat) : Bool :=
  (List.range ((o + n - 1) / 128 + 1 - o / 128)).any (fun i => AMap.get false t.absent (o / 128 + i))

/-- The lines are set present. -/
def Team.present (t : Team) (ls : List Nat) : Team :=
  { t with absent := ls.foldl (fun m l => AMap.erase m l) t.absent }

/-- The lines are cleared. -/
def Team.clearLines (t : Team) (ls : List Nat) : Team :=
  { t with absent := ls.foldl (fun m l => AMap.insert m l true) t.absent }

/-- The line of a byte as its point of coherence holds it (R130). -/
def State.pocLine (s : State) (ia key : Nat) : BitVec 1024 :=
  (List.range 128).foldl
    (fun (a : BitVec 1024) i => a ||| ((s.rdKey (key - ia % 128 + i)).zeroExtend 1024 <<< (8 * i))) 0

/-- A core drops a line from its L1. -/
def State.l1Drop (s : State) (core line : Nat) : State :=
  s.modCore core (fun c => { c with l1 := AMap.erase c.l1 line })

/-- The bytes that the group's own stores at the gate hold for a place, newest last (R140). -/
def Core.gatedByte (c : Core) (who : Sel) (scr : Bool) (k : Nat) : Option Byte :=
  c.ops.foldl (fun a o =>
    if o.2.gated && o.2.who.tid == who.tid && o.2.who.grp == who.grp then
      o.2.bytes.foldl (fun a b => if b.scr == scr && b.key == k then some b.val else a) a
    else a) none

/-- The value of bytes, little-endian (R3). -/
def leVal (bs : List Byte) : Nat := bs.foldr (fun b a => b.toNat + 256 * a) 0

/-- The `n` bytes of a value, little-endian. -/
def leBytes (n x : Nat) : List Byte := (List.range n).map (fun i => BitVec.ofNat 8 (x / 256 ^ i))

/-- The single-copy atomic piece of byte `i` of `n` bytes from an address (R141): one of an aligned access of up
to 8 bytes, halves of 8 of a wider one, and single bytes of a misaligned one. -/
def pieceOf (a n i : Nat) : Nat := if a % n = 0 then i / 8 else i

/-- The bytes of a store to a place. -/
def storeBytes (p : Where) (bs : List Byte) : List StByte :=
  match p with
  | .scr o => (bs.zip (List.range bs.length)).map (fun bi =>
      { scr := true, key := o + bi.2, ia := 0, val := bi.1, piece := pieceOf o bs.length bi.2 })
  | .mem ia keys => ((bs.zip keys).zip (List.range bs.length)).map (fun bki =>
      { scr := false, key := bki.1.2, ia := ia + bki.2, val := bki.1.1, piece := pieceOf ia bs.length bki.2 })

/-- A byte of a store updates the issuing core's L1 line where it holds one (R130). -/
def Core.l1Store (c : Core) (ia : Nat) (x : Byte) : Core :=
  match AMap.find c.l1 (ia / 128) with
  | none => c
  | some line =>
    let o := 8 * (ia % 128)
    let line' := (line &&& ~~~((0xFF : BitVec 1024) <<< o)) ||| (x.zeroExtend 1024 <<< o)
    { c with l1 := AMap.insert c.l1 (ia / 128) line' }

/-- One byte of a store is performed: at its bank, or at its point of coherence with the issuing core's
L1 updated (R130, R144). -/
def State.perform1 (s : State) (tid core : Nat) (b : StByte) : State :=
  if b.scr then s.modTeam tid (fun t => t.scrWr b.key b.val)
  else
    let s1 := s.wrKey b.key b.val
    if cached b.ia && ((s.core core).l1 != []) then s1.modCore core (fun c => c.l1Store b.ia b.val) else s1

/-- The keys of a store's bytes outside the scratchpad. -/
def memKeys (bs : List StByte) : List Nat := (bs.filter (fun b => !b.scr)).map (·.key)

/-- The bytes of a store of a group are performed. -/
def State.perform (s : State) (who : Sel) (core : Nat) (bs : List StByte) : State :=
  bs.foldl (fun s b => s.perform1 who.tid core b) (s.recall (some (who.tid, who.grp)) (memKeys bs))

/-! Stores in flight. -/

/-- An operation of the group. -/
def Op.of (o : Op) (w : Sel) : Bool := o.who.tid == w.tid && o.who.grp == w.grp

/-- Two stores share a byte. -/
def Op.shares (o p : Op) : Bool := o.bytes.any (fun b => p.bytes.any (fun c => b.scr == c.scr && b.key == c.key))

/-- An earlier gated store that is performed before a later one: one location (R140), or two view accesses
that may meet (R116). Fragments of a group keep this order among themselves too (log 71). -/
def Op.precedes (o p : Op) : Bool :=
  o.gated && o.of p.who &&
  (o.shares p || o.views.any (fun v => p.views.any (mayMeet v)))

/-- A store in flight is performed; without a flag, a tag or a pending register it is then over. -/
def State.performRaw (s : State) (core id : Nat) : State :=
  match AMap.find (s.core core).ops id with
  | none => s
  | some o =>
    if o.gated then
      let s1 := s.perform o.who core o.bytes
      s1.modCore core (fun c =>
        if o.flag.isNone && o.tag.isNone then { c with ops := AMap.erase c.ops id }
        else { c with ops := AMap.insert c.ops id { o with gated := false, applied := false, bytes := [] } })
    else s

/-- The stores of a core that have been applied to its L1 and share a byte with some bytes are performed: they
stand earlier in the order of their locations (R144, R145). -/
def State.settleBytes (s : State) (core : Nat) (here : StByte → Bool) : State :=
  ((s.core core).ops.filter (fun o => o.2.applied && o.2.bytes.any here)).foldl (fun s o => s.performRaw core o.1) s

/-- A gated store is performed. -/
def State.performOp (s : State) (core id : Nat) : State :=
  match AMap.find (s.core core).ops id with
  | none => s
  | some o =>
    (s.settleBytes core (fun b => o.bytes.any (fun c => b.scr == c.scr && b.key == c.key))).performRaw core id

/-- The operations that are wanted, and every gated one that some of them must follow, each in its place
(R140, R143). -/
def gateNeeds (want : Nat × Op → Bool) (ops : AMap Op) : List (Nat × Op) :=
  ops.foldr (fun o acc => if o.2.gated && (want o || acc.any (fun p => o.2.precedes p.2)) then o :: acc else acc) []

/-- The wanted stores of a core are performed, each after those that precede it (R215, R140, R116). -/
def State.releaseWhere (s : State) (core : Nat) (want : Nat × Op → Bool) : State :=
  (gateNeeds want (s.core core).ops).foldl (fun s o => s.performOp core o.1) s

/-- One store is performed, after those that precede it. -/
def State.release (s : State) (core id : Nat) : State := s.releaseWhere core (fun o => o.1 == id)

/-- A load that reads a line at its point of coherence waits for the stores of the core that have been applied to
L1 and not yet performed there (R140). -/
def State.settleLine (s : State) (core ia : Nat) : State :=
  s.settleBytes core (fun b => !b.scr && b.ia / 128 == ia / 128)

/-! Loads. -/

/-- A byte of a line cannot be corrected where the line is kept (R131). -/
def State.lineBad (s : State) (ia key : Nat) : Bool :=
  !s.bad.isEmpty && (List.range 128).any (fun i => s.keyBad (key - ia % 128 + i))

/-- Fill a line into a core's L1, unless it holds it (R130). A line that comes with an uncorrectable error is dropped
at once and fetched again by the next load, so that L1 serves no byte of it (R130, R131). -/
def State.l1Fill (s : State) (core ia key : Nat) : State :=
  match s.l1Line core (ia / 128) with
  | some _ => s
  | none =>
    let s1 := s.settleLine core ia
    if s1.lineBad ia key then s1.l1Drop core (ia / 128)
    else s1.modCore core (fun c => { c with l1 := AMap.insert c.l1 (ia / 128) (s1.pocLine ia key) })

/-- The bytes of a load: from the L1, filling it, or with `poc` from the point of coherence, dropping
the line (R130, R139, R149). -/
def State.loadMem (s : State) (core : Nat) (poc : Bool) (ia : Nat) (keys : List Nat) : List Byte × State :=
  if cached ia && !poc then
    let s1 := (keys.zip (List.range keys.length)).foldl (fun s ki => s.l1Fill core (ia + ki.2) ki.1) s
    ((keys.zip (List.range keys.length)).map (fun ki =>
      match AMap.find (s1.core core).l1 ((ia + ki.2) / 128) with
      | some x => x.extractLsb' (8 * ((ia + ki.2) % 128)) 8
      | none => s1.rdKey ki.1), s1)
  else
    let s1 := if cached ia then
        (List.range keys.length).foldl (fun s i => (s.settleLine core (ia + i)).l1Drop core ((ia + i) / 128)) s
      else s
    (keys.map s1.rdKey, s1)

/-- The group reads bytes that its core's L1 serves: every store of another group of the core that only this core
sees and that holds one of them has it as a reader (R145, R147). -/
def Core.noteReads (c : Core) (who : Sel) (keys : List Nat) : Core :=
  { c with ops := c.ops.map (fun o =>
      if o.2.applied && !o.2.of who && o.2.bytes.any (fun b => !b.scr && keys.contains b.key) then
        (o.1, { o.2 with readers := (who.tid, who.grp) :: o.2.readers.erase (who.tid, who.grp) })
      else o) }

/-- A load of a group: the bytes at a place, with its own gated stores on top (R140, R144). All of them are read at
one moment (log 7). -/
def State.load (s : State) (who : Sel) (core : Nat) (poc : Bool) (p : Where) (n : Nat) : List Byte × State :=
  let c := s.core core
  match p with
  | .scr o =>
    ((List.range n).map (fun i =>
      match c.gatedByte who true (o + i) with
      | some b => b
      | none =>
        match AMap.find s.teams who.tid with
        | none => 0
        | some t => t.scrRd (o + i)), s)
  | .mem ia keys =>
    let (bs, s1) := s.loadMem core poc ia keys
    let s2 := if (s1.core core).ops.any (fun o => o.2.applied) then s1.modCore core (·.noteReads who keys) else s1
    ((bs.zip keys).map (fun bk => (c.gatedByte who false bk.2).getD bk.1), s2)

/-- Write bytes at keys from one upward (the memory of the host, a vault, or a table). -/
def State.wrBytes (s : State) (k : Nat) (bs : List Byte) : State :=
  (bs.zip (List.range bs.length)).foldl (fun s bi => s.wrKey (k + bi.2) bi.1)
    (s.recall none ((List.range bs.length).map (k + ·)))

end Sys2Proof.Machine
end

