-- ==== Sys2Proof/Machine/Post.lean ====
section
/-! DEFINITION. What leaves the module towards the host: interrupts (R234), the fault queue (R235) and
trace records with their trigger (R229, R230). -/

namespace Sys2Proof.Machine

/-- INTSTAT as read: bits 0 and 1 follow their conditions, the others are latched (R234). -/
def State.intstat (s : State) : BitVec 5 :=
  (s.host.intstat &&& 0b11100) |||
  (if s.host.hfqtail ≠ s.host.hfqhead then 1 else 0) |||
  (if s.queues.any (fun q => q.2.err) then 2 else 0)

/-- Interrupts of a change: vector n is raised when unmasked bit n becomes set, or a set bit is unmasked
(R234). -/
def State.raised (old new : State) : State :=
  let before := old.intstat &&& ~~~old.host.intmask
  let now := new.intstat &&& ~~~new.host.intmask
  { new with msix := new.msix ++ (List.range 5).filter (fun n => now.getLsbD n && !before.getLsbD n) }

/-- A latched INTSTAT bit is set. -/
def State.latch (s : State) (n : Nat) : State :=
  s.raised { s with host := { s.host with intstat := s.host.intstat ||| BitVec.ofNat 5 (2 ^ n) } }

/-- The fault ring has room (R235). -/
def State.ringRoom (s : State) : Bool :=
  s.host.hfqEn && decide ((s.host.hfqtail - s.host.hfqhead).toNat < 2 ^ s.host.hfqS)

/-- The key of a host address (R126). -/
def hostKey (h : Nat) : Nat := 2 ^ 51 + h % 2 ^ 51

/-- A record is written to the ring (R234, R235). -/
def State.ringWrite (s : State) (r : FRec) : State :=
  let slot := s.host.hfqtail.toNat % 2 ^ s.host.hfqS
  let s1 := s.wrBytes (hostKey (s.host.hfqbase.toNat + 64 * slot))
    ((r.words.map (fun w => leBytes 8 w.toNat)).flatten)
  s.raised { s1 with host := { s1.host with hfqtail := s1.host.hfqtail + 1 } }

/-- A record is posted: to the ring, else to the controller's hold of 256; beyond that a MARGIN record is
dropped and counted, and any other waits at its source (R235). -/
def State.post (s : State) (r : FRec) : State :=
  if s.hold == [] && s.ringRoom then s.ringWrite r
  else if s.hold.length < 256 then { s with hold := s.hold ++ [r] }
  else if r.margin then
    { s with host := { s.host with hfqlost := min (s.host.hfqlost + 1) 0xFFFFFFFF } }
  else { s with waiting := s.waiting ++ [r] }

/-- A record still waits at its group for the hold to have room (R235). -/
def State.recordWaits (s : State) (w : Sel) : Bool :=
  s.waiting.any (fun r => r.src.any (fun v => v.tid == w.tid && v.grp == w.grp))

/-- A group goes on once no record of it waits (R235). -/
def State.freeSource (s : State) (r : FRec) : State :=
  match r.src with
  | none => s
  | some w => if s.recordWaits w then s else s.modGrp w (fun g => { g with posting := false })

/-- The ring takes the oldest held record, and the hold the oldest waiting one (R235). -/
def State.ringAccept (s : State) : State :=
  match s.hold with
  | [] => s
  | r :: rest =>
    if s.ringRoom then
      let s1 := { s with hold := rest }.ringWrite r
      match s1.waiting with
      | [] => s1
      | w :: ws => { s1 with hold := s1.hold ++ [w], waiting := ws }.freeSource w
    else s

/-- The launch that a team belongs to, as `%launch` reads (R174). -/
def Team.launch (t : Team) : Nat := t.lid

/-- The record of a halt or of a fault of no fragment (R199). -/
def haltRecord (t : Team) (w : Sel) (g : Group) (cause inner : Nat) (ti : TrapInfo) : FRec :=
  { words :=
      [BitVec.ofNat 64 (cause + inner * 2 ^ 16 + t.launch % 2 ^ 32 * 2 ^ 32), ti.pc, ti.va, ti.lanes,
       placeWord g.core g.slice w.grp t.idx, ti.stat, g.gstat.zeroExtend 64, 0],
    src := some w }

/-- A MARGIN notice (R220). -/
def marginRecord (cause core before after slice : Nat) (tecnt va : Word) : FRec :=
  { words :=
      [BitVec.ofNat 64 (cause + core * 2 ^ 32), BitVec.ofNat 64 (before + after * 2 ^ 8 + slice * 2 ^ 16),
       tecnt, va, 0, 0, 0, 0],
    margin := true }

/-! Trace. -/

/-- The cores a team stands on. -/
def Team.cores (t : Team) : List Nat :=
  match t.place with
  | none => []
  | some p => if t.desc.pair then [p.core, p.core + 1] else [p.core]

/-- The team is resident on a core. -/
def Team.onCore (t : Team) (c : Nat) : Bool := t.cores.contains c

/-- The resident teams of a core. -/
def State.resident (s : State) (c : Nat) : List (Nat × Team) := s.teams.filter (fun t => t.2.onCore c)

/-- The resident team of a core that was admitted first: a mode change leaves it under the mode that it found
(R242). -/
def State.eldest (s : State) (c : Nat) : Option Team :=
  (s.resident c).foldl (fun a t =>
    match a with
    | none => some t.2
    | some u => if t.2.age < u.age then some t.2 else some u) none

/-- The slot of a team on a core. -/
def Team.slotOn (t : Team) (core : Nat) : Nat :=
  match t.place with
  | none => 0
  | some p => if core = p.core then p.slot else p.slot2

/-- A trace record goes to the buffer (R229, R242): by the mode of the team that it is about. -/
def State.traceBuf (s : State) (r : TRec) : Bool :=
  match (s.resident r.core).find? (fun t => t.2.slotOn r.core == r.slot && t.2.lid == r.launch) with
  | some t => t.2.trcBuf
  | none => s.host.trcBuf

/-- The hardware controls a core's margin (R221, R242): by the mode of the team that has been on the core longest, since
a core has one supply. -/
def State.mgnHw (s : State) (c : Nat) : Bool :=
  match s.eldest c with
  | some t => if t.place.any (fun p => p.core == c) then t.mgnHw.1 else t.mgnHw.2
  | none => (AMap.get {} s.cores c : Core).hw

/-- The state of the trigger after a cycle with the sources given, and whether its records are captured
(R230). -/
def trigger (st start stop : Nat) (srcs : List Nat) : Nat × Bool :=
  if st = 0 then (0, true)
  else if st = 1 then
    if srcs.contains start then (if srcs.contains stop then (3, true) else (2, true)) else (1, false)
  else if st = 2 then (if srcs.contains stop then (3, true) else (2, true))
  else (3, false)

/-- The header word of a trace record (R229). -/
def TRec.head (r : TRec) : Word :=
  BitVec.ofNat 64 (r.kind % 256 + r.core % 512 * 2 ^ 8 + r.slice % 8 * 2 ^ 17 + r.slot % 64 * 2 ^ 20 +
    r.grp % 64 * 2 ^ 26 + r.launch % 2 ^ 32 * 2 ^ 32)

/-- A record is sent to the port or, with `buf`, to the buffer; one that cannot be sent is dropped (R229). The layout of
a payload in the buffer is not given: its two words are free. -/
def State.send (s : State) (buf : Bool) (r : TRec) : State × Bool :=
  let r := { r with time := Config.timestamp s.fresh }
  if !buf then ({ s with trace := s.trace ++ [r] }, true)
  else
    let p := s.host.tbptr.toNat
    let full := decide (s.host.tblen.toNat < p + 32)
    if full && !s.host.trcWrap then (if s.host.intstat.getLsbD 3 then s else s.latch 3, false)
    else if s.host.tblen.toNat < 32 then (s, false)
    else
      let q := if full then 0 else p
      let ws := [r.head, r.time, Config.freeWord s.fresh 100, Config.freeWord s.fresh 101]
      let s1 := s.wrBytes (s.host.tbbase.toNat + q) ((ws.map (fun w => leBytes 8 w.toNat)).flatten)
      let next := if s.host.trcWrap && decide (s.host.tblen.toNat < q + 64) then 0 else q + 32
      ({ s1 with host := { s1.host with tbptr := BitVec.ofNat 64 next } }, true)

/-- A LOST record for the records dropped before, then the record itself (R229). -/
def State.sendCounted (s : State) (r : TRec) : State :=
  let lost := (s.core r.core).lost
  let buf := s.traceBuf r
  let s1 :=
    if lost = 0 then (s, true)
    else s.send buf { kind := 0x0C, core := r.core, payload := [BitVec.ofNat 64 lost] }
  if s1.2 then
    let s2 := (s1.1.modCore r.core (fun c => { c with lost := 0 })).send buf r
    if s2.2 then s2.1 else s2.1.modCore r.core (fun c => { c with lost := c.lost + 1 })
  else s1.1.modCore r.core (fun c => { c with lost := c.lost + 1 })

/-- The sources of the trigger occur on a core, and with them a record of an enabled kind is emitted when
the cycle is captured (R229, R230). One step is one cycle: the cycle in which STOP becomes true is captured to its
end (log 57). -/
def State.emit (s : State) (core : Nat) (srcs : List Nat) (r : Option TRec) : State :=
  let c := s.core core
  let (st, now) := trigger c.trgState c.trgStart c.trgStop srcs
  let cap := now || (c.trgState == 3 && c.trgLast == some s.fresh)
  let s1 := if st = c.trgState then s
    else s.modCore core (fun c => { c with trgState := st, trgLast := if st = 3 then some s.fresh else none })
  match r with
  | none => s1
  | some r => if s1.host.trcEn && cap && bit c.trcmask r.kind then s1.sendCounted r else s1

/-- A save frame as a trace record names it: its PA, or 0 for none. -/
def frameWord (f : Option SaveFrame) : Word := match f with | none => 0 | some f => BitVec.ofNat 64 f.1

/-- A trace record about a group. -/
def State.recOf (s : State) (w : Sel) (kind : Nat) (payload : List Word) : Option TRec :=
  match AMap.find s.teams w.tid with
  | none => none
  | some t =>
    match AMap.find t.groups w.grp with
    | none => none
    | some g => some
        { kind := kind, core := g.core, slice := g.slice, slot := t.slotOn g.core, grp := w.grp,
          launch := t.launch, payload := payload }

/-- A trace record about the issuer. -/
def Env.trec (e : Env) (kind : Nat) (payload : List Word) : TRec :=
  { kind := kind, core := e.gr.core, slice := e.gr.slice, slot := e.tm.slotOn e.gr.core,
    grp := e.who.grp, launch := e.tm.launch, payload := payload }

/-- The queue that the launch of a team came from. -/
def State.queueOf (s : State) (tid : Nat) : Nat :=
  match AMap.find s.teams tid with
  | none => 0
  | some t => match AMap.find s.launches t.lid with | none => 0 | some l => l.q

/-- The trace record of the start or the end of engine work (R229): the engine is 0 the copy engine, 1 and 2
the pipes. -/
def State.noteTask (s : State) (w : Sel) (core kind engine : Nat) (seq : BitVec 32) (opc : Nat) (pc : Word)
    (last : List Word) : State :=
  s.emit core [] (s.recOf w kind
    ([BitVec.ofNat 64 engine, BitVec.ofNat 64 (s.queueOf w.tid), seq.zeroExtend 64, BitVec.ofNat 64 opc, pc] ++
      last))

/-- A word of a group has completed without trapping: the count of identical traps is reset, unless it is one of the
handler that serves them (R201, log 60). -/
def State.completed (s : State) (w : Sel) (inH : Bool) : State :=
  if inH then s else s.modGrp w (fun g => { g with loops := 0, lastTrap := none })

end Sys2Proof.Machine
end

