-- ==== Sys2Proof/Machine/Barrier.lean ====
section
/-! DEFINITION. The resources of a core and their carve (R42 to R45), the stop of a pre-emption (R205), and
barrier phases (R164, R165). -/

namespace Sys2Proof.Machine

/-- Granules that `n` groups of `regs` registers take (R42). -/
def granules (n regs width : Nat) : Nat := (n * regs * width * 4 + 16383) / 16384

/-- The groups of a team that stand on a core and have not ended. -/
def Team.liveOn (t : Team) (c : Nat) : Nat :=
  (t.groups.filter (fun g => !g.2.ended && g.2.core == c)).length

/-- The register granules of a team on a core (R42, R46). -/
def Team.regGran (t : Team) (c : Nat) : Nat := granules (t.liveOn c) t.regs t.desc.width

/-- The registers and the scratchpad granules that a carve leaves a team which had `base` of each (R43). -/
def Carve.over (r : Carve) (base : Nat × Nat) : Nat × Nat := (if r.regs = 0 then base.1 else 8 * r.regs, r.scr.getD base.2)

/-- The carves that a team stands at, and comes to stand at, as those that are granted take effect. -/
def carveSteps : Nat × Nat → List Carve → List (Nat × Nat)
  | b, [] => [b]
  | b, r :: rs => b :: carveSteps (r.over b) rs

/-- Granules of a core: for registers, and for registers and the scratchpad together. -/
structure Gran where
  reg : Nat := 0
  all : Nat := 0
  deriving DecidableEq, Repr

/-- The granules of a carve. -/
def Gran.of (reg scr : Nat) : Gran := { reg := reg, all := reg + scr }

/-- The granules of two teams. -/
def Gran.add (a b : Gran) : Gran := { reg := a.reg + b.reg, all := a.all + b.all }

/-- What holds either of two carves, of which one is in effect at a time. -/
def Gran.sup (a b : Gran) : Gran := { reg := max a.reg b.reg, all := max a.all b.all }

/-- The granules that a team with `n` live groups on a core needs there: those of its carve, and those of a granted
carve that is to take effect (R42, R44). -/
def Team.need (t : Team) (n : Nat) : Gran :=
  (carveSteps (t.regs, t.scrGran) t.granted).foldl (fun a k => a.sup (.of (granules n k.1 t.desc.width) k.2)) {}

/-- The granules that a team holds on a core. -/
def Team.gran (t : Team) (c : Nat) : Gran := t.need (t.liveOn c)

/-- The granules of a team's carve in effect on a core (R42). -/
def Team.using (t : Team) (c : Nat) : Nat := t.regGran c + t.scrGran

/-- The granules of a core's teams apart from those left out. -/
def State.owned (s : State) (c : Nat) (out : List Nat) : Gran :=
  ((s.resident c).filter (fun t => !out.contains t.1)).foldl (fun a t => a.add (t.2.gran c)) {}

/-- There is room for granules beside what the other teams own: at most 64 for the registers of a core in total, and at
least 4 of the 96 stay for L1 (R42, R44). The 64 of the scratchpad are a limit of one team's carve (R14, R43). -/
def roomFor (owned want : Gran) : Bool :=
  decide (owned.reg + want.reg ≤ 64) && decide (owned.all + want.all + 4 ≤ 96)

/-- The registers and scratchpad granules a request asks for, after the carves granted before it. -/
def Team.asked (t : Team) (r : Carve) : Nat × Nat :=
  r.over (t.granted.foldl (fun b r => r.over b) (t.regs, t.scrGran))

/-- A team's request fits its cores with the teams `out` gone: what they do not own covers it together with the team's
own carve, which it replaces (R44). -/
def State.carveFits (s : State) (tid : Nat) (t : Team) (r : Carve) (out : List Nat) : Bool :=
  t.cores.all (fun c => roomFor (s.owned c (tid :: out))
    (.of (granules (t.liveOn c) (t.asked r).1 t.desc.width) (t.asked r).2))

/-- Lines that L1 loses with `d` of its granules, of 128 lines each (R42): which granule holds a line is not
given. -/
def Core.l1Shrink (c : Core) (fresh d : Nat) : Core :=
  let out := ((c.l1.filter (fun l => Config.l1Evicted fresh l.1)).take (128 * d)).map (·.1)
  { c with l1 := c.l1.filter (fun l => !out.contains l.1) }

/-- Insert into a list by descending key. -/
def insertDesc {α : Type} (key : α → Nat) (x : α) : List α → List α
  | [] => [x]
  | y :: ys => if key y < key x then x :: y :: ys else y :: insertDesc key x ys

/-- Sort by descending key. -/
def sortDesc {α : Type} (key : α → Nat) (xs : List α) : List α := xs.foldr (insertDesc key) []

/-- The shortest run of victims, youngest first, that makes a test hold. -/
def victimsFrom (test : List Nat → Bool) : List Nat → List Nat → Option (List Nat)
  | acc, [] => if test acc then some acc else none
  | acc, v :: vs => if test acc then some acc else victimsFrom test (acc ++ [v]) vs

/-! Save frames (R104, R206, R207). -/

/-- The bytes that a vector register of a group takes in the image (R104): a tag, a tag and one value, or a tag and
every lane. The tags are bytes of the model's (log 39). -/
def Group.regForm (g : Group) (width r : Nat) : List Byte :=
  let x := g.vReg r 0
  if (List.range width).all (fun l => g.vReg r l == x) then (if x = 0 then [0] else 1 :: leBytes 4 x.toNat)
  else 2 :: (List.range width).flatMap (fun l => leBytes 4 (g.vReg r l).toNat)

/-- Scratchpad lines from `n` upward, runs of zero lines compressed (R104): a tag and the length of a run, or a tag
and the 128 bytes of a line (log 39). -/
def Team.lineForms (t : Team) : Nat → Nat → Nat → List Byte
  | 0, _, run => if run = 0 then [] else 0 :: leBytes 4 run
  | k + 1, n, run =>
    let line := (List.range 128).map (fun i => t.scrRd (128 * n + i))
    if line.all (· == 0) then t.lineForms k (n + 1) (run + 1)
    else (if run = 0 then [] else 0 :: leBytes 4 run) ++ (2 :: line) ++ t.lineForms k (n + 1) 0

/-- The presence bits of the scratchpad, one for each line, then its lines (R207). -/
def Team.scrForm (t : Team) : List Byte :=
  let n := t.scrBytes / 128
  (List.range (n / 8)).map (fun k =>
    BitVec.ofNat 8 ((List.range 8).foldl (fun a b => if AMap.get false t.absent (8 * k + b) then a else a + 2 ^ b) 0)) ++
  t.lineForms n 0 0

/-- The variable part of a team's image: the vector registers of each group, and the scratchpad (R207). -/
def Team.tailForm (t : Team) : List Byte :=
  t.groups.flatMap (fun g => (List.range t.regs).flatMap (g.2.regForm t.desc.width)) ++ t.scrForm

/-- The size of a team's image (R207). -/
def Team.imageSize (t : Team) : Nat := 256 + 2048 + 4096 * t.groups.length + t.tailForm.length

/-- Save frames not yet spoken for by a pre-emption under way (R206). -/
def State.freeFrames (s : State) : List SaveFrame :=
  s.frames.filter (fun f => !s.teams.any (fun t => t.2.stopping && t.2.frame == some f))

/-- The free frame that a team's image goes to: one that holds it (R206). -/
def State.frameFor (s : State) (t : Team) : Option SaveFrame := s.freeFrames.find? (fun f => decide (t.imageSize ≤ f.2))

/-- The teams, of some in their order, for whose images frames are found one after another (R206). -/
def frameable : List SaveFrame → List (Nat × Nat) → List Nat
  | _, [] => []
  | fs, (v, n) :: vs =>
    match fs.find? (fun f => decide (n ≤ f.2)) with
    | some f => v :: frameable (fs.erase f) vs
    | none => frameable fs vs

/-- Those of some teams that a pre-emption can save (R206). -/
def State.savable (s : State) (vs : List Nat) : List Nat :=
  frameable s.freeFrames (vs.filterMap (fun v => (AMap.find s.teams v).map (fun t => (v, t.imageSize))))

/-- A grant ends (R279, R280, R311): its range is present. -/
def Team.endGrant (t : Team) (n : Nat) : Team :=
  match AMap.find t.grants n with
  | none => t
  | some g =>
    ({ t with grants := AMap.erase t.grants n }).present ((List.range (g.len / 128)).map (g.lo / 128 + ·))

/-- A pre-emption stops a team (R205 step 1): its grants are revoked first (R279), its undo log is dropped and the
horizon moves. -/
def State.stopTeam (s : State) (reason tid : Nat) : State :=
  match AMap.find s.teams tid with
  | none => s
  | some t =>
    if t.place.isNone || t.stopping then s
    else
      let frame := s.frameFor t
      let s1 := s.modTeam tid (fun t =>
        { (List.range 4).foldl Team.endGrant t with
            stopping := true, undo := [], why := reason, frame := frame
            groups := AMap.mapVal t.groups (fun n g =>
              { g with hzn := g.hzn || t.undo.any (fun u => u.grp == n && !u.opened) }) })
      t.cores.foldl (fun s c =>
        s.emit c [] (some { kind := 0x07, core := c, slot := t.slotOn c, launch := t.launch
                            payload := [BitVec.ofNat 64 reason, frameWord frame] })) s1

/-- The teams that are being pre-empted on some cores already. -/
def State.leaving (s : State) (cores : List Nat) : List Nat :=
  (s.teams.filter (fun t => t.2.stopping && cores.any t.2.onCore)).map (·.1)

/-- The weakly parallel ones among them. -/
def State.leavingWeak (s : State) (cores : List Nat) : List Nat :=
  (s.leaving cores).filter (fun v => (AMap.find s.teams v).any (fun t => t.desc.prog == 0))

/-- The weakly parallel teams of some cores that a pre-emption may take, youngest first (R44, R181). -/
def State.weakTeams (s : State) (cores : List Nat) (self : Nat) (below : Option Nat) : List Nat :=
  (sortDesc (fun t => t.2.age)
    (s.teams.filter (fun t => t.1 != self && t.2.desc.prog == 0 && !t.2.stopping &&
      cores.any t.2.onCore && (match below with | none => true | some p => decide (t.2.prio + 2 ≤ p))))).map (·.1)

/-- Every group that asked in this phase gets the reply (R43). -/
def Team.reply (t : Team) (b : Bool) : Team :=
  { t with groups := AMap.mapVal t.groups (fun _ g =>
      match g.carveGp with
      | none => g
      | some d => { g.setGp d b with carveGp := none }) }

/-- The distributor decides a team's pending carve request (R44). Weakly parallel teams that a pre-emption is stopping
already count among those that it takes; what any other team owns stays its own until that team has left. -/
def State.decideCarve (s : State) (tid : Nat) : State :=
  match AMap.find s.teams tid with
  | none => s
  | some t =>
    match t.carve with
    | none => s
    | some r =>
      let vs := s.savable (s.weakTeams t.cores tid none)
      match victimsFrom (fun out => s.carveFits tid t r (s.leavingWeak t.cores ++ out)) [] vs with
      | some out =>
        (out.foldl (fun s v => s.stopTeam 1 v) s).modTeam tid (fun t =>
          { t.reply true with carve := none, granted := t.granted ++ [r] })
      | none => s.modTeam tid (fun t => { t.reply false with carve := none })

/-- A phase is complete (R165). One that expects no arrival at all does not complete (log 45). -/
def Bar.full (b : Bar) : Bool := b.arr.length == b.grp && b.earr == b.eng && decide (0 < b.grp + b.eng)

/-- The next phase (R165): PH flips, the counts reset, held engine arrivals enter, and exited groups are
no longer expected (R46). -/
def Bar.next (b : Bar) : Bar :=
  { ph := !b.ph, grp := b.grp - b.fewer, eng := b.eng, arr := [], earr := min b.held b.eng,
    held := b.held - b.eng, fewer := 0 }

/-- The fragments that wait at barrier n may proceed (R165 step 4). -/
def Team.freeBar (t : Team) (n : Nat) : Team :=
  { t with groups := AMap.mapVal t.groups (fun _ g =>
      { g with frags := AMap.mapVal g.frags (fun _ f =>
          if f.stall == some (.bar n) then { f with stall := some (.freed n) } else f) }) }

/-- Barrier n of the team, where its phase is complete. -/
def State.fullBar (s : State) (tid n : Nat) : Option (Team × Bar) :=
  match AMap.find s.teams tid with
  | none => none
  | some t =>
    match AMap.find t.bars n with
    | none => none
    | some b => if b.full then some (t, b) else none

/-- The phase of a barrier completes with the arrival `by_`, and while the next one is complete as it begins, with held
engine arrivals alone, it completes too (R165 steps 1 and 2). -/
def State.flipBar (tid n by_ : Nat) : Nat → State → State
  | 0, s => s
  | k + 1, s =>
    match s.fullBar tid n with
    | none => s
    | some (t, b) =>
      let s1 := s.modTeam tid (fun t => { t with bars := AMap.insert t.bars n b.next })
      State.flipBar tid n by_ k (t.cores.foldl (fun s c =>
        s.emit c [] (some { kind := 0x04, core := c, slot := t.slotOn c, launch := t.launch
                            payload := [BitVec.ofNat 64 n, if b.ph then 1 else 0, BitVec.ofNat 64 by_] })) s1)

/-- The barriers of some whose phases are complete, with the arrival `by_`, go on to their next phases, then the carve
request is decided, and then the groups that wait proceed (R165). -/
def State.settleBars (s : State) (tid by_ : Nat) (ns : List Nat) : State :=
  match ns.filter (fun n => (s.fullBar tid n).isSome) with
  | [] => s
  | done =>
    let s1 := done.foldl (fun s n => State.flipBar tid n by_ (((s.fullBar tid n).elim 0 (·.2.held)) + 2) s) s
    (s1.decideCarve tid).modTeam tid (fun t => done.foldl Team.freeBar t)

/-- The trace record of an arrival at a barrier, by a group or by the sequence number of an engine command
(R229). -/
def State.noteArrival (s : State) (w : Sel) (n by_ : Nat) : State :=
  match AMap.find s.teams w.tid, s.grp? w with
  | some t, some g =>
    let ph := (AMap.find t.bars n).any (fun b => b.ph)
    s.emit g.core [] (s.recOf w 0x03 [BitVec.ofNat 64 n, if ph then 1 else 0, BitVec.ofNat 64 by_])
  | _, _ => s

/-- A group arrives at a barrier (R165): its record LP takes PH. -/
def State.arrive (s : State) (w : Sel) (n : Nat) : State :=
  let s1 := (s.noteArrival w n w.grp).modTeam w.tid (fun t =>
    match AMap.find t.bars n with
    | none => t
    | some b =>
      ({ t with bars := AMap.insert t.bars n { b with arr := b.arr ++ [w.grp] } }).modGrp w.grp
        (fun g => { g with lp := AMap.insert g.lp n b.ph }))
  s1.settleBars w.tid w.grp [n]

/-- An engine command arrives at a barrier (R165): beyond ENG the arrival is held. -/
def State.engineArrive (s : State) (w : Sel) (n : Nat) (seq : BitVec 32) : State :=
  let s0 := s.noteArrival w n seq.toNat
  let s1 := s0.modTeam w.tid (fun t =>
    match AMap.find t.bars n with
    | none => t
    | some b =>
      let b' := if b.earr < b.eng then { b with earr := b.earr + 1 } else { b with held := b.held + 1 }
      { t with bars := AMap.insert t.bars n b' })
  s1.settleBars w.tid seq.toNat [n]

/-- The barriers of the team at which a group has not arrived in their phase. -/
def State.barsLeft (s : State) (w : Sel) : List Nat :=
  match AMap.find s.teams w.tid with
  | none => []
  | some t => (t.bars.filter (fun b => !b.2.arr.contains w.grp)).map (·.1)

/-- A group that has exited counts at every barrier where it has not arrived (R46). -/
def State.exitArrive (s : State) (w : Sel) : State :=
  let s0 := (s.barsLeft w).foldl (fun s n => s.noteArrival w n w.grp) s
  let s1 := s0.modTeam w.tid (fun t =>
    { t with bars := AMap.mapVal t.bars (fun _ b =>
        { b with arr := if b.arr.contains w.grp then b.arr else b.arr ++ [w.grp], fewer := b.fewer + 1 }) })
  s1.settleBars w.tid w.grp (List.range 16)

/-- The phase that a group waits for has completed (R165). -/
def Env.barOver (e : Env) (n : Nat) : Bool :=
  match AMap.find e.tm.bars n with
  | none => true
  | some b => e.fr.stall == some (.freed n) || AMap.find e.gr.lp n != some b.ph

/-- The group proceeds: its phase has completed, and no granted carve waits to take effect (R135, R165). -/
def Env.barPassed (e : Env) (n : Nat) : Bool := e.barOver n && e.tm.granted.isEmpty

end Sys2Proof.Machine
end

