-- ==== Sys2Proof/Machine/Gate.lean ====
section
/-! DEFINITION. Operations in flight: the egress settling gate and completion (R32, R215), the footprints
of engine work (R115, R118), deferred faults (R340), and the transform pipes' jobs (R99 to R103). -/

namespace Sys2Proof.Machine

/-- A store that leaves the egress settling gate in the step in which it enters it: the stores that precede it are
performed first (R140, R116, R254). -/
def State.passGate (s : State) (who : Sel) (core : Nat) (bytes : List StByte) (views : List View) : State :=
  let o : Op := { who := who, gated := true, bytes := bytes, views := views }
  let s1 := s.releaseWhere core (fun p => p.2.precedes o)
  (s1.settleBytes core (fun b => bytes.any (fun c => b.scr == c.scr && b.key == c.key))).perform who core bytes

/-- The bytes of a store as one store of the highest lane at each location (R142). -/
def winners (bs : List StByte) : List StByte :=
  bs.foldr (fun b acc => if acc.any (fun c => b.scr == c.scr && b.key == c.key) then acc else b :: acc) []

/-- The stores that precede a store are performed (R140, R116). -/
def State.releaseBefore (s : State) (core id : Nat) (o : Op) : State :=
  s.releaseWhere core (fun p => decide (p.1 < id) && p.2.precedes o)

/-- A store leaves the gate and is applied to its core's L1, where that holds its lines (R144 stage 2): the groups
of the core see it, and it is still to be performed at its point of coherence. -/
def State.applyOp (s : State) (core id : Nat) : State :=
  match AMap.find (s.core core).ops id with
  | none => s
  | some o =>
    if o.gated && !o.applied then
      let s1 := (s.releaseBefore core id o).settleBytes core
        (fun b => o.bytes.any (fun c => b.scr == c.scr && b.key == c.key))
      s1.modCore core (fun c =>
        { (winners o.bytes).foldl (fun c b => if b.scr || !cached b.ia then c else c.l1Store b.ia b.val) c with
            ops := AMap.insert c.ops id { o with applied := true, left := true } })
    else s

/-- Some of the single-copy atomic pieces of a store are performed, and the others stay (R141, R142). A store that
its core's L1 has taken is performed whole: it stands earlier in the order of its locations (R145). -/
def State.releasePart (s : State) (core id : Nat) : State :=
  match AMap.find (s.core core).ops id with
  | none => s
  | some o =>
    let now (b : StByte) : Bool := Config.gatePart s.fresh b.piece
    let rest := (winners o.bytes).filter (fun b => !now b)
    if !o.gated || o.applied || rest == [] then s.release core id
    else
      let s1 := (s.releaseBefore core id o).settleBytes core
        (fun b => o.bytes.any (fun c => b.scr == c.scr && b.key == c.key))
      (s1.perform o.who core ((winners o.bytes).filter now)).modCore core (fun c =>
        { c with ops := AMap.insert c.ops id { o with bytes := rest, left := true } })

/-- A store leaves the gate and comes as far as this step takes it (R144). -/
def State.leaveGate (s : State) (core id : Nat) : State :=
  if Config.gateStage s.fresh % 3 = 0 then s.release core id
  else if Config.gateStage s.fresh % 3 = 1 then s.applyOp core id
  else s.releasePart core id

/-- The group has read from the store while only its core saw it. -/
def Op.readBy (o : Op) (w : Sel) : Bool := o.readers.contains (w.tid, w.grp)

/-- Every store of the group at the gate, and every one that it has read from, is performed, in order: both precede
its release, its fence or its arrival (R146, R147, R151). -/
def State.drainStores (s : State) (core : Nat) (w : Sel) : State :=
  s.releaseWhere core (fun o => o.2.of w || o.2.readBy w)

/-- Every view store of the team at the gate of a core that may meet a view is performed (R117). -/
def State.drainView (s : State) (core tid : Nat) (v : View) : State :=
  s.releaseWhere core (fun o => o.2.who.tid == tid && o.2.views.any (fun w => mayMeet w v))

/-- Every view store of the group at the gate that may meet a view is performed (R116). -/
def State.drainMeet (s : State) (core : Nat) (w : Sel) (v : View) : State :=
  s.releaseWhere core (fun o => o.2.of w && o.2.views.any (fun u => mayMeet u v))

/-- The registers that an operation was to write are no longer pending (R33). -/
def Group.settled (g : Group) (op : Nat) : Group := { g with pend := g.pend.filter (fun p => p.op != op) }

/-- An operation completes (R32): its store is performed, its registers are final, its flag falls, its tag reports
(R228). -/
def State.completeOp (s : State) (core id : Nat) : State :=
  match AMap.find (s.core core).ops id with
  | none => s
  | some o =>
    let s1 := s.release core id
    let s2 := s1.modCore core (fun c => { c with ops := AMap.erase c.ops id })
    let s3 := s2.modGrp o.who (fun g => (g.settled id).flagDown o.flag)
    match o.tag with
    | some (lv, die) =>
      s3.emit core [] (s.recOf o.who 0x0A
        [o.pc, BitVec.ofNat 64 (lv + die * 2 ^ 8), Config.freeWord s.fresh 102])
    | none => s3

/-- Every operation of the group completes (R193, R195, R205). -/
def State.completeOps (s : State) (core : Nat) (w : Sel) : State :=
  ((s.core core).ops.filter (fun o => o.2.of w)).foldl (fun s o => s.completeOp core o.1) s

/-- Deferred faults of whose lanes none is live any more are posted, and no handler is entered (R340). While one of these
records waits at the group, the group waits with it (R235). -/
def State.postDead (s : State) (w : Sel) : State :=
  match AMap.find s.teams w.tid with
  | none => s
  | some t =>
    match AMap.find t.groups w.grp with
    | none => s
    | some g =>
      let dead := g.deferred.filter (fun d => d.info.lanes &&& g.live == 0)
      if dead == [] then s
      else
        let s1 := s.modGrp w (fun g =>
          { g with deferred := g.deferred.filter (fun d => d.info.lanes &&& g.live != 0) })
        let s2 := dead.foldl (fun s d =>
          s.post (haltRecord t w g d.info.cause.code 0 { d.info with lanes := 0 })) s1
        if s2.recordWaits w then s2.modGrp w (fun g => { g with posting := true }) else s2

/-- A fault decided after issue waits in its group (R340). -/
def State.defer (s : State) (w : Sel) (d : Deferred) : State :=
  (s.modGrp w (fun g => { g with deferred := g.deferred ++ [d] })).postDead w

/-- `%tstat` DEFER (R192). -/
def statDefer : Word := 0x10

/-- `%tstat` FENCE (R192). -/
def statFence : Word := 0x08

/-- `%tstat` LOOP with its STEP (R192). -/
def statLoop (step : Nat) : Word := BitVec.ofNat 64 (4 + step * 2 ^ 32)

/-- The source views a command reads, and the destinations it writes (R115). -/
def Cmd.srcs (c : Cmd) : List View := match c.src with | none => [] | some v => [v.1]
/-- The destination views of a command. -/
def Cmd.dsts (c : Cmd) : List View := match c.dst with | none => [] | some v => [v.1]
/-- The views a matrix loop reads: A, B and with BIAS its bias view (R95, R300). -/
def Loop.srcs (l : Loop) : List View :=
  [l.a.1, l.b.1] ++ (match l.bias with | none => [] | some v => [v.1])
/-- The views a matrix loop writes. -/
def Loop.dsts (l : Loop) : List View := match l.dst with | none => [] | some v => [v.1]

/-- The directory entries that a matrix loop holds, one for each view it names (R300). -/
def Loop.entries (l : Loop) : Nat := l.srcs.length + l.dsts.length

/-- The matrix loops that hold their entries. -/
def Core.heldLoops (c : Core) : List (Nat × Loop) := c.loops.filter (fun l => !l.2.queued)

/-- The directory entries that engine work of a core holds (R115). -/
def Core.entries (c : Core) : Nat :=
  c.cmds.foldl (fun a m => a + m.2.srcs.length + m.2.dsts.length) 0 +
  c.heldLoops.foldl (fun a l => a + l.2.entries) 0

/-- Destination footprints of a team's engine work on a core (R118). -/
def Core.dstFeet (c : Core) (tid : Nat) : List (Int × Int) :=
  ((c.cmds.filter (fun m => m.2.who.tid == tid)).flatMap (fun m => m.2.dsts) ++
    (c.heldLoops.filter (fun l => l.2.who.tid == tid)).flatMap (fun l => l.2.dsts)).filterMap View.foot

/-- Footprints of the engine commands that a team has in flight on a core (R338). -/
def Core.cmdFeet (c : Core) (tid : Nat) : List (Int × Int) :=
  ((c.cmds.filter (fun m => m.2.who.tid == tid)).flatMap (fun m => m.2.srcs ++ m.2.dsts)).filterMap View.foot

/-- Source footprints of a team's engine work on a core (R118). -/
def Core.srcFeet (c : Core) (tid : Nat) : List (Int × Int) :=
  ((c.cmds.filter (fun m => m.2.who.tid == tid)).flatMap (fun m => m.2.srcs) ++
    (c.heldLoops.filter (fun l => l.2.who.tid == tid)).flatMap (fun l => l.2.srcs)).filterMap View.foot

/-! Transform pipes. -/

/-- The pipe of a slice (R99). -/
def pipeOf (slice : Nat) : Nat := if slice < 3 then 0 else 1

/-- A job's registers are no longer pending and its flag falls. -/
def Group.jobDone (g : Group) (j : Job) : Group :=
  (g.settled j.op).flagDown j.flag

/-- The scratchpad offset of the table of an `xlut` job. -/
def Job.table (j : Job) : Option Nat := match j.instr with | .xlut _ => some (j.gs.headD 0).toNat | _ => none

/-- Some bytes are about to be written that an `xlut` job is not to see: those of its table keep for it the value that
they have for its group. -/
def Job.keep (j : Job) (ks : List Nat) (val : Nat → Byte) : Job :=
  match j.table with
  | none => j
  | some o =>
    { j with seen := (ks.filter (fun k => decide (o ≤ k) && decide (k < o + 512))).foldl (fun m k =>
        if (AMap.find m k).isSome then m else AMap.insert m k (val k)) j.seen }

/-- A byte of the scratchpad as a group of a core reads it (R140). -/
def State.scrSees (s : State) (who : Sel) (core k : Nat) : Byte :=
  ((s.core core).gatedByte who true k).getD ((AMap.find s.teams who.tid).elim 0 (·.scrRd k))

/-- Scratchpad bytes `ks` are about to be written: the `xlut` jobs of a core keep those that `unseen` names for them
(R140, R336). -/
def State.keepTables (s : State) (core : Nat) (ks : List Nat) (unseen : Job → Nat → Bool) : State :=
  if ks == [] || (s.core core).pipes == [] then s
  else s.modCore core (fun c =>
    { c with pipes := c.pipes.map (fun p => (p.1, p.2.map (fun j =>
        j.keep (ks.filter (unseen j)) (s.scrSees j.who core)))) })

/-- The scratchpad bytes of a store. -/
def scrKeys (bs : List StByte) : List Nat := (bs.filter (·.scr)).map (·.key)

/-- A store of a group is issued: its `xlut` jobs, all issued before it, do not see it (R140). -/
def State.keepOwn (s : State) (core : Nat) (w : Sel) (bs : List StByte) : State :=
  s.keepTables core (scrKeys bs) (fun j _ => j.who.tid == w.tid && j.who.grp == w.grp)

/-- An engine writes bytes of a team's scratchpad: each entry of a table that an `xlut` job is still to read has for it
the old value or the new one (R336). -/
def State.keepOld (s : State) (core tid : Nat) (bs : List StByte) : State :=
  s.keepTables core (scrKeys bs) (fun j k => j.who.tid == tid && Config.lutOld s.fresh ((k - j.table.getD 0) / 2))

/-- An `xlut` job (R100): none while a line of its table of 512 bytes is absent (R336). Its entries are read as the group's stores issued
before it leave them (R140, R336). -/
def State.runXlut (s : State) (core : Nat) (j : Job) (d : Nat) : Option State :=
  let off := (j.gs.headD 0).toNat
  match AMap.find s.teams j.who.tid with
  | none => none
  | some t =>
    let src := (j.vs.headD [])
    let ls := lanesOf j.exec
    let entry (l b : Nat) : Nat := off + 2 * (((src.getD l 0).extractLsb' (8 * b) 8).toNat)
    if t.absentAt off 512 then none
    else
      let rdE (l b : Nat) : Nat :=
        leVal (((s.load j.who core false (.scr (entry l b)) 2).1.zip [entry l b, entry l b + 1]).map (fun x =>
          (AMap.find j.seen x.2).getD x.1))
      some (s.modGrp j.who (fun g =>
        (ls.foldl (fun g l =>
          (g.setV d l (BitVec.ofNat 32 (rdE l 0 + rdE l 1 * 2 ^ 16))).setV (d + 1) l
            (BitVec.ofNat 32 (rdE l 2 + rdE l 3 * 2 ^ 16))) g).jobDone j))

/-- An `xunp` job (R100): field `m` of each lane's pair, extended. -/
def State.runXunp (s : State) (j : Job) (d : Nat) (signed : Bool) : State :=
  let gf := j.gs.headD 0
  let f := bits gf 5 0
  let n := bits gf 13 8
  let lo := j.vs.getD 0 []
  let hi := j.vs.getD 1 []
  s.modGrp j.who (fun g =>
    ((lanesOf j.exec).foldl (fun g l =>
      let pair := (hi.getD l 0).toNat * 2 ^ 32 + (lo.getD l 0).toNat
      (List.range n).foldl (fun g m =>
        let x : Nat := pair / 2 ^ (f * m) % 2 ^ f
        let y : Int := if signed && decide (2 ^ (f - 1) ≤ x) then (x : Int) - 2 ^ f else x
        g.setV (d + m) l (BitVec.ofInt 32 y)) g) g).jobDone j)

/-- The running state of an `xlz` job (R102, R103). -/
structure Xz where
  s : State
  src : Word
  left : Nat
  dst : Word
  cap : Nat
  out : Nat
  lit : Nat
  mat : Nat
  known : Bool
  off : Nat
  wrote : Nat
  /-- nothing of the stream has been read in this job and none before it -/
  start : Bool

/-- How an `xlz` job ends. -/
inductive XzEnd where
  | ended (x : Xz)
  | limit (x : Xz)
  | fault (c : Cause) (va : Word) (s : State)
  | hold

/-- The checks of one byte of an `xlz` job on a core (R338). -/
def xzAcc (core : Nat) (wr : Bool) : Acc := { n := 1, rd := !wr, wr := wr, noIo := true, l1 := some core }

/-- Read one byte at a VA for an `xlz` job; `none` on an absent line. -/
def State.xzRead (s : State) (j : Job) (core : Nat) (a : Word) : Except Miss (Option (Byte × State)) :=
  match AMap.find s.teams j.who.tid with
  | none => .ok none
  | some t =>
    match s.access t (xzAcc core false) a with
    | .error e => .error e
    | .ok p =>
      if (match p with | .scr o => t.absentAt o 1 | _ => false) then .ok none
      else
        let (bs, s1) := s.load j.who core false p 1
        .ok (some (bs.headD 0, s1))

/-- Write one byte at a VA for an `xlz` job. -/
def State.xzWrite (s : State) (j : Job) (core : Nat) (a : Word) (x : Byte) : Except Miss (Option State) :=
  match AMap.find s.teams j.who.tid with
  | none => .ok none
  | some t =>
    match s.access t (xzAcc core true) a with
    | .error e => .error e
    | .ok p =>
      if (match p with | .scr o => t.absentAt o 1 | _ => false) then .ok none
      else .ok (some (s.passGate j.who core (storeBytes p [x]) []))

/-- One byte of the input is taken, or the stream is bad. -/
def Xz.take (x : Xz) (j : Job) (core : Nat) : Except XzEnd (Byte × Xz) :=
  if x.left = 0 then .error (.fault (.view .xlzFormat) 0 x.s)
  else
    match x.s.xzRead j core x.src with
    | .error (r, a) => .error (.fault (.mem .engine r) a x.s)
    | .ok none => .error .hold
    | .ok (some (b, s1)) => .ok (b, { x with s := s1, src := x.src + 1, left := x.left - 1, start := false })

/-- One byte is written, or the job stops at the capacity. -/
def Xz.put (x : Xz) (j : Job) (core : Nat) (b : Byte) : Except XzEnd Xz :=
  if x.cap = 0 then .error (.fault (.view .xlzCap) 0 x.s)
  else
    match x.s.xzWrite j core x.dst b with
    | .error (r, a) => .error (.fault (.mem .engine r) a x.s)
    | .ok none => .error .hold
    | .ok (some s1) =>
      .ok { x with s := s1, dst := x.dst + 1, cap := x.cap - 1, out := x.out + 1, wrote := x.wrote + 1 }

/-- A literal (R101). Where the capacity is used up and the byte cannot be read either, the read comes first (log 75). -/
def Xz.literal (x : Xz) (j : Job) (core : Nat) : Except XzEnd Xz :=
  if x.left = 0 then .error (.fault (.view .xlzFormat) 0 x.s)
  else if 4096 ≤ x.wrote then .error (.limit x)
  else do
    let (b, y) ← x.take j core
    let z ← y.put j core b
    return { z with lit := z.lit - 1 }

/-- The offset of a match, or the end of the stream after the literals of a final token (R101). -/
def Xz.offset (x : Xz) (j : Job) (core : Nat) : Except XzEnd Xz :=
  if x.left = 0 then .error (if x.mat = 3 then .ended { x with mat := 0 } else .fault (.view .xlzFormat) 0 x.s)
  else do
    let (b0, y) ← x.take j core
    let (b1, z) ← y.take j core
    let off := b0.toNat + 256 * b1.toNat
    if off = 0 ∨ z.out < off then .error (.fault (.view .xlzFormat) 0 z.s)
    else return { z with known := true, off := off }

/-- A byte of a match (R101): the one that stands as far back in the output as the offset says. -/
def Xz.copy (x : Xz) (j : Job) (core : Nat) : Except XzEnd Xz :=
  if 4096 ≤ x.wrote then .error (.limit x)
  else
    match x.s.xzRead j core (x.dst - BitVec.ofNat 64 x.off) with
    | .error (r, a) => .error (.fault (.mem .engine r) a x.s)
    | .ok none => .error .hold
    | .ok (some (b, s1)) => do
      let z ← { x with s := s1 }.put j core b
      let m := z.mat - 1
      return { z with mat := m, known := decide (0 < m), off := if m = 0 then 0 else z.off }

/-- A token with its extensions, or the end of an empty stream (R101). -/
def Xz.token (x : Xz) (j : Job) (core : Nat) : Except XzEnd Xz :=
  if x.left = 0 then .error (if x.start then .ended x else .fault (.view .xlzFormat) 0 x.s)
  else do
    let (tok, y) ← x.take j core
    let l := (tok.extractLsb' 5 3).toNat
    let c := (tok.extractLsb' 0 5).toNat
    let (lit, z) ← if l = 7 then (do let (b, z) ← y.take j core; return (7 + b.toNat, z)) else pure (l, y)
    let (mat, w) ← if c = 31 then (do let (b, w) ← z.take j core; return (34 + b.toNat, w)) else pure (c + 3, z)
    return { w with lit := lit, mat := mat }

/-- The next step of an `xlz` job (R101, R103), or its end. -/
def Xz.step (x : Xz) (j : Job) (core : Nat) : Except XzEnd Xz :=
  if 0 < x.lit then x.literal j core
  else if 0 < x.mat then (if x.known then x.copy j core else x.offset j core)
  else x.token j core

/-- The steps of an `xlz` job (R101, R103), up to a number of them that no job reaches. -/
def Xz.run (j : Job) (core : Nat) : Nat → Xz → XzEnd
  | 0, x => .limit x
  | n + 1, x =>
    match x.step j core with
    | .ok y => Xz.run j core n y
    | .error e => e

/-- The carry states an `xlz` accepts (R103). -/
def xzCarryOk (c : Word) (out : Nat) : Bool :=
  let lit := bits c 8 0
  let mat := bits c 24 16
  let known := bit c 31
  let off := bits c 47 32
  bits c 15 9 == 0 && bits c 30 25 == 0 && bits c 63 48 == 0 &&
  ((lit == 0 && mat == 0 && !known && off == 0) ||
   (1 ≤ lit && lit ≤ 262 && 3 ≤ mat && mat ≤ 289 && !known && off == 0) ||
   (lit == 0 && 1 ≤ mat && mat ≤ 289 && known && 1 ≤ off && off ≤ out))

/-- An `xlz` job (R102, R103, R338): none while an absent line holds it. The address of a hit on an engine's footprint is
g[J], whichever range it hits (log 79). -/
def State.runXlz (s : State) (core : Nat) (j : Job) (reg : Nat) (inH : Bool) : Option (State × Nat) :=
  let g (i : Nat) : Word := j.gs.getD i 0
  let fail (c : Cause) (va : Word) (s : State) : Option (State × Nat) :=
    some ((s.modGrp j.who (fun gr => gr.jobDone j)).defer j.who
      { info := { cause := c, pc := j.pc, va := va, lanes := j.exec, stat := statDefer, again := j.redo }, cl := j.cl }, c.code)
  let srcR : Int × Int := ((g 0).toNat, (g 0).toNat + (g 1).toNat)
  let dstR : Int × Int := ((g 2).toNat, (g 2).toNat + (g 3).toNat)
  let cores := match AMap.find s.teams j.who.tid with | none => [] | some t => t.cores
  let feet := cores.flatMap (fun c => (s.core c).cmdFeet j.who.tid)
  let hit := feet.any (fun f => overlap f srcR || overlap f dstR)
  let carry := g 6
  if g 7 ≠ 0 ∨ !xzCarryOk carry (g 5).toNat ∨ overlap srcR dstR then fail (.view .xlzFormat) 0 s
  else if hit then fail (.mem .engine .engineRange) (g 0) s
  else
    let x : Xz :=
      { s := s.drainStores core j.who, src := g 0, left := (g 1).toNat, dst := g 2, cap := (g 3).toNat,
        out := (g 5).toNat, lit := bits carry 8 0, mat := bits carry 24 16, known := bit carry 31,
        off := bits carry 47 32, wrote := 0, start := carry == 0 }
    let close (x : Xz) (more : Bool) : Option (State × Nat) :=
      let c : Nat := if more then x.lit + x.mat * 2 ^ 16 + (if x.known then 2 ^ 31 else 0) + x.off * 2 ^ 32 else 0
      let card : List Word :=
        [x.src, BitVec.ofNat 64 x.left, x.dst, BitVec.ofNat 64 x.cap, if more then 1 else 0,
         BitVec.ofNat 64 x.out, BitVec.ofNat 64 c, 0]
      some ((x.s.modGrp j.who (fun gr =>
        ((card.zip (List.range 8)).foldl (fun gr wi => gr.setG inH (reg + wi.2) wi.1) gr).jobDone j)).completed
        j.who j.inH, 0)
    match Xz.run j core 20000 x with
    | .ended x => close x false
    | .limit x => close x true
    | .fault c va s => fail c va s
    | .hold => none

/-- The head job of a pipe runs to its reply (R99), unless an absent line holds it. -/
def State.runJob (s : State) (core pipe : Nat) : State :=
  match AMap.get [] (s.core core).pipes pipe with
  | [] => s
  | j :: rest =>
    let r : Option (State × Nat) :=
      match j.instr with
      | .xlut f => (s.runXlut core j f.d.toNat).map (fun s => (s, 0))
      | .xunp f => some (s.runXunp j f.d.toNat (f.c == 1), 0)
      | .xlz f => s.runXlz core j f.gp.toNat j.inH
      | _ => some (s, 0)
    match r with
    | none => s
    | some (s1, cause) =>
      (s1.modCore core (fun c => { c with pipes := AMap.set [] c.pipes pipe rest })).noteTask j.who core 0x02
        (1 + pipe) j.seq j.instr.opc j.pc [BitVec.ofNat 64 cause]

/-- A pipe's jobs run until none of the group is left in it, or an absent line holds one. -/
def State.drainPipe (w : Sel) (core pipe : Nat) : Nat → State → State
  | 0, s => s
  | n + 1, s =>
    if (AMap.get [] (s.core core).pipes pipe).any (fun j => j.who.tid == w.tid && j.who.grp == w.grp) then
      let s1 := s.runJob core pipe
      if (AMap.get [] (s1.core core).pipes pipe).length < (AMap.get [] (s.core core).pipes pipe).length then
        State.drainPipe w core pipe n s1
      else s
    else s

/-- Every earlier instruction of the group completes, apart from engine commands and `mmlp` (R193, R195). -/
def State.complete (s : State) (core slice : Nat) (w : Sel) : State :=
  let p := pipeOf slice
  let s1 := State.drainPipe w core p (AMap.get [] (s.core core).pipes p).length s
  s1.completeOps core w

/-- The group has a job in its pipe. -/
def State.piped (s : State) (core slice : Nat) (w : Sel) : Bool :=
  (AMap.get [] (s.core core).pipes (pipeOf slice)).any (fun j => j.who.tid == w.tid && j.who.grp == w.grp)

end Sys2Proof.Machine
end

