-- ==== Sys2Proof/Machine/Operands.lean ====
section
/-! DEFINITION. Operand forms: the types of lane integers (R316), the sources of V, VI and VM words
(R246 to R248), G operands (R250, R284), effective addresses (R249, R259), and the two arms of a melded
word (R57). -/

namespace Sys2Proof.Machine

/-- An integer type: its width and whether it is signed (R70). -/
structure IntTy where
  w : Nat
  signed : Bool
  deriving DecidableEq, Repr

/-- The integer type of a TY code (R246). -/
def intTy (ty : Nat) : IntTy :=
  match ty with
  | 0 => { w := 32, signed := true }
  | 3 => { w := 16, signed := true }
  | 4 => { w := 16, signed := false }
  | 5 => { w := 8, signed := true }
  | 6 => { w := 8, signed := false }
  | 7 => { w := 64, signed := true }
  | 8 => { w := 64, signed := false }
  | _ => { w := 32, signed := false }

/-- A type occupies register pairs (R28). -/
def wide (ty : Nat) : Bool := ty == 7 || ty == 8

/-- An unsigned `w`-bit number read by its type. -/
def IntTy.val (t : IntTy) (x : Nat) : Int :=
  if t.signed && decide (2 ^ (t.w - 1) ≤ x) then (x : Int) - 2 ^ t.w else x

/-- The least value of a type. -/
def IntTy.min (t : IntTy) : Int := if t.signed then -(2 ^ (t.w - 1)) else 0

/-- The greatest value of a type. -/
def IntTy.max (t : IntTy) : Int := if t.signed then 2 ^ (t.w - 1) - 1 else 2 ^ t.w - 1

/-- A value modulo 2^w. -/
def IntTy.wrap (t : IntTy) (x : Int) : Nat := (x % 2 ^ t.w).toNat

/-- A lane source: a vector register, or one value for every lane (R246). -/
inductive Opnd where
  | reg (r : Nat)
  | const (x : Word)
  deriving DecidableEq, Repr

/-- The 32 bits a source gives a lane. -/
def Opnd.lo (o : Opnd) (gr : Group) (l : Nat) : Lane :=
  match o with
  | .reg r => gr.vReg r l
  | .const x => x.extractLsb' 0 32

/-- The 64 bits a source gives a lane: a pair, or the whole value. -/
def Opnd.pair (o : Opnd) (gr : Group) (l : Nat) : Word :=
  match o with
  | .reg r => gr.vReg64 r l
  | .const x => x

/-- A source as an unsigned number of a type's width (R316). -/
def Opnd.num (o : Opnd) (ty : Nat) (gr : Group) (l : Nat) : Nat :=
  if wide ty then (o.pair gr l).toNat else (o.lo gr l).toNat % 2 ^ (intTy ty).w

/-- A source as an integer of its type. -/
def Opnd.int (o : Opnd) (ty : Nat) (gr : Group) (l : Nat) : Int := (intTy ty).val (o.num ty gr l)

end Sys2Proof.Machine

namespace Sys2Proof

open Machine

/-- B of a V word (R246). -/
def VF.srcB (f : VF) (e : Env) : Opnd := if f.bg then .const (e.g f.b.toNat) else .reg f.b.toNat

/-- C of a V word (R246). -/
def VF.srcC (f : VF) (e : Env) : Opnd := if f.cg then .const (e.g f.c.toNat) else .reg f.c.toNat

/-- The immediate of a VI word (R247). -/
def VIF.val (f : VIF) : Word :=
  if f.ty = 1 then ((f.imm ++ 0#2) : Lane).zeroExtend 64 else f.imm.signExtend 64

end Sys2Proof

namespace Sys2Proof.Machine

/-- Write a result of an integer type, an unsigned number below 2^w, extended to 32 bits (R316). -/
def Group.putInt (gr : Group) (ty d l : Nat) (x : Nat) : Group :=
  if wide ty then gr.setV64 d l (BitVec.ofNat 64 x)
  else gr.setV d l (BitVec.ofInt 32 ((intTy ty).val x))

/-- Every lane of a mask changes the group in ascending order. -/
def forLanes (m : Word) (f : Nat → Group → Group) (gr : Group) : Group :=
  (lanesOf m).foldl (fun g l => f l g) gr

/-- A register of a type lies outside the allocation, or is odd where a pair is asked for (R28). -/
def Env.badReg (e : Env) (ty r : Nat) : Bool :=
  if wide ty then r % 2 == 1 || e.over (r + 1) else e.over r

/-- A source register of a type is misplaced (R28). -/
def Env.badOpnd (e : Env) (ty : Nat) (o : Opnd) : Bool :=
  match o with
  | .reg r => e.badReg ty r
  | .const _ => false

/-- An INSTR cause for the issuing word. -/
def Env.instr (e : Env) (c : InstrCause) (s : State) : Res := .trap (e.trapOf (.instr c)) s

/-- A VIEW cause for the issuing word. -/
def Env.view (e : Env) (c : ViewCause) (s : State) : Res := .trap (e.trapOf (.view c)) s

/-! G operands. -/

end Sys2Proof.Machine

namespace Sys2Proof

open Machine

/-- IMM32 is zero-extended in `gmov gmovh gand gor gxor gbits` and sign-extended elsewhere (R250). -/
def GF.srcB (f : GF) (e : Env) (zeroExt : Bool) : Word :=
  if f.i then (if zeroExt then f.b.zeroExtend 64 else f.b.signExtend 64)
  else e.g (f.b.extractLsb' 0 6).toNat

/-- The number of bits a G word works on (R284). -/
def GF.n (f : GF) : Nat := if f.w then 64 else 32

/-- A G operand as an unsigned number of n bits. -/
def GF.cut (f : GF) (x : Word) : Nat := x.toNat % 2 ^ f.n

/-- An n-bit number read by U (R284). -/
def GF.sval (f : GF) (x : Nat) : Int :=
  if !f.u && decide (2 ^ (f.n - 1) ≤ x) then (x : Int) - 2 ^ f.n else x

/-- The result of a G word: n bits, extended to 64 by U when W = 0 (R284). -/
def GF.ext (f : GF) (x : Nat) : Word :=
  if f.w then BitVec.ofNat 64 x
  else if f.u then BitVec.ofNat 64 (x % 2 ^ 32) else (BitVec.ofNat 32 x).signExtend 64

end Sys2Proof

namespace Sys2Proof.Machine

/-! Effective addresses. -/

/-- An offset register's value, extended by SG (R259). -/
def extOff (signed : Bool) (x : Lane) : Int := if signed then x.toInt else x.toNat

end Sys2Proof.Machine

namespace Sys2Proof

open Machine

/-- EA of a lane with an offset `off` (R259). -/
def MF.ea (f : MF) (e : Env) (off : Int) (l : Nat) : Word :=
  let mid : Int := if f.vo = 0xFF then 0 else extOff f.sg (e.gr.vReg f.vo.toNat l) * 2 ^ f.scale.toNat
  e.g f.gb.toNat + BitVec.ofInt 64 (mid + off)

/-- OFF15 (R249). -/
def MF.off15 (f : MF) : Int := f.off.toInt

/-- OFF10 of atomics (R249). -/
def MF.off10 (f : MF) : Int := (f.off.extractLsb' 0 10).toInt

/-- The bytes of an access (R249). -/
def MF.bytes (f : MF) : Nat := 2 ^ f.size.toNat

end Sys2Proof

namespace Sys2Proof.Machine

/-! Melded words. -/

/-- One arm of a melded word: its lanes and its fields (R57). -/
structure Arm where
  m : Word
  d : Nat
  a : Nat
  b : Nat
  deriving DecidableEq, Repr

end Sys2Proof.Machine

namespace Sys2Proof

open Machine

/-- The enabled arms of a melded word (R57). -/
def VMF.arms (f : VMF) (e : Env) : List Arm :=
  (if f.ena then [{ m := e.fr.exec &&& e.region, d := f.da.toNat, a := f.aa.toNat, b := f.ba.toNat : Arm }] else []) ++
  (if f.enb then [{ m := e.fr.exec &&& ~~~e.region, d := f.db.toNat, a := f.ab.toNat, b := f.bb.toNat : Arm }] else [])

/-- The type of TY2 as a TY code: s32, f32, n32 (R248). -/
def VMF.ty (f : VMF) : Nat := f.ty2.toNat

/-- CX = 01: accumulate into DX (R58). -/
def VMF.acc (f : VMF) : Bool := f.cx == 1

/-- The lanes of both enabled arms (R60). -/
def VMF.lanes (f : VMF) (e : Env) : Word := (f.arms e).foldl (fun a x => a ||| x.m) 0

end Sys2Proof

namespace Sys2Proof.Machine

/-- The lanes an instruction is active in (R29, R60). -/
def Env.lanesFor (e : Env) (i : Instr) : Word :=
  match i.shape with
  | .vm f => f.lanes e
  | _ => e.active i.guard

/-! Views as operands. -/

/-- The group holds a view that lies below `.views` (R109, R252). -/
def Env.held (e : Env) (k : Nat) : Option (View × Word × Word) :=
  if k < e.tm.desc.views then
    match AMap.find e.tm.views k, AMap.find e.gr.holds k with
    | some v, some o => some (v, o)
    | _, _ => none
  else none

/-- The element index of a lane in `wld` and `wst` (R120): the lane number, or the registers of IX. -/
def wIndex (e : Env) (ix : Option Nat) (l : Nat) : Nat → Int := fun d =>
  match ix with
  | none => if d = 0 then (l : Int) else 0
  | some r => (e.gr.vReg (r + d) l).toInt

end Sys2Proof.Machine

namespace Sys2Proof

open Machine

/-- IX and I of `wld` and `wst` (R119). -/
def XF.ix (f : XF) : Option Nat :=
  if f.mode.getLsbD 8 then some (f.mode.extractLsb' 0 8).toNat else none

end Sys2Proof

namespace Sys2Proof.Machine

end Sys2Proof.Machine
end

