-- ==== Sys2Proof/Machine/Debug.lean ====
section
/-! DEFINITION. What a word would access, for the debug comparators (R223, R224) and the undo log (R231),
and the debug stop (R226). -/

namespace Sys2Proof.Machine

/-- One access of a word: its kind as DCCTL numbers kinds (1 load, 2 store, 3 atomic, 4 view). -/
structure Touch where
  kind : Nat
  va : Word
  n : Nat
  deriving DecidableEq, Repr

/-- The accesses of an M word in its active lanes. -/
def Env.mTouches (e : Env) (f : MF) (i : Instr) (kind : Nat) (off : Int) : List Touch :=
  (lanesOf (e.lanesFor i)).map (fun l => { kind := kind, va := f.ea e off l, n := f.bytes })

/-- The access of a group M word. -/
def Env.mTouch (e : Env) (f : MF) (i : Instr) (kind : Nat) (off : Int) : List Touch :=
  if e.groupGuard i.guard then
    [{ kind := kind, va := e.g f.gb.toNat + BitVec.ofInt 64 off, n := f.bytes }]
  else []

/-- The elements that lanes access through a view (R120). -/
def Env.viewTouches (e : Env) (k : Nat) (m : Word) (ix : Option Nat) : List Touch :=
  match e.held k with
  | none => []
  | some (v, o) =>
    (lanesOf m).filterMap (fun l =>
      match v.addr o (wIndex e ix l) with
      | none => none
      | some a => some { kind := 4, va := a, n := v.esize })

/-- The accesses of a word in its active lanes, by VA. -/
def Env.touches (e : Env) (i : Instr) : List Touch :=
  match i with
  | .ld f => e.mTouches f i 1 f.off15
  | .st f => e.mTouches f i 2 f.off15
  | .atom f => e.mTouches f i 3 f.off10
  | .acas f => e.mTouches f i 3 f.off10
  | .gld f => e.mTouch f i 1 f.off15
  | .gst f => e.mTouch f i 2 f.off15
  | .gatom f => e.mTouch f i 3 f.off10
  | .ldMelded f => (f.arms e).flatMap (fun a =>
      (lanesOf a.m).map (fun l => { kind := 1, va := e.gr.vReg64 a.a l, n := 4 }))
  | .stMelded f => (f.arms e).flatMap (fun a =>
      (lanesOf a.m).map (fun l => { kind := 2, va := e.gr.vReg64 a.a l, n := 4 }))
  | .wld f => e.viewTouches f.w1.toNat (e.lanesFor i) f.ix
  | .wst f => e.viewTouches f.w1.toNat (e.lanesFor i) f.ix
  | .wldMelded f => (f.arms e).flatMap (fun a => e.viewTouches (a.a % 16) a.m none)
  | .wstMelded f => (f.arms e).flatMap (fun a => e.viewTouches (a.a % 16) a.m none)
  | .cpa f =>
    let n : Nat := 4 * 2 ^ (f.mode.extractLsb' 11 2).toNat
    (lanesOf (e.lanesFor i)).flatMap (fun l =>
      let off : Int := if f.vop = 0xFF then 0
        else extOff (f.mode.getLsbD 10) (e.gr.vReg f.vop.toNat l) * (n : Int)
      [{ kind := 4, va := e.g (f.mode.extractLsb' 13 6).toNat + BitVec.ofInt 64 off, n := n },
       { kind := 4, va := e.g f.gp.toNat + BitVec.ofInt 64 off, n := n }])
  | .lnch f =>
    if e.groupGuard i.guard then [{ kind := 1, va := e.g (f.aux.extractLsb' 0 6).toNat, n := 64 }] else []
  | _ => []

/-- The access of a group load of 8 bytes (R267, R270, R118). -/
def State.wordAcc (s : State) (e : Env) : Acc :=
  { n := 8, rd := true, wr := false, feet := (s.core e.gr.core).dstFeet e.who.tid, l1 := some e.gr.core }

/-- What a group load of 8 bytes would read. -/
def State.look (s : State) (e : Env) (va : Word) : Option Word :=
  match s.access e.tm (s.wordAcc e) va with
  | .error _ => none
  | .ok p => some (BitVec.ofNat 64 (leVal (s.load e.who e.gr.core false p 8).1))

/-- The reads that a `briv` makes of its permitted-target table (R270). -/
def State.tableTouches (s : State) (e : Env) (i : Instr) : List Touch :=
  let at_ (a : Word) : Touch := { kind := 1, va := a, n := 8 }
  match i with
  | .briv f =>
    let p := e.tm.desc.ptt + BitVec.ofNat 64 (8 * (f.aux.extractLsb' 8 6).toNat)
    if e.lanesFor i = 0 || e.over (f.aux.extractLsb' 0 8).toNat then []
    else
      match s.look e p with
      | none => [at_ p]
      | some tb => at_ p :: at_ tb :: at_ (tb + 8) :: (lanesOf (e.lanesFor i)).map (fun l =>
          at_ (tb + 16 + BitVec.ofNat 64 (8 * (e.gr.vReg (f.aux.extractLsb' 0 8).toNat l).toNat)))
  | _ => []

/-- The footprint of a held view. -/
def Env.footOf (e : Env) (k : Nat) : List (Int × Int) :=
  match e.held k with
  | none => []
  | some (v, _) => match v.foot with | none => [] | some f => [f]

/-- The footprints of an engine word with its guard true (R113, R224). -/
def Env.engineFeet (e : Env) (i : Instr) : List (Int × Int) :=
  match i with
  | .cpw f => e.footOf f.w1.toNat ++ e.footOf f.w2.toNat
  | .cpg f => e.footOf f.w1.toNat ++ e.footOf f.w2.toNat
  | .cpx f => e.footOf f.w1.toNat ++ e.footOf f.w2.toNat
  | .cpm f => e.footOf f.w2.toNat
  | .mmlp f =>
    let w := e.g (f.gp.toNat + 3)
    e.footOf f.w1.toNat ++ e.footOf f.w2.toNat ++
    (if f.mode.getLsbD 0 then
      e.footOf (bits w 15 12) ++ (if bit w 0 then e.footOf (bits w 19 16) else [])
     else [])
  | _ => []

/-- An interval less another. -/
def cutInterval (x y : Int × Int) : List (Int × Int) :=
  [(x.1, min x.2 y.1), (max x.1 y.2, x.2)].filter (fun z => decide (z.1 < z.2))

/-- The interval of VAs a window holds. -/
def Win.span (w : Win) : Int × Int := (w.va.toNat, w.va.toNat + w.len.toNat)

/-- Some byte of a VA interval has, after sluice translation, an IA in a range. A scratchpad byte has no
IA. -/
def State.iaHits (s : State) (ctx : Nat) (x : Int × Int) (lo hi : Nat) : Bool :=
  (List.range 16).any (fun n =>
    let w := s.win ctx n
    let d : Int := (w.va.toNat : Int) - w.ia.toNat
    let a : Int × Int := (max x.1 (max w.span.1 (lo + d)), min x.2 (min w.span.2 (hi + d)))
    w.ok && !bit w.ctl 3 && decide (a.1 < a.2) &&
    ((List.range n).foldl (fun (rest : List (Int × Int)) (k : Nat) =>
      let u := s.win ctx k
      if u.ok then rest.flatMap (fun r => cutInterval r u.span) else rest) [a]).length != 0)

/-- The slot of a team on the issuer's core. -/
def Env.slot (e : Env) : Nat :=
  match e.tm.place with
  | some p => if e.gr.core = p.core then p.slot else p.slot2
  | none => 0

/-- A comparator set is bound to the issuer's group (R223). -/
def Cmpr.bound (c : Cmpr) (e : Env) : Bool :=
  bit c.ctl 0 && bits c.ctl 21 16 == e.slot && (bit c.ctl 31 || bits c.ctl 29 24 == e.who.grp)

/-- A comparator set matches the word about to issue (R224). For another KIND than 0 its first address is an IA, in bits
51:0 (R223). -/
def State.cmprHits (s : State) (e : Env) (i : Instr) (c : Cmpr) : Bool :=
  let kind := bits c.ctl 3 1
  let lo := if kind = 0 then c.lo.toNat else c.lo.toNat % 2 ^ 52
  let hi := c.hi.toNat
  if !c.bound e then false
  else if kind = 0 then decide (lo ≤ e.pc.toNat) && decide (e.pc.toNat < hi)
  else
    (e.touches i ++ s.tableTouches e i).any (fun t => (t.kind == kind || kind == 5) &&
      s.iaHits e.tm.ctx (t.va.toNat, t.va.toNat + t.n) lo hi) ||
    (kind == 4 && (i.guard.lane || e.groupGuard i.guard) &&
      (e.engineFeet i).any (fun x => s.iaHits e.tm.ctx x lo hi))

/-- The comparator sets of the issuer's core that match, by number. -/
def State.matches (s : State) (e : Env) (i : Instr) : List (Nat × Cmpr) :=
  (s.core e.gr.core).cmps.filter (fun c => s.cmprHits e i c.2)

/-- The first matching set that stops, with its cause: kind 0 for a word address, 1 for data (R224). -/
def stopOf (ms : List (Nat × Cmpr)) : Option (Cmpr × BitVec 9) :=
  match ms.find? (fun c => !bit c.2.ctl 4) with
  | none => none
  | some (_, c) =>
    let kind := if bits c.ctl 3 1 = 0 then 0x140 else 0x150
    some (c, BitVec.ofNat 9 (kind + bits c.ctl 11 8))

/-- A group stops (R226). -/
def Group.stop (g : Group) (c : BitVec 9) : Group := if g.ended then g else { g with stopped := true, stopCause := c }

/-- A group that has not ended stops and posts its DEBUG record (R226): its PC is that of the fragment in its slot,
or of its first. -/
def State.stopGroup (s : State) (w : Sel) (c : BitVec 9) : State :=
  match s.grp? w with
  | none => s
  | some g =>
    if g.ended then s
    else
      let pc := ((g.frags.find? (fun f => !f.2.entry)).orElse (fun _ => g.frags.head?)).elim 0 (fun f => f.2.pos.pc)
      (s.modGrp w (fun g => g.stop c)).emit g.core [] (s.recOf w 0x0D [c.zeroExtend 64, pc])

/-- A debug stop of the issuer's group, and with `team` of every group of the team (R226). -/
def State.debugStop (s : State) (e : Env) (c : BitVec 9) (team : Bool) : State :=
  let s1 := (s.modGrp e.who (fun g => g.stop c)).emit e.gr.core [] (some (e.trec 0x0D [c.zeroExtend 64, e.pc]))
  if team then
    (e.tm.groups.filter (fun g => g.1 != e.who.grp)).foldl
      (fun s g => s.stopGroup { e.who with grp := g.1, frag := 0 } c) s1
  else s1

/-- The old bytes of what a word would store to, as its group reads them (R231). -/
def State.undoBytes (s : State) (e : Env) (i : Instr) : List StByte :=
  let writes := (e.touches i).filter (fun t => t.kind == 2 || t.kind == 3 ||
    (t.kind == 4 && (i.opc == 0x243)))
  writes.flatMap (fun t =>
    match s.access e.tm { n := t.n, rd := false, wr := true, atomic := t.kind == 3 } t.va with
    | .error _ => []
    | .ok (.scr o) => (List.range t.n).map (fun k =>
        { scr := true, key := o + k, ia := 0
          val := ((s.core e.gr.core).gatedByte e.who true (o + k)).getD (e.tm.scrRd (o + k)) })
    | .ok (.mem ia keys) => (keys.zip (List.range keys.length)).map (fun k =>
        { scr := false, key := k.1, ia := ia + k.2
          val := ((s.core e.gr.core).gatedByte e.who false k.1).getD (s.rdKey k.1) }))

end Sys2Proof.Machine
end

