-- ==== Sys2Proof/Machine/Interlock.lean ====
section
/-! DEFINITION. The registers a word reads or writes, for the interlock of R33. The scoreboard numbers
vector register r as r, g register n as 256 + n, h register n as 320 + n, and group predicate n as 328 + n. -/

namespace Sys2Proof.Machine

/-- A g register as the issuer names it. -/
def Env.sbG (e : Env) (n : Nat) : Nat := if e.fr.inH && decide (56 ≤ n) then 320 + (n - 56) else 256 + n

/-- A group predicate; gp0 is never written (R27). -/
def sbGp (n : Nat) : List Nat := if n = 0 then [] else [328 + n]

/-- `n` registers from `r`. -/
def block (r n : Nat) : List Nat := (List.range n).map (r + ·)

/-- A register of a TY code: one, or a pair. -/
def tyRegs (ty r : Nat) : List Nat := if wide ty then [r, r + 1] else [r]

/-- The registers of a V word (R246 and the entries). -/
def Env.vRegs (e : Env) (i : Instr) (f : VF) : List Nat :=
  let d := f.d.toNat
  let a := f.a.toNat
  let b := f.b.toNat
  let c := f.c.toNat
  let ty := f.ty.toNat
  let srcB := if f.bg then [e.sbG b] else tyRegs ty b
  let srcC := if f.cg then [e.sbG c] else tyRegs ty c
  match i with
  | .plog _ => []
  | .ballot _ => if f.sub = 0 then [e.sbG d] else []
  | .vbc _ => tyRegs ty d ++ [e.sbG b]
  | .vrdl _ => [e.sbG d] ++ tyRegs ty a ++ (if f.cg then [e.sbG c] else [])
  | .vred _ => [e.sbG d] ++ tyRegs ty a
  | .vshfl _ => tyRegs ty d ++ tyRegs ty a ++
      (if f.sub = 0 then (if f.bg then [e.sbG b] else [b]) else if f.cg then [e.sbG c] else [])
  | .vcmp _ => tyRegs ty a ++ srcB
  | .vfcmp _ => [a] ++ srcB
  | .vsel _ => tyRegs ty d ++ tyRegs ty a ++ srcB
  | .vmov _ => tyRegs ty d ++ (if f.sub = 0 then tyRegs ty a else [])
  | .vabs _ => tyRegs ty d ++ tyRegs ty a
  | .vbits _ => tyRegs ty d ++ tyRegs ty a
  | .vmad _ => tyRegs ty d ++ tyRegs ty a ++ srcB ++ srcC
  | .vbfe _ => [d, a] ++ srcB ++ srcC
  | .vbfi _ => [d, a] ++ srcB ++ srcC
  | .vfma _ => [d, a] ++ srcB ++ srcC
  | .vfdp4 _ => [d] ++ block a (if ty = 1 then 4 else 2) ++ block b (if ty = 1 then 4 else 2) ++ srcC
  | .vcvt _ => tyRegs ty d ++ (if c = 0x16 ∨ c = 0x17 then [a, a + 1] else [a])
  | .vnarw _ => [d, a, e.sbG b] ++ (if f.cg then [e.sbG c] else [])
  | .vwide _ => [d, a] ++ (if f.bg then [e.sbG b] else [])
  | .vscl _ => [e.sbG d, a]
  | .vpack _ => [d] ++ block a (if ty < 5 then 2 else 4)
  | .vunpk _ => [a] ++ block d (if ty < 5 then 2 else 4)
  | .mmas _ => block d e.width ++ block a 4 ++ block b 4
  | .xlut _ => [d, d + 1, a, e.sbG b]
  | .xunp _ => block d (bits (e.g b) 13 8) ++ [a, a + 1, e.sbG b]
  | .vfrcp _ => [d, a]
  | .vfrsq _ => [d, a]
  | .vfsqrt _ => [d, a]
  | .vfex2 _ => [d, a]
  | .vflg2 _ => [d, a]
  | .vfsin _ => [d, a]
  | .vfcos _ => [d, a]
  | .vfcls _ => [d, a]
  | _ => tyRegs ty d ++ tyRegs ty a ++ srcB

/-- The registers of an M word. -/
def Env.mRegs (e : Env) (i : Instr) (f : MF) : List Nat :=
  let vo := if f.vo = 0xFF then [] else [f.vo.toNat]
  let n := f.bytes / 4 + (if f.bytes < 4 then 1 else 0)
  let gb := [e.sbG f.gb.toNat]
  match i with
  | .ld _ => block f.data.toNat n ++ vo ++ gb
  | .st _ => block f.data.toNat n ++ vo ++ gb
  | .atom _ => block f.data.toNat n ++ vo ++ gb
  | .acas _ => block f.data.toNat (2 * n) ++ vo ++ gb
  | .prf _ => vo ++ gb
  | .fence _ => []
  | .ptsync _ => []
  | _ => [e.sbG f.data.toNat] ++ gb

/-- The registers of an X word. -/
def Env.xRegs (e : Env) (i : Instr) (f : XF) : List Nat :=
  let g (k : Nat) : List Nat := (List.range k).map (fun j => e.sbG (f.gp.toNat + j))
  let vop := f.vop.toNat
  let view := e.held f.w1.toNat
  let ix : List Nat := f.ix.elim [] (fun r => block r (view.elim 1 (fun v => v.1.rank)))
  let el : Nat := view.elim 1 (fun v => if v.1.esize = 8 then 2 else 1)
  match i with
  | .mmlp _ => g (if f.mode.getLsbD 0 then 5 else 3) ++ block vop e.width
  | .eptab _ => g 2
  | .xlz _ => g 8
  | .wopen _ => g 8
  | .wld _ => block vop el ++ ix
  | .wst _ => block vop el ++ ix
  | .wadv _ => g 2
  | .wget _ => g 8
  | .cpa _ => g 1 ++ [e.sbG (f.mode.extractLsb' 13 6).toNat] ++ (if f.vop = 0xFF then [] else [vop])
  | .cpg _ => [vop]
  | .cpx _ => [vop]
  | .cpm _ => g ((f.mode.extractLsb' 0 3).toNat + 1)
  | .bini _ => g 1
  | .crv _ => g 1
  | .grant _ => g 2 ++ [e.sbG (f.mode.extractLsb' 0 6).toNat]
  | _ => []

/-- The group predicate that a group guard reads. -/
def guardRegs (i : Instr) : List Nat := if i.guard.lane then [] else sbGp i.guard.p.toNat

/-- The group predicates a word reads or writes as operands. -/
def predRegs (i : Instr) : List Nat :=
  match i with
  | .brg f => sbGp (f.aux.extractLsb' 0 3).toNat
  | .lnch f => sbGp (f.aux.extractLsb' 12 3).toNat
  | .ballot f => if f.sub = 0 then [] else sbGp f.d.toNat
  | .gcmp f => sbGp f.d.toNat
  | .gsel f => sbGp f.sel.toNat
  | .gplog f => sbGp f.d.toNat ++ sbGp f.a.toNat ++ sbGp f.b.toNat
  | .btest f => sbGp (f.mode.extractLsb' 0 3).toNat
  | .crv f => sbGp (f.mode.extractLsb' 0 3).toNat
  | .wchk f => sbGp (f.mode.extractLsb' 0 3).toNat
  | .pgtk f => sbGp (f.imm.extractLsb' 0 3).toNat
  | _ => []

/-- The vector, g and h registers a word reads or writes, as the scoreboard numbers them. -/
def Env.dataRegs (e : Env) (i : Instr) : List Nat :=
  match i.shape with
  | .v f => e.vRegs i f
  | .vi f => (match i with | .vcmpImm _ => [] | .vfcmpImm _ => [] | _ => tyRegs f.ty.toNat f.d.toNat) ++
      tyRegs f.ty.toNat f.a.toNat
  | .vm f =>
    (f.arms e).flatMap (fun x =>
      match i with
      | .vcmpMelded _ => [x.a, x.b]
      | .vfcmpMelded _ => [x.a, x.b]
      | .ldMelded _ => [x.d, x.a, x.a + 1]
      | .stMelded _ => [x.b, x.a, x.a + 1]
      | .wldMelded _ => [x.d, x.d + 1]
      | .wstMelded _ => [x.b, x.b + 1]
      | .vmovMelded _ => [x.d, x.a]
      | _ => [x.d, x.a, x.b])
  | .m f => e.mRegs i f
  | .g f =>
    match i with
    | .gplog _ => []
    | .gcmp _ => [e.sbG f.a.toNat] ++ (if f.i then [] else [e.sbG (f.b.extractLsb' 0 6).toNat])
    | .emov _ => if f.sel = 0 ∨ f.sel = 2 then [e.sbG f.d.toNat] else [e.sbG f.a.toNat]
    | .gmov _ => [e.sbG f.d.toNat] ++ (if f.i then [] else [e.sbG (f.b.extractLsb' 0 6).toNat])
    | .gbits _ => [e.sbG f.d.toNat] ++ (if f.i then [] else [e.sbG (f.b.extractLsb' 0 6).toNat])
    | _ => [e.sbG f.d.toNat, e.sbG f.a.toNat] ++ (if f.i then [] else [e.sbG (f.b.extractLsb' 0 6).toNat])
  | .c f =>
    match i with
    | .bri _ => [e.sbG (f.aux.extractLsb' 0 6).toNat]
    | .calli _ => [e.sbG (f.aux.extractLsb' 0 6).toNat, e.sbG 62]
    | .lnch _ => [e.sbG (f.aux.extractLsb' 0 6).toNat]
    | .call _ => [e.sbG 62]
    | .ret _ => [e.sbG 62]
    | .briv _ => [(f.aux.extractLsb' 0 8).toNat]
    | .mrep _ => [(f.aux.extractLsb' 0 8).toNat]
    | _ => []
  | .x f => e.xRegs i f
  | .s f =>
    match i with
    | .srd _ => [e.sbG f.g.toNat]
    | .swr _ => [e.sbG f.g.toNat]
    | .pgtk _ => [e.sbG f.g.toNat]
    | .pgmap _ => [e.sbG f.g.toNat, e.sbG (f.imm.extractLsb' 0 6).toNat]
    | .mark _ => [e.sbG f.g.toNat]
    | .sig _ => [e.sbG f.g.toNat]
    | _ => []
  | .event => []

/-- The registers and group predicates a word reads or writes, as the scoreboard numbers them (R33). -/
def Env.regs (e : Env) (i : Instr) : List Nat := e.dataRegs i ++ predRegs i ++ guardRegs i

/-- One of some registers has a pending write (R33). -/
def Env.blocked (e : Env) (rs : List Nat) : Bool := e.gr.pend != [] && e.gr.pend.any (fun p => rs.contains p.reg)

end Sys2Proof.Machine
end

