-- ==== Sys2Proof/Machine/Ops.lean ====
section
/-! DEFINITION. The operations every word shares: fetching and checking a transfer's target (R267), taking
a trap, halting and leaving a handler (R195 to R201), and the issue of a word (R194, R244, R245). -/

namespace Sys2Proof.Machine

/-! Fetch. -/

/-- The bytes at a place at their point of coherence, with nothing cached. -/
def State.peek (s : State) (tid : Nat) (p : Where) (n : Nat) : List Byte :=
  match p with
  | .scr o =>
    match AMap.find s.teams tid with
    | none => []
    | some t => (List.range n).map (fun i => t.scrRd (o + i))
  | .mem _ keys => keys.map s.rdKey

/-- A MEM cause of every lane of `exec`, at an address. -/
def Env.memTrap (e : Env) (k : MemKind) (m : Miss) : TrapInfo := { e.trapOf (.mem k m.1) with va := m.2 }

/-- The word at a place that control goes to, as an 8-byte load of kind 0 (R267): under every fault `%tva` is the
target. It is read at its point of coherence, past stores of the group that are still at the gate (log 76). -/
def State.fetch (s : State) (e : Env) (va : Word) : Except TrapInfo Word :=
  match s.access e.tm { s.wordAcc e with l1 := none } va with
  | .error m => .error (e.memTrap .load (m.1, va))
  | .ok p => .ok (BitVec.ofNat 64 (leVal (s.peek e.who.tid p 8)))

/-- Group loads of 8 bytes, in order (R270): the words with the state that they leave, or the fault; `none` where a
line is absent (R135). -/
def State.loadWords (e : Env) : List Word → State → Except (Option TrapInfo) (List Word × State)
  | [], s => .ok ([], s)
  | a :: as, s =>
    match s.access e.tm (s.wordAcc e) a with
    | .error m => .error (some (e.memTrap .load m))
    | .ok p =>
      if (match p with | .scr o => e.tm.absentAt o 8 | .mem _ _ => false) then .error none
      else
        let (bs, s1) := s.load e.who e.gr.core false p 8
        match State.loadWords e as s1 with
        | .error x => .error x
        | .ok (ws, s2) => .ok (BitVec.ofNat 64 (leVal bs) :: ws, s2)

/-- The header at the target of a transfer, or the cause (R243, R267). -/
def State.checkTarget (s : State) (e : Env) (va : Word) : Except TrapInfo Word :=
  if va.toNat % 8 != 0 then .error (e.trapOf (.instr .notHeader))
  else
    match s.fetch e va with
    | .error t => .error t
    | .ok w =>
      if !isHeader w then .error (e.trapOf (.instr .notHeader))
      else if (HF.unpack w).ok then .ok w
      else .error (e.trapOf (.instr .badHeader))

/-- The VA of the header of the issuing word's clause: LEN less the words left, and the header itself. -/
def Env.header (e : Env) : Word :=
  e.pc - BitVec.ofNat 64 (8 * ((HF.unpack e.fr.pos.cl.hdr).len.toNat + 1 - e.fr.pos.cl.left))

/-- Every flag of a WAIT field reads zero (R30). -/
def Group.waitMet (g : Group) (wait : BitVec 12) : Bool :=
  (List.range 12).all (fun k => !wait.getLsbD k || g.flag k == 0)

/-- A fragment inside the clause of a header. -/
def clauseOf (pc w : Word) : Pos :=
  let h := HF.unpack w
  { pc := pc + 8, cl := { left := h.len.toNat, hdr := w, seta := h.seta, setb := h.setb, meld := h.meld } }

/-- The header at which a fragment stands at a clause boundary, or the trap that it raises (R56, R243). -/
def State.headerHere (s : State) (e : Env) : Except TrapInfo Word :=
  match s.checkTarget e e.pc with
  | .error t => .error t
  | .ok w => if (HF.unpack w).meld && e.depth == e.floor then .error (e.trapOf (.instr .meldDepth)) else .ok w

/-- The place of the word that a fragment is about to issue (R340): at a clause boundary, where a header stands that
traps nothing and its WAIT is met, the first word of the clause, since headers never issue (R243). -/
def State.nextPlace (s : State) (e : Env) : Option Pos :=
  if e.fr.pos.cl.left ≠ 0 then some e.fr.pos
  else
    match s.headerHere e with
    | .error _ => none
    | .ok w => if e.gr.waitMet (HF.unpack w).wait then some (clauseOf e.pc w) else none

/-! Traps. -/

/-- A group halts and posts its record (R199). -/
def State.halt (s : State) (e : Env) (cause inner : Nat) (ti : TrapInfo) (word cont : Pos) : State :=
  let s1 := s.modGrp e.who (fun g =>
    { g with halted := true, haltRec := some (ti, word, cont), haltKey := e.who.frag })
  match s1.grp? e.who with
  | none => s1
  | some g => s1.post (haltRecord e.tm e.who g cause inner ti)

/-- The handler's `exec` (R195, R340). -/
def Env.entryExec (e : Env) (ti : TrapInfo) : Word :=
  match ti.cause with
  | .mem _ _ => ti.lanes
  | .instr .pttTarget => ti.lanes
  | _ => if ti.stat &&& statDefer = 0 then e.fr.exec else ti.lanes

/-- The trap registers take a trap (R192). -/
def Group.setTrap (g : Group) (cause : Cause) (ti : TrapInfo) : Group :=
  { g with tcause := BitVec.ofNat 64 cause.code, tpc := ti.pc, tva := ti.va, tlanes := ti.lanes,
           tstat := ti.stat, tnext := ti.next }

/-- The fragment enters the handler at `%tvec` (R195, R196): the meld and split stacks are set aside and
h0 to h7 are free. `shown` is what `%tcause` reads. -/
def State.enter (s : State) (e : Env) (shown : Cause) (ti : TrapInfo) (word cont : Pos) : State :=
  s.modGrp e.who (fun g =>
    let g1 := (g.setTrap shown ti).modFrag e.who.frag (fun f =>
      { f with inH := true, exec := e.entryExec ti, pos := { pc := g.tvec }, split := none, re := [],
               held := none, stall := none, retry := false })
    { g1 with
      hnd := some { frag := e.fr, info := ti, entry := e.entryExec ti, word := word, cont := cont }
      h := (List.range 8).foldl (fun m n => AMap.set 0 m n (Config.freeWord s.fresh n)) []
      hmeld := [], hfloor := 0 })

/-- The trace record of a trap, which is a trigger source (R229, R230). -/
def State.noteTrap (s : State) (e : Env) (ti : TrapInfo) : State :=
  s.emit e.gr.core [32] (some (e.trec 0x06 [BitVec.ofNat 64 ti.cause.code, ti.pc, ti.lanes]))

/-- What identifies a trap for R201. -/
def TrapInfo.key (ti : TrapInfo) : Nat × Word × Word := (ti.cause.code, ti.pc, ti.va)

/-- The number of identical traps in a row with this one (R201). -/
def Env.loopCount (e : Env) (g : Group) (ti : TrapInfo) : Nat :=
  if (ti.again || ((e.fr.re != [] || e.fr.retry) && ti.stat &&& statDefer == 0)) && g.lastTrap == some ti.key then g.loops + 1 else 1

/-- A fragment takes a trap, whose word stands at `word` and which continues at `cont` (R195 to R201).
In the handler the group halts. While a sibling is in the handler, or the group's pipe jobs cannot
complete, the trap is held. A halt by SYS.FAULT_LOOP keeps the count of identical traps, and a trap with no handler counts
too (R201, log 60). -/
def State.enterTrap (s : State) (e : Env) (ti : TrapInfo) (word cont : Pos) : State :=
  let hold (s : State) : State :=
    s.modFrag e.who (fun f => { f with held := some (ti, word, cont), stall := none })
  match e.gr.hnd with
  | some h =>
    if e.fr.inH then
      (s.noteTrap e ti).halt e Cause.doubleFault.code h.info.cause.code h.info h.word h.cont
    else hold s
  | none =>
    let s1 := s.complete e.gr.core e.gr.slice e.who
    if s1.piped e.gr.core e.gr.slice e.who then hold s1
    else
      match s1.grp? e.who with
      | none => s1
      | some g =>
        let s2 := s1.noteTrap e ti
        let shown (s : State) : State := s.modGrp e.who (fun g => g.setTrap ti.cause ti)
        let n := e.loopCount g ti
        let s3 := s2.modGrp e.who (fun g => { g with loops := n, lastTrap := some ti.key })
        if g.tvec = 0 then (shown s3).halt e ti.cause.code 0 ti word cont
        else
          if 4 ≤ n then (shown s3).halt e Cause.faultLoop.code ti.cause.code ti word cont
          else s3.enter e ti.cause ti word cont

/-! Issues that the comparators do not test. -/

/-- How `Group.again` names the issue of the word at which a fragment stands: at a clause boundary that of the first word
of the clause, since headers never issue (R243). -/
def Frag.issueKey (f : Frag) (k : Nat) : Again :=
  { frag := k, pc := if f.pos.cl.left = 0 then f.pos.pc + 8 else f.pos.pc, inH := f.inH, redo := f.re.length }

/-- The next issue of the issuer. -/
def Env.key (e : Env) : Again := e.fr.issueKey e.who.frag

/-- Two name one issue. -/
def Again.same (x y : Again) : Bool := x.frag == y.frag && x.pc == y.pc && x.inH == y.inH && x.redo == y.redo

/-- The entry of an issue: it is the next of its fragment's entries. -/
def Group.againAt (g : Group) (k : Again) : Option Again := (g.again.find? (fun x => x.frag == k.frag)).filter (fun x => x.same k)

/-- What is left once an issue has happened: its own entry goes. Where the fragment goes another way than it went before, no
entry of that way is an issue to come; those from before the trap or the `trret` stay. -/
def Group.issuedOne (g : Group) (k : Again) : List Again :=
  match g.againAt k with
  | some x => g.again.erase x
  | none => g.again.filter (fun x => x.frag != k.frag || (!x.inH && (k.inH || decide (x.redo < k.redo))))

/-- How often the word at which the fragment stands has been a victim (R216): 0 at its first issue. -/
def Env.count (e : Env) : Nat := (e.gr.againAt e.key).elim 0 (·.count)

/-- The next issue of the fragment, at which its group has been stopped, is not tested by the comparators (R226). -/
def State.exempt (s : State) (e : Env) : State :=
  match s.envOf e.who with
  | none => s
  | some e1 => s.modGrp e.who (fun g => if (g.againAt e1.key).isSome then g else { g with again := e1.key :: g.again })

/-- STEP stops the group after a word that has committed or trapped (R225), by STEP as the word found it (log 82). After a
resume it stops again after exactly one word, which the comparators do not stop (R226, log 55). -/
def State.stepStop (s : State) (e : Env) : State :=
  if e.gr.stepOn then (s.debugStop e 0x160 false).exempt e else s

/-- A word has trapped: the trap is taken or held, and STEP stops the group (R225). -/
def State.takeTrap (s : State) (e : Env) (ti : TrapInfo) (word cont : Pos) : State :=
  (s.enterTrap e ti word cont).stepStop e

/-- A double fault of `trret` (R197, R199). -/
def State.doubleFault (s : State) (e : Env) (h : Handler) (c : InstrCause) : State :=
  s.halt e Cause.doubleFault.code (Cause.instr c).code h.info h.word h.cont

/-- The trap in the handler is a deferred fault (R340). -/
def Handler.deferred (h : Handler) : Bool := h.info.stat &&& statDefer ≠ 0

/-- What the fragment goes back to after the word (R197, R198): `exec`, the place to continue at, and the
restarted executions still under way. A word that trapped again while it was executed again goes back to
where its first execution left. -/
def Handler.back (h : Handler) : Word × Pos × List Re :=
  match h.frag.re with
  | [] => (h.frag.exec, h.cont, [])
  | r :: rs => if h.deferred then (h.frag.exec, h.cont, h.frag.re) else (r.exec, r.cont, rs)

/-- The word after one, within its clause. -/
def Pos.next (p : Pos) : Pos := { pc := p.pc + 8, cl := { p.cl with left := p.cl.left - 1 } }

/-- Where the fragment continues after the word, by DEFER as the handler leaves it (R197, R198, R340): at `%tnext`, or
after the word at which the trap lies. -/
def Handler.contAt (h : Handler) (g : Group) (pos : Pos) : Pos :=
  if g.tstat &&& statDefer ≠ 0 then { pos with pc := g.tnext } else if h.deferred then h.word.next else pos

/-- `exec` of the whole fragment at the trap (R197: `%tpc` written). -/
def Handler.whole (h : Handler) : Word :=
  match h.frag.re.getLast? with
  | none => h.frag.exec
  | some r => r.exec

/-- The group after its handler has been left: the stacks set aside are restored, and the fragment is as
it stood but for `exec`, its place and the restarted executions (R197). -/
def Group.leave (g : Group) (h : Handler) (pos : Pos) (exec : Word) (re : List Re) : Group :=
  { g with
    frags := AMap.insert (g.frags.filter (fun f => !f.2.inH)) h.frag.key
      { h.frag with exec := exec &&& g.live, pos := pos, re := re, stall := none, held := none }
    splits := g.splits.filter (fun r => !r.inH)
    hnd := none, hmeld := [], hfloor := 0 }

/-! Issue. -/

/-- A fragment goes on after the word that has issued: a word executed again by `trret` gives back the
whole `exec` and its own continuation (R197). -/
def State.advance (s : State) (e : Env) : State :=
  s.modGrp e.who (fun g => g.modFrag e.who.frag (fun f =>
    match f.re with
    | [] => { f with pos := e.after, stall := none, retry := false }
    | r :: rs => { f with exec := r.exec &&& g.live, pos := r.cont, re := rs, stall := none }))

/-- A fragment goes to a clause header (R31). -/
def State.jump (s : State) (e : Env) (pc : Word) : State :=
  s.modGrp e.who (fun g => g.modFrag e.who.frag (fun f =>
    match f.re with
    | [] => { f with pos := { pc := pc }, stall := none, retry := false }
    | r :: rs => { f with exec := r.exec &&& g.live, pos := { pc := pc }, re := rs, stall := none }))

/-- The words whose faults may be decided after issue (R340). -/
def deferrable (i : Instr) : Bool :=
  i.opc = 0x181 || i.opc = 0x184 || i.opc = 0x185 || (0x247 ≤ i.opc && i.opc ≤ 0x24B)

/-- A heavy word (R183): one of weight 8 or more; the steps of an `mmlp` weigh 15 (R254). -/
def heavyOpc (opc : Nat) : Bool := decide (8 ≤ weightOpc opc) || opc == 0x181

/-- A charge would take the meter past its limit in this window (R184); a CURHARD below CURSOFT acts as CURSOFT. -/
def Core.past (c : Core) (charge : Nat) : Bool := decide (max c.cursoft c.curhard < c.sum + charge)

/-- An issue that the meter denies (R184): a heavy word past the limit. -/
def Core.denies (c : Core) (weight charge : Nat) : Bool := decide (8 ≤ weight) && c.past charge

/-- The charge of an issue (R255). -/
def Env.charge (e : Env) (i : Instr) : Nat := weightOpc i.opc * popcount (e.lanesFor i)

/-- The issue is charged to the meter, and the slice remembers it, and whether it was heavy (R183, R184, R227). -/
def State.chargeIssue (s : State) (e : Env) (i : Instr) : State :=
  s.modCore e.gr.core (fun c =>
    { c with sum := c.sum + e.charge i }.modSlice e.gr.slice (fun l =>
      { l with heavy := heavyOpc i.opc, issued := some e.who }))

/-- `swr` writes the system registers that are not read only (R256, R305). -/
def sysWritten (n : Nat) : Bool := [0x10, 0x11, 0x15, 0x16].contains n || (decide (0x18 ≤ n) && decide (n ≤ 0x20))

/-- The word names a register, a predicate, a mask or a barrier's counts that it writes, whatever value that held (R231). A
write to p0 or gp0 is none (R27), nor is one to a read-only register (R305). -/
def Env.namesDest (e : Env) (i : Instr) : Bool :=
  match i.shape with
  | .v f =>
    (match i with
     | .plog _ => f.d.toNat % 8 != 0
     | .vcmp _ => f.d.toNat % 8 != 0
     | .vfcmp _ => f.d.toNat % 8 != 0
     | .ballot _ => f.sub == 0 || f.d != 0
     | _ => true)
  | .vi f => (match i with | .vcmpImm _ => f.d.toNat % 8 != 0 | .vfcmpImm _ => f.d.toNat % 8 != 0 | _ => true)
  | .vm f =>
    (match i with
     | .stMelded _ => false
     | .wstMelded _ => false
     | .vcmpMelded _ => (f.arms e).any (fun a => a.m != 0 && a.d % 8 != 0)
     | .vfcmpMelded _ => (f.arms e).any (fun a => a.m != 0 && a.d % 8 != 0)
     | _ => true)
  | .m f =>
    (match i with
     | .ld _ => true
     | .gld _ => true
     | .atom _ => f.off.getLsbD 10
     | .acas _ => f.off.getLsbD 10
     | .gatom _ => f.off.getLsbD 10
     | _ => false)
  | .g f =>
    (match i with
     | .gcmp _ => f.d != 0
     | .gplog _ => f.d != 0
     | .emov _ => f.sel != 3 || f.d != 0
     | _ => true)
  | .c f =>
    (match i with
     | .call _ => true
     | .calli _ => true
     | .lnch _ => f.aux.extractLsb' 12 3 != 0
     | .mrep _ => true
     | _ => false)
  | .x f =>
    (match i with
     | .wld _ => true
     | .wget _ => true
     | .wadv _ => true
     | .wchk _ => f.mode.extractLsb' 0 3 != 0
     | .btest _ => f.mode.extractLsb' 0 3 != 0
     | .crv _ => f.mode.extractLsb' 0 3 != 0
     | .bini _ => true
     | .grant _ => true
     | _ => false)
  | .s f =>
    (match i with
     | .srd _ => true
     | .swr _ => sysWritten f.sys.toNat
     | .pgtk _ => true
     | .pgmap _ => true
     | .trret _ => true
     | _ => false)
  | .event => false

/-- The word writes D whatever its lane guard (R264, R326, R328, R330). -/
def writesAnyway (i : Instr) : Bool :=
  match i with
  | .ballot _ => true
  | .vrdl _ => true
  | .vred _ => true
  | .vscl _ => true
  | _ => false

/-- The word acts: in some lane, or for the group (R244). -/
def Env.acts (e : Env) (i : Instr) : Bool :=
  if i.guard.lane then e.lanesFor i != 0 || writesAnyway i else e.groupGuard i.guard

/-- What a step back restores of a group (R231): the parts a word can write. -/
def Group.written (g h : Group) : Bool :=
  g.v != h.v || g.p != h.p || g.g != h.g || g.gp != h.gp || g.k != h.k || g.h != h.h ||
  g.live != h.live || g.meld != h.meld || g.hmeld != h.hmeld || g.floor != h.floor ||
  g.hfloor != h.hfloor || g.splits != h.splits || g.gstat != h.gstat || g.tarm != h.tarm ||
  g.thr != h.thr || g.thrp != h.thrp || g.evvec != h.evvec ||
  g.tvec != h.tvec || g.tcause != h.tcause || g.tpc != h.tpc || g.tva != h.tva ||
  g.tlanes != h.tlanes || g.tstat != h.tstat || g.hsa != h.hsa || g.tnext != h.tnext ||
  g.stepOn != h.stepOn || g.holds != h.holds || g.lp != h.lp || g.frags.map (fun f => f.2.exec) != h.frags.map (fun f => f.2.exec)

/-- The group as a word found it, with what earlier instructions did while the word waited for them: an `srd` of `%gstat`
writes one register (R193, R231, R304). -/
def Env.found (e : Env) (i : Instr) (g : Group) : Group :=
  match i with
  | .srd f =>
    let n := f.g.toNat
    if e.fr.inH && decide (56 ≤ n) then { g with h := g.h.putBack e.gr.h [n - 56], frags := e.gr.frags }
    else { g with g := g.g.putBack e.gr.g [n], frags := e.gr.frags }
  | _ => e.gr

/-- What a word writes of its team (R231): views, barriers, grants and carve requests. -/
def Team.written (t u : Team) : Bool :=
  t.views != u.views || t.bars != u.bars || t.grants != u.grants || t.carve != u.carve || t.granted != u.granted

/-- The entry of a word of the issuer that has had an effect and waits (R231). -/
def Env.openEntry (e : Env) (u : Undo) : Bool := u.opened && u.grp == e.who.grp && u.frag == e.who.frag

/-- A word that waits has had an effect: the group as the word found it is kept until it commits (R231). -/
def State.openLog (s : State) (e : Env) : State :=
  if !e.tm.dbgBit then s
  else
    match s.grp? e.who with
    | none => s
    | some g =>
      if !e.gr.written g || e.tm.undo.any e.openEntry then s
      else s.modTeam e.who.tid (fun t =>
        { t with undo := t.undo ++ [{ grp := e.who.grp, frag := e.who.frag, before := e.gr, after := g, bytes := []
                                      views := e.tm.views, viewsAfter := e.tm.views, opened := true }] })

/-- The undo log takes an entry for a committed word that writes state; beyond 4,096 the oldest is dropped. An engine
command logs its issue (R231). -/
def State.log (s old : State) (e : Env) (i : Instr) : State :=
  if !e.tm.dbgBit then s
  else
    match s.grp? e.who with
    | none => s
    | some g =>
      let bytes := old.undoBytes e i
      let first := e.tm.undo.find? e.openEntry
      let old := first.elim (e.found i g) (·.before)
      let team := (AMap.find s.teams e.who.tid).getD e.tm
      let views := team.views
      if first.isNone && !old.written g && !e.tm.written team && bytes == [] &&
          !((deferrable i || i.opc == 0x182 || e.namesDest i) && e.acts i) then s
      else
        s.modTeam e.who.tid (fun t =>
          let held := t.undo.filter (fun u => !e.openEntry u)
          let own := held.filter (fun u => u.grp == e.who.grp && !u.opened)
          let full := decide (4096 ≤ own.length)
          let kept := if full then held.eraseP (fun u => u.grp == e.who.grp && !u.opened) else held
          let t1 := if full then t.modGrp e.who.grp (fun g => { g with hzn := true }) else t
          { t1 with undo := kept ++ [{ grp := e.who.grp, frag := e.who.frag, before := old, after := g, bytes := bytes
                                       dests := (g.pend.filter (fun p => !e.gr.pend.contains p)).map (·.reg)
                                       lanes := if i.opc = 0x181 then BitVec.allOnes 64 else e.lanesFor i
                                       views := e.tm.views, viewsAfter := views }] })

/-- Every step uses the counter of free values once (log 6). -/
def State.tick (s : State) : State := { s with fresh := s.fresh + 1 }

/-- The word that issued as operation `id` is engine work in flight on a core, so that it has not completed. -/
def State.engaged (s : State) (core id : Nat) : Bool :=
  (AMap.find (s.core core).cmds id).isSome || (AMap.find (s.core core).loops id).isSome ||
  (s.core core).pipes.any (fun p => p.2.any (fun j => j.op == id))

/-- The word has committed: it is charged and logged, a word outside a handler that has completed ends the count of
identical traps (R201), and STEP stops the group (R225). -/
def State.retire (s old : State) (e : Env) (i : Instr) : State :=
  let s1 := s.chargeIssue e i
  let s2 := if deferrable i && s1.engaged e.gr.core old.fresh then s1 else s1.completed e.who e.fr.inH
  (s2.log old e i).stepStop e

/-- The trap fences (R193). -/
def trapFence (i : Instr) : Bool := i.opc = 0x3C2 || (0x24C ≤ i.opc && i.opc ≤ 0x250)

/-- The cause of a trap fence for the flags F (R193). -/
def fenceCause (f : Flags) : Cause :=
  if f &&& 0x3F ≠ 0 then .arith (f.extractLsb' 0 6)
  else if f &&& flOOB ≠ 0 then .view .oob else .view .xdrop

/-- The first issue of a word, which the comparators test (R224, R226, R306). -/
def Env.tested (e : Env) : Bool := (e.gr.againAt e.key).isNone && e.fr.stall.isNone

/-- The marks that an issue uses up: promotion, grace, and the rank of a `yield` (R182, R185, R339). -/
def Frag.used (f : Frag) : Frag := { f with yielded := false, promoted := false, grace := false }

/-- The marks of an issue are used up, and it is no issue to come (R216, R224, R226). -/
def Group.used (g : Group) (k : Again) : Group := { g with again := g.issuedOne k }.modFrag k.frag Frag.used

/-- The word waits (R33): nothing of it has happened but what `s` says, and the marks of its issue stay (R182). -/
def State.waits (s : State) (e : Env) (w : Stall) : State :=
  s.modGrp e.who (fun g => { g with again := e.gr.again }.modFrag e.who.frag (fun f =>
    { f with stall := some w, yielded := e.fr.yielded, promoted := e.fr.promoted, grace := e.fr.grace }))

/-- The end of a word as its meaning decides it. -/
def State.finish (s : State) (e : Env) (i : Instr) (r : Res) : State :=
  match r with
  | .done t => (t.advance e).retire s e i
  | .go t pc => (t.jump e pc).retire s e i
  | .gone t => t.retire s e i
  | .trap ti t => (t.chargeIssue e i).takeTrap e ti e.fr.pos e.after
  | .wait w t => (t.openLog e).waits e w
  | .stop c t => t.debugStop e c false

/-- The word from step 3 of R194 on: the causes of the word alone, a pending guard, a false group guard, pending
registers, a full flag, and the meaning. -/
def State.carryOut (s : State) (e : Env) (i : Instr) (body : Env → State → Res) : State :=
  let s0 := s.modGrp e.who (·.used e.key)
  match i.check with
  | some c => s.finish e i (.trap (e.trapOf (.instr c)) s0)
  | none =>
    if e.blocked (guardRegs i) then s.waits e .reg
    else if !i.guard.lane && !e.groupGuard i.guard then s.finish e i (.done s0)
    else if e.blocked (e.regs i) then s.waits e .reg
    else
      match e.flagOf i with
      | some k => if 63 ≤ e.gr.flag k then s.waits e .flag else s.finish e i (body e s0)
      | none => s.finish e i (body e s0)

/-- The fragment is parked at a barrier: its word has issued and had its effect but for the wait (R165). -/
def Env.parked (e : Env) : Bool :=
  match e.fr.stall with | some (.bar _) => true | some (.freed _) => true | _ => false

/-- The trap-fence test (R193): earlier instructions complete, then the armed flags are tested, and the word goes
on. -/
def State.fencedThen (s : State) (e : Env) (i : Instr) (go : Env → State → State) : State :=
  if trapFence i && e.groupGuard i.guard && !e.parked then
    let s1 := s.complete e.gr.core e.gr.slice e.who
    if s1.piped e.gr.core e.gr.slice e.who then s1.waits e .weir
    else
      match s1.envOf e.who with
      | none => s1
      | some e1 =>
        let f := e1.gr.gstat &&& e1.gr.tarm
        if f ≠ 0 && !e.fr.inH then
          s1.finish e1 i (.trap { e1.trapOf (fenceCause f) with stat := statFence } s1)
        else go e1 s1
  else go e s

/-- The trap-fence test, and the rest of the word. -/
def State.fenced (s : State) (e : Env) (i : Instr) (body : Env → State → Res) : State :=
  s.fencedThen e i (fun e s => s.carryOut e i body)

/-- A word reaches issue (R194): the comparators, then the fence test, then the rest. -/
def State.attemptThen (s : State) (e : Env) (i : Instr) (go : State → State) : State :=
  if e.tested && (s.core e.gr.core).cmps != [] then
    let ms := s.matches e i
    let s1 := if ms == [] then s else s.emit e.gr.core (ms.map (·.1)) none
    match stopOf ms with
    | some (c, cause) => (s1.debugStop e cause (bit c.ctl 5)).exempt e
    | none => go s1
  else go s

/-- A word reaches issue with the meaning `body`. -/
def State.attempt (s : State) (e : Env) (i : Instr) (body : Env → State → Res) : State :=
  s.attemptThen e i (fun s => s.fenced e i body)

/-- The meaning of an instruction word: it issues from the fragment that `State.cur` names. -/
def State.issue (s : State) (i : Instr) (body : Env → State → Res) : Host.Outcome State Fault Refusal :=
  match s.env with
  | none => .fault .noIssuer
  | some e => .next (s.attempt e i body).tick

end Sys2Proof.Machine
end

