-- ==== Sys2Proof/Machine/Control.lean ====
section
/-! DEFINITION. Control transfer (R267 to R271, R303, R339), splits and fragments (R34 to R39, R269, R270),
the end of lanes (R295, R198, R46), and `idle` (R296). -/

namespace Sys2Proof.Machine

/-- A transfer to a target, checked before any effect (R267). -/
def Env.transfer (e : Env) (va : Word) (s : State) (k : State → State := id) : Res :=
  match s.checkTarget e va with
  | .error t => .trap t s
  | .ok _ => .go (k s) va

/-- H + 8 × OFF26 (R267). -/
def Env.offTarget (e : Env) (f : CF) : Word := e.header + BitVec.ofInt 64 (8 * f.off.toInt)

/-- The g register an AUX24 field names in its low bits. -/
def auxReg (f : CF) : Nat := (f.aux.extractLsb' 0 6).toNat

/-- `BRA` (R268): Unconditional branch to a clause header. -/
def execBra (f : CF) (s : State) : Host.Outcome State Fault Refusal :=
  s.issue (.bra f) (fun e s => e.transfer (e.offTarget f) s)

/-- `BRG` (R268): Branch on a group predicate. -/
def execBrg (f : CF) (s : State) : Host.Outcome State Fault Refusal :=
  s.issue (.brg f) (fun e s =>
    if e.gr.gpReg (f.aux.extractLsb' 0 3).toNat != f.aux.getLsbD 3 then e.transfer (e.offTarget f) s
    else .done s)

/-- `BRI` (R268): Branch to the VA held in a g register. -/
def execBri (f : CF) (s : State) : Host.Outcome State Fault Refusal :=
  s.issue (.bri f) (fun e s => e.transfer (e.g (auxReg f)) s)

/-- The return address and the caller's FLOOR of a call, as g62 holds them: bits 60:56 are those of the address (R271), or
copies of its bit 55 (R63). The two differ for the address 2^55 alone, where either may stand (log 72). -/
def Env.link (e : Env) (n : Nat) (ra : Word) : Word :=
  let whole : BitVec 61 := ra.extractLsb' 0 61
  let extended : BitVec 61 := (ra.extractLsb' 0 56).signExtend 61
  BitVec.ofNat 3 e.floor ++ (if whole = extended then whole else if Config.linkExtended n then extended else whole)

/-- A call writes g62 and sets FLOOR to DEPTH (R271). -/
def State.callFrom (s : State) (e : Env) (ra : Word) : State :=
  s.modGrp e.who (fun g => e.putMeld e.meld e.depth (e.putG 62 (e.link s.fresh ra) g))

/-- `CALL` (R271): Calls a clause, writing g62 with the return address and FLOOR. -/
def execCall (f : CF) (s : State) : Host.Outcome State Fault Refusal :=
  s.issue (.call f) (fun e s => e.transfer (e.offTarget f) s (fun s => s.callFrom e e.afterClause))

/-- `CALLI` (R271): Calls the VA held in a g register. -/
def execCalli (f : CF) (s : State) : Host.Outcome State Fault Refusal :=
  s.issue (.calli f) (fun e s => e.transfer (e.g (auxReg f)) s (fun s => s.callFrom e e.afterClause))

/-- `RET` (R303): Returns to the address in g62 and restores FLOOR. -/
def execRet (f : CF) (s : State) : Host.Outcome State Fault Refusal :=
  s.issue (.ret f) (fun e s =>
    let l := e.g 62
    let fl := bits l 63 61
    if e.depth ≠ e.floor ∨ e.depth < fl then e.instr .meldDepth s
    else
      e.transfer ((l.extractLsb' 0 56).signExtend 64) s
        (fun s => s.modGrp e.who (fun g => e.putMeld e.meld fl g)))

/-- `YIELD` (R339): Ends the clause, as a taken branch to the header after it, and lowers the fragment's selection rank
until it next issues. -/
def execYield (f : CF) (s : State) : Host.Outcome State Fault Refusal :=
  s.issue (.yield f) (fun e s =>
    e.transfer e.afterClause s (fun s =>
      (s.modFrag e.who (fun fr => { fr with yielded := true })).modSlice e.gr.core e.gr.slice (fun l =>
        { l with rest := some e.who })))

/-- `NOP` (R303): Takes one issue slot and changes nothing. -/
def execNop (f : CF) (s : State) : Host.Outcome State Fault Refusal :=
  s.issue (.nop f) (fun _ s => .done s)

/-- `IDLE` (R296): Parks the group until a wake, or consumes a pending wake. -/
def execIdle (f : CF) (s : State) : Host.Outcome State Fault Refusal :=
  s.issue (.idle f) (fun e s =>
    .done (s.modGrp e.who (fun g => if g.wake then { g with wake := false } else { g with idle := true })))

/-! Splits. -/

/-- The chain of records of a fragment, the innermost first. -/
def Group.chain (g : Group) : Nat → Option Nat → List SplitRec
  | 0, _ => []
  | _ + 1, none => []
  | n + 1, some r =>
    match g.splits.find? (fun x => x.id == r) with
    | none => []
    | some x => x :: g.chain n x.parent

/-- The records of a fragment. -/
def Group.recs (g : Group) (f : Frag) : List SplitRec := g.chain (g.splits.length + 1) f.split

/-- The fragment in the handler, as it stood at the trap (R195). -/
def Group.aside (g : Group) : List (Nat × Frag) :=
  match g.hnd with
  | none => []
  | some h => [(h.frag.key, h.frag)]

/-- The fragments that belong to a record, inner splits included; one that is in the handler belongs to the
records set aside. -/
def Group.members (g : Group) (r : Nat) : List (Nat × Frag) :=
  (g.frags ++ g.aside).filter (fun f => (g.recs f.2).any (fun x => x.id == r))

/-- The fragment stands in the group's slot (R182). -/
def Group.inSlot (g : Group) (f : Frag) : Bool :=
  !f.entry && (g.recs f ++ (if f.inH then g.aside.flatMap (fun a => g.recs a.2) else [])).all (fun r => !r.home)

/-- Carousel entries of a slice that are held (R35). -/
def State.entriesHeld (s : State) (core slice : Nat) : Nat :=
  s.teams.foldl (fun a t =>
    if t.2.onCore core then
      t.2.groups.foldl (fun a g =>
        if g.2.core = core ∧ g.2.slice = slice then
          a + (g.2.frags.filter (fun f => f.2.entry)).length + (g.2.splits.filter (fun r => r.home)).length
        else a) a
    else a) 0

/-- Free carousel entries of a slice (R35). -/
def State.entriesFree (s : State) (core slice : Nat) : Nat := 64 - s.entriesHeld core slice

/-- The first fragment, in key order, that waits for an entry on a slice since its resumption (R208). -/
def State.lateFrag (s : State) (core slice : Nat) : Option Sel :=
  s.teams.findSome? (fun t =>
    if t.2.onCore core then
      t.2.groups.findSome? (fun g =>
        if g.2.core = core ∧ g.2.slice = slice then
          match g.2.frags.find? (fun f => f.2.late) with
          | some f => some { tid := t.1, grp := g.1, frag := f.1 : Sel }
          | none => none
        else none)
    else none)

/-- Free entries start the fragments that wait for one since their resumption (R208). -/
def State.fillEntries (core slice : Nat) : Nat → State → State
  | 0, s => s
  | n + 1, s =>
    if s.entriesFree core slice = 0 then s
    else
      match s.lateFrag core slice with
      | none => s
      | some w => State.fillEntries core slice n
          (s.modFrag w (fun f => { f with entry := true, late := false, st := .running }))

/-- The whole `exec` of a fragment whose word `trret` executes again (R197). -/
def Env.whole (e : Env) : Word :=
  match e.fr.re with
  | [] => e.fr.exec
  | r :: _ => r.exec &&& e.gr.live

/-- A new split (R34, R35, R39): the parts with their targets, the one that keeps the issue context first;
the others take a carousel entry while one is free, and wait otherwise. -/
def Group.split (g : Group) (e : Env) (join : Word) (first : Word × Word) (rest : List (Word × Word))
    (free : Nat) (serial : Bool) : Group :=
  let id := g.nextRec
  let r : SplitRec :=
    { id := id, parent := e.fr.split, join := join, lanes := e.whole, outer := e.fr.mask, serial := serial,
      home := e.fr.entry, key := e.who.frag, inH := e.fr.inH }
  let part (x : Word × Word) (k : Nat) (run entry : Bool) : Frag :=
    { key := k, pos := { pc := x.2 }, exec := x.1, mask := x.1, st := if run then .running else .waiting,
      entry := entry, split := some id, inH := e.fr.inH }
  let base := g.nextKey
  let kept := part first e.who.frag true false
  let others := (rest.zip (List.range rest.length)).map (fun xi =>
    let run := decide (xi.2 < free)
    part xi.1 (base + xi.2) run run)
  { g with
    splits := g.splits ++ [r], nextRec := id + 1, nextKey := base + rest.length
    frags := others.foldl (fun m f => AMap.insert m f.key f) (AMap.insert g.frags e.who.frag kept) }

/-- The first word of the clause at a join address is `join` (R269). -/
def State.joinAt (s : State) (e : Env) (j : Word) : Except TrapInfo Bool :=
  match s.fetch e (j + 8) with
  | .error t => .error t
  | .ok w => .ok (opcOf w == 0x009)

/-- Words of a permitted-target table are loaded (R270): a fault is taken, an absent line waited for (R135), and else
the rest goes on with them. -/
def State.loadThen (s : State) (e : Env) (as : List Word) (k : List Word → State → Res) : Res :=
  match State.loadWords e as s with
  | .error none => .wait .line s
  | .error (some t) => .trap t s
  | .ok (ws, s1) => k ws s1

/-- `join` must be the first word of the clause at a join address, or the word traps (R269, R270). -/
def State.joinThen (s : State) (e : Env) (j : Word) (k : State → Res) : Res :=
  match s.joinAt e j with
  | .error t => .trap t s
  | .ok false => e.instr .meldSplit s
  | .ok true => k s

/-- `BRV` (R269): Divergent branch on a lane predicate that splits the group into fragments with a join address.
-/
def execBrv (f : CF) (s : State) : Host.Outcome State Fault Refusal :=
  s.issue (.brv f) (fun e s =>
    let tgt := e.offTarget f
    let j := e.header + BitVec.ofInt 64 (8 * (f.aux.extractLsb' 4 20).toInt)
    match s.checkTarget e tgt with
    | .error t => .trap t s
    | .ok _ =>
      match s.checkTarget e j with
      | .error t => .trap t s
      | .ok _ =>
        s.joinThen e j (fun s =>
          let p := e.gr.pReg (f.aux.extractLsb' 0 3).toNat
          let t := e.active (Instr.brv f).guard &&& (if f.aux.getLsbD 3 then ~~~p else p)
          if t = e.fr.exec then .go s tgt
          else if t = 0 then .go s e.afterClause
          else if 16 ≤ e.splits.length then e.instr .meldSplit s
          else
            let free := s.entriesFree e.gr.core e.gr.slice
            let rest := e.whole &&& ~~~t
            .gone (s.modGrp e.who (fun g =>
              if 0 < free then g.split e j (rest, e.afterClause) [(t, tgt)] 1 false
              else
                -- serial: the taken part runs in the home context, the other waits
                g.split e j (t, tgt) [(rest, e.afterClause)] 0 true))))

/-- Check targets in order (R267). -/
def State.checkAll (s : State) (e : Env) : List Word → Except TrapInfo Unit
  | [] => .ok ()
  | a :: as =>
    match s.checkTarget e a with
    | .error t => .error t
    | .ok _ => s.checkAll e as

/-- The numbers of a list without repeats, ascending. -/
def ascending (n : Nat) (xs : List Nat) : List Nat := (List.range n).filter (fun i => xs.contains i)

/-- The parts of a `briv` with their targets (R39, R270), the target of the lowest table index first. Lanes of `exec`
that are not active go with the lowest index. -/
def Env.brivParts (e : Env) (a : Word) (low : Nat) (ix : Nat → Nat) (tgts : List (Nat × Word)) : List (Word × Word) :=
  let laneTgt (l : Nat) : Word :=
    (tgts.find? (fun x => x.1 == if a.getLsbD l then ix l else low)).elim 0 (·.2)
  (tgts.map (·.2)).eraseDups.map (fun v => (maskIf (fun l => e.whole.getLsbD l && laneTgt l == v), v))

/-- `BRIV` (R270): Per-lane indirect branch through a permitted-target table, splitting into fragments. -/
def execBriv (f : CF) (s : State) : Host.Outcome State Fault Refusal :=
  s.issue (.briv f) (fun e s =>
    let r := (f.aux.extractLsb' 0 8).toNat
    let t := (f.aux.extractLsb' 8 6).toNat
    if e.over r then e.instr .regRange s
    else if e.tm.desc.ptn ≤ t then e.instr .pttIndex s
    else
      s.loadThen e [e.tm.desc.ptt + BitVec.ofNat 64 (8 * t)] (fun tbs s =>
        let tb := tbs.getD 0 0
        s.loadThen e [tb, tb + 8] (fun ws s =>
          let cnt := (ws.getD 0 0).toNat
          let j := ws.getD 1 0
          if cnt = 0 ∨ 64 < cnt then e.instr .pttIndex s
          else
            let a := e.active (Instr.briv f).guard
            let ix (l : Nat) : Nat := (e.gr.vReg r l).toNat
            if a = 0 then .go s e.afterClause
            else
              let bad := maskIf (fun l => a.getLsbD l && decide (cnt ≤ ix l))
              if bad ≠ 0 then .trap { e.trapOf (.instr .pttTarget) with lanes := bad } s
              else
                let used := ascending cnt ((lanesOf a).map ix)
                s.loadThen e (used.map (fun n => tb + BitVec.ofNat 64 (16 + 8 * n))) (fun tgts s =>
                  match s.checkAll e (j :: tgts) with
                  | .error x => .trap x s
                  | .ok _ =>
                    s.joinThen e j (fun s =>
                      match e.brivParts a (used.headD 0) ix (used.zip tgts) with
                      | [] => .go s e.afterClause
                      | [x] => .go s x.2
                      | x :: xs =>
                        if 16 ≤ e.splits.length then e.instr .meldSplit s
                        else
                          .gone (s.modGrp e.who (fun g =>
                            g.split e j x xs (s.entriesFree e.gr.core e.gr.slice) false)))))))

/-- A waiting fragment of a record starts in the context that another gives up (R36): the one with the
lowest table index. -/
def Group.startWaiting (g : Group) (r : Nat) (giver : Frag) : Option Group :=
  match g.frags.find? (fun f => f.2.split == some r && f.2.st == .waiting) with
  | none => none
  | some (k, _) => some ((g.modFrag giver.key (fun f => { f with entry := false })).modFrag k (fun f =>
      { f with st := .running, late := false, entry := giver.entry }))

/-- The fragments of a record fuse (R36): one fragment is left, in the record's home context, at `pos`. -/
def Group.fuse (g : Group) (r : SplitRec) (base : Frag) (pos : Pos) : Group :=
  let parts := g.members r.id
  let lanes := parts.foldl (fun a f => a ||| f.2.mask) 0
  let rest := g.frags.filter (fun f => !(g.recs f.2).any (fun x => x.id == r.id))
  { g with
    splits := g.splits.filter (fun x => x.id != r.id)
    frags := AMap.insert rest r.key
      { base with key := r.key, pos := pos, exec := lanes &&& g.live, mask := r.outer, split := r.parent,
                  st := .running, entry := r.home, re := [], stall := none, late := false } }

/-- `JOIN` (R36): Parks a fragment at its join or fuses the fragments of the innermost split record. -/
def execJoin (f : CF) (s : State) : Host.Outcome State Fault Refusal :=
  s.issue (.join f) (fun e s =>
    match e.gr.recs e.fr with
    | [] => .done s
    | r :: outer =>
      if r.join = e.header then
        .gone (
          let s1 := s.modGrp e.who (fun g =>
            let others := (g.members r.id).filter (fun x => x.1 != e.who.frag)
            if others.all (fun x => x.2.split == some r.id && x.2.st == .joined) then g.fuse r e.fr e.after
            else
              let g1 := g.modFrag e.who.frag (fun f => { f with st := .joined, stall := none })
              (g1.startWaiting r.id e.fr).getD g1)
          State.fillEntries e.gr.core e.gr.slice 64 s1)
      else if outer.any (fun x => x.join == e.header) then e.instr .meldSplit s
      else .done s)

/-! The end of lanes. -/

/-- A fragment has ended all its lanes under a record (R36, R37): it is removed, and the record's other
fragments start, fuse, or leave the record. Where none is left and lanes are live that the record gave to no part,
the record's home context goes on with them outside `exec` (R69). -/
def Group.vanish (g : Group) (f : Frag) : Nat → Option Nat → Group
  | 0, _ => g
  | _, none => g
  | n + 1, some id =>
    match g.splits.find? (fun x => x.id == id) with
    | none => g
    | some r =>
      let others := g.members id
      if others == [] then
        let g1 := { g with splits := g.splits.filter (fun x => x.id != id) }
        if r.parent.isNone || r.outer &&& g.live != 0 then
          let home := { f with key := r.key, exec := 0, mask := r.outer, split := r.parent, st := .running
                               entry := r.home, re := [], stall := none, late := false }
          { g1 with frags := AMap.insert g1.frags r.key home }
        else g1.vanish { f with entry := r.home } n r.parent
      else
        match g.startWaiting id f with
        | some g1 => g1
        | none =>
          if others.all (fun x => x.2.split == some id && x.2.st == .joined) then
            match others with
            | [] => g
            | x :: _ => g.fuse r x.2 x.2.pos.next
          else g

/-- A fragment with no live lane left is removed (R37). -/
def Group.remove (g : Group) (f : Frag) : Group :=
  ({ g with frags := AMap.erase g.frags f.key }).vanish (AMap.get f g.frags f.key) (g.splits.length + 1) f.split

/-- The group has no live lane left: it ends (R37, R46), and counts at every barrier. Where that is an arrival, its
earlier accesses are performed first (R166). -/
def State.endGroup (s : State) (w : Sel) : State :=
  let s0 := if s.barsLeft w == [] then s else s.drainStores ((s.grp? w).elim 0 (·.core)) w
  let s1 := s0.modGrp w (fun g =>
    { g with ended := true, frags := [], splits := [], hnd := none, meld := [], hmeld := [], floor := 0, hfloor := 0
             wake := false })
  (s1.exitArrive w).postDead w

/-- `exit` in a handler in which no lane remains (R198): the handler is left. -/
def Group.exitHandler (g : Group) (h : Handler) : Group :=
  let (exec, pos, re) := h.back
  if h.tpcWritten then g.leave h { pc := g.tpc } h.whole [] else g.leave h (h.contAt g pos) exec re

/-- The lanes `E` end (R295, R198). -/
def State.exitLanes (s : State) (e : Env) (ended : Word) : State :=
  let s1 := s.modGrp e.who (fun g => ({ g with live := g.live &&& ~~~ended }).modFrag e.who.frag (fun f =>
    { f with exec := e.whole &&& ~~~ended, pos := { pc := e.afterClause }, re := [], stall := none }))
  match s1.grp? e.who with
  | none => s1
  | some g =>
    if g.live = 0 then State.fillEntries e.gr.core e.gr.slice 64 (s1.endGroup e.who)
    else
      let s2 := s1.modGrp e.who (fun g =>
        match g.hnd with
        | some h =>
          if e.fr.inH then
            if h.entry &&& g.live = 0 then
              let g1 := g.exitHandler h
              if h.frag.split.isSome && h.frag.mask &&& g.live == 0 then g1.remove h.frag else g1
            else if e.fr.split.isSome && e.fr.mask &&& g.live == 0 then g.remove e.fr
            else g
          else if e.fr.split.isSome && e.fr.mask &&& g.live == 0 then g.remove e.fr else g
        | none => if e.fr.split.isSome && e.fr.mask &&& g.live == 0 then g.remove e.fr else g)
      (State.fillEntries e.gr.core e.gr.slice 64 s2).postDead e.who

/-- What `exit` of the last live lanes waits for completes, as far as it can now: pipe jobs, loads and atomics, but no
store (R295). -/
def State.completeReads (s : State) (core slice : Nat) (w : Sel) : State :=
  let p := pipeOf slice
  let s1 := State.drainPipe w core p (AMap.get [] (s.core core).pipes p).length s
  ((s1.core core).ops.filter (fun o => o.2.of w && !o.2.gated)).foldl (fun s o => s.completeOp core o.1) s1

/-- `EXIT` (R295): Ends the active lanes; the group ends when no lane remains live. -/
def execExit (f : CF) (s : State) : Host.Outcome State Fault Refusal :=
  s.issue (.exit f) (fun e s =>
    let ended := e.active (Instr.exit f).guard
    if ended ≠ 0 ∧ ended = e.gr.live then
      let s1 := s.completeReads e.gr.core e.gr.slice e.who
      let loops := (s1.core e.gr.core).loops.any (fun l => l.2.who.tid == e.who.tid && l.2.who.grp == e.who.grp)
      if loops || s1.piped e.gr.core e.gr.slice e.who then .wait .weir s1
      else .gone (s1.exitLanes e ended)
    else .gone (s.exitLanes e ended))

/-! Melded regions. -/

/-- `MOPEN` (R53): Pushes a meld level capturing the region mask and saved exec. -/
def execMopen (f : CF) (s : State) : Host.Outcome State Fault Refusal :=
  s.issue (.mopen f) (fun e s =>
    if e.splits != [] then e.instr .meldSplit s
    else if 4 ≤ e.depth then e.instr .meldDepth s
    else
      let p := e.gr.pReg (f.aux.extractLsb' 0 3).toNat
      .done (s.modGrp e.who (fun g =>
        e.putMeld ({ region := e.fr.exec &&& p, saved := e.fr.exec } :: e.meld) e.floor g)))

/-- `MCLOSE` (R54): Pops the meld stack and restores exec less ended lanes. -/
def execMclose (f : CF) (s : State) : Host.Outcome State Fault Refusal :=
  s.issue (.mclose f) (fun e s =>
    if e.splits != [] then e.instr .meldSplit s
    else if e.depth ≤ e.floor then e.instr .meldDepth s
    else
      match e.meld with
      | [] => e.instr .meldDepth s
      | m :: rest =>
        .done (s.modGrp e.who (fun g =>
          (e.putMeld rest e.floor g).modFrag e.who.frag (fun fr => { fr with exec := m.saved &&& g.live }))))

/-- `MREP` (R55): Decrements per-lane counts, removes finished lanes and loops back while any remain. -/
def execMrep (f : CF) (s : State) : Host.Outcome State Fault Refusal :=
  s.issue (.mrep f) (fun e s =>
    let r := (f.aux.extractLsb' 0 8).toNat
    if e.over r then e.instr .regRange s
    else if e.splits != [] then e.instr .meldSplit s
    else if e.depth ≤ e.floor then e.instr .meldDepth s
    else
      let left (l : Nat) : Lane := if e.gr.vReg r l = 0 then 0 else e.gr.vReg r l - 1
      let exec := maskIf (fun l => e.fr.exec.getLsbD l && left l != 0)
      let count (s : State) : State := s.modGrp e.who (fun g =>
        (forLanes e.fr.exec (fun l g => g.setV r l (left l)) g).modFrag e.who.frag (fun fr =>
          { fr with exec := exec }))
      if exec = 0 then .done (count s)
      else e.transfer (e.offTarget f) s count)

end Sys2Proof.Machine
end

