-- ==== Sys2Proof/Machine/Func.lean ====
section
/-! DEFINITION. The functions of R74 that have no algebraic form: 2^x, log2 x, sin 2πx and cos 2πx, each
correctly rounded. A result that is not one of the exact cases is irrational; it is enclosed in fixed point
at 256 bits, and the rounding of both ends decides it. Where the ends round apart, which no f32 operand is
known to bring about, the result is a free value. -/

namespace Sys2Proof.Machine

/-- The scale of the fixed point. -/
def fxOne : Nat := 2 ^ 256

/-- ⌊ln 2 × 2^256⌋. -/
def fxLn2 : Nat := 0xB17217F7D1CF79ABC9E3B39803F2F6AF40F343267298B62D8A0D175B8BAAFA2B

/-- ⌊2π × 2^256⌋. -/
def fxTau : Nat := 0x6487ED5110B4611A62633145C06E0E68948127044533E63A0105DF531D89CD912

/-- A bound on the error of every fixed-point value below. -/
def fxErr : Nat := 2 ^ 20

/-- The rounding under RNE of an irrational value whose magnitude lies within `fxErr` of `m`, at exponent
`e`: by both ends of the enclosure, else `free`. -/
def roundNear (neg : Bool) (m : Nat) (e : Int) (free : Lane) : Lane × Flags :=
  let lo := f32.round .rne false neg (m - fxErr) e true
  let hi := f32.round .rne false neg (m + fxErr) e true
  if lo = hi then lane32 lo else (free, flNX)

/-- e^y for a fixed-point y: the sum of y^k / k!, from term `k` on, with `n` terms left. -/
def expSum (y : Nat) : Nat → Nat → Nat → Nat
  | 0, _, _ => 0
  | n + 1, k, term => term + expSum y n (k + 1) (term * y / fxOne / (k + 1))

/-- 2 artanh z: the sum of 2 z^(2k+1) / (2k+1), with `z2` the square. -/
def artanhSum (z2 : Nat) : Nat → Nat → Nat → Nat
  | 0, _, _ => 0
  | n + 1, k, pow => 2 * pow / (2 * k + 1) + artanhSum z2 n (k + 1) (pow * z2 / fxOne)

/-- sin θ for θ up to π/2: the alternating sum of θ^(2k+1) / (2k+1)!. -/
def sinSum (t2 : Nat) : Nat → Nat → Int → Int
  | 0, _, _ => 0
  | n + 1, k, term => term + sinSum t2 n (k + 1) (-(term * t2 / fxOne / ((2 * k + 2) * (2 * k + 3) : Nat)))

/-- A finite magnitude `m * 2^e`, e ≥ -256, in fixed point. -/
def fxOf (m : Nat) (e : Int) : Nat := m * 2 ^ (e + 256).toNat

/-- 2^x (R74). -/
def fex2 (free : Lane) (x : Lane) : Lane × Flags :=
  match f32Of x with
  | .nan => (nan32, 0)
  | .inf n => (if n then 0 else 0x7F800000, 0)
  | .fin neg m e =>
    let v : Int := fxOf m e
    let y : Int := if neg then -v else v
    let n : Int := max (-400) (min 400 (y / fxOne))
    let r := (y % fxOne).toNat
    if r = 0 then lane32 (f32.round .rne false false 1 n false)
    else roundNear false (expSum (r * fxLn2 / fxOne) 80 0 fxOne) (n - 256) free

/-- log2 x (R74). -/
def flg2 (free : Lane) (x : Lane) : Lane × Flags :=
  match f32Of x with
  | .nan => (nan32, 0)
  | .inf n => if n then (nan32, flNV) else (0x7F800000, 0)
  | .fin _ 0 _ => (0xFF800000, flDZ)
  | .fin true _ _ => (nan32, flNV)
  | .fin false m e =>
    let k := m.log2
    let n : Int := e + k
    if m = 2 ^ k then lane32 (f32.ofIntVal .rne false n)
    else
      let one := 2 ^ k
      let z := (m - one) * fxOne / (m + one)
      let ln := artanhSum (z * z / fxOne) 120 0 z
      let v : Int := n * fxOne + (ln * fxOne / fxLn2 : Nat)
      roundNear (decide (v < 0)) v.natAbs (-256) free

/-- sin 2πf for a fraction f of a turn in fixed point, not a multiple of a quarter: its sign and its
magnitude. -/
def sinTurn (f : Nat) : Bool × Nat :=
  let half := fxOne / 2
  let g := f % half
  let q := if fxOne / 4 < g then half - g else g
  let t := q * fxTau / fxOne
  (decide (half ≤ f), (sinSum (t * t / fxOne) 50 0 t).natAbs)

/-- sin 2πx (R74). -/
def fsin (free : Lane) (zneg : Bool) (x : Lane) : Lane × Flags :=
  match f32Of x with
  | .nan => (nan32, 0)
  | .inf _ => (nan32, flNV)
  | .fin neg m e =>
    let f := fxOf m e % fxOne
    if f = 0 then (if neg then 0x80000000 else 0, 0)
    else if f = fxOne / 2 then (if zneg then 0x80000000 else 0, 0)
    else if f = fxOne / 4 then (if neg then 0xBF800000 else 0x3F800000, 0)
    else if f = fxOne / 4 * 3 then (if neg then 0x3F800000 else 0xBF800000, 0)
    else
      let r := sinTurn f
      roundNear (r.1 != neg) r.2 (-256) free

/-- cos 2πx (R74): the sine a quarter of a turn ahead. -/
def fcos (free : Lane) (x : Lane) : Lane × Flags :=
  match f32Of x with
  | .nan => (nan32, 0)
  | .inf _ => (nan32, flNV)
  | .fin _ m e =>
    let f := (fxOf m e + fxOne / 4) % fxOne
    if f = 0 ∨ f = fxOne / 2 then (0, 0)
    else if f = fxOne / 4 then (0x3F800000, 0)
    else if f = fxOne / 4 * 3 then (0xBF800000, 0)
    else
      let r := sinTurn f
      roundNear r.1 r.2 (-256) free

end Sys2Proof.Machine
end

