-- ==== Sys2Proof/Machine/Scalar.lean ====
section
/-! DEFINITION. Group arithmetic (R284, R285), group predicates (R286) and lane masks (R282, R283). -/

namespace Sys2Proof.Machine

/-- The word writes a g register, and raises flags. -/
def Env.putsG (e : Env) (d : Nat) (x : Word) (s : State) (fl : Flags := 0) : Res :=
  .done (s.modGrp e.who (fun g => (e.putG d x g).raise fl))

/-- A G word's result from `a`, `b` and `d`, unsigned numbers of n bits (R284). -/
def Env.gop (e : Env) (f : GF) (zeroExt : Bool) (op : Nat → Nat → Nat → Nat) (s : State) : Res :=
  e.putsG f.d.toNat
    (f.ext (op (f.cut (e.g f.a.toNat)) (f.cut (f.srcB e zeroExt)) (f.cut (e.g f.d.toNat)) % 2 ^ f.n)) s

/-- A signed or unsigned number as n bits. -/
def cutInt (n : Nat) (x : Int) : Nat := (x % 2 ^ n).toNat

/-- The arithmetic right shift of an n-bit number (R284). -/
def sarNat (n a b : Nat) : Nat :=
  cutInt n ((if 2 ^ (n - 1) ≤ a then (a : Int) - 2 ^ n else a) / 2 ^ (min b n))

/-- The quotient of R285; a zero divisor gives all ones. -/
def gquot (f : GF) (a b : Nat) : Nat :=
  if b = 0 then 2 ^ f.n - 1 else cutInt f.n ((f.sval a).tdiv (f.sval b))

/-- The remainder of R285; a zero divisor gives `a`. -/
def grest (f : GF) (a b : Nat) : Nat :=
  if b = 0 then a else cutInt f.n ((f.sval a).tmod (f.sval b))

/-- Set bits of an n-bit number. -/
def popcNat (n x : Nat) : Nat := (List.range n).foldl (fun a i => a + x / 2 ^ i % 2) 0

/-- Leading zeros of an n-bit number; n for zero. -/
def clzNat (n x : Nat) : Nat := if x = 0 then n else n - 1 - x.log2

/-- Trailing zeros of an n-bit number; n for zero. -/
def ctzNat (n x : Nat) : Nat := ((List.range n).find? (fun i => x / 2 ^ i % 2 = 1)).getD n

/-- An n-bit number with its bits reversed. -/
def brevNat (n x : Nat) : Nat := (List.range n).foldl (fun a i => a + x / 2 ^ i % 2 * 2 ^ (n - 1 - i)) 0

/-- An n-bit number with its bytes reversed. -/
def bswapNat (n x : Nat) : Nat :=
  (List.range (n / 8)).foldl (fun a i => a + x / 2 ^ (8 * i) % 256 * 2 ^ (n - 8 - 8 * i)) 0

/-- The bit operations shared by `gbits` and `vbits` (R284, R317). -/
def bitOp (op n x : Nat) : Nat :=
  match op with
  | 0 => popcNat n x
  | 1 => clzNat n x
  | 2 => ctzNat n x
  | 3 => brevNat n x
  | _ => bswapNat n x

/-- `GADD` (R284): Group-wide integer add. -/
def execGadd (f : GF) (s : State) : Host.Outcome State Fault Refusal :=
  s.issue (.gadd f) (fun e s => e.gop f false (fun a b _ => a + b) s)

/-- `GSUB` (R284): Group-wide integer subtract. -/
def execGsub (f : GF) (s : State) : Host.Outcome State Fault Refusal :=
  s.issue (.gsub f) (fun e s => e.gop f false (fun a b _ => a + (2 ^ f.n - b)) s)

/-- `GMUL` (R284): Group-wide low multiply. -/
def execGmul (f : GF) (s : State) : Host.Outcome State Fault Refusal :=
  s.issue (.gmul f) (fun e s => e.gop f false (fun a b _ => a * b) s)

/-- `GMULH` (R284): Group-wide high multiply. -/
def execGmulh (f : GF) (s : State) : Host.Outcome State Fault Refusal :=
  s.issue (.gmulh f) (fun e s => e.gop f false (fun a b _ => cutInt f.n (f.sval a * f.sval b / 2 ^ f.n)) s)

/-- `GMAD` (R284): Group-wide multiply-add into the destination. -/
def execGmad (f : GF) (s : State) : Host.Outcome State Fault Refusal :=
  s.issue (.gmad f) (fun e s => e.gop f false (fun a b d => a * b + d) s)

/-- `GDIV` (R285): Group-wide integer divide, raising DZ on zero divisor. -/
def execGdiv (f : GF) (s : State) : Host.Outcome State Fault Refusal :=
  s.issue (.gdiv f) (fun e s =>
    let a := f.cut (e.g f.a.toNat)
    let b := f.cut (f.srcB e false)
    e.putsG f.d.toNat (f.ext (gquot f a b)) s (flIf (b == 0) flDZ))

/-- `GREM` (R285): Group-wide integer remainder. -/
def execGrem (f : GF) (s : State) : Host.Outcome State Fault Refusal :=
  s.issue (.grem f) (fun e s =>
    let a := f.cut (e.g f.a.toNat)
    let b := f.cut (f.srcB e false)
    e.putsG f.d.toNat (f.ext (grest f a b)) s (flIf (b == 0) flDZ))

/-- `GAND` (R284): Group-wide bitwise AND. -/
def execGand (f : GF) (s : State) : Host.Outcome State Fault Refusal :=
  s.issue (.gand f) (fun e s => e.gop f true (fun a b _ => a &&& b) s)

/-- `GOR` (R284): Group-wide bitwise OR. -/
def execGor (f : GF) (s : State) : Host.Outcome State Fault Refusal :=
  s.issue (.gor f) (fun e s => e.gop f true (fun a b _ => a ||| b) s)

/-- `GXOR` (R284): Group-wide bitwise XOR. -/
def execGxor (f : GF) (s : State) : Host.Outcome State Fault Refusal :=
  s.issue (.gxor f) (fun e s => e.gop f true (fun a b _ => a ^^^ b) s)

/-- `GSHL` (R284): Group-wide shift left. -/
def execGshl (f : GF) (s : State) : Host.Outcome State Fault Refusal :=
  s.issue (.gshl f) (fun e s => e.gop f false (fun a b _ => if f.n ≤ b then 0 else a * 2 ^ b) s)

/-- `GSHR` (R284): Group-wide logical shift right. -/
def execGshr (f : GF) (s : State) : Host.Outcome State Fault Refusal :=
  s.issue (.gshr f) (fun e s => e.gop f false (fun a b _ => if f.n ≤ b then 0 else a / 2 ^ b) s)

/-- `GSAR` (R284): Group-wide arithmetic shift right. -/
def execGsar (f : GF) (s : State) : Host.Outcome State Fault Refusal :=
  s.issue (.gsar f) (fun e s => e.gop f false (fun a b _ => sarNat f.n a b) s)

/-- `GMIN` (R284): Group-wide minimum. -/
def execGmin (f : GF) (s : State) : Host.Outcome State Fault Refusal :=
  s.issue (.gmin f) (fun e s => e.gop f false (fun a b _ => if f.sval b < f.sval a then b else a) s)

/-- `GMAX` (R284): Group-wide maximum. -/
def execGmax (f : GF) (s : State) : Host.Outcome State Fault Refusal :=
  s.issue (.gmax f) (fun e s => e.gop f false (fun a b _ => if f.sval a < f.sval b then b else a) s)

/-- `GMOV` (R284): Group-wide move of a register or zero-extended immediate. -/
def execGmov (f : GF) (s : State) : Host.Outcome State Fault Refusal :=
  s.issue (.gmov f) (fun e s => e.gop f true (fun _ b _ => b) s)

/-- `GMOVH` (R284): Replaces bits 63:32 of a g register. -/
def execGmovh (f : GF) (s : State) : Host.Outcome State Fault Refusal :=
  s.issue (.gmovh f) (fun e s =>
    e.gop f true (fun _ b d => b % 2 ^ 32 * 2 ^ 32 + d % 2 ^ 32) s)

/-- The order of two integers. -/
def intOrder (a b : Int) : Ordering := compare a b

/-- `GCMP` (R284): Group-wide compare writing a group predicate. -/
def execGcmp (f : GF) (s : State) : Host.Outcome State Fault Refusal :=
  s.issue (.gcmp f) (fun e s =>
    let a := f.sval (f.cut (e.g f.a.toNat))
    let b := f.sval (f.cut (f.srcB e false))
    .done (s.modGrp e.who (fun g =>
      g.setGp f.d.toNat (condHolds f.sel.toNat (some (intOrder a b))))))

/-- `GSEL` (R284): Group-wide select by a group predicate. -/
def execGsel (f : GF) (s : State) : Host.Outcome State Fault Refusal :=
  s.issue (.gsel f) (fun e s =>
    e.gop f false (fun a b _ => if e.gr.gpReg f.sel.toNat then a else b) s)

/-- `GBITS` (R284): Group-wide population count, leading or trailing zeros, bit or byte reverse. -/
def execGbits (f : GF) (s : State) : Host.Outcome State Fault Refusal :=
  s.issue (.gbits f) (fun e s => e.gop f true (fun _ b _ => bitOp f.sel.toNat f.n b) s)

/-- The eight operations of `gplog` and `plog` (R286, R312). -/
def logOp (op : Nat) (a b : Bool) : Bool :=
  match op with
  | 0 => a && b
  | 1 => a || b
  | 2 => a != b
  | 3 => a && !b
  | 4 => a || !b
  | 5 => !(a && b)
  | 6 => !(a || b)
  | _ => a == b

/-- `GPLOG` (R286): Logical operation on group predicates. -/
def execGplog (f : GF) (s : State) : Host.Outcome State Fault Refusal :=
  s.issue (.gplog f) (fun e s =>
    .done (s.modGrp e.who (fun g => g.setGp f.d.toNat
      (logOp f.sel.toNat (e.gr.gpReg f.a.toNat) (e.gr.gpReg f.b.toNat)))))

/-- The lanes that `emov exec` may reach (R283). -/
def Env.reach (e : Env) : Word :=
  let m1 := if e.fr.split.isSome then e.fr.mask else BitVec.allOnes 64
  let m2 := if e.floor < e.depth then
      (match e.meld with | [] => BitVec.allOnes 64 | m :: _ => m.saved)
    else BitVec.allOnes 64
  let m3 := if e.fr.inH then (match e.gr.hnd with | some h => h.entry | none => 0) else BitVec.allOnes 64
  e.gr.live &&& m1 &&& m2 &&& m3

/-- `EMOV` (R282): Moves lane masks between exec, lane predicates and g registers. -/
def execEmov (f : GF) (s : State) : Host.Outcome State Fault Refusal :=
  s.issue (.emov f) (fun e s =>
    let wm := widthMask e.width
    match f.sel.toNat with
    | 0 => e.putsG f.d.toNat e.fr.exec s
    | 1 => .done (s.modFrag e.who (fun fr => { fr with exec := e.g f.a.toNat &&& e.reach }))
    | 2 => e.putsG f.d.toNat (e.gr.pReg f.a.toNat &&& wm) s
    | _ => .done (s.modGrp e.who (fun g => g.setP f.d.toNat wm (e.g f.a.toNat))))

end Sys2Proof.Machine
end

