-- ==== Sys2Proof/Machine/VecInt.lean ====
section
/-! DEFINITION. Vector integer arithmetic (R316 to R318, R324, R325), its VI forms (R247) and its melded
forms (R58, R59), with lane predicates (R312), votes (R264) and moves between lanes (R319, R326 to R328). -/

namespace Sys2Proof.Machine

/-- A lane result: an unsigned number below 2^w, and the flags the lane raises. -/
abbrev LaneOp := Nat → Nat → Nat → Nat × Flags

/-- The active lanes each write an integer result of their sources, all read first (R316). -/
def Env.mapInt (e : Env) (m : Word) (ty d : Nat) (a b c : Opnd) (op : LaneOp) (s : State) : State :=
  s.modGrp e.who (forLanes m (fun l g =>
    let r := op (a.num ty e.gr l) (b.num ty e.gr l) (c.num ty e.gr l)
    (g.putInt ty d l r.1).raise r.2))

/-- A register of a V word's operands is misplaced (R28, R316). -/
def Env.badV (e : Env) (ty d : Nat) (srcs : List Opnd) : Bool :=
  e.badReg ty d || srcs.any (e.badOpnd ty)

/-- The V form of an integer word with sources A and B (R316). -/
def Env.vInt (e : Env) (i : Instr) (f : VF) (op : LaneOp) (s : State) : Res :=
  let ty := f.ty.toNat
  let a : Opnd := .reg f.a.toNat
  let b := f.srcB e
  if e.badV ty f.d.toNat [a, b] then e.instr .regRange s
  else .done (e.mapInt (e.lanesFor i) ty f.d.toNat a b (.const 0) op s)

/-- The VI form (R247). -/
def Env.viInt (e : Env) (i : Instr) (f : VIF) (op : LaneOp) (s : State) : Res :=
  let ty := f.ty.toNat
  let a : Opnd := .reg f.a.toNat
  if e.badV ty f.d.toNat [a] then e.instr .regRange s
  else .done (e.mapInt (e.lanesFor i) ty f.d.toNat a (.const f.val) (.const 0) op s)

/-- Both arms of a melded integer word (R58, R59): with `acc` the addend is DX. -/
def Env.vmInt (e : Env) (f : VMF) (op : LaneOp) (s : State) : Res :=
  let ty := f.ty
  if (f.arms e).any (fun x => e.badV ty x.d [.reg x.a, .reg x.b]) then e.instr .regRange s
  else
    .done ((f.arms e).foldl (fun s x =>
      e.mapInt x.m ty x.d (.reg x.a) (.reg x.b) (if f.acc then .reg x.d else .const 0) op s) s)

/-- A modular result of a type. -/
def modTy (ty : Nat) (f : Int → Int → Int → Int) : LaneOp := fun a b c =>
  let t := intTy ty
  (t.wrap (f (t.val a) (t.val b) (t.val c)), 0)

/-- a + b (R317), clamped with SAT. -/
def opAdd (ty : Nat) (sat : Bool) : LaneOp := fun a b _ =>
  let t := intTy ty
  let x := t.val a + t.val b
  if sat && decide (x < t.min) then (t.wrap t.min, flSAT)
  else if sat && decide (t.max < x) then (t.wrap t.max, flSAT)
  else (t.wrap x, 0)

/-- The high half of the product (R324). -/
def opMulh (ty : Nat) : LaneOp := modTy ty (fun a b _ => a * b / 2 ^ (intTy ty).w)

/-- Bitwise operations on w bits. -/
def opBits (f : Nat → Nat → Nat) : LaneOp := fun a b _ => (f a b, 0)

/-- The shift count: bits 31:0 of B, here of B at the type's own width (R324). -/
def opShl (ty : Nat) (k : Nat) (a : Nat) : Nat :=
  if (intTy ty).w ≤ k then 0 else a * 2 ^ k % 2 ^ (intTy ty).w

/-- Logical right shift (R324). -/
def opShr (ty : Nat) (k : Nat) (a : Nat) : Nat := if (intTy ty).w ≤ k then 0 else a / 2 ^ k

/-- Arithmetic right shift (R324). -/
def opSar (ty : Nat) (k : Nat) (a : Nat) : Nat := sarNat (intTy ty).w a k

/-- The smaller or the larger (R324). -/
def opMin (ty : Nat) : LaneOp := fun a b _ => (if (intTy ty).val b < (intTy ty).val a then b else a, 0)

/-- The larger (R324). -/
def opMax (ty : Nat) : LaneOp := fun a b _ => (if (intTy ty).val a < (intTy ty).val b then b else a, 0)

/-- Shifts: the count is bits 31:0 of the B operand, whatever the type (R324). -/
def Env.mapShift (e : Env) (m : Word) (ty d : Nat) (a b : Opnd) (op : Nat → Nat → Nat → Nat) (s : State) :
    State :=
  s.modGrp e.who (forLanes m (fun l g => g.putInt ty d l (op ty (b.lo e.gr l).toNat (a.num ty e.gr l))))

/-- The V form of a shift. -/
def Env.vShift (e : Env) (i : Instr) (f : VF) (op : Nat → Nat → Nat → Nat) (s : State) : Res :=
  let ty := f.ty.toNat
  let a : Opnd := .reg f.a.toNat
  let b := f.srcB e
  if e.badV ty f.d.toNat [a, b] then e.instr .regRange s
  else .done (e.mapShift (e.lanesFor i) ty f.d.toNat a b op s)

/-- The VI form of a shift. -/
def Env.viShift (e : Env) (i : Instr) (f : VIF) (op : Nat → Nat → Nat → Nat) (s : State) : Res :=
  let ty := f.ty.toNat
  let a : Opnd := .reg f.a.toNat
  if e.badV ty f.d.toNat [a] then e.instr .regRange s
  else .done (e.mapShift (e.lanesFor i) ty f.d.toNat a (.const f.val) op s)

/-- The melded form of a shift. -/
def Env.vmShift (e : Env) (f : VMF) (op : Nat → Nat → Nat → Nat) (s : State) : Res :=
  if (f.arms e).any (fun x => e.badV f.ty x.d [.reg x.a, .reg x.b]) then e.instr .regRange s
  else .done ((f.arms e).foldl (fun s x => e.mapShift x.m f.ty x.d (.reg x.a) (.reg x.b) op s) s)

/-- `VADD` (R317): Lane integer add, optionally saturating. -/
def execVadd (f : VF) (s : State) : Host.Outcome State Fault Refusal :=
  s.issue (.vadd f) (fun e s => e.vInt (.vadd f) f (opAdd f.ty.toNat f.sat) s)

/-- `VSUB` (R324): Lane integer subtract. -/
def execVsub (f : VF) (s : State) : Host.Outcome State Fault Refusal :=
  s.issue (.vsub f) (fun e s => e.vInt (.vsub f) f (modTy f.ty.toNat (fun a b _ => a - b)) s)

/-- `VMUL` (R324): Lane integer low multiply. -/
def execVmul (f : VF) (s : State) : Host.Outcome State Fault Refusal :=
  s.issue (.vmul f) (fun e s => e.vInt (.vmul f) f (modTy f.ty.toNat (fun a b _ => a * b)) s)

/-- `VMULH` (R324): Lane integer high multiply. -/
def execVmulh (f : VF) (s : State) : Host.Outcome State Fault Refusal :=
  s.issue (.vmulh f) (fun e s => e.vInt (.vmulh f) f (opMulh f.ty.toNat) s)

/-- `VMAD` (R324): Lane integer multiply-add. -/
def execVmad (f : VF) (s : State) : Host.Outcome State Fault Refusal :=
  s.issue (.vmad f) (fun e s =>
    let ty := f.ty.toNat
    let a : Opnd := .reg f.a.toNat
    let b := f.srcB e
    let c := f.srcC e
    if e.badV ty f.d.toNat [a, b, c] then e.instr .regRange s
    else .done (e.mapInt (e.lanesFor (.vmad f)) ty f.d.toNat a b c (modTy ty (fun a b c => a * b + c)) s))

/-- `VAND` (R317): Lane bitwise AND. -/
def execVand (f : VF) (s : State) : Host.Outcome State Fault Refusal :=
  s.issue (.vand f) (fun e s => e.vInt (.vand f) f (opBits (· &&& ·)) s)

/-- `VOR` (R324): Lane bitwise OR. -/
def execVor (f : VF) (s : State) : Host.Outcome State Fault Refusal :=
  s.issue (.vor f) (fun e s => e.vInt (.vor f) f (opBits (· ||| ·)) s)

/-- `VXOR` (R324): Lane bitwise XOR. -/
def execVxor (f : VF) (s : State) : Host.Outcome State Fault Refusal :=
  s.issue (.vxor f) (fun e s => e.vInt (.vxor f) f (opBits (· ^^^ ·)) s)

/-- `VSHL` (R324): Lane shift left. -/
def execVshl (f : VF) (s : State) : Host.Outcome State Fault Refusal :=
  s.issue (.vshl f) (fun e s => e.vShift (.vshl f) f opShl s)

/-- `VSHR` (R324): Lane logical shift right. -/
def execVshr (f : VF) (s : State) : Host.Outcome State Fault Refusal :=
  s.issue (.vshr f) (fun e s => e.vShift (.vshr f) f opShr s)

/-- `VSAR` (R324): Lane arithmetic shift right. -/
def execVsar (f : VF) (s : State) : Host.Outcome State Fault Refusal :=
  s.issue (.vsar f) (fun e s => e.vShift (.vsar f) f opSar s)

/-- `VMIN` (R324): Lane integer minimum. -/
def execVmin (f : VF) (s : State) : Host.Outcome State Fault Refusal :=
  s.issue (.vmin f) (fun e s => e.vInt (.vmin f) f (opMin f.ty.toNat) s)

/-- `VMAX` (R324): Lane integer maximum. -/
def execVmax (f : VF) (s : State) : Host.Outcome State Fault Refusal :=
  s.issue (.vmax f) (fun e s => e.vInt (.vmax f) f (opMax f.ty.toNat) s)

/-- |a| (R317): the least value stays itself, or with SAT becomes the greatest. -/
def opAbs (ty : Nat) (sat : Bool) : LaneOp := fun a _ _ =>
  let t := intTy ty
  let x := t.val a
  if x = t.min then (if sat then (t.wrap t.max, flSAT) else (a, 0)) else (t.wrap x.natAbs, 0)

/-- `VABS` (R317): Lane absolute value, optionally saturating. -/
def execVabs (f : VF) (s : State) : Host.Outcome State Fault Refusal :=
  s.issue (.vabs f) (fun e s =>
    let ty := f.ty.toNat
    let a : Opnd := .reg f.a.toNat
    if e.badV ty f.d.toNat [a] then e.instr .regRange s
    else .done (e.mapInt (e.lanesFor (.vabs f)) ty f.d.toNat a (.const 0) (.const 0) (opAbs ty f.sat) s))

/-- `VBITS` (R317): Lane population count, leading or trailing zeros, bit or byte reverse. -/
def execVbits (f : VF) (s : State) : Host.Outcome State Fault Refusal :=
  s.issue (.vbits f) (fun e s =>
    let ty := f.ty.toNat
    let a : Opnd := .reg f.a.toNat
    let op := f.sub.toNat
    -- counts go to the single register vD
    let dty := if op < 3 then 2 else ty
    if e.badReg dty f.d.toNat || e.badOpnd ty a then e.instr .regRange s
    else .done (s.modGrp e.who (forLanes (e.lanesFor (.vbits f)) (fun l g =>
      g.putInt dty f.d.toNat l (bitOp op (intTy ty).w (a.num ty e.gr l))))))

/-- The field `vbfe` and `vbfi` name: start and length, or none (R317). -/
def bitfield (b c : Lane) : Option (Nat × Nat) :=
  if 32 ≤ b.toNat then none else some (b.toNat, min c.toNat (32 - b.toNat))

/-- `VBFE` (R317): Lane bit-field extract. -/
def execVbfe (f : VF) (s : State) : Host.Outcome State Fault Refusal :=
  s.issue (.vbfe f) (fun e s =>
    let a : Opnd := .reg f.a.toNat
    let b := f.srcB e
    let c := f.srcC e
    if e.badV 2 f.d.toNat [a, b, c] then e.instr .regRange s
    else .done (s.modGrp e.who (forLanes (e.lanesFor (.vbfe f)) (fun l g =>
      let x : Lane :=
        match bitfield (b.lo e.gr l) (c.lo e.gr l) with
        | none => 0
        | some (st, w) =>
          let y := (a.lo e.gr l).toNat / 2 ^ st % 2 ^ w
          if f.ty = 0 ∧ 0 < w ∧ 2 ^ (w - 1) ≤ y then BitVec.ofInt 32 ((y : Int) - 2 ^ w)
          else BitVec.ofNat 32 y
      g.setV f.d.toNat l x))))

/-- `VBFI` (R317): Lane bit-field insert. -/
def execVbfi (f : VF) (s : State) : Host.Outcome State Fault Refusal :=
  s.issue (.vbfi f) (fun e s =>
    let a : Opnd := .reg f.a.toNat
    let b := f.srcB e
    let c := f.srcC e
    if e.badV 2 f.d.toNat [a, b, c] then e.instr .regRange s
    else .done (s.modGrp e.who (forLanes (e.lanesFor (.vbfi f)) (fun l g =>
      match bitfield (b.lo e.gr l) (c.lo e.gr l) with
      | none => g
      | some (st, w) =>
        let m : Lane := BitVec.ofNat 32 ((2 ^ w - 1) * 2 ^ st)
        g.setV f.d.toNat l ((e.gr.vReg f.d.toNat l &&& ~~~m) ||| ((a.lo e.gr l <<< st) &&& m))))))

/-- A compare writes the active lanes of a predicate (R318, R322). -/
def State.putCmp (s : State) (e : Env) (m : Word) (d : BitVec 8) (p : Nat → Bool) : State :=
  s.modGrp e.who (fun g => g.setP (d.toNat % 8) m (maskIf (fun l => m.getLsbD l && p l)))

/-- The condition of a compare, D bits 5:3. -/
def condOf (d : BitVec 8) : Nat := d.toNat / 8 % 8

/-- An integer comparison of a lane. -/
def Env.cmpInt (e : Env) (ty cond : Nat) (a b : Opnd) (l : Nat) : Bool :=
  condHolds cond (some (intOrder (a.int ty e.gr l) (b.int ty e.gr l)))

/-- `VCMP` (R318): Lane integer compare writing a lane predicate. -/
def execVcmp (f : VF) (s : State) : Host.Outcome State Fault Refusal :=
  s.issue (.vcmp f) (fun e s =>
    let ty := f.ty.toNat
    let a : Opnd := .reg f.a.toNat
    let b := f.srcB e
    if e.badOpnd ty a || e.badOpnd ty b then e.instr .regRange s
    else .done (s.putCmp e (e.lanesFor (.vcmp f)) f.d (e.cmpInt ty (condOf f.d) a b)))

/-- The bits of a source move (R325). -/
def Group.putMove (g : Group) (ty d l : Nat) (o : Opnd) (from_ : Group) : Group :=
  if wide ty then g.setV64 d l (o.pair from_ l) else g.setV d l (o.lo from_ l)

/-- `VSEL` (R325): Lane select by a lane predicate. -/
def execVsel (f : VF) (s : State) : Host.Outcome State Fault Refusal :=
  s.issue (.vsel f) (fun e s =>
    let ty := f.ty.toNat
    let a : Opnd := .reg f.a.toNat
    let b := f.srcB e
    let p := e.gr.pReg f.c.toNat
    if e.badV ty f.d.toNat [a, b] then e.instr .regRange s
    else .done (s.modGrp e.who (forLanes (e.lanesFor (.vsel f)) (fun l g =>
      g.putMove ty f.d.toNat l (if p.getLsbD l then a else b) e.gr))))

/-- `VMOV` (R325): Lane move of a register or the lane index. -/
def execVmov (f : VF) (s : State) : Host.Outcome State Fault Refusal :=
  s.issue (.vmov f) (fun e s =>
    let ty := f.ty.toNat
    if e.badV ty f.d.toNat (if f.sub = 0 then [.reg f.a.toNat] else []) then e.instr .regRange s
    else .done (s.modGrp e.who (forLanes (e.lanesFor (.vmov f)) (fun l g =>
      g.putMove ty f.d.toNat l (if f.sub = 0 then .reg f.a.toNat else .const (BitVec.ofNat 64 l)) e.gr))))

/-! VI forms. -/

/-- `VADD_IMM` (R247): VI form of vadd with a 30-bit immediate. -/
def execVaddImm (f : VIF) (s : State) : Host.Outcome State Fault Refusal :=
  s.issue (.vaddImm f) (fun e s => e.viInt (.vaddImm f) f (opAdd f.ty.toNat false) s)

/-- `VSUB_IMM` (R247): VI form of vsub. -/
def execVsubImm (f : VIF) (s : State) : Host.Outcome State Fault Refusal :=
  s.issue (.vsubImm f) (fun e s => e.viInt (.vsubImm f) f (modTy f.ty.toNat (fun a b _ => a - b)) s)

/-- `VMUL_IMM` (R247): VI form of vmul. -/
def execVmulImm (f : VIF) (s : State) : Host.Outcome State Fault Refusal :=
  s.issue (.vmulImm f) (fun e s => e.viInt (.vmulImm f) f (modTy f.ty.toNat (fun a b _ => a * b)) s)

/-- `VMULH_IMM` (R247): VI form of vmulh. -/
def execVmulhImm (f : VIF) (s : State) : Host.Outcome State Fault Refusal :=
  s.issue (.vmulhImm f) (fun e s => e.viInt (.vmulhImm f) f (opMulh f.ty.toNat) s)

/-- `VAND_IMM` (R247): VI form of vand. -/
def execVandImm (f : VIF) (s : State) : Host.Outcome State Fault Refusal :=
  s.issue (.vandImm f) (fun e s => e.viInt (.vandImm f) f (opBits (· &&& ·)) s)

/-- `VOR_IMM` (R247): VI form of vor. -/
def execVorImm (f : VIF) (s : State) : Host.Outcome State Fault Refusal :=
  s.issue (.vorImm f) (fun e s => e.viInt (.vorImm f) f (opBits (· ||| ·)) s)

/-- `VXOR_IMM` (R247): VI form of vxor. -/
def execVxorImm (f : VIF) (s : State) : Host.Outcome State Fault Refusal :=
  s.issue (.vxorImm f) (fun e s => e.viInt (.vxorImm f) f (opBits (· ^^^ ·)) s)

/-- `VSHL_IMM` (R247): VI form of vshl. -/
def execVshlImm (f : VIF) (s : State) : Host.Outcome State Fault Refusal :=
  s.issue (.vshlImm f) (fun e s => e.viShift (.vshlImm f) f opShl s)

/-- `VSHR_IMM` (R247): VI form of vshr. -/
def execVshrImm (f : VIF) (s : State) : Host.Outcome State Fault Refusal :=
  s.issue (.vshrImm f) (fun e s => e.viShift (.vshrImm f) f opShr s)

/-- `VSAR_IMM` (R247): VI form of vsar. -/
def execVsarImm (f : VIF) (s : State) : Host.Outcome State Fault Refusal :=
  s.issue (.vsarImm f) (fun e s => e.viShift (.vsarImm f) f opSar s)

/-- `VMIN_IMM` (R247): VI form of vmin. -/
def execVminImm (f : VIF) (s : State) : Host.Outcome State Fault Refusal :=
  s.issue (.vminImm f) (fun e s => e.viInt (.vminImm f) f (opMin f.ty.toNat) s)

/-- `VMAX_IMM` (R247): VI form of vmax. -/
def execVmaxImm (f : VIF) (s : State) : Host.Outcome State Fault Refusal :=
  s.issue (.vmaxImm f) (fun e s => e.viInt (.vmaxImm f) f (opMax f.ty.toNat) s)

/-- `VCMP_IMM` (R247): VI form of vcmp. -/
def execVcmpImm (f : VIF) (s : State) : Host.Outcome State Fault Refusal :=
  s.issue (.vcmpImm f) (fun e s =>
    let ty := f.ty.toNat
    let a : Opnd := .reg f.a.toNat
    if e.badOpnd ty a then e.instr .regRange s
    else .done (s.putCmp e (e.lanesFor (.vcmpImm f)) f.d (e.cmpInt ty (condOf f.d) a (.const f.val))))

/-- `VMOV_IMM` (R325): VI form of vmov moving the immediate. -/
def execVmovImm (f : VIF) (s : State) : Host.Outcome State Fault Refusal :=
  s.issue (.vmovImm f) (fun e s =>
    let ty := f.ty.toNat
    if e.badReg ty f.d.toNat then e.instr .regRange s
    else .done (s.modGrp e.who (forLanes (e.lanesFor (.vmovImm f)) (fun l g =>
      g.putMove ty f.d.toNat l (.const f.val) e.gr))))

/-! Melded forms. -/

/-- `VADD_MELDED` (R59): Melded vadd, each arm with its own operand set. -/
def execVaddMelded (f : VMF) (s : State) : Host.Outcome State Fault Refusal :=
  s.issue (.vaddMelded f) (fun e s => e.vmInt f (opAdd f.ty false) s)

/-- `VSUB_MELDED` (R59): Melded vsub. -/
def execVsubMelded (f : VMF) (s : State) : Host.Outcome State Fault Refusal :=
  s.issue (.vsubMelded f) (fun e s => e.vmInt f (modTy f.ty (fun a b _ => a - b)) s)

/-- `VMUL_MELDED` (R59): Melded vmul. -/
def execVmulMelded (f : VMF) (s : State) : Host.Outcome State Fault Refusal :=
  s.issue (.vmulMelded f) (fun e s => e.vmInt f (modTy f.ty (fun a b _ => a * b)) s)

/-- `VMAD_MELDED` (R59): Melded vmad with addend 0 or DX. -/
def execVmadMelded (f : VMF) (s : State) : Host.Outcome State Fault Refusal :=
  s.issue (.vmadMelded f) (fun e s => e.vmInt f (modTy f.ty (fun a b c => a * b + c)) s)

/-- `VAND_MELDED` (R59): Melded vand. -/
def execVandMelded (f : VMF) (s : State) : Host.Outcome State Fault Refusal :=
  s.issue (.vandMelded f) (fun e s => e.vmInt f (opBits (· &&& ·)) s)

/-- `VOR_MELDED` (R59): Melded vor. -/
def execVorMelded (f : VMF) (s : State) : Host.Outcome State Fault Refusal :=
  s.issue (.vorMelded f) (fun e s => e.vmInt f (opBits (· ||| ·)) s)

/-- `VXOR_MELDED` (R59): Melded vxor. -/
def execVxorMelded (f : VMF) (s : State) : Host.Outcome State Fault Refusal :=
  s.issue (.vxorMelded f) (fun e s => e.vmInt f (opBits (· ^^^ ·)) s)

/-- `VSHL_MELDED` (R59): Melded vshl. -/
def execVshlMelded (f : VMF) (s : State) : Host.Outcome State Fault Refusal :=
  s.issue (.vshlMelded f) (fun e s => e.vmShift f opShl s)

/-- `VSHR_MELDED` (R59): Melded vshr. -/
def execVshrMelded (f : VMF) (s : State) : Host.Outcome State Fault Refusal :=
  s.issue (.vshrMelded f) (fun e s => e.vmShift f opShr s)

/-- `VSAR_MELDED` (R59): Melded vsar. -/
def execVsarMelded (f : VMF) (s : State) : Host.Outcome State Fault Refusal :=
  s.issue (.vsarMelded f) (fun e s => e.vmShift f opSar s)

/-- `VMIN_MELDED` (R59): Melded vmin. -/
def execVminMelded (f : VMF) (s : State) : Host.Outcome State Fault Refusal :=
  s.issue (.vminMelded f) (fun e s => e.vmInt f (opMin f.ty) s)

/-- `VMAX_MELDED` (R59): Melded vmax. -/
def execVmaxMelded (f : VMF) (s : State) : Host.Outcome State Fault Refusal :=
  s.issue (.vmaxMelded f) (fun e s => e.vmInt f (opMax f.ty) s)

/-- `VCMP_MELDED` (R59): Melded vcmp, each arm writing its lanes of one predicate. -/
def execVcmpMelded (f : VMF) (s : State) : Host.Outcome State Fault Refusal :=
  s.issue (.vcmpMelded f) (fun e s =>
    if (f.arms e).any (fun x => e.over x.a || e.over x.b) then e.instr .regRange s
    else .done ((f.arms e).foldl (fun s x =>
      s.putCmp e x.m (BitVec.ofNat 8 x.d) (e.cmpInt f.ty (x.d / 8 % 8) (.reg x.a) (.reg x.b))) s))

/-- `VMOV_MELDED` (R59): Melded vmov. -/
def execVmovMelded (f : VMF) (s : State) : Host.Outcome State Fault Refusal :=
  s.issue (.vmovMelded f) (fun e s =>
    if (f.arms e).any (fun x => e.over x.d || e.over x.a) then e.instr .regRange s
    else .done ((f.arms e).foldl (fun s x =>
      s.modGrp e.who (forLanes x.m (fun l g => g.setV x.d l (e.gr.vReg x.a l)))) s))

/-! Lane predicates, votes and movement. -/

/-- `PLOG` (R312): Logical operation on lane predicates. -/
def execPlog (f : VF) (s : State) : Host.Outcome State Fault Refusal :=
  s.issue (.plog f) (fun e s =>
    let m := e.lanesFor (.plog f)
    let a := e.gr.pReg f.a.toNat
    let b := e.gr.pReg f.b.toNat
    .done (s.modGrp e.who (fun g => g.setP f.d.toNat m
      (maskIf (fun l => m.getLsbD l && logOp f.sub.toNat (a.getLsbD l) (b.getLsbD l))))))

/-- `BALLOT` (R264): Collects a lane predicate into a g mask or an any/all group predicate. -/
def execBallot (f : VF) (s : State) : Host.Outcome State Fault Refusal :=
  s.issue (.ballot f) (fun e s =>
    let m := e.lanesFor (.ballot f)
    let v := m &&& e.gr.pReg f.a.toNat
    match f.sub.toNat with
    | 0 => e.putsG f.d.toNat v s
    | 1 => .done (s.modGrp e.who (fun g => g.setGp f.d.toNat (v != 0)))
    | _ => .done (s.modGrp e.who (fun g => g.setGp f.d.toNat (v == m))))

/-- `VBC` (R319): Broadcasts a g register to every active lane. -/
def execVbc (f : VF) (s : State) : Host.Outcome State Fault Refusal :=
  s.issue (.vbc f) (fun e s =>
    let ty := f.ty.toNat
    if e.badReg ty f.d.toNat then e.instr .regRange s
    else .done (s.modGrp e.who (forLanes (e.lanesFor (.vbc f)) (fun l g =>
      g.putMove ty f.d.toNat l (.const (e.g f.b.toNat)) e.gr))))

/-- `VRDL` (R326): Reads one lane of a vector register into a g register. -/
def execVrdl (f : VF) (s : State) : Host.Outcome State Fault Refusal :=
  s.issue (.vrdl f) (fun e s =>
    let ty := f.ty.toNat
    let l := if f.cg then (e.g f.c.toNat).toNat else f.c.toNat
    if e.width ≤ l then e.instr .width s
    else if e.badReg ty f.a.toNat then e.instr .regRange s
    else
      let x : Word :=
        if wide ty then e.gr.vReg64 f.a.toNat l
        else if ty = 0 then (e.gr.vReg f.a.toNat l).signExtend 64
        else (e.gr.vReg f.a.toNat l).zeroExtend 64
      e.putsG f.d.toNat x s)

/-- The source lane of `vshfl` (R327). -/
def shuffleSrc (mode : Nat) (b : Nat) (l : Nat) : Int :=
  match mode with
  | 0 => b
  | 1 => (l : Int) - b
  | 2 => (l : Int) + b
  | _ => ((l ^^^ b : Nat) : Int)

/-- `VSHFL` (R327): Lane shuffle by index, up, down or xor. -/
def execVshfl (f : VF) (s : State) : Host.Outcome State Fault Refusal :=
  s.issue (.vshfl f) (fun e s =>
    let ty := f.ty.toNat
    let mode := f.sub.toNat
    let k (l : Nat) : Nat :=
      if mode = 0 then ((f.srcB e).lo e.gr l).toNat
      else if f.cg then (e.g f.c.toNat).toNat else f.c.toNat
    if mode ≠ 0 ∧ !f.cg ∧ e.width ≤ f.c.toNat then e.instr .width s
    else if e.badReg ty f.d.toNat || e.badReg ty f.a.toNat || (mode == 0 && !f.bg && e.over f.b.toNat) then
      e.instr .regRange s
    else .done (s.modGrp e.who (forLanes (e.lanesFor (.vshfl f)) (fun l g =>
      let src := shuffleSrc mode (k l) l
      let from_ := if 0 ≤ src ∧ src < e.width then src.toNat else l
      if wide ty then g.setV64 f.d.toNat l (e.gr.vReg64 f.a.toNat from_)
      else g.setV f.d.toNat l (e.gr.vReg f.a.toNat from_)))))

/-- One level of the tree of R85: each even place is combined with the odd one above it. -/
def treeLevel {α : Type} (op : α → α → α) : List α → List α
  | x :: y :: rest => op x y :: treeLevel op rest
  | rest => rest

/-- The tree of R85, level by level; the last argument bounds the levels. -/
def tree {α : Type} (op : α → α → α) : Nat → List α → List α
  | 0, xs => xs
  | n + 1, xs => tree op n (treeLevel op xs)

/-- The integer combination of `vred` on w-bit numbers, and its identity (R85, R328). -/
def redInt (op ty : Nat) : (Nat → Nat → Nat) × Nat :=
  let t := intTy ty
  match op with
  | 0 => (fun a b => (a + b) % 2 ^ t.w, 0)
  | 1 => (fun a b => a &&& b, 2 ^ t.w - 1)
  | 2 => (fun a b => a ||| b, 0)
  | 3 => (fun a b => a ^^^ b, 0)
  | 4 => (fun a b => if t.val b < t.val a then b else a, t.wrap t.max)
  | _ => (fun a b => if t.val a < t.val b then b else a, t.wrap t.min)

/-- The float combination of `vred`, and its identity (R85, R328). -/
def redFlt (op : Nat) : (Lane → Lane → Lane × Flags) × Lane :=
  match op with
  | 6 => (fadd .rne, 0)
  | 7 => (fmin, 0x7F800000)
  | _ => (fmax, 0xFF800000)

/-- `VRED` (R328): Reduces a vector register over the lanes in a fixed tree into a g register. -/
def execVred (f : VF) (s : State) : Host.Outcome State Fault Refusal :=
  s.issue (.vred f) (fun e s =>
    let ty := f.ty.toNat
    let a : Opnd := .reg f.a.toNat
    let m := e.lanesFor (.vred f)
    if e.badOpnd ty a then e.instr .regRange s
    else if f.sub.toNat < 6 then
      let (op, one) := redInt f.sub.toNat ty
      let xs := (List.range e.width).map (fun l => if m.getLsbD l then a.num ty e.gr l else one)
      e.putsG f.d.toNat (BitVec.ofInt 64 ((intTy ty).val ((tree op 6 xs).headD one))) s
    else
      let (op, one) := redFlt f.sub.toNat
      let both (x y : Lane × Flags) : Lane × Flags :=
        let r := op x.1 y.1
        (r.1, x.2 ||| y.2 ||| r.2)
      let xs := (List.range e.width).map (fun l => (if m.getLsbD l then a.lo e.gr l else one, (0 : Flags)))
      let r := (tree both 6 xs).headD (one, 0)
      e.putsG f.d.toNat (r.1.zeroExtend 64) s r.2)

end Sys2Proof.Machine
end

