-- ==== Sys2Proof/Machine/VecFlt.lean ====
section
/-! DEFINITION. Vector float arithmetic (R321, R322, R74, R84), with its VI and melded forms. -/

namespace Sys2Proof.Machine

/-- A float operation of a lane: its result and the flags it raises. -/
abbrev FltOp := Lane → Lane → Lane → Lane × Flags

/-- The active lanes each write a float result of their sources, all read first (R321). -/
def Env.mapFlt (e : Env) (m : Word) (d : Nat) (a b c : Opnd) (op : FltOp) (s : State) : State :=
  s.modGrp e.who (forLanes m (fun l g =>
    let r := op (a.lo e.gr l) (b.lo e.gr l) (c.lo e.gr l)
    (g.setV d l r.1).raise r.2))

/-- The V form with sources A and B. -/
def Env.vFlt (e : Env) (i : Instr) (f : VF) (op : FltOp) (s : State) : Res :=
  let a : Opnd := .reg f.a.toNat
  let b := f.srcB e
  if e.badV 1 f.d.toNat [a, b] then e.instr .regRange s
  else .done (e.mapFlt (e.lanesFor i) f.d.toNat a b (.const 0) op s)

/-- The V form of a function of A alone; its lane tells free values apart. -/
def Env.vFun (e : Env) (i : Instr) (f : VF) (op : Nat → Lane → Lane × Flags) (s : State) : Res :=
  if e.badV 1 f.d.toNat [.reg f.a.toNat] then e.instr .regRange s
  else .done (s.modGrp e.who (forLanes (e.lanesFor i) (fun l g =>
    let r := op l (e.gr.vReg f.a.toNat l)
    (g.setV f.d.toNat l r.1).raise r.2)))

/-- The VI form; it rounds RNE (R73). -/
def Env.viFlt (e : Env) (i : Instr) (f : VIF) (op : FltOp) (s : State) : Res :=
  let a : Opnd := .reg f.a.toNat
  if e.badV 1 f.d.toNat [a] then e.instr .regRange s
  else .done (e.mapFlt (e.lanesFor i) f.d.toNat a (.const f.val) (.const 0) op s)

/-- Both arms of a melded float word (R58, R59): with `acc` the addend is DX, else +0.0. -/
def Env.vmFlt (e : Env) (f : VMF) (op : FltOp) (s : State) : Res :=
  if (f.arms e).any (fun x => e.badV 1 x.d [.reg x.a, .reg x.b]) then e.instr .regRange s
  else
    .done ((f.arms e).foldl (fun s x =>
      e.mapFlt x.m x.d (.reg x.a) (.reg x.b) (if f.acc then .reg x.d else .const 0) op s) s)

/-- An f32 comparison of a lane (R322). -/
def Env.cmpFlt (e : Env) (cond : Nat) (a b : Opnd) (l : Nat) : Bool :=
  condHolds cond (fcompare (a.lo e.gr l) (b.lo e.gr l))

/-- `VFADD` (R322): Lane f32 add. -/
def execVfadd (f : VF) (s : State) : Host.Outcome State Fault Refusal :=
  s.issue (.vfadd f) (fun e s => e.vFlt (.vfadd f) f (fun a b _ => fadd (RMode.of f.mod) a b) s)

/-- `VFSUB` (R322): Lane f32 subtract. -/
def execVfsub (f : VF) (s : State) : Host.Outcome State Fault Refusal :=
  s.issue (.vfsub f) (fun e s => e.vFlt (.vfsub f) f (fun a b _ => fsub (RMode.of f.mod) a b) s)

/-- `VFMUL` (R322): Lane f32 multiply. -/
def execVfmul (f : VF) (s : State) : Host.Outcome State Fault Refusal :=
  s.issue (.vfmul f) (fun e s => e.vFlt (.vfmul f) f (fun a b _ => fmul (RMode.of f.mod) a b) s)

/-- `VFMA` (R322): Lane f32 fused multiply-add. -/
def execVfma (f : VF) (s : State) : Host.Outcome State Fault Refusal :=
  s.issue (.vfma f) (fun e s =>
    let a : Opnd := .reg f.a.toNat
    let b := f.srcB e
    let c := f.srcC e
    if e.badV 1 f.d.toNat [a, b, c] then e.instr .regRange s
    else .done (e.mapFlt (e.lanesFor (.vfma f)) f.d.toNat a b c (fun a b c => ffma (RMode.of f.mod) a b c) s))

/-- `VFMIN` (R322): Lane f32 minimum. -/
def execVfmin (f : VF) (s : State) : Host.Outcome State Fault Refusal :=
  s.issue (.vfmin f) (fun e s => e.vFlt (.vfmin f) f (fun a b _ => fmin a b) s)

/-- `VFMAX` (R322): Lane f32 maximum. -/
def execVfmax (f : VF) (s : State) : Host.Outcome State Fault Refusal :=
  s.issue (.vfmax f) (fun e s => e.vFlt (.vfmax f) f (fun a b _ => fmax a b) s)

/-- `VFCMP` (R322): Lane f32 compare writing a lane predicate. -/
def execVfcmp (f : VF) (s : State) : Host.Outcome State Fault Refusal :=
  s.issue (.vfcmp f) (fun e s =>
    let a : Opnd := .reg f.a.toNat
    let b := f.srcB e
    if e.badOpnd 1 a || e.badOpnd 1 b then e.instr .regRange s
    else .done (s.putCmp e (e.lanesFor (.vfcmp f)) f.d (e.cmpFlt (condOf f.d) a b)))

/-- `VFRCP` (R74): Lane f32 reciprocal. -/
def execVfrcp (f : VF) (s : State) : Host.Outcome State Fault Refusal :=
  s.issue (.vfrcp f) (fun e s => e.vFun (.vfrcp f) f (fun _ x => frcp (RMode.of f.mod) x) s)

/-- `VFRSQ` (R74): Lane f32 reciprocal square root. -/
def execVfrsq (f : VF) (s : State) : Host.Outcome State Fault Refusal :=
  s.issue (.vfrsq f) (fun e s => e.vFun (.vfrsq f) f (fun _ x => frsqrt (RMode.of f.mod) x) s)

/-- `VFSQRT` (R74): Lane f32 square root. -/
def execVfsqrt (f : VF) (s : State) : Host.Outcome State Fault Refusal :=
  s.issue (.vfsqrt f) (fun e s => e.vFun (.vfsqrt f) f (fun _ x => fsqrt (RMode.of f.mod) x) s)

/-- `VFEX2` (R74): Lane f32 base-2 exponential. -/
def execVfex2 (f : VF) (s : State) : Host.Outcome State Fault Refusal :=
  s.issue (.vfex2 f) (fun e s => e.vFun (.vfex2 f) f (fun l x => fex2 (Config.undecided (64 * s.fresh + l) x) x) s)

/-- `VFLG2` (R74): Lane f32 base-2 logarithm. -/
def execVflg2 (f : VF) (s : State) : Host.Outcome State Fault Refusal :=
  s.issue (.vflg2 f) (fun e s => e.vFun (.vflg2 f) f (fun l x => flg2 (Config.undecided (64 * s.fresh + l) x) x) s)

/-- `VFSIN` (R74): Lane f32 sin(2 pi x). -/
def execVfsin (f : VF) (s : State) : Host.Outcome State Fault Refusal :=
  s.issue (.vfsin f) (fun e s => e.vFun (.vfsin f) f (fun l x =>
    fsin (Config.undecided (64 * s.fresh + l) x) (Config.zeroSign (64 * s.fresh + l) x) x) s)

/-- `VFCOS` (R74): Lane f32 cos(2 pi x). -/
def execVfcos (f : VF) (s : State) : Host.Outcome State Fault Refusal :=
  s.issue (.vfcos f) (fun e s => e.vFun (.vfcos f) f (fun l x => fcos (Config.undecided (64 * s.fresh + l) x) x) s)

/-- `VFCLS` (R322): Lane f32 classification mask. -/
def execVfcls (f : VF) (s : State) : Host.Outcome State Fault Refusal :=
  s.issue (.vfcls f) (fun e s => e.vFun (.vfcls f) f (fun _ x => (fclass x, 0)) s)

/-- `VFSCL` (R322): Lane f32 scale by a power of two. -/
def execVfscl (f : VF) (s : State) : Host.Outcome State Fault Refusal :=
  s.issue (.vfscl f) (fun e s => e.vFlt (.vfscl f) f (fun a b _ => fscale (RMode.of f.mod) a b.toInt) s)

/-- The four terms that `vfdp4` takes from a block (R322). -/
def dp4Terms (ty : Nat) (g : Group) (r l : Nat) : List FVal :=
  if ty = 1 then (List.range 4).map (fun j => f32Of (g.vReg (r + j) l))
  else (List.range 4).map (fun j =>
    (if ty = 9 then f16 else e8m7).decode (((g.vReg (r + j / 2) l).extractLsb' (16 * (j % 2)) 16).toNat))

/-- `VFDP4` (R84): Lane four-term dot product with accumulator, rounded once. -/
def execVfdp4 (f : VF) (s : State) : Host.Outcome State Fault Refusal :=
  s.issue (.vfdp4 f) (fun e s =>
    let ty := f.ty.toNat
    let n := if ty = 1 then 4 else 2
    let c := f.srcC e
    let badBlock (r : Nat) : Bool := r % n != 0 || e.over (r + n - 1)
    if e.over f.d.toNat || badBlock f.a.toNat || badBlock f.b.toNat || e.badOpnd 1 c then e.instr .regRange s
    else .done (s.modGrp e.who (forLanes (e.lanesFor (.vfdp4 f)) (fun l g =>
      let ts := (dp4Terms ty e.gr f.a.toNat l).zip (dp4Terms ty e.gr f.b.toNat l)
      let r := lane32 (f32.sum (RMode.of f.mod)
        (ts.map (fun x => prodTerm x.1 x.2) ++ [some (f32Of (c.lo e.gr l))]))
      (g.setV f.d.toNat l r.1).raise r.2))))

/-! VI forms. -/

/-- `VFADD_IMM` (R247): VI form of vfadd with an f32 immediate. -/
def execVfaddImm (f : VIF) (s : State) : Host.Outcome State Fault Refusal :=
  s.issue (.vfaddImm f) (fun e s => e.viFlt (.vfaddImm f) f (fun a b _ => fadd .rne a b) s)

/-- `VFSUB_IMM` (R247): VI form of vfsub. -/
def execVfsubImm (f : VIF) (s : State) : Host.Outcome State Fault Refusal :=
  s.issue (.vfsubImm f) (fun e s => e.viFlt (.vfsubImm f) f (fun a b _ => fsub .rne a b) s)

/-- `VFMUL_IMM` (R247): VI form of vfmul. -/
def execVfmulImm (f : VIF) (s : State) : Host.Outcome State Fault Refusal :=
  s.issue (.vfmulImm f) (fun e s => e.viFlt (.vfmulImm f) f (fun a b _ => fmul .rne a b) s)

/-- `VFMIN_IMM` (R247): VI form of vfmin. -/
def execVfminImm (f : VIF) (s : State) : Host.Outcome State Fault Refusal :=
  s.issue (.vfminImm f) (fun e s => e.viFlt (.vfminImm f) f (fun a b _ => fmin a b) s)

/-- `VFMAX_IMM` (R247): VI form of vfmax. -/
def execVfmaxImm (f : VIF) (s : State) : Host.Outcome State Fault Refusal :=
  s.issue (.vfmaxImm f) (fun e s => e.viFlt (.vfmaxImm f) f (fun a b _ => fmax a b) s)

/-- `VFCMP_IMM` (R247): VI form of vfcmp. -/
def execVfcmpImm (f : VIF) (s : State) : Host.Outcome State Fault Refusal :=
  s.issue (.vfcmpImm f) (fun e s =>
    let a : Opnd := .reg f.a.toNat
    if e.badOpnd 1 a then e.instr .regRange s
    else .done (s.putCmp e (e.lanesFor (.vfcmpImm f)) f.d (e.cmpFlt (condOf f.d) a (.const f.val))))

/-! Melded forms. -/

/-- `VFADD_MELDED` (R59): Melded vfadd. -/
def execVfaddMelded (f : VMF) (s : State) : Host.Outcome State Fault Refusal :=
  s.issue (.vfaddMelded f) (fun e s => e.vmFlt f (fun a b _ => fadd .rne a b) s)

/-- `VFSUB_MELDED` (R59): Melded vfsub. -/
def execVfsubMelded (f : VMF) (s : State) : Host.Outcome State Fault Refusal :=
  s.issue (.vfsubMelded f) (fun e s => e.vmFlt f (fun a b _ => fsub .rne a b) s)

/-- `VFMUL_MELDED` (R59): Melded vfmul. -/
def execVfmulMelded (f : VMF) (s : State) : Host.Outcome State Fault Refusal :=
  s.issue (.vfmulMelded f) (fun e s => e.vmFlt f (fun a b _ => fmul .rne a b) s)

/-- `VFMA_MELDED` (R59): Melded vfma with addend +0.0 or DX. -/
def execVfmaMelded (f : VMF) (s : State) : Host.Outcome State Fault Refusal :=
  s.issue (.vfmaMelded f) (fun e s => e.vmFlt f (fun a b c => ffma .rne a b c) s)

/-- `VFMIN_MELDED` (R59): Melded vfmin. -/
def execVfminMelded (f : VMF) (s : State) : Host.Outcome State Fault Refusal :=
  s.issue (.vfminMelded f) (fun e s => e.vmFlt f (fun a b _ => fmin a b) s)

/-- `VFMAX_MELDED` (R59): Melded vfmax. -/
def execVfmaxMelded (f : VMF) (s : State) : Host.Outcome State Fault Refusal :=
  s.issue (.vfmaxMelded f) (fun e s => e.vmFlt f (fun a b _ => fmax a b) s)

/-- `VFCMP_MELDED` (R59): Melded vfcmp. -/
def execVfcmpMelded (f : VMF) (s : State) : Host.Outcome State Fault Refusal :=
  s.issue (.vfcmpMelded f) (fun e s =>
    if (f.arms e).any (fun x => e.over x.a || e.over x.b) then e.instr .regRange s
    else .done ((f.arms e).foldl (fun s x =>
      s.putCmp e x.m (BitVec.ofNat 8 x.d) (e.cmpFlt (x.d / 8 % 8) (.reg x.a) (.reg x.b))) s))

end Sys2Proof.Machine
end

