-- ==== Sys2Proof/Machine/Convert.lean ====
section
/-! DEFINITION. Conversions (R79, R320) and the narrow formats (R80 to R82, R329 to R332). -/

namespace Sys2Proof.Machine

/-- The wide format of a float format code (R78). -/
def wideOfCode (c : Nat) : Option FFmt :=
  match c with
  | 0x20 => some f16
  | 0x21 => some e8m7
  | 0x22 => some f32
  | _ => none

/-- The integer type of a format code (R78), as a TY code. -/
def intTyOfCode (c : Nat) : Option Nat :=
  match c with
  | 0x10 => some 5 | 0x11 => some 6 | 0x12 => some 3 | 0x13 => some 4
  | 0x14 => some 0 | 0x15 => some 2 | 0x16 => some 7 | 0x17 => some 8
  | _ => none

/-- The wide format of a TY code (R246). -/
def wideOfTy (ty : Nat) : Option FFmt :=
  match ty with
  | 1 => some f32 | 9 => some f16 | 10 => some e8m7
  | _ => none

/-- The bits of a wide format. -/
def FFmt.width (f : FFmt) : Nat := 1 + f.eb + f.fb

/-- One converted lane (R320): the destination's bits as a number of its width, and the flags. -/
def convert (mode : RMode) (sat : Bool) (ty code : Nat) (x : Word) : Nat × Flags :=
  match wideOfCode code, wideOfTy ty with
  | some src, some dst =>
    let v := src.decode (x.toNat % 2 ^ src.width)
    if src = dst then
      (if v = .nan then src.nanCode else x.toNat % 2 ^ src.width, 0)
    else dst.ofVal mode sat v
  | some src, none =>
    let t := intTy ty
    let r := intOfVal mode t.min t.max (src.decode (x.toNat % 2 ^ src.width))
    (t.wrap r.1, r.2)
  | none, dst? =>
    let st := intTy ((intTyOfCode code).getD 0)
    let v := st.val (x.toNat % 2 ^ st.w)
    match dst? with
    | some dst => dst.ofIntVal mode sat v
    | none =>
      let t := intTy ty
      if sat && decide (v < t.min) then (t.wrap t.min, flSAT)
      else if sat && decide (t.max < v) then (t.wrap t.max, flSAT)
      else (t.wrap v, 0)

/-- `VCVT` (R320): Lane conversion between integer and wide float formats. -/
def execVcvt (f : VF) (s : State) : Host.Outcome State Fault Refusal :=
  s.issue (.vcvt f) (fun e s =>
    let ty := f.ty.toNat
    let c := f.c.toNat
    let sty := (intTyOfCode c).getD 1
    let a : Opnd := .reg f.a.toNat
    if e.badReg ty f.d.toNat || e.badOpnd sty a then e.instr .regRange s
    else if (wideOfCode c).isNone && (intTyOfCode c).isNone then e.instr .formatCode s
    else .done (s.modGrp e.who (forLanes (e.lanesFor (.vcvt f)) (fun l g =>
      let x : Word := if wide sty then a.pair e.gr l else (a.lo e.gr l).zeroExtend 64
      let r := convert (RMode.of f.mod) f.sat ty c x
      (if (wideOfTy ty).isSome then g.setV f.d.toNat l (BitVec.ofNat 32 r.1)
       else g.putInt ty f.d.toNat l r.1).raise r.2))))

/-- The binary8 format that SUB names (R329, R331); none for precision 0. -/
def b8OfSub (sub : BitVec 6) : Option B8 :=
  b8OfCode ((sub.extractLsb' 0 3).toNat + (if sub.getLsbD 3 then 0x40 else 0) + (if sub.getLsbD 4 then 0x80 else 0))

/-- The lanes of `vnarw` in ascending order, with the residual they pass on (R82). -/
def narrowLanes (f : B8) (sat ef : Bool) (sc : Int) (src : Group) (a d : Nat) :
    List Nat → Group → Dy → Group × Dy
  | [], g, res => (g, res)
  | l :: ls, g, res =>
    let r := narrowOne f sat ef sc res (f32Of (src.vReg a l))
    narrowLanes f sat ef sc src a d ls ((g.setV d l (BitVec.ofNat 32 r.1.code)).raise r.1.fl) r.2

/-- `VNARW` (R82): Narrows f32 lanes to binary8 codes with block scale and optional error feedback. -/
def execVnarw (f : VF) (s : State) : Host.Outcome State Fault Refusal :=
  s.issue (.vnarw f) (fun e s =>
    if e.over f.d.toNat || e.over f.a.toNat then e.instr .regRange s
    else
      match b8OfSub f.sub with
      | none => e.instr .formatCode s
      | some b =>
        let ef := f.mod.getLsbD 2
        let sc := clampScale (e.g f.b.toNat)
        let e0 := f32Of ((e.g f.c.toNat).extractLsb' 0 32)
        let finite := match e0 with | .fin _ _ _ => true | _ => false
        let res0 := if ef && finite then e0.dy else Dy.zero
        .done (s.modGrp e.who (fun g =>
          let r := narrowLanes b f.sat ef sc e.gr f.a.toNat f.d.toNat (lanesOf (e.lanesFor (.vnarw f)))
            (g.raise (flIf (ef && !finite) flNV)) res0
          if ef then
            let q := f32.roundDy .rne false false r.2
            (e.putG f.c.toNat (BitVec.ofNat 64 q.1) r.1).raise q.2
          else r.1)))

/-- `VWIDE` (R331): Widens a binary8 byte of each lane to f32, f16 or e8m7 with a scale. -/
def execVwide (f : VF) (s : State) : Host.Outcome State Fault Refusal :=
  s.issue (.vwide f) (fun e s =>
    if e.over f.d.toNat || e.over f.a.toNat then e.instr .regRange s
    else
      match b8OfSub f.sub, wideOfTy f.ty.toNat with
      | some b, some dst =>
        let sc := if f.bg then clampScale (e.g f.b.toNat) else 0
        .done (s.modGrp e.who (forLanes (e.lanesFor (.vwide f)) (fun l g =>
          let c := ((e.gr.vReg f.a.toNat l).toNat / 256 ^ f.c.toNat) % 256
          let v := match b.decode c with
            | .fin n m x => FVal.fin n m (x + sc)
            | x => x
          let r := dst.ofVal .rne false v
          (g.setV f.d.toNat l (BitVec.ofNat 32 r.1)).raise r.2)))
      | _, _ => e.instr .formatCode s)

/-- The largest finite value of a narrow or 16-bit format code (R81). -/
def maxFiniteOf (c : Nat) : Option Dy :=
  match b8OfCode c with
  | some b => some b.maxFinite
  | none =>
    if c = 0x20 ∨ c = 0x21 then
      (wideOfCode c).map (fun f => (f.decode (f.infCode - 1)).dy)
    else none

/-- The largest finite magnitude among some values (R81). -/
def maxMag (xs : List FVal) : Dy :=
  xs.foldl (fun a x =>
    match x with
    | .fin _ m ex => if a.lt { m := m, e := ex } then { m := m, e := ex } else a
    | _ => a) Dy.zero

/-- `VSCL` (R81): Finds the block scale exponent of the active lanes for a format. -/
def execVscl (f : VF) (s : State) : Host.Outcome State Fault Refusal :=
  s.issue (.vscl f) (fun e s =>
    if e.over f.a.toNat then e.instr .regRange s
    else
      match maxFiniteOf f.c.toNat with
      | none => e.instr .formatCode s
      | some mf =>
        let xs := (lanesOf (e.lanesFor (.vscl f))).map (fun l => f32Of (e.gr.vReg f.a.toNat l))
        e.putsG f.d.toNat (BitVec.ofInt 64 (blockScale mf (maxMag xs))) s)

/-- Elements of a packed register (R332): two halves or four bytes. -/
def packCount (ty : Nat) : Nat := if ty < 5 then 2 else 4

/-- `VPACK` (R332): Packs narrow elements from a register block into one register. -/
def execVpack (f : VF) (s : State) : Host.Outcome State Fault Refusal :=
  s.issue (.vpack f) (fun e s =>
    let ty := f.ty.toNat
    let n := packCount ty
    let t := intTy ty
    let a := f.a.toNat
    if e.over f.d.toNat || a % n != 0 || e.over (a + n - 1) then e.instr .regRange s
    else .done (s.modGrp e.who (forLanes (e.lanesFor (.vpack f)) (fun l g =>
      let one (j : Nat) : Nat × Flags :=
        let x := e.gr.vReg (a + j) l
        let v : Int := if t.signed then x.toInt else x.toNat
        if f.sat && decide (v < t.min) then (t.wrap t.min, flSAT)
        else if f.sat && decide (t.max < v) then (t.wrap t.max, flSAT)
        else (x.toNat % 2 ^ t.w, 0)
      let r := (List.range n).foldl (fun (acc : Nat × Flags) j =>
        (acc.1 + (one j).1 * 2 ^ (t.w * j), acc.2 ||| (one j).2)) (0, 0)
      (g.setV f.d.toNat l (BitVec.ofNat 32 r.1)).raise r.2))))

/-- `VUNPK` (R332): Unpacks narrow elements of one register over a register block. -/
def execVunpk (f : VF) (s : State) : Host.Outcome State Fault Refusal :=
  s.issue (.vunpk f) (fun e s =>
    let ty := f.ty.toNat
    let n := packCount ty
    let t := intTy ty
    let d := f.d.toNat
    if e.over f.a.toNat || d % n != 0 || e.over (d + n - 1) then e.instr .regRange s
    else .done (s.modGrp e.who (forLanes (e.lanesFor (.vunpk f)) (fun l g =>
      let x := (e.gr.vReg f.a.toNat l).toNat
      (List.range n).foldl (fun g j => g.putInt ty (d + j) l (x / 2 ^ (t.w * j) % 2 ^ t.w)) g))))

end Sys2Proof.Machine
end

