-- ==== Sys2Proof/Machine/Memory.lean ====
section
/-! DEFINITION. Loads, stores and atomics of lanes and groups (R261 to R263, R287, R288, R292, R293, R313 to
R315, R58), fences (R289), and cache maintenance (R273, R274, R133). -/

namespace Sys2Proof.Machine

/-! Lane accesses. -/

/-- What R122 decides for one lane. -/
abbrev LanePlan := Nat × Except Miss Where

/-- The footprints an access of a kind must not hit (R118). -/
def State.feet (s : State) (e : Env) (k : MemKind) : List (Int × Int) :=
  let c := s.core e.gr.core
  match k with
  | .load => c.dstFeet e.who.tid
  | .engine => []
  | _ => c.dstFeet e.who.tid ++ c.srcFeet e.who.tid

/-- The access of `n` bytes of a raw kind. -/
def State.acc (s : State) (e : Env) (k : MemKind) (n : Nat) : Acc :=
  match k with
  | .load => { n := n, rd := true, wr := false, feet := s.feet e k, l1 := some e.gr.core }
  | .store => { n := n, rd := false, wr := true, feet := s.feet e k }
  | _ => { n := n, rd := true, wr := true, atomic := true, aligned := true, feet := s.feet e k }

/-- The access of a load of `n` bytes, with `poc` past the L1 (R130). -/
def State.loadAcc (s : State) (e : Env) (poc : Bool) (n : Nat) : Acc :=
  { s.acc e .load n with l1 := if poc then none else some e.gr.core }

/-- Every lane of a mask checks its access (R122). -/
def State.plan (s : State) (e : Env) (acc : Acc) (ea : Nat → Word) (m : Word) : List LanePlan :=
  (lanesOf m).map (fun l => (l, s.access e.tm acc (ea l)))

/-- The lanes that passed, with their places. -/
def passed (p : List LanePlan) : List (Nat × Where) :=
  p.filterMap (fun x => match x.2 with | .ok w => some (x.1, w) | .error _ => none)

/-- The lanes that failed. -/
def failed (p : List LanePlan) : List (Nat × Miss) :=
  p.filterMap (fun x => match x.2 with | .ok _ => none | .error m => some (x.1, m))

/-- The trap of the failing lanes: `%tlanes` holds them all, cause and address are the lowest lane's (R123). -/
def Env.laneTrap (e : Env) (k : MemKind) (stat : Word) (fs : List (Nat × Miss)) : Option TrapInfo :=
  match fs with
  | [] => none
  | (_, r, a) :: _ =>
    some { cause := .mem k r, pc := e.pc, va := a, stat := stat,
           lanes := maskIf (fun l => fs.any (fun x => x.1 == l)) }

/-- The end of an access instruction: the passing lanes have completed. -/
def Env.endAccess (t : Option TrapInfo) (s : State) : Res :=
  match t with
  | none => .done s
  | some t => .trap t s

/-- A place touches an absent scratchpad line (R135). -/
def Env.absent (e : Env) (n : Nat) (w : Where) : Bool :=
  match w with
  | .scr o => e.tm.absentAt o n
  | .mem _ _ => false

/-- The instruction is in flight until its completion event: its flag rises, its stores wait at the gate, and the
registers `dsts` that it writes stay pending (R32, R33, R215). It keeps the replay count of its word until it commits
(R214, R216). -/
def State.track (s : State) (e : Env) (i : Instr) (bytes : List StByte) (views : List View)
    (tag : Option (Nat × Nat)) (dsts : List Nat := []) : State :=
  let k := e.flagOf i
  if k.isNone && bytes == [] && tag.isNone && dsts == [] then s
  else
    let o : Op := { who := e.who, flag := k, opc := i.opc, pc := e.pc, gated := bytes != [], bytes := bytes,
                    views := views, tag := tag, charge := e.charge i, replays := e.count }
    ((s.keepOwn e.gr.core e.who bytes).modCore e.gr.core (fun c =>
        { c with ops := AMap.insert c.ops s.fresh o })).modGrp e.who (fun g =>
      { g with pend := g.pend ++ dsts.map (fun r => { reg := r, op := s.fresh, pc := e.pc : Pending }) }.flagUp k)

/-- The level and the die that serve an access of a core outside the scratchpad, with `poc` past its L1 (R19, R228).
The near vault of a core is vault (c mod 48) / 4 of its die. A line of device memory is served by its home slice
(R131), or by memory behind it, which of the two is open; a line in memory is served by the die of its frame's stack
(R127). Which die the host or a peer counts as is not stated; it is that of the core (log 70). -/
def State.levelOf (s : State) (core : Nat) (poc : Bool) (ia : Nat) : Nat × Nat :=
  let die := core / 48
  let hit := !poc && (s.l1Line core (ia / 128)).isSome
  match regionOf ia with
  | .host => (6, die)
  | .peer _ => (7, die)
  | .vault =>
    let d := (ia - 2 ^ 48) / 2 ^ 28
    if hit then (0, die)
    else (if d = die && (ia - 2 ^ 48) / 2 ^ 24 % 16 == core % 48 / 4 then 3 else 4, d)
  | _ =>
    let home := Config.homeSlice (ia / 128) % 384 / 48
    if hit then (0, die)
    else if (Config.freeWord s.fresh 103).toNat % 2 = 0 then (if home = die then 1 else 2, home)
    else (5, (s.devKey ia).elim home (fun k => k / 2 ^ 36 / 2))

/-- A load instruction that reads outside the scratchpad counts for the tag, and every Nth is tagged in its
lowest such lane (R228). -/
def State.tagLoad (s : State) (e : Env) (poc : Bool) (ws : List Where) : State × Option (Nat × Nat) :=
  let c := s.core e.gr.core
  match ws.find? (fun w => match w with | .mem _ _ => true | .scr _ => false) with
  | some (.mem ia _) =>
    if bit c.tagctl 0 then
      if bits c.tagctl 31 8 ≤ c.tagcnt + 1 then
        (s.modCore e.gr.core (fun c => { c with tagcnt := 0 }), some (s.levelOf e.gr.core poc ia))
      else (s.modCore e.gr.core (fun c => { c with tagcnt := c.tagcnt + 1 }), none)
    else (s, none)
  | _ => (s, none)

/-- A loaded value in a lane (R293). -/
def Group.putLoad (g : Group) (d l n x : Nat) : Group :=
  if n ≤ 4 then g.setV d l (BitVec.ofNat 32 x)
  else if n = 8 then g.setV64 d l (BitVec.ofNat 64 x)
  else (List.range 4).foldl (fun g j => g.setV (d + j) l (BitVec.ofNat 32 (x / 2 ^ (32 * j)))) g

/-- The bytes a lane stores (R314). -/
def Group.storeVal (g : Group) (d l n : Nat) : List Byte :=
  if n ≤ 4 then leBytes n (g.vReg d l).toNat
  else if n = 8 then leBytes 8 (g.vReg64 d l).toNat
  else (List.range 4).flatMap (fun j => leBytes 4 (g.vReg (d + j) l).toNat)

/-- A register block of an n-byte access is misplaced (R28, R292). -/
def Env.badBlock (e : Env) (n r : Nat) : Bool :=
  let k := if n ≤ 4 then 1 else n / 4
  r % k != 0 || e.over (r + k - 1)

/-- An offset register lies outside the allocation. -/
def Env.badVo (e : Env) (f : MF) : Bool := f.vo != 0xFF && e.over f.vo.toNat

/-- A load reads the point of coherence (R149, R293): `.cg`, and an acquire at `.die` or wider. -/
def readsPoc (f : MF) : Bool := f.ord == 4 || ((f.ord == 1 || f.ord == 3) && 3 ≤ f.scope)

/-- A release performs the group's earlier stores (R146), at their point of coherence at every scope, `.grp` included
(log 7). -/
def State.releaseIf (s : State) (e : Env) (ord : BitVec 3) : State :=
  if ord = 2 ∨ ord = 3 then s.drainStores e.gr.core e.who else s

/-- The passing lanes of a load read and write their registers. -/
def State.loadLanes (s : State) (e : Env) (poc : Bool) (n : Nat) (put : Nat → Nat → Group → Group)
    (ps : List (Nat × Where)) : State :=
  ps.foldl (fun s p =>
    let (bs, s1) := s.load e.who e.gr.core poc p.2 n
    s1.modGrp e.who (put p.1 (leVal bs))) s

/-- The registers of one n-byte access from `r` (R28). -/
def dataRegs (r n : Nat) : List Nat := block r (if n ≤ 4 then 1 else n / 4)

/-- The lane load (R293): its registers are pending where a lane reads. While a lane that passes touches an absent line the
whole word waits, its faults undecided, and then every lane is checked again (log 81). -/
def State.laneLoad (s : State) (e : Env) (i : Instr) (f : MF) : Res :=
  let n := f.bytes
  let d := f.data.toNat
  if e.badBlock n d || e.badVo f then e.instr .regRange s
  else
    let p := s.plan e (s.loadAcc e (readsPoc f) n) (f.ea e f.off15) (e.lanesFor i)
    let ps := passed p
    if ps.any (fun x => e.absent n x.2) then .wait .line s
    else
      let (s1, tag) := s.tagLoad e (readsPoc f) (ps.map (·.2))
      let s2 := s1.loadLanes e (readsPoc f) n (fun l x g => g.putLoad d l n x) ps
      Env.endAccess (e.laneTrap .load 0 (failed p))
        (s2.track e i [] [] tag (if ps == [] then [] else dataRegs d n))

/-- `LD` (R293): Lane load of 1 to 16 bytes per active lane. -/
def execLd (f : MF) (s : State) : Host.Outcome State Fault Refusal :=
  s.issue (.ld f) (fun e s => s.laneLoad e (.ld f) f)

/-- The bytes that one lane stores, as pieces of that lane (R141, R142). -/
def lanePieces (l : Nat) (bs : List StByte) : List StByte := bs.map (fun b => { b with piece := 16 * l + b.piece })

/-- The bytes that the passing lanes store, in ascending lanes: the highest wins (R142). -/
def storeLanes (ps : List (Nat × Where)) (val : Nat → List Byte) : List StByte :=
  ps.flatMap (fun p => lanePieces p.1 (storeBytes p.2 (val p.1)))

/-- The lane store (R315). -/
def State.laneStore (s : State) (e : Env) (i : Instr) (f : MF) : Res :=
  let n := f.bytes
  let d := f.data.toNat
  if e.badBlock n d || e.badVo f then e.instr .regRange s
  else
    let p := s.plan e (s.acc e .store n) (f.ea e f.off15) (e.lanesFor i)
    let ps := passed p
    if ps.any (fun x => e.absent n x.2) then .wait .line s
    else
      let s1 := (s.releaseIf e f.ord).track e i (storeLanes ps (fun l => e.gr.storeVal d l n)) [] none
      Env.endAccess (e.laneTrap .store 0 (failed p)) s1

/-- `ST` (R315): Lane store of 1 to 16 bytes per active lane. -/
def execSt (f : MF) (s : State) : Host.Outcome State Fault Refusal :=
  s.issue (.st f) (fun e s => s.laneStore e (.st f) f)

/-! Atomics. -/

/-- The new value of an atomic on w bits, with its flags (R261). -/
def atomOp (op w old x : Nat) : Nat × Flags :=
  let sgn (y : Nat) : Int := if 2 ^ (w - 1) ≤ y then (y : Int) - 2 ^ w else y
  let f (r : Lane × Flags) : Nat × Flags := (r.1.toNat, r.2)
  match op with
  | 0 => ((old + x) % 2 ^ w, 0)
  | 1 => (old &&& x, 0)
  | 2 => (old ||| x, 0)
  | 3 => (old ^^^ x, 0)
  | 4 => (if sgn x < sgn old then x else old, 0)
  | 5 => (if sgn old < sgn x then x else old, 0)
  | 6 => (min old x, 0)
  | 7 => (max old x, 0)
  | 8 => (x, 0)
  | 9 => f (fadd .rne (BitVec.ofNat 32 old) (BitVec.ofNat 32 x))
  | 10 => f (fmin (BitVec.ofNat 32 old) (BitVec.ofNat 32 x))
  | _ => f (fmax (BitVec.ofNat 32 old) (BitVec.ofNat 32 x))

/-- Stores of the group at the gate that share bytes with a place are performed (R140). -/
def State.flushPlace (s : State) (e : Env) (w : Where) (n : Nat) : State :=
  let here (b : StByte) : Bool :=
    match w with
    | .scr o => b.scr && decide (o ≤ b.key) && decide (b.key < o + n)
    | .mem _ keys => !b.scr && keys.contains b.key
  s.releaseWhere e.gr.core (fun o => o.2.of e.who && o.2.bytes.any here)

/-- One atomic at a place (R262): the line leaves the issuing core's L1, where no store is applied and not yet
performed (R144, R145), and the old value is replaced by
what `new` gives, or stays. -/
def State.atomic (s : State) (e : Env) (w : Where) (n : Nat) (new : Nat → Option (Nat × Flags)) : Nat × State :=
  let s1 := s.flushPlace e w n
  let s2 := match w with
    | .scr _ => s1
    | .mem ia _ => if cached ia then (s1.settleLine e.gr.core ia).l1Drop e.gr.core (ia / 128) else s1
  let old := leVal (s2.peek e.who.tid w n)
  match new old with
  | none => (old, s2)
  | some (x, fl) =>
    let bs := storeBytes w (leBytes n x)
    (old, ((s2.keepOwn e.gr.core e.who bs).perform e.who e.gr.core bs).modGrp e.who (fun g => g.raise fl))

/-- The lanes of an atomic in ascending order (R142); RET writes the old value. -/
def State.atomLanes (s : State) (e : Env) (f : MF) (new : Nat → Nat → Option (Nat × Flags))
    (ps : List (Nat × Where)) : State :=
  let n := f.bytes
  ps.foldl (fun s p =>
    let (old, s1) := s.atomic e p.2 n (new p.1)
    if f.off.getLsbD 10 then s1.modGrp e.who (fun g => g.putLoad f.data.toNat p.1 n old) else s1) s

/-- The lane atomics (R262, R263). -/
def State.laneAtomic (s : State) (e : Env) (i : Instr) (f : MF) (new : Nat → Nat → Option (Nat × Flags)) : Res :=
  let n := f.bytes
  let p := s.plan e (s.acc e .atomic n) (f.ea e f.off10) (e.lanesFor i)
  let ps := passed p
  if ps.any (fun x => e.absent n x.2) then .wait .line s
  else
    let s1 := ((s.releaseIf e f.ord).atomLanes e f new ps).track e i [] [] none
      (if f.off.getLsbD 10 && ps != [] then dataRegs f.data.toNat n else [])
    Env.endAccess (e.laneTrap .atomic 0 (failed p)) s1

/-- An operand of an atomic: a register, or the pair it begins. -/
def Group.atomVal (g : Group) (r l n : Nat) : Nat :=
  if n = 4 then (g.vReg r l).toNat else (g.vReg64 r l).toNat

/-- `ATOM` (R262): Atomic read-modify-write per active lane by OP at the point of coherence. -/
def execAtom (f : MF) (s : State) : Host.Outcome State Fault Refusal :=
  s.issue (.atom f) (fun e s =>
    let n := f.bytes
    if e.badBlock n f.data.toNat || e.badVo f then e.instr .regRange s
    else s.laneAtomic e (.atom f) f (fun l old =>
      some (atomOp f.op.toNat (8 * n) old (e.gr.atomVal f.data.toNat l n))))

/-- `ACAS` (R262): Atomic compare-and-swap per active lane at the point of coherence, optionally returning the
old value. -/
def execAcas (f : MF) (s : State) : Host.Outcome State Fault Refusal :=
  s.issue (.acas f) (fun e s =>
    let n := f.bytes
    let d := f.data.toNat
    if e.badBlock n d || e.over (d + n / 2 - 1) || e.badVo f then e.instr .regRange s
    else s.laneAtomic e (.acas f) f (fun l old =>
      if old = e.gr.atomVal d l n then some (e.gr.atomVal (d + n / 4) l n, 0) else none))

/-! Group accesses. -/

/-- The address of a group access. -/
def Env.groupEa (e : Env) (f : MF) (off : Int) : Word := e.g f.gb.toNat + BitVec.ofInt 64 off

/-- A MEM fault of a group access at an address, for every lane of `exec`: `%tva` is the address under every reason
(R287, log 69). -/
def Env.groupMem (e : Env) (k : MemKind) (r : MemReason) (a : Word) (s : State) : Res := .trap (e.memTrap k (r, a)) s

/-- `GLD` (R287): Group-wide load into a g register. -/
def execGld (f : MF) (s : State) : Host.Outcome State Fault Refusal :=
  s.issue (.gld f) (fun e s =>
    let n := f.bytes
    match s.access e.tm (s.loadAcc e (readsPoc f) n) (e.groupEa f f.off15) with
    | .error m => e.groupMem .load m.1 (e.groupEa f f.off15) s
    | .ok w =>
      if e.absent n w then .wait .line s
      else
        let (s1, tag) := s.tagLoad e (readsPoc f) [w]
        let (bs, s2) := s1.load e.who e.gr.core (readsPoc f) w n
        .done ((s2.modGrp e.who (e.putG f.data.toNat (BitVec.ofNat 64 (leVal bs)))).track e (.gld f) [] [] tag
          [e.sbG f.data.toNat]))

/-- `GST` (R287): Group-wide store from a g register. -/
def execGst (f : MF) (s : State) : Host.Outcome State Fault Refusal :=
  s.issue (.gst f) (fun e s =>
    let n := f.bytes
    match s.access e.tm (s.acc e .store n) (e.groupEa f f.off15) with
    | .error m => e.groupMem .store m.1 (e.groupEa f f.off15) s
    | .ok w =>
      if e.absent n w then .wait .line s
      else .done ((s.releaseIf e f.ord).track e (.gst f)
        (storeBytes w (leBytes n (e.g f.data.toNat).toNat)) [] none))

/-- `GATOM` (R288): One group-wide atomic at the point of coherence. -/
def execGatom (f : MF) (s : State) : Host.Outcome State Fault Refusal :=
  s.issue (.gatom f) (fun e s =>
    let n := f.bytes
    match s.access e.tm (s.acc e .atomic n) (e.groupEa f f.off10) with
    | .error m => e.groupMem .atomic m.1 (e.groupEa f f.off10) s
    | .ok w =>
      if e.absent n w then .wait .line s
      else
        let x := (e.g f.data.toNat).toNat % 256 ^ n
        let (old, s1) := (s.releaseIf e f.ord).atomic e w n (fun old => some (atomOp f.op.toNat (8 * n) old x))
        let s2 := if f.off.getLsbD 10 then s1.modGrp e.who (e.putG f.data.toNat (BitVec.ofNat 64 old)) else s1
        .done (s2.track e (.gatom f) [] [] none (if f.off.getLsbD 10 then [e.sbG f.data.toNat] else [])))

/-! Melded accesses: 4 bytes at the address in a pair (R59, R65). -/

/-- The arms that hold failing lanes, as `%tstat` records them (R65): ARMA and ARMB. -/
def armStat (e : Env) (f : VMF) (m : Word) : Word :=
  (if f.ena && (e.fr.exec &&& e.region &&& m) != 0 then 1 else 0) |||
  (if f.enb && (e.fr.exec &&& ~~~e.region &&& m) != 0 then 2 else 0)

/-- The lanes of a mask that failed. -/
def failMask (fs : List (Nat × Miss)) : Word := maskIf (fun l => fs.any (fun x => x.1 == l))

/-- Ascending order of lanes. -/
def byLane {α : Type} (xs : List (Nat × α)) : List (Nat × α) :=
  (List.range 64).flatMap (fun l => xs.filter (fun x => x.1 == l))

/-- `LD_MELDED` (R59): Melded 4-byte load at the address in each arm's register pair. -/
def execLdMelded (f : VMF) (s : State) : Host.Outcome State Fault Refusal :=
  s.issue (.ldMelded f) (fun e s =>
    if (f.arms e).any (fun x => e.over x.d || x.a % 2 == 1 || e.over (x.a + 1)) then e.instr .regRange s
    else
      let p := byLane ((f.arms e).flatMap (fun x =>
        s.plan e (s.acc e .load 4) (fun l => e.gr.vReg64 x.a l) x.m))
      let dst (l : Nat) : Nat := ((f.arms e).find? (fun x => x.m.getLsbD l)).elim 0 (·.d)
      let ps := passed p
      if ps.any (fun x => e.absent 4 x.2) then .wait .line s
      else
        let (s1, tag) := s.tagLoad e false (ps.map (·.2))
        let s2 := s1.loadLanes e false 4 (fun l x g => g.putLoad (dst l) l 4 x) ps
        let fs := failed p
        Env.endAccess (e.laneTrap .load (armStat e f (failMask fs)) fs)
          (s2.track e (.ldMelded f) [] [] tag (ps.map (fun x => dst x.1)).eraseDups))

/-- `ST_MELDED` (R59): Melded 4-byte store at the address in each arm's register pair. -/
def execStMelded (f : VMF) (s : State) : Host.Outcome State Fault Refusal :=
  s.issue (.stMelded f) (fun e s =>
    if (f.arms e).any (fun x => e.over x.b || x.a % 2 == 1 || e.over (x.a + 1)) then e.instr .regRange s
    else
      let p := byLane ((f.arms e).flatMap (fun x =>
        s.plan e (s.acc e .store 4) (fun l => e.gr.vReg64 x.a l) x.m))
      let src (l : Nat) : Nat := ((f.arms e).find? (fun x => x.m.getLsbD l)).elim 0 (·.b)
      let ps := passed p
      if ps.any (fun x => e.absent 4 x.2) then .wait .line s
      else
        let fs := failed p
        Env.endAccess (e.laneTrap .store (armStat e f (failMask fs)) fs)
          (s.track e (.stMelded f) (storeLanes ps (fun l => leBytes 4 (e.gr.vReg (src l) l).toNat)) [] none))

/-! Fences, prefetch and cache maintenance. -/

/-- `FENCE` (R289): Holds later accesses until earlier ones are performed at the scope; stores at their point of coherence
at every scope, `.grp` included (log 7). -/
def execFence (f : MF) (s : State) : Host.Outcome State Fault Refusal :=
  s.issue (.fence f) (fun e s => .done ((s.drainStores e.gr.core e.who).track e (.fence f) [] [] none))

/-- The lines of an access are filled (R313). -/
def State.prefetch (s : State) (core : Nat) (w : Where) : State :=
  match w with
  | .scr _ => s
  | .mem ia keys =>
    if cached ia then
      (keys.zip (List.range keys.length)).foldl (fun s ki => s.l1Fill core (ia + ki.2) ki.1) s
    else s

/-- `PRF` (R313): Prefetches device-memory or vault lines into L1, never faulting. -/
def execPrf (f : MF) (s : State) : Host.Outcome State Fault Refusal :=
  s.issue (.prf f) (fun e s =>
    if e.badVo f then e.instr .regRange s
    else
      let ps := passed (s.plan e (s.acc e .load f.bytes) (f.ea e f.off15) (e.lanesFor (.prf f)))
      .done (ps.foldl (fun s p => s.prefetch e.gr.core p.2) s))

/-- A block of a dirty aperture line is encoded into its packed and scale bytes (R88), which the controller writes; a
saturation counts at the controller that serves the line. -/
def State.encodeBlock (s : State) (f : FmtWin) (b : B8) (i0 : Nat) (vals : List FVal) : State :=
  let sc := blockScale b.maxFinite (maxMag vals)
  let step (acc : State × Dy × Bool) (xi : FVal × Nat) : State × Dy × Bool :=
    let r := narrowOne b true true sc acc.2.1 xi.1
    let s1 := match acc.1.devKey (f.pkb.toNat + i0 + xi.2) with
      | some k => acc.1.wrStack k (BitVec.ofNat 8 r.1.code)
      | none => acc.1
    (s1, r.2, acc.2.2 || r.1.fl &&& flSAT != 0)
  let r := (vals.zip (List.range vals.length)).foldl step (s, Dy.zero, false)
  let s1 := match r.1.devKey (f.scb.toNat + i0 / 32) with
    | some k => r.1.wrStack k (BitVec.ofInt 8 (sc + 127))
    | none => r.1
  if r.2.2 then
    let c := homeCtrl ((f.apb.toNat + i0 * f.esize) / 128)
    let k := s1.ctrl c
    let k1 : Ctrl := { k with satc := if k.satc = BitVec.allOnes 64 then k.satc else k.satc + 1 }
    { s1 with ctrls := AMap.set {} s1.ctrls c k1 }
  else s1

/-- The write-back of an aperture line by the window that decoded it (R88, R89); the line stays, clean. -/
def State.writeBack (s : State) (line : Nat) : State :=
  match AMap.find s.aper line with
  | none => s
  | some x =>
    if x.dirty then
      let s1 := { s with aper := AMap.insert s.aper line { x with dirty := false } }
      let f := x.win
      match b8OfCode (bits f.ctl 15 8) with
      | none => s1
      | some b =>
        let wf := if f.wide then f32 else e8m7
        let i0 := (128 * line - f.apb.toNat) / f.esize
        let val (i : Nat) : FVal :=
          wf.decode ((x.data.extractLsb' (8 * f.esize * i) (8 * f.esize)).toNat)
        (List.range (4 / f.esize)).foldl (fun s k =>
          s.encodeBlock f b (i0 + 32 * k) ((List.range 32).map (fun i => val (32 * k + i)))) s1
    else s

/-- A piece of a maintenance range within one page: whole lines of IA, and whether the window allows
writes. -/
structure Piece where
  lo : Nat
  hi : Nat
  w : Bool

/-- The pieces of [a, a + len), page by page, without those that R274 skips. -/
def State.pieces (s : State) (ctx a len : Nat) : List Piece :=
  (List.range ((a + len - 1) / 2 ^ 16 + 1 - a / 2 ^ 16)).filterMap (fun i =>
    let page := (a / 2 ^ 16 + i) * 2 ^ 16
    match s.window ctx page with
    | none => none
    | some w =>
      let ia := w.ia.toNat + (page - w.va.toNat)
      if bit w.ctl 3 || !cached ia then none
      else
        let lo := max a page / 128 * 128
        let hi := (min (a + len) (page + 2 ^ 16) + 127) / 128 * 128
        some { lo := ia + (lo - page), hi := ia + (hi - page), w := bit w.ctl 2 })

/-- The L1 part of maintenance on a piece (R133): with `clean` the core's earlier stores to the lines reach home, and
with `drop` the lines are dropped. -/
def State.maintL1 (s : State) (core : Nat) (clean drop : Bool) (p : Piece) : State :=
  let here (b : StByte) : Bool := !b.scr && decide (p.lo ≤ b.ia) && decide (b.ia < p.hi)
  let s1 := if clean then s.releaseWhere core (fun o => o.2.bytes.any here) else s
  if drop then
    s1.modCore core (fun c =>
      { c with l1 := c.l1.filter (fun x => !(decide (p.lo ≤ 128 * x.1) && decide (128 * x.1 < p.hi))) })
  else s1

/-- Bytes of the L2 in a PA range leave it: written back, or with `lose` dropped, unless the L2 had written
their line back before (R133, R149). -/
def State.dropL2 (s : State) (lose : Bool) (lo hi : Nat) : State :=
  let mine := s.l2.filter (fun x => decide (lo ≤ x.1) && decide (x.1 < hi))
  let s1 := { s with l2 := s.l2.filter (fun x => !(decide (lo ≤ x.1) && decide (x.1 < hi))) }
  if lose then
    mine.foldl (fun s x =>
      if Config.l2WrittenBack s.fresh (x.1 / 128) then s else { s with mem := AMap.set 0 s.mem x.1 x.2 }) s1
  else s1

/-- A clean aperture line that was decoded from packed or scale bytes of an IA range (R87, R89). -/
def AperLine.decodedFrom (x : AperLine) (line lo hi : Nat) : Bool :=
  let i := (128 * line - x.win.apb.toNat) / x.win.esize
  let n := 128 / x.win.esize
  let meets (a n : Nat) : Bool := decide (a < hi) && decide (lo < a + n)
  !x.dirty && (meets (x.win.pkb.toNat + i) n || meets (x.win.scb.toNat + i / 32) (n / 32))

/-- The L2 part of maintenance on a piece (R133): `lose` is `cinval`; `drop` removes aperture lines, and the clean
ones that were decoded from the piece, so that a later fill reads what is written there (R89). -/
def State.maintL2 (s : State) (lose drop : Bool) (p : Piece) : State :=
  if regionOf p.lo != .dev then s
  else
    let inv := lose && p.w
    let lines := (s.aper.filter (fun x => decide (p.lo ≤ 128 * x.1) && decide (128 * x.1 < p.hi))).map (·.1)
    let s1 := if inv then s else lines.foldl State.writeBack s
    let s2 := if drop then
        { s1 with aper := (lines.foldl (fun m l => AMap.erase m l) s1.aper).filter (fun x =>
            !x.2.decodedFrom x.1 p.lo p.hi) }
      else s1
    match s2.walk p.lo with
    | none => s2
    | some l =>
      let o := l.pa + p.lo % 2 ^ 16
      s2.dropL2 inv o (o + (p.hi - p.lo))

/-- `cclean`, `cinval` and `cflush` (R274): at `.all` a `cinval` acts as `cflush` on lines whose window lacks W. -/
def State.maintain (s : State) (e : Env) (i : Instr) (f : MF) (clean drop lose : Bool) : Res :=
  let a := e.groupEa f f.off15
  let len := (e.g f.data.toNat).toNat
  if 0x4000000 < len then e.instr .reservedField s
  else if len = 0 then .done s
  else if !canonical a then e.groupMem .store .noncanon a s
  else if wraps a.toNat len then e.groupMem .store .wrap a s
  else
    let ps := s.pieces e.tm.ctx a.toNat len
    let s1 := s.drainStores e.gr.core e.who
    let s2 := if f.scope ≠ 1 then
        ps.foldl (fun s p => s.maintL1 e.gr.core (clean || (f.scope == 2 && !p.w)) drop p) s1
      else s1
    let s3 := if f.scope ≠ 0 then ps.foldl (fun s p => s.maintL2 lose drop p) s2 else s2
    .done (s3.track e i [] [] none)

/-- `CCLEAN` (R274): Cleans the cache lines of a range at L1, L2 or both. -/
def execCclean (f : MF) (s : State) : Host.Outcome State Fault Refusal :=
  s.issue (.cclean f) (fun e s => s.maintain e (.cclean f) f true false false)

/-- `CINVAL` (R274): Drops the cache lines of a range. -/
def execCinval (f : MF) (s : State) : Host.Outcome State Fault Refusal :=
  s.issue (.cinval f) (fun e s => s.maintain e (.cinval f) f false true true)

/-- `CFLUSH` (R274): Writes back and drops the cache lines of a range. -/
def execCflush (f : MF) (s : State) : Host.Outcome State Fault Refusal :=
  s.issue (.cflush f) (fun e s => s.maintain e (.cflush f) f true true false)

end Sys2Proof.Machine
end

