-- ==== Sys2Proof/Machine/Views.lean ====
section
/-! DEFINITION. View registers (R105 to R112, R333 to R335), accesses through them (R120, R334) and the
weir (R116, R117). -/

namespace Sys2Proof.Machine

/-! Engine work by the views it names. -/

/-- The view registers an engine word names (R115). -/
def viewsNamed (i : Instr) (gs : List Word) : List Nat :=
  match i with
  | .cpw f => [f.w1.toNat, f.w2.toNat]
  | .cpg f => [f.w1.toNat, f.w2.toNat]
  | .cpx f => [f.w1.toNat, f.w2.toNat]
  | .cpm f => [f.w2.toNat]
  | .xtab f => [f.w1.toNat]
  | .eptab f => [f.w1.toNat]
  | .mmlp f =>
    let w := gs.getD 3 0
    [f.w1.toNat, f.w2.toNat] ++
    (if f.mode.getLsbD 0 then [bits w 15 12] ++ (if bit w 0 then [bits w 19 16] else []) else [])
  | _ => []

/-- Engine work of a team on a core that names view `k`. -/
def Core.naming (c : Core) (tid k : Nat) : Bool :=
  c.cmds.any (fun m => m.2.who.tid == tid && (viewsNamed m.2.instr m.2.gs).contains k) ||
  c.loops.any (fun l => l.2.who.tid == tid && (viewsNamed l.2.instr l.2.gs).contains k)

/-- Engine work on a core that a view access of a group waits for: commands of its team that write what it accesses or
read what it writes (R117), and its own commands and matrix loops, whose reads it does not pass either (R116). -/
def Core.meets (c : Core) (w : Sel) (v : View) (write : Bool) : Bool :=
  c.cmds.any (fun m => m.2.who.tid == w.tid &&
    (m.2.dsts.any (mayMeet v) || ((write || m.2.who.grp == w.grp) && m.2.srcs.any (mayMeet v)))) ||
  c.loops.any (fun l => l.2.who.tid == w.tid && l.2.who.grp == w.grp &&
    (l.2.srcs ++ l.2.dsts).any (mayMeet v))

/-! Opening and retiring. -/

/-- The view record that eight words make, without its origins (R105). -/
def viewOf (g : List Word) (scope : Nat) : View :=
  { base := g.getD 0 0, ctl := g.getD 1 0, ext10 := g.getD 2 0, ext32 := g.getD 3 0,
    str10 := g.getD 4 0, str32 := g.getD 5 0, scope := scope }

/-- The footprint of a view lies in one canonical half (R106). -/
def View.inHalf (v : View) : Bool :=
  match v.foot with
  | none => true
  | some (lo, hi) =>
    (decide (0 ≤ lo) && decide (hi ≤ 2 ^ 55)) || (decide (2 ^ 64 - 2 ^ 55 ≤ lo) && decide (hi ≤ 2 ^ 64))

/-- The record passes the checks of R106. -/
def View.ok (v : View) : Bool :=
  let n := v.esize
  let s : Int := v.span
  n != 0 && decide (1 ≤ v.rank) && decide (v.rank ≤ 4) && decide (v.swz ≤ 3) &&
  decide (bits v.ctl 31 24 ≤ 1) && bits v.ctl 63 32 == 0 && v.base.toNat % n == 0 &&
  v.dims.all (fun d => v.str d % (n : Int) == 0) &&
  (v.swz == 0 || (decide (2 ≤ v.rank) && (v.base.toNat : Int) % s == 0 && v.str 1 % s == 0)) &&
  v.inHalf

/-- The group fields of two records agree (R110, R335). -/
def View.same (v w : View) : Bool :=
  v.base == w.base && v.ctl == w.ctl && v.ext10 == w.ext10 && v.ext32 == w.ext32 &&
  v.str10 == w.str10 && v.str32 == w.str32

/-- The lines of a view's footprint leave a core's L1 (R110, R121). -/
def State.l1Invalidate (s : State) (core ctx : Nat) (v : View) : State :=
  match v.foot with
  | none => s
  | some x =>
    s.modCore core (fun c =>
      { c with l1 := c.l1.filter (fun l => !s.iaHits ctx x (128 * l.1) (128 * l.1 + 128)) })

/-- Words of g registers from `n` upward. -/
def Env.gBlock (e : Env) (n k : Nat) : List Word := (List.range k).map (fun j => e.g (n + j))

/-- `WOPEN` (R110): Captures a view record into a view register, acquiring at scope. -/
def execWopen (f : XF) (s : State) : Host.Outcome State Fault Refusal :=
  s.issue (.wopen f) (fun e s =>
    let k := f.w1.toNat
    let scope := f.mode.toNat
    let gs := e.gBlock f.gp.toNat 8
    let v := viewOf gs scope
    if 56 < f.gp.toNat then e.instr .regRange s
    else if e.tm.desc.views ≤ k then e.view .dirQuota s
    else if (AMap.find e.gr.holds k).isSome then e.view .busy s
    else if !v.ok then e.view .record s
    else
      let hold (s : State) : Res :=
        let s1 := s.modGrp e.who (fun g => { g with holds := AMap.insert g.holds k (gs.getD 6 0, gs.getD 7 0) })
        let s2 := if 3 ≤ scope then s1.l1Invalidate e.gr.core e.tm.ctx v else s1
        .done (s2.track e (.wopen f) [] [] none)
      match AMap.find e.tm.views k with
      | some w => if w.same v then hold s else e.view .busy s
      | none => hold (s.modTeam e.who.tid (fun t => { t with views := AMap.insert t.views k v })))

/-- The view stores that match, at the gates of some cores, are performed. -/
def State.releaseViews (s : State) (cores : List Nat) (v : View) (mine : Sel → Bool) : State :=
  cores.foldl (fun s c => s.releaseWhere c (fun o => mine o.2.who && o.2.views.any v.same)) s

/-- `WRET` (R111): Releases a view's writes at scope and drops the group's hold, closing it when none remain. -/
def execWret (f : XF) (s : State) : Host.Outcome State Fault Refusal :=
  s.issue (.wret f) (fun e s =>
    let k := f.w1.toNat
    match e.held k with
    | none => e.view .closed s
    | some (v, _) =>
      let mine (c : Core) : Bool :=
        c.cmds.any (fun m => m.2.who.tid == e.who.tid && m.2.who.grp == e.who.grp &&
          (viewsNamed m.2.instr m.2.gs).contains k) ||
        c.loops.any (fun l => l.2.who.tid == e.who.tid && l.2.who.grp == e.who.grp &&
          (viewsNamed l.2.instr l.2.gs).contains k)
      let last := e.tm.groups.all (fun g => g.1 == e.who.grp || (AMap.find g.2.holds k).isNone)
      if mine (s.core e.gr.core) then .wait .weir s
      else if last && e.tm.cores.any (fun c => (s.core c).naming e.who.tid k) then .wait .weir s
      else
        let s1 := s.releaseViews [e.gr.core] v (fun w => w.tid == e.who.tid && w.grp == e.who.grp)
        let s2 := s1.modGrp e.who (fun g => { g with holds := AMap.erase g.holds k })
        let s3 := if last then
            (s2.releaseViews e.tm.cores v (fun w => w.tid == e.who.tid)).modTeam e.who.tid
              (fun t => { t with views := AMap.erase t.views k })
          else s2
        .done (s3.track e (.wret f) [] [] none))

/-- The halves of a word advance, each modulo 2^32 (R112). -/
def addHalves (x y : Word) : Word :=
  (x.extractLsb' 32 32 + y.extractLsb' 32 32) ++ (x.extractLsb' 0 32 + y.extractLsb' 0 32)

/-- `WADV` (R112): Advances the group's origins of a view. -/
def execWadv (f : XF) (s : State) : Host.Outcome State Fault Refusal :=
  s.issue (.wadv f) (fun e s =>
    let a := f.gp.toNat
    if 62 < a then e.instr .regRange s
    else
      match e.held f.w1.toNat with
      | none => e.view .closed s
      | some (_, o) =>
        .done (s.modGrp e.who (fun g =>
          { g with holds := AMap.insert g.holds f.w1.toNat (addHalves o.1 (e.g a), addHalves o.2 (e.g (a + 1))) })))

/-- The eight words of a record with a group's origins (R105). -/
def View.words (v : View) (o : Word × Word) : List Word :=
  [v.base, v.ctl, v.ext10, v.ext32, v.str10, v.str32, o.1, o.2]

/-- Words are written to g registers from `n` upward. -/
def Env.putBlock (e : Env) (n : Nat) (ws : List Word) (g : Group) : Group :=
  (ws.zip (List.range ws.length)).foldl (fun g wi => e.putG (n + wi.2) wi.1 g) g

/-- `WGET` (R112): Reads a view record into eight g registers. -/
def execWget (f : XF) (s : State) : Host.Outcome State Fault Refusal :=
  s.issue (.wget f) (fun e s =>
    if f.gp.toNat % 8 != 0 then e.instr .regRange s
    else
      match e.held f.w1.toNat with
      | none => e.view .closed s
      | some (v, o) => .done (s.modGrp e.who (e.putBlock f.gp.toNat (v.words o))))

/-- `WCHK` (R112): Writes whether two views may meet to a group predicate. -/
def execWchk (f : XF) (s : State) : Host.Outcome State Fault Refusal :=
  s.issue (.wchk f) (fun e s =>
    match e.held f.w1.toNat, e.held f.w2.toNat with
    | some (v, _), some (w, _) =>
      .done (s.modGrp e.who (fun g => g.setGp (f.mode.extractLsb' 0 3).toNat (mayMeet v w)))
    | _, _ => e.view .closed s)

/-! Accesses through views. -/

/-- The access of one element by a core: kind 3, ordered by the weir and not checked by R118. -/
def elemAcc (core n : Nat) (wr : Bool) : Acc := { n := n, rd := !wr, wr := wr, l1 := some core }

/-- One lane of a view access: its view, its register, and its element's address if it is in bounds. -/
structure ViewLane where
  l : Nat
  v : View
  r : Nat
  at_ : Option Word

/-- The lanes of one view access: a register and a view for the lanes of a mask. -/
def Env.viewLanes (e : Env) (m : Word) (v : View) (o : Word × Word) (r : Nat) (ix : Option Nat) : List ViewLane :=
  (lanesOf m).map (fun l => { l := l, v := v, r := r, at_ := v.addr o (wIndex e ix l) })

/-- What R122 decides for the lanes in bounds. -/
def State.viewPlan (s : State) (e : Env) (wr : Bool) (xs : List ViewLane) : List (ViewLane × Except Miss Where) :=
  xs.filterMap (fun x => x.at_.map (fun a => (x, s.access e.tm (elemAcc e.gr.core x.v.esize wr) a)))

/-- A loaded element in a lane: sign-extended for s8 and s16, else zero-extended (R120). -/
def Group.putElem (g : Group) (v : View) (r l x : Nat) : Group :=
  if v.esize = 8 then g.setV64 r l (BitVec.ofNat 64 x)
  else
    let b := 8 * v.esize
    let neg := (v.fmt == 0x10 || v.fmt == 0x12) && decide (2 ^ (b - 1) ≤ x)
    g.setV r l (if neg then BitVec.ofInt 32 ((x : Int) - 2 ^ b) else BitVec.ofNat 32 x)

/-- The bytes of an element that a lane stores (R120). -/
def Group.elemBytes (g : Group) (v : View) (r l : Nat) : List Byte :=
  if v.esize = 8 then leBytes 8 (g.vReg64 r l).toNat else leBytes v.esize (g.vReg r l).toNat

/-- An element out of bounds under BP 0x00 raises OOB (R107). -/
def oobFlag (xs : List ViewLane) : Flags := flIf (xs.any (fun x => x.at_.isNone && x.v.noisy)) flOOB

/-- The faults of a view access in ascending lanes. -/
def viewFails (ps : List (ViewLane × Except Miss Where)) : List (Nat × Miss) :=
  byLane (ps.filterMap (fun p => match p.2 with | .ok _ => none | .error m => some (p.1.l, m)))

/-- The lanes of a view access that passed. -/
def viewPassed (ps : List (ViewLane × Except Miss Where)) : List (ViewLane × Where) :=
  ps.filterMap (fun p => match p.2 with | .ok w => some (p.1, w) | .error _ => none)

/-- A load through views (R120, R116, R117). -/
def State.viewLoad (s : State) (e : Env) (i : Instr) (xs : List ViewLane) (stat : Word → Word) : Res :=
  let views := (xs.map (·.v)).eraseDups
  if views.any (fun v => (s.core e.gr.core).meets e.who v false) then .wait .weir s
  else
    let ps := s.viewPlan e false xs
    let ok := viewPassed ps
    if ok.any (fun p => e.absent p.1.v.esize p.2) then .wait .line s
    else
      let s0 := views.foldl (fun s v => s.drainMeet e.gr.core e.who v) s
      let (s1, tag) := s0.tagLoad e false ((byLane (ok.map (fun p => (p.1.l, p.2)))).map (·.2))
      let s2 := ok.foldl (fun s p =>
        let (bs, s') := s.load e.who e.gr.core false p.2 p.1.v.esize
        s'.modGrp e.who (fun g => g.putElem p.1.v p.1.r p.1.l (leVal bs))) s1
      let s3 := s2.modGrp e.who (fun g =>
        ((xs.filter (fun x => x.at_.isNone)).foldl (fun g x => g.putElem x.v x.r x.l 0) g).raise (oobFlag xs))
      let fs := viewFails ps
      let dsts := xs.flatMap (fun x => block x.r (if x.v.esize = 8 then 2 else 1))
      Env.endAccess (e.laneTrap .engine (stat (failMask fs)) fs) (s3.track e i [] [] tag dsts.eraseDups)

/-- A store through views (R120, R116, R117): it waits at the gate. -/
def State.viewStore (s : State) (e : Env) (i : Instr) (xs : List ViewLane) (stat : Word → Word) : Res :=
  let views := (xs.map (·.v)).eraseDups
  if views.any (fun v => (s.core e.gr.core).meets e.who v true) then .wait .weir s
  else
    let ps := s.viewPlan e true xs
    let ok := viewPassed ps
    if ok.any (fun p => e.absent p.1.v.esize p.2) then .wait .line s
    else
      let bytes := (List.range 64).flatMap (fun l => (ok.filter (fun p => p.1.l == l)).flatMap (fun p =>
        lanePieces l (storeBytes p.2 (e.gr.elemBytes p.1.v p.1.r l))))
      let fs := viewFails ps
      let s1 := s.modGrp e.who (fun g => g.raise (oobFlag xs))
      Env.endAccess (e.laneTrap .engine (stat (failMask fs)) fs) (s1.track e i bytes views none)

/-- The register checks of a view access (R120). -/
def Env.badElem (e : Env) (v : View) (r : Nat) (ix : Option Nat) : Bool :=
  (v.esize == 8 && (r % 2 == 1 || e.over (r + 1))) || e.over r ||
  (match ix with | none => false | some i => e.over (i + v.rank - 1))

/-- `wld` and `wst` of a word that is not melded (R120). -/
def Env.viewWord (e : Env) (i : Instr) (f : XF) (go : List ViewLane → State → Res) (s : State) : Res :=
  let r := f.vop.toNat
  if e.over r || (match f.ix with | none => false | some i => e.over i) then e.instr .regRange s
  else
    match e.held f.w1.toNat with
    | none => e.view .closed s
    | some (v, o) =>
      if e.badElem v r f.ix then e.instr .regRange s
      else go (e.viewLanes (e.lanesFor i) v o r f.ix) s

/-- `WLD` (R120): Lane load of one element through a view. -/
def execWld (f : XF) (s : State) : Host.Outcome State Fault Refusal :=
  s.issue (.wld f) (fun e s => e.viewWord (.wld f) f (fun xs s => s.viewLoad e (.wld f) xs (fun _ => 0)) s)

/-- `WST` (R120): Lane store of one element through a view. -/
def execWst (f : XF) (s : State) : Host.Outcome State Fault Refusal :=
  s.issue (.wst f) (fun e s => e.viewWord (.wst f) f (fun xs s => s.viewStore e (.wst f) xs (fun _ => 0)) s)

/-- `wld` and `wst` of a melded word (R58, R59): the register of each arm by `reg`, with no index. -/
def Env.viewMelded (e : Env) (f : VMF) (reg : Arm → Nat) (go : List ViewLane → State → Res) (s : State) : Res :=
  let arms := f.arms e
  if arms.any (fun a => e.over (reg a)) then e.instr .regRange s
  else if arms.any (fun a => (e.held a.a).any (fun v => e.badElem v.1 (reg a) none)) then e.instr .regRange s
  else if arms.any (fun a => (e.held a.a).isNone) then e.view .closed s
  else
    go (arms.flatMap (fun a =>
      match e.held a.a with
      | none => []
      | some (v, o) => e.viewLanes a.m v o (reg a) none)) s

/-- `WLD_MELDED` (R59): Melded view load at dim-0 index of the lane. -/
def execWldMelded (f : VMF) (s : State) : Host.Outcome State Fault Refusal :=
  s.issue (.wldMelded f) (fun e s =>
    e.viewMelded f (fun a => a.d) (fun xs s => s.viewLoad e (.wldMelded f) xs (armStat e f)) s)

/-- `WST_MELDED` (R59): Melded view store at dim-0 index of the lane. -/
def execWstMelded (f : VMF) (s : State) : Host.Outcome State Fault Refusal :=
  s.issue (.wstMelded f) (fun e s =>
    e.viewMelded f (fun a => a.b) (fun xs s => s.viewStore e (.wstMelded f) xs (armStat e f)) s)

end Sys2Proof.Machine
end

