-- ==== Sys2Proof/Machine/Copies.lean ====
section
/-! DEFINITION. The copy engine (R159 to R163, R169, R275 to R279), conversion and activation tables (R90,
R337), and multicast (R136, R167). A command is held in its core from issue to the event that
completes it; its accesses are performed there. -/

namespace Sys2Proof.Machine

/-! Moves. -/

/-- One piece or element of a command: its lane or element index, its place in the lane's row, its addresses
(none out of bounds), its sizes, and whether it raises OOB. -/
structure Move where
  ix : Nat
  k : Nat := 0
  src : Option Word
  dst : Option Word
  ns : Nat
  nd : Nat
  oob : Bool

/-- Element indices of two dims. -/
def ix2 (k r : Int) : Nat → Int := fun d => if d = 0 then k else if d = 1 then r else 0

/-- Index `d` of element `m`, dim 0 running fastest. -/
def unlinear : List Nat → Nat → Nat → Nat
  | [], _, _ => 0
  | x :: _, m, 0 => m % x
  | x :: xs, m, d + 1 => unlinear xs (m / x) d

/-- The extents of a view below its rank. -/
def View.exts (v : View) : List Nat := v.dims.map v.ext

/-- The product of the extents below the rank. -/
def View.count (v : View) : Nat := v.exts.foldl (· * ·) 1

/-- A move between two views. -/
def viewMove (ix : Nat) (s d : View × Word × Word) (i j : Nat → Int) : Move :=
  let a := s.1.addr s.2 i
  let b := d.1.addr d.2 j
  { ix := ix, src := a, dst := b, ns := s.1.esize, nd := d.1.esize,
    oob := (a.isNone && s.1.noisy) || (b.isNone && d.1.noisy) }

/-- The moves of a command in ascending order: the later wins (R159). -/
def Cmd.moves (c : Cmd) : List Move :=
  match c.instr, c.src, c.dst with
  | .cpa f, _, _ =>
    let n : Nat := 4 * 2 ^ (f.mode.extractLsb' 11 2).toNat
    (lanesOf c.exec).map (fun l =>
      let off : Int := if f.vop = 0xFF then 0 else extOff (f.mode.getLsbD 10) (c.vs.getD l 0) * (n : Int)
      { ix := l, src := some (c.gs.getD 0 0 + BitVec.ofInt 64 off),
        dst := some (c.gs.getD 1 0 + BitVec.ofInt 64 off), ns := n, nd := n, oob := false })
  | .cpw _, some s, some d =>
    (List.range d.1.count).map (fun m =>
      let i (k : Nat) : Int := unlinear d.1.exts m k
      viewMove m s d i i)
  | .cpg _, some s, some d =>
    (lanesOf c.exec).flatMap (fun l => (List.range (d.1.ext 0)).map (fun (k : Nat) =>
      { viewMove l s d (ix2 k (c.vs.getD l 0).toInt) (ix2 k l) with k := k }))
  | .cpx _, some s, some d =>
    (lanesOf c.exec).flatMap (fun l => (List.range (s.1.ext 0)).map (fun (k : Nat) =>
      { viewMove l s d (ix2 k l) (ix2 k (c.vs.getD l 0).toInt) with k := k }))
  | _, _, _ => []

/-- The piece of a `cpa` must be aligned (R276). -/
def Cmd.aligned (c : Cmd) : Bool := c.instr.opc == 0x247

/-- A read or a write of a command, by R122 with kind 3; peers and the host are out of reach (R275). -/
def cmdAcc (c : Cmd) (n : Nat) (wr : Bool) : Acc :=
  { n := n, rd := !wr, wr := wr, aligned := c.aligned, noIo := true }

/-- One end of a move, checked; none where it is out of bounds. -/
def State.moveEnd (s : State) (t : Team) (c : Cmd) (a : Option Word) (n : Nat) (wr : Bool) :
    Except Miss (Option Where) :=
  match a with
  | none => .ok none
  | some a => match s.access t (cmdAcc c n wr) a with | .error e => .error e | .ok w => .ok (some w)

/-- Where a move goes: the source is checked first (R276). -/
def State.movePlan (s : State) (t : Team) (c : Cmd) (m : Move) : Except Miss (Option Where × Option Where) :=
  match s.moveEnd t c m.src m.ns false with
  | .error e => .error e
  | .ok a => match s.moveEnd t c m.dst m.nd true with | .error e => .error e | .ok b => .ok (a, b)

/-- The bytes of a place: scratchpad offsets or keys. -/
def Where.keys (w : Where) (n : Nat) : List (Bool × Nat) :=
  match w with
  | .scr o => (List.range n).map (fun i => (true, o + i))
  | .mem _ ks => ks.map (fun k => (false, k))

/-- The scratchpad lines of `n` bytes at a place. -/
def Where.lines (w : Where) (n : Nat) : List Nat :=
  match w with
  | .scr o => (List.range ((o + n - 1) / 128 + 1 - o / 128)).map (o / 128 + ·)
  | .mem _ _ => []

/-- The scratchpad lines a move writes, as its destination stands, whatever its source (R135). -/
def State.moveLines (s : State) (t : Team) (c : Cmd) (m : Move) : List Nat :=
  match s.moveEnd t c m.dst m.nd true with
  | .ok (some w) => w.lines m.nd
  | _ => []

/-- Bytes of a store are written by an engine at the point of coherence: the line leaves the L1 of every core of the
team (R159). -/
def State.engineWrite (s : State) (who : Sel) (cores : List Nat) (bs : List StByte) : State :=
  bs.foldl (fun s b =>
    if b.scr then s.modTeam who.tid (fun t => t.scrWr b.key b.val)
    else
      let s1 := s.wrKey b.key b.val
      if cached b.ia then cores.foldl (fun s c => s.l1Drop c (b.ia / 128)) s1 else s1)
    ((cores.foldl (fun s c => s.keepOld c who.tid bs) s).recall (some (who.tid, who.grp)) (memKeys bs))

/-- The value a move carries: the source bytes, zero out of bounds, or through a conversion table (R90). -/
def State.moveVal (s : State) (tid core : Nat) (c : Cmd) (m : Move) (src : Option Where) : List Byte :=
  let raw := match src with | none => List.replicate m.ns 0 | some w => s.peek tid w m.ns
  match c.instr with
  | .cpw f =>
    if f.mode.getLsbD 5 then
      let tab := match AMap.find (s.core core).cvt (f.mode.extractLsb' 6 2).toNat with | none => [] | some x => x.2
      leBytes 2 (tab.getD (leVal raw) 0).toNat
    else raw
  | _ => raw

/-- A move that passed its checks. -/
structure Planned where
  m : Move
  src : Option Where
  dst : Where

/-- The source of a move shares bytes with the destination of another. -/
def Planned.crossed (p : Planned) (all : List Planned) : Bool :=
  match p.src with
  | none => false
  | some w =>
    let ks := w.keys p.m.ns
    all.any (fun q => (q.m.ix != p.m.ix || q.m.k != p.m.k) && (q.dst.keys q.m.nd).any ks.contains)

/-- The bytes a move is to write: those that no later move of the list writes (R159): between lanes the highest, and in one
lane's row the highest element (log 20). -/
def Planned.live : List Planned → List (Planned × List (Bool × Nat))
  | [] => []
  | p :: ps => (p, (p.dst.keys p.m.nd).filter (fun k => !ps.any (fun q => (q.dst.keys q.m.nd).contains k))) ::
      Planned.live ps

/-- Moves are performed at the bytes that are open to them, in four stages: those of a stage read together and then
write. Of several writes of one byte only the last ever stands (R159). A read of bytes that another move writes gives
the old value or the new one, as the stages fall (R276, R277, R169, log 20). -/
def State.performMoves (s : State) (tid core : Nat) (cores : List Nat) (c : Cmd) (ps : List Planned)
    (opened : Bool × Nat → Bool) : State :=
  let stage (p : Planned) : Nat := if p.crossed ps then Config.engineStage s.fresh (p.m.ix + 2 ^ 20 * p.m.k) % 4 else 0
  (List.range 4).foldl (fun s n =>
    ((Planned.live ps).filter (fun p => stage p.1 == n)).foldl (fun a p =>
      a.engineWrite c.who cores ((storeBytes p.1.dst (s.moveVal tid core c p.1.m p.1.src)).filter
        (fun b => opened (b.scr, b.key) && p.2.contains (b.scr, b.key)))) s) s

/-! Issue and completion. -/

/-- The barrier of a command (R165, R275): with BE set, none at or above `.bars`, nor one whose ENG is 0. -/
def Env.barOf (e : Env) (f : XF) : Except Unit (Option Nat) :=
  if f.mode.getLsbD 4 then
    match AMap.find e.tm.bars f.bar.toNat with
    | some b => if f.bar.toNat < e.tm.desc.bars && b.eng != 0 then .ok (some f.bar.toNat) else .error ()
    | none => .error ()
  else .ok none

/-- The command of a word at issue. -/
def Env.cmd (e : Env) (i : Instr) (bar : Option Nat) : Cmd :=
  { who := e.who, instr := i, flag := e.flagOf i, pc := e.pc, cl := e.fr.pos.cl, bar := bar,
    exec := if i.guard.lane then e.active i.guard else e.fr.exec, redo := e.fr.re != [], inH := e.fr.inH,
    replays := e.count }

/-- The scratchpad lines of a view: those of its footprint that an SCR window maps into the team's carve (R113, R124). -/
def State.viewLines (s : State) (t : Team) (v : View) : List Nat :=
  match v.foot with
  | none => []
  | some (lo, hi) =>
    (List.range 16).flatMap (fun n =>
      let w := s.win t.ctx n
      let a : Nat := max lo.toNat w.va.toNat
      let b : Nat := min hi.toNat (w.va.toNat + min w.len.toNat (t.scrBytes - w.ia.toNat))
      if w.ok && bit w.ctl 3 && decide (a < b) then
        let o (x : Nat) : Nat := w.ia.toNat + (x - w.va.toNat)
        ((List.range (o (b - 1) / 128 + 1 - o a / 128)).map (o a / 128 + ·)).filter (fun l =>
          (s.window t.ctx (w.va.toNat + (128 * l - w.ia.toNat))).any (· == w))
      else [])

/-- The destination lines of a command in the scratchpad (R135, R169): those of its destination view, or the ones that
the lanes of `cpa` write. -/
def State.dstLines (s : State) (t : Team) (c : Cmd) : List Nat :=
  (match c.dst with
   | some v => s.viewLines t v.1
   | none => c.moves.flatMap (s.moveLines t c)).eraseDups

/-- A command enters the engine (R275): the presence of its destination lines is cleared and its flag rises. -/
def State.enqueue (s : State) (e : Env) (c : Cmd) : State :=
  let k := s.core e.gr.core
  let lines := s.dstLines e.tm c
  let c1 := { c with lines := lines, seq := k.cmdseq }
  let s1 := s.modCore e.gr.core (fun k =>
    { k with cmds := AMap.insert k.cmds s.fresh c1, cmdseq := k.cmdseq + 1 })
  let s2 := (s1.modTeam e.who.tid (fun t => t.clearLines lines)).modGrp e.who (fun g => g.flagUp c.flag)
  s2.noteTask e.who e.gr.core 0x01 0 c1.seq c.instr.opc c.pc []

/-- A command that moves nothing completes at issue: as a task of the engine it starts and ends there, and with BE it
still arrives (R169, R229, R279). -/
def State.enqueueNone (s : State) (e : Env) (c : Cmd) : State :=
  let seq := (s.core e.gr.core).cmdseq
  let s1 := s.modCore e.gr.core (fun k => { k with cmdseq := k.cmdseq + 1 })
  let s2 := s1.noteTask e.who e.gr.core 0x01 0 seq c.instr.opc c.pc []
  let s3 := s2.noteTask e.who e.gr.core 0x02 0 seq c.instr.opc c.pc [0]
  match c.bar with | none => s3 | some n => s3.engineArrive e.who n seq

/-- A command is handed to the engine once it has its directory entries (R115, R275). -/
def State.submit (s : State) (e : Env) (c : Cmd) : Res :=
  if 32 < (s.core e.gr.core).entries + c.srcs.length + c.dsts.length then .wait .dir s else .done (s.enqueue e c)

/-- Some view of the first list may meet one of the second (R114). -/
def viewsMeet (xs ys : List View) : Bool := xs.any (fun x => ys.any (mayMeet x))

/-- Engine work of a group that reads and writes views waits for an earlier matrix loop: for one of its own group where
views may meet (R116), and as an engine command itself for one of the team that writes what it reads (R117). -/
def Loop.before (l : Loop) (w : Sel) (engine : Bool) (reads writes : List View) : Bool :=
  l.who.tid == w.tid &&
    ((l.who.grp == w.grp && viewsMeet (l.srcs ++ l.dsts) (reads ++ writes)) || (engine && viewsMeet l.dsts reads))

/-- Work `id` that reads and writes views waits for engine work issued on the core earlier: for work of its own group
where views may meet (R116); for a command of the team whose destination may meet one of its views, or whose source
one that it writes; and as an engine command itself for a matrix loop that writes what it reads (R117). -/
def Core.behind (c : Core) (id : Nat) (w : Sel) (engine : Bool) (reads writes : List View) : Bool :=
  c.cmds.any (fun m => decide (m.1 < id) && m.2.who.tid == w.tid &&
    ((m.2.who.grp == w.grp && viewsMeet (m.2.srcs ++ m.2.dsts) (reads ++ writes)) ||
     viewsMeet m.2.dsts (reads ++ writes) || viewsMeet m.2.srcs writes)) ||
  c.loops.any (fun l => decide (l.1 < id) && l.2.before w engine reads writes)

/-- An earlier `cpw` that names conversion table `n` is in flight (R90). -/
def Core.readsTable (c : Core) (id n : Nat) : Bool :=
  c.cmds.any (fun m => decide (m.1 < id) &&
    (match m.2.instr with
     | .cpw f => f.mode.getLsbD 5 && (f.mode.extractLsb' 6 2).toNat == n
     | _ => false))

/-- An `xtab` of conversion table `n` that satisfies `p` is in flight. -/
def Core.loadsTable (c : Core) (n : Nat) (p : Nat → Bool) : Bool :=
  c.cmds.any (fun m => p m.1 &&
    (match m.2.instr with
     | .xtab f => (f.mode.extractLsb' 0 2).toNat == n
     | _ => false))

/-- The slice of a group. -/
def State.sliceOf (s : State) (w : Sel) : Nat := (s.grp? w).elim 0 (·.slice)

/-- A matrix loop is in flight on a slice. -/
def State.looping (s : State) (core slice : Nat) : Bool := (s.core core).loops.any (fun l => s.sliceOf l.2.who == slice)

/-- A matrix loop, or an earlier `eptab`, is in flight on a slice (R98). -/
def State.unitBusy (s : State) (core slice id : Nat) : Bool :=
  s.looping core slice ||
  (s.core core).cmds.any (fun m => decide (m.1 < id) && m.2.instr.opc == 0x182 && s.sliceOf m.2.who == slice)

/-- The check of a multicast's read of one line (R275, R278). -/
def castAcc : Acc := { n := 128, rd := true, wr := false, noIo := true }

/-- The team may read a line of a multicast. -/
def State.castOk (s : State) (l : McLine) : Bool :=
  match AMap.find s.teams l.who.tid with
  | none => true
  | some t => match s.access t castAcc l.va with | .ok _ => true | .error _ => false

/-- A command cannot be performed yet. A multicast ends when all its lines have arrived that it may read (R279). -/
def State.cmdHeld (s : State) (core id : Nat) (c : Cmd) : Bool :=
  let k := s.core core
  k.behind id c.who true c.srcs c.dsts ||
  (match c.instr with
   | .xtab f =>
     let n := (f.mode.extractLsb' 0 2).toNat
     k.readsTable id n || k.loadsTable n (fun i => decide (i < id))
   | .eptab _ => s.unitBusy core (s.sliceOf c.who) id
   | .cpm _ => s.mcast.any (fun l => l.2.core == core && l.2.cmd == id && s.castOk l.2)
   | _ => false)

/-- A command has ended (R161, R275, R340): its lines are present, its flag falls, and it arrives at its
barrier, or its fault is deferred. -/
def State.endCmd (s : State) (core id : Nat) (c : Cmd) (fault : Option TrapInfo) : State :=
  let s1 := s.modCore core (fun k => { k with cmds := AMap.erase k.cmds id })
  let s2 := (s1.modTeam c.who.tid (fun t => t.present c.lines)).modGrp c.who (fun g => g.flagDown c.flag)
  let code := match fault with | none => 0 | some t => t.cause.code
  let s3 := s2.noteTask c.who core 0x02 0 c.seq c.instr.opc c.pc [BitVec.ofNat 64 code]
  match fault with
  | some t => s3.defer c.who { info := { t with again := c.redo }, cl := c.cl }
  | none =>
    let s4 := s3.completed c.who c.inH
    match c.bar with | none => s4 | some n => s4.engineArrive c.who n c.seq

/-- The deferred fault of a command (R275): its lanes are the failing lanes of a lane command, else `exec`
at issue. -/
def Cmd.faultOf (c : Cmd) (fs : List (Nat × Miss)) : Option TrapInfo :=
  match fs with
  | [] => none
  | (_, r, a) :: _ =>
    some { cause := .mem .engine r, pc := c.pc, va := a, stat := statDefer,
           lanes := if c.instr.guard.lane then failMask fs else c.exec }

/-- Elements (n, 0, 0, 0) of a view for n below `n`, or the first fault (R337). -/
def State.readRow (s : State) (t : Team) (tid : Nat) (c : Cmd) (v : View × Word × Word) :
    Nat → Nat → Except Miss (List Nat)
  | 0, _ => .ok []
  | n + 1, k =>
    let rest := s.readRow t tid c v n (k + 1)
    match v.1.addr v.2 (ix2 k 0) with
    | none => rest.map (fun xs => 0 :: xs)
    | some a =>
      match s.access t (cmdAcc c v.1.esize false) a with
      | .error e => .error e
      | .ok w => rest.map (fun xs => leVal (s.peek tid w v.1.esize) :: xs)

/-- The offset of a view's footprint in the team's scratchpad, where it lies within one SCR window on whole
lines, with its length (R278). -/
def State.scrSpan (s : State) (t : Team) (v : View) : Option (Nat × Nat) :=
  match v.foot with
  | none => some (0, 0)
  | some (lo, hi) =>
    match s.window t.ctx lo.toNat with
    | none => none
    | some w =>
      if bit w.ctl 3 && decide (hi ≤ (w.va.toNat + w.len.toNat : Nat)) && lo % 128 == 0 && hi % 128 == 0 then
        some (w.ia.toNat + (lo.toNat - w.va.toNat), (hi - lo).toNat)
      else none

/-- A token passes the sender's check (R136, R278). -/
def tokenOk (die : Nat) (x : Word) : Bool :=
  bits x 63 48 == 0 && bits x 31 29 == 0 && bits x 11 0 == 0 && bits x 28 26 == die &&
  decide (bits x 25 20 ≤ 47) && decide (bits x 19 14 ≤ 47)

/-- The lines of a multicast that are left because they fail their read checks (R275). -/
def State.castFault (s : State) (t : Team) (core id : Nat) : List (Nat × Miss) :=
  (s.mcast.filter (fun l => l.2.core == core && l.2.cmd == id)).filterMap (fun l =>
    match s.access t castAcc l.2.va with
    | .error m => some (l.1, m)
    | .ok _ => none)

/-- The stores that must be performed before a command reads or writes: view stores of the team that may meet a
source (R117), and earlier stores of the group that may meet one of its views (R116). -/
def State.drainFor (s : State) (core : Nat) (c : Cmd) : State :=
  (c.srcs ++ c.dsts).foldl (fun s v => s.drainMeet core c.who v)
    (c.srcs.foldl (fun s v => s.drainView core c.who.tid v) s)

/-- Half `h` of a 16-byte place. -/
def Where.half (w : Where) (h : Nat) : Where :=
  match w with
  | .scr o => .scr (o + 8 * h)
  | .mem ia ks => .mem (ia + 8 * h) ((ks.drop (8 * h)).take 8)

/-- A 16-byte piece is two 8-byte halves (R159). -/
def Planned.halves (p : Planned) : List Planned :=
  if p.m.nd = 16 then
    [0, 1].map (fun h =>
      { m := { p.m with k := h, ns := 8, nd := 8 }, src := p.src.map (fun w => w.half h), dst := p.dst.half h })
  else [p]

/-- The moves that pass their checks and write somewhere; of a faulting lane's row all that pass (R169, log 20). -/
def State.planned (s : State) (t : Team) (c : Cmd) (ms : List Move) : List Planned :=
  ms.flatMap (fun m =>
    match s.movePlan t c m with
    | .ok (a, some b) => ({ m := m, src := a, dst := b } : Planned).halves
    | _ => [])

/-- The faults of the moves that have not been performed yet: one whose scratchpad lines have all arrived has. -/
def State.moveFaults (s : State) (t : Team) (c : Cmd) : List (Nat × Miss) :=
  c.moves.filterMap (fun m =>
    let ls := s.moveLines t c m
    match s.movePlan t c m with
    | .error e => if ls != [] && ls.all c.arrived.contains then none else some (m.ix, e)
    | .ok _ => none)

/-- The command is performed and ends. -/
def State.runCmd (s : State) (core id : Nat) (c : Cmd) : State :=
  match AMap.find s.teams c.who.tid with
  | none => s.modCore core (fun k => { k with cmds := AMap.erase k.cmds id })
  | some t =>
    let tid := c.who.tid
    let s1 := s.drainFor core c
    match c.instr, c.src with
    | .xtab f, some v =>
      let n := (f.mode.extractLsb' 0 2).toNat
      let oob := v.1.noisy && (List.range 256).any (fun k => (v.1.addr v.2 (ix2 (k : Nat) 0)).isNone)
      let s2 := s1.modGrp c.who (fun g => g.raise (flIf oob flOOB))
      match s2.readRow t tid c v 256 0 with
      | .error m => (s2.modCore core (fun k => { k with cvt := AMap.erase k.cvt n })).endCmd core id c
          (c.faultOf [(0, m)])
      | .ok xs => (s2.modCore core (fun k =>
          { k with cvt := AMap.insert k.cvt n (tid, xs.map (BitVec.ofNat 16)) })).endCmd core id c none
    | .eptab _, _ => (s1.modSlice core (s1.sliceOf c.who) (fun l =>
        { l with act := some (tid, c.gs) })).endCmd core id c none
    | .cpm _, _ =>
      ({ s1 with mcast := s1.mcast.filter (fun l => !(l.2.core == core && l.2.cmd == id)) }).endCmd core id c
        (c.faultOf (s1.castFault t core id))
    | _, _ =>
      -- a scratchpad line that has arrived holds its elements already
      let s2 := s1.performMoves tid core t.cores c (s1.planned t c c.moves)
        (fun k => !(k.1 && c.arrived.contains (k.2 / 128)))
      let s3 := s2.modGrp c.who (fun g => g.raise (flIf (c.moves.any (fun m => m.oob)) flOOB))
      s3.endCmd core id c (c.faultOf (s1.moveFaults t c))

/-- An engine command completes, once nothing holds it (R161). -/
def State.completeCmd (s : State) (core id : Nat) : State :=
  match AMap.find (s.core core).cmds id with
  | none => s
  | some c => if s.cmdHeld core id c then s else s.runCmd core id c

/-- ENGINE_COMMAND_COMPLETION (R161). -/
def execEngineCommandCompletion (core cmd : Nat) (s : State) : Host.Outcome State Fault Refusal :=
  .next (s.completeCmd core cmd).tick

/-! The words. -/

/-- `CPA` (R276): Copy engine moves 4, 8 or 16 raw bytes per active lane. -/
def execCpa (f : XF) (s : State) : Host.Outcome State Fault Refusal :=
  s.issue (.cpa f) (fun e s =>
    if f.vop != 0xFF && e.over f.vop.toNat then e.instr .regRange s
    else
      match e.barOf f with
      | .error _ => e.view .barState s
      | .ok bar =>
        s.submit e { e.cmd (.cpa f) bar with
          gs := [e.g (f.mode.extractLsb' 13 6).toNat, e.g f.gp.toNat]
          vs := if f.vop = 0xFF then [] else (List.range 64).map (e.gr.vReg f.vop.toNat) })

/-- `CPW` (R277): Copy engine copies a whole view, optionally through a conversion table. A command that converts
waits to issue while a load of its table is in flight, whichever team loads it (log 46). -/
def execCpw (f : XF) (s : State) : Host.Outcome State Fault Refusal :=
  s.issue (.cpw f) (fun e s =>
    let cv := f.mode.getLsbD 5
    let tab := (f.mode.extractLsb' 6 2).toNat
    match e.held f.w1.toNat, e.held f.w2.toNat with
    | some d, some v =>
      if (cv && (v.1.esize != 1 || d.1.esize != 2)) || (!cv && v.1.esize != d.1.esize) then
        e.instr .formatCode s
      else if d.1.rank ≠ v.1.rank ∨ 2 ^ 20 < d.1.esize * d.1.count then e.view .record s
      else if cv && (s.core e.gr.core).loadsTable tab (fun _ => true) then .wait .unit s
      else if cv && !(AMap.find (s.core e.gr.core).cvt tab).any (fun x => x.1 == e.who.tid) then
        e.view .table s
      else
        match e.barOf f with
        | .error _ => e.view .barState s
        | .ok bar => s.submit e { e.cmd (.cpw f) bar with src := some v, dst := some d }
    | _, _ => e.view .closed s)

/-- `cpg` and `cpx` (R169): rows of `n` elements. -/
def Env.rows (e : Env) (i : Instr) (f : XF) (n : View → View → Nat) (s : State) : Res :=
  if e.over f.vop.toNat then e.instr .regRange s
  else
    match e.held f.w1.toNat, e.held f.w2.toNat with
    | some d, some v =>
      if v.1.esize ≠ d.1.esize then e.instr .formatCode s
      else if v.1.rank < 2 ∨ d.1.rank < 2 ∨ 4096 < n v.1 d.1 * d.1.esize then e.view .record s
      else
        match e.barOf f with
        | .error _ => e.view .barState s
        | .ok bar =>
          let c : Cmd := { e.cmd i bar with
            src := some v, dst := some d, vs := (List.range 64).map (e.gr.vReg f.vop.toNat) }
          if c.exec = 0 then .done (s.enqueueNone e c) else s.submit e c
    | _, _ => e.view .closed s

/-- `CPG` (R169): Copy engine gathers one indexed row per lane from a source view to a destination view. -/
def execCpg (f : XF) (s : State) : Host.Outcome State Fault Refusal :=
  s.issue (.cpg f) (fun e s => e.rows (.cpg f) f (fun _ d => d.ext 0) s)

/-- `CPX` (R169): Copy engine scatters one row per lane to indexed rows of a destination view. -/
def execCpx (f : XF) (s : State) : Host.Outcome State Fault Refusal :=
  s.issue (.cpx f) (fun e s => e.rows (.cpx f) f (fun v _ => v.ext 0) s)

/-- The lines that a multicast sends, from offset `off` of the scratchpad, for each of its targets (R278). -/
def Env.castLines (e : Env) (cmd : Nat) (v : View) (tokens : List Word) (off len : Nat) : List McLine :=
  let lo := match v.foot with | none => 0 | some f => f.1
  tokens.flatMap (fun x => (List.range (len / 128)).map (fun i =>
    { who := e.who, core := e.gr.core, cmd := cmd, token := x, off := off + 128 * i
      va := BitVec.ofInt 64 (lo + 128 * (i : Int)) }))

/-- Lines of a multicast are on their way. -/
def State.sendLines (s : State) (ls : List McLine) : State :=
  ls.foldl (fun s l => { s with mcast := AMap.insert s.mcast (AMap.next s.mcast) l }) s

/-- `CPM` (R278): Copy engine multicasts a scratchpad region to up to eight granted teams on the die. -/
def execCpm (f : XF) (s : State) : Host.Outcome State Fault Refusal :=
  s.issue (.cpm f) (fun e s =>
    let n := (f.mode.extractLsb' 0 3).toNat + 1
    let t := f.gp.toNat
    if 64 < t + n then e.instr .regRange s
    else
      match e.held f.w2.toNat with
      | none => e.view .closed s
      | some v =>
        match s.scrSpan e.tm v.1 with
        | none => e.view .record s
        | some (off, len) =>
          let tokens := e.gBlock t n
          if tokens.any (fun x => !tokenOk (e.gr.core / 48) x) then e.view .grantBad s
          else
            match e.barOf f with
            | .error _ => e.view .barState s
            | .ok bar =>
              let c : Cmd := { e.cmd (.cpm f) bar with src := some v, gs := tokens }
              if len = 0 then .done (s.enqueueNone e c)
              else
                match s.submit e c with
                | .done s1 => .done (s1.sendLines (e.castLines s.fresh v.1 tokens off len))
                | r => r)

/-- `XTAB` (R337): Loads a copy-engine conversion table from a view. -/
def execXtab (f : XF) (s : State) : Host.Outcome State Fault Refusal :=
  s.issue (.xtab f) (fun e s =>
    match e.held f.w1.toNat with
    | none => e.view .closed s
    | some v =>
      if v.1.esize ≠ 2 then e.instr .formatCode s
      else s.submit e { e.cmd (.xtab f) none with src := some v })

/-! Multicast lines. -/

/-- The team in a slot of a core. -/
def State.inSlotOf (s : State) (core slot : Nat) : Option (Nat × Team) :=
  s.teams.find? (fun t => t.2.onCore core && t.2.slotOn core == slot)

/-- The receiving team, if it accepts a line (R136). -/
def State.acceptor (s : State) (token : Word) (off : Nat) : Option Nat :=
  let core := bits token 28 26 * 48 + bits token 25 20
  let slot := bits token 19 14
  match s.inSlotOf core slot with
  | none => none
  | some (tid, t) =>
    match AMap.find t.grants (bits token 13 12) with
    | none => none
    | some g =>
      if (AMap.get 0 (s.core core).inst slot).toNat = bits token 47 32 && g.core == core &&
          decide (g.lo ≤ off) && decide (off + 128 ≤ g.lo + g.len) && decide (off + 128 ≤ t.scrBytes) then
        some tid
      else none

/-- The command of a multicast line reads nothing yet: earlier work holds it back (R116, R117). -/
def State.castBehind (s : State) (l : McLine) : Bool :=
  (AMap.find (s.core l.core).cmds l.cmd).any (fun c => (s.core l.core).behind l.cmd c.who true c.srcs c.dsts)

/-- A line arrives at its target: it is written and then present, or it is dropped and XDROP is raised in
the sending team (R136, R167). An `xlut` of the target that reads a table there reads old or new (R336). -/
def State.castLine (s : State) (n : Nat) : State :=
  match AMap.find s.mcast n with
  | none => s
  | some l =>
    let s0 := match AMap.find (s.core l.core).cmds l.cmd with | none => s | some c => s.drainFor l.core c
    match AMap.find s0.teams l.who.tid with
    | none => { s with mcast := AMap.erase s.mcast n }
    | some t =>
      if t.absentAt l.off 128 || s.castBehind l || !s.castOk l then s
      else
        let s1 := { s0 with mcast := AMap.erase s0.mcast n }
        match s1.acceptor l.token l.off with
        | some tid =>
          let bs : List StByte := storeBytes (.scr l.off) ((List.range 128).map (fun i => t.scrRd (l.off + i)))
          let cores := (AMap.find s1.teams tid).elim [] (·.cores)
          (cores.foldl (fun s c => s.keepOld c tid bs) s1).modTeam tid (fun r =>
            ((List.range 128).foldl (fun r i => r.scrWr (l.off + i) (t.scrRd (l.off + i))) r).present [l.off / 128])
        | none =>
          s1.modTeam l.who.tid (fun t =>
            { t with groups := AMap.mapVal t.groups (fun _ g => g.raise flXDROP) })

/-- MULTICAST_LINE_ARRIVAL (R167). -/
def execMulticastLineArrival (n : Nat) (s : State) : Host.Outcome State Fault Refusal :=
  .next (s.castLine n).tick

/-- SCRATCH_LINE_ARRIVAL (R135): a line that a command in flight cleared is written, once every element of it passes
its checks, and its bit is set. A line that the command does not write never arrives: it is set present at the end. -/
def State.scratchLine (s : State) (tid line : Nat) : State :=
  match AMap.find s.teams tid with
  | none => s
  | some t =>
    match t.cores.findSome? (fun core =>
        ((s.core core).cmds.find? (fun m => m.2.who.tid == tid && m.2.lines.contains line)).map (fun m => (core, m))) with
    | none => s
    | some (core, id, c) =>
      if s.cmdHeld core id c then s
      else
        let ms := c.moves.filter (fun m => (s.moveLines t c m).contains line)
        let s0 := s.drainFor core c
        if ms.isEmpty || ms.any (fun m => match s0.movePlan t c m with | .error _ => true | .ok _ => false) then s
        else
          let s1 := s0.performMoves tid core t.cores c (s0.planned t c ms) (fun k => k.1 && k.2 / 128 == line)
          (s1.modTeam tid (fun t => t.present [line])).modCore core (fun k =>
            { k with cmds := AMap.modify k.cmds id (fun c =>
                { c with lines := c.lines.erase line, arrived := line :: c.arrived }) })

/-- `SCRATCH_LINE_ARRIVAL` (R135): An engine or multicast line arrives in a scratchpad bank and sets its
presence bit, releasing groups parked on it. -/
def execScratchLineArrival (tid line : Nat) (s : State) : Host.Outcome State Fault Refusal :=
  .next (s.scratchLine tid line).tick

end Sys2Proof.Machine
end

