-- ==== Sys2Proof/Machine/Matrix.lean ====
section
/-! DEFINITION. Matrix steps (R91, R92, R299), matrix loops (R93 to R96, R300) and the epilogue chain
(R97, R98, R301). -/

namespace Sys2Proof.Machine

/-! Operands. -/

/-- A matrix input format: binary8, or one of 16 bits (R91). -/
inductive MatFmt where
  | b8 (b : B8)
  | wide (f : FFmt)

/-- The matrix input format of a code (R92). -/
def matFmt (c : Nat) : Option MatFmt :=
  match b8OfCode c with
  | some b => some (.b8 b)
  | none => if c = 0x20 then some (.wide f16) else if c = 0x21 then some (.wide e8m7) else none

/-- K (R91). -/
def MatFmt.k : MatFmt → Nat
  | .b8 _ => 16
  | .wide _ => 8

/-- An element by its code. -/
def MatFmt.decode (m : MatFmt) (c : Nat) : FVal :=
  match m with
  | .b8 b => b.decode c
  | .wide f => f.decode c

/-- Element `k` of the block at `r` in lane `l` (R91). -/
def Group.matElem (g : Group) (m : MatFmt) (r l k : Nat) : FVal :=
  match m with
  | .b8 b => b.decode ((g.vReg (r + k / 4) l).toNat / 256 ^ (k % 4) % 256)
  | .wide f => f.decode ((g.vReg (r + k / 2) l).toNat / 65536 ^ (k % 2) % 65536)

/-- One output of a matrix step (R83): the accumulator and K products. -/
def matSum (c : Lane) (as bs : List FVal) : Lane × Flags :=
  lane32 (f32.sum .rne (some (f32Of c) :: (as.zip bs).map (fun ab => prodTerm ab.1 ab.2)))

/-- The C block is misplaced (R91). -/
def Env.badC (e : Env) (d : Nat) : Bool := d % 8 != 0 || e.over (d + e.width - 1)

/-- A block of four registers is misplaced, or meets the C block (R91). -/
def Env.badIn (e : Env) (d r : Nat) : Bool :=
  r % 4 != 0 || e.over (r + 3) || (decide (r < d + e.width) && decide (d < r + 4))

/-- `MMAS` (R92): One matrix multiply-accumulate step from vector registers. -/
def execMmas (f : VF) (s : State) : Host.Outcome State Fault Refusal :=
  s.issue (.mmas f) (fun e s =>
    let d := f.d.toNat
    let a := f.a.toNat
    let b := f.b.toNat
    if e.badC d || e.badIn d a || e.badIn d b then e.instr .regRange s
    else
      match matFmt f.c.toNat with
      | none => e.instr .formatCode s
      | some m =>
        if s.looping e.gr.core e.gr.slice then .wait .unit s
        else
          let ks := List.range m.k
          .done (s.modGrp e.who (forLanes (e.lanesFor (.mmas f)) (fun l g =>
            (List.range e.width).foldl (fun g i =>
              let r := matSum (e.gr.vReg (d + i) l) (ks.map (e.gr.matElem m a i)) (ks.map (e.gr.matElem m b l))
              (g.setV (d + i) l r.1).raise r.2) g))))

/-! The loop. -/

/-- The window check of a view's footprint at issue (R94). -/
def State.loopWindow (s : State) (e : Env) (v : View) : Option TrapInfo :=
  match v.foot with
  | none => none
  | some (lo, hi) =>
    let a : Word := BitVec.ofInt 64 lo
    match s.window e.tm.ctx a.toNat with
    | none => some (e.memTrap .engine (.windowMiss, a))
    | some w =>
      if (w.va.toNat + w.len.toNat : Int) < hi then some (e.memTrap .engine (.windowCross, a))
      else if !bit w.ctl 1 then some (e.memTrap .engine (.windowPerm, a))
      else none

/-- An INSTR cause from the records of the views an `mmlp` names, those that the group holds (R94, R97). -/
def Env.loopFormats (e : Env) (f : XF) (w : Word) : Bool :=
  let fmt (k : Nat) : Option Nat := (e.held k).map (fun v => v.1.fmt)
  let a := fmt f.w1.toNat
  let b := fmt f.w2.toNat
  let bad (c : Option Nat) : Bool := c.any (fun c => (matFmt c).isNone)
  let mixed := match a, b with
    | some x, some y => match matFmt x, matFmt y with
      | some m, some n => m.k != n.k
      | _, _ => false
    | _, _ => false
  let epi := f.mode.getLsbD 0 &&
    ((bit w 2 && (b8OfCode (bits w 31 24)).isNone) ||
     (bit w 0 && (fmt (bits w 19 16)).any (fun c => c != 0x22)) ||
     (fmt (bits w 15 12)).any (fun c => c != (if bit w 2 then bits w 31 24 else 0x22)))
  bad a || bad b || mixed || epi

/-- The slice's activation table was loaded last by the team (R98). -/
def State.ownTable (s : State) (e : Env) : Bool :=
  ((s.core e.gr.core).slice e.gr.slice).act.any (fun x => x.1 == e.who.tid)

/-- An `mmlp` enters the sequencer (R94, R95). -/
def State.startLoop (s : State) (e : Env) (f : XF) (a b : View × Word × Word)
    (bias dst : Option (View × Word × Word)) : Res :=
  let k := s.core e.gr.core
  let need := 2 + (if bias.isSome then 1 else 0) + (if dst.isSome then 1 else 0)
  if s.unitBusy e.gr.core e.gr.slice s.fresh then .wait .unit s
  else if 32 < k.entries + need then .wait .dir s
  else
    let d := f.vop.toNat
    let from_ := match e.fr.re with | [] => none | r :: _ => r.step
    let w := e.width
    let c := (List.range w).foldl (fun m i => (List.range w).foldl (fun m l =>
      AMap.set 0 m (64 * i + l) (e.gr.vReg (d + i) l)) m) ([] : AMap Lane)
    let lp : Loop :=
      { who := e.who, instr := .mmlp f, flag := e.flagOf (.mmlp f), pc := e.pc, cl := e.fr.pos.cl,
        exec := e.fr.exec, a := if from_.isSome then (a.1, e.gr.loopA) else a,
        b := if from_.isSome then (b.1, e.gr.loopB) else b, bias := bias, dst := dst,
        gs := e.gBlock f.gp.toNat 5, c := c, op := s.fresh, step := from_.getD 0,
        steps := (e.g f.gp.toNat).toNat, redo := e.fr.re != [], inH := e.fr.inH, replays := e.count }
    let s1 := s.modCore e.gr.core (fun k => { k with loops := AMap.insert k.loops s.fresh lp })
    .done (s1.modGrp e.who (fun g =>
      ({ g with pend := g.pend ++ (block d w).map (fun r => { reg := r, op := s.fresh, pc := e.pc : Pending }) }).flagUp
        lp.flag))

/-- `MMLP` (R94): Starts a self-sequenced matrix loop over two views with optional epilogue. Of several VIEW causes it
takes RECORD of g[P], then CLOSED of A or B, RECORD of a rank, RECORD of the command word, CLOSED of BV or DV, and TABLE,
an order that R194 leaves open (log 61). TABLE is decided once the unit is free, and a window's MEM cause after it. -/
def execMmlp (f : XF) (s : State) : Host.Outcome State Fault Refusal :=
  s.issue (.mmlp f) (fun e s =>
    let p := f.gp.toNat
    let w := e.g (p + 3)
    let epi := f.mode.getLsbD 0
    if 59 < p || e.badC f.vop.toNat || (e.width == 64 && e.over 71) then e.instr .regRange s
    else if e.loopFormats f w then e.instr .formatCode s
    else if bits (e.g p) 63 32 != 0 then e.view .record s
    else
      match e.held f.w1.toNat, e.held f.w2.toNat with
      | some a, some b =>
        let bv := if epi && bit w 0 then e.held (bits w 19 16) else none
        let dv := if epi then e.held (bits w 15 12) else none
        if a.1.rank < 2 ∨ b.1.rank < 2 then e.view .record s
        else if epi && w &&& 0xFFFFFFFF00F00FE8 != 0 then e.view .record s
        else if epi && (dv.isNone || (bit w 0 && bv.isNone)) then e.view .closed s
        else if epi && bit w 1 && s.unitBusy e.gr.core e.gr.slice s.fresh then .wait .unit s
        else if epi && bit w 1 && !s.ownTable e then e.view .table s
        else
          match s.loopWindow e a.1 with
          | some t => .trap t s
          | none =>
            match s.loopWindow e b.1 with
            | some t => .trap t s
            | none => s.startLoop e f a b bv dv
      | _, _ => e.view .closed s)

/-! Steps. -/

/-- An element that the sequencer reads (R95): a view access of the group. It waits for no absent scratchpad line, as
R135 asks that of the accesses of a lane (log 47). -/
def State.loopElem (s : State) (t : Team) (core : Nat) (w : Sel) (v : View × Word × Word) (i : Nat → Int) :
    Except Miss (Nat × Bool × State) :=
  match v.1.addr v.2 i with
  | none => .ok (0, v.1.noisy, s)
  | some a =>
    match s.access t (elemAcc core v.1.esize false) a with
    | .error e => .error e
    | .ok p =>
      let (bs, s1) := s.load w core false p v.1.esize
      .ok (leVal bs, false, s1)

/-- Elements at a list of indices, in order, or the first fault. -/
def State.loopElems (t : Team) (core : Nat) (w : Sel) (v : View × Word × Word) :
    List (Nat → Int) → State → Except Miss (List Nat × Bool × State)
  | [], s => .ok ([], false, s)
  | i :: is, s =>
    match s.loopElem t core w v i with
    | .error e => .error e
    | .ok (x, o, s1) =>
      match State.loopElems t core w v is s1 with
      | .error e => .error e
      | .ok (xs, os, s2) => .ok (x :: xs, o || os, s2)

/-- `eptab` reads its entries as a view access of the group (R301), and holds them until the unit is idle. -/
def execEptab (f : XF) (s : State) : Host.Outcome State Fault Refusal :=
  s.issue (.eptab f) (fun e s =>
    let p := f.gp.toNat
    let low (x : Word) : Word := (x.extractLsb' 0 32).zeroExtend 64
    if 62 < p then e.instr .regRange s
    else
      match e.held f.w1.toNat with
      | none => e.view .closed s
      | some v =>
        if v.1.fmt ≠ 0x17 then e.instr .formatCode s
        else
          match f32Of ((e.g (p + 1)).extractLsb' 0 32) with
          | .fin false (_ + 1) _ =>
            if (s.core e.gr.core).meets e.who v.1 false then .wait .weir s
            else if 32 < (s.core e.gr.core).entries + 1 then .wait .dir s
            else
              match State.loopElems e.tm e.gr.core e.who v
                  ((List.range 64).map (fun n => ix2 (n : Nat) 0)) (s.drainMeet e.gr.core e.who v.1) with
              | .error m => .trap (e.memTrap .engine m) s
              | .ok (xs, oob, s1) =>
                (s1.modGrp e.who (fun g => g.raise (flIf oob flOOB))).submit e { e.cmd (.eptab f) none with
                  src := some v, gs := [low (e.g p), low (e.g (p + 1))] ++ xs.map (BitVec.ofNat 64) }
          | _ => e.view .record s)

/-- The pairs (x, y) with y slower. -/
def pairs (n m : Nat) : List (Nat × Nat) := (List.range m).flatMap (fun y => (List.range n).map (fun x => (x, y)))

/-- Origins of dims 0 and 1 advance (R94). -/
def advanceOrg (v : View × Word × Word) (inc : Word) : View × Word × Word := (v.1, addHalves v.2.1 inc, v.2.2)

/-- C is written to its registers (R94, R96). -/
def Loop.writeC (l : Loop) (w d : Nat) (g : Group) : Group :=
  (List.range w).foldl (fun g i => (List.range w).foldl (fun g j => g.setV (d + i) j (AMap.get 0 l.c (64 * i + j))) g) g

/-- The C block of a loop. -/
def Loop.d (l : Loop) : Nat := match l.instr with | .mmlp f => f.vop.toNat | _ => 0

/-- With `.epi`. -/
def Loop.epi (l : Loop) : Bool := match l.instr with | .mmlp f => f.mode.getLsbD 0 | _ => false

/-- The loop leaves the sequencer: its registers are no longer pending and its flag falls. -/
def State.dropLoop (s : State) (core id : Nat) (l : Loop) : State :=
  (s.modCore core (fun k => { k with loops := AMap.erase k.loops id })).modGrp l.who (fun g =>
    { g with pend := g.pend.filter (fun p => p.op != l.op) }.flagDown l.flag)

/-- The sequencer stops at the boundary of its step (R96): C is written back and the origins are recorded. -/
def State.stopLoop (s : State) (core id w : Nat) (l : Loop) : State :=
  (s.dropLoop core id l).modGrp l.who (fun g => { l.writeC w l.d g with loopA := l.a.2, loopB := l.b.2 })

/-- A fault of a loop (R96, R300): a deferred fault with LOOP and STEP. -/
def State.faultLoop (s : State) (core id w : Nat) (l : Loop) (m : Miss) : State :=
  (s.stopLoop core id w l).defer l.who
    { info := { cause := .mem .engine m.1, pc := l.pc, va := m.2, lanes := l.exec,
                stat := statDefer ||| statLoop l.step, again := l.redo }, cl := l.cl }

/-- The charge of a step of a matrix loop (R255). -/
def stepCharge (width : Nat) : Nat := 15 * width

/-- A step starts: it is charged to the meter as a heavy issue of the slice (R255, log 48). -/
def State.chargeStep (s : State) (core slice width : Nat) : State :=
  s.modCore core (fun c =>
    { c with sum := c.sum + stepCharge width }.modSlice slice (fun l => { l with heavy := true }))

/-- One step of the loop (R94). Of several elements that fail, the first one read gives the fault, those of A before
those of B, with the step's K index fastest (log 61). All of them are read at one moment (log 7). -/
def State.stepLoop (s : State) (t : Team) (core id : Nat) (l : Loop) : State :=
  let w := t.desc.width
  match matFmt l.a.1.fmt, matFmt l.b.1.fmt with
  | some ma, some mb =>
    let k := ma.k
    match State.loopElems t core l.who l.a ((pairs k w).map (fun x => ix2 x.1 x.2)) s with
    | .error m => s.faultLoop core id w l m
    | .ok (as, o1, s1) =>
      match State.loopElems t core l.who l.b ((pairs k w).map (fun x => ix2 x.2 x.1)) s1 with
      | .error m => s1.faultLoop core id w l m
      | .ok (bs, o2, s2) =>
        let row (m : MatFmt) (xs : List Nat) (i : Nat) : List FVal := ((xs.drop (k * i)).take k).map m.decode
        let out := (pairs w w).foldl (fun (a : AMap Lane × Flags) ji =>
          let r := matSum (AMap.get 0 l.c (64 * ji.2 + ji.1)) (row ma as ji.2) (row mb bs ji.1)
          (AMap.set 0 a.1 (64 * ji.2 + ji.1) r.1, a.2 ||| r.2)) ([], 0)
        let l1 := { l with c := out.1, step := l.step + 1, a := advanceOrg l.a (l.gs.getD 1 0),
                           b := advanceOrg l.b (l.gs.getD 2 0) }
        (s2.modCore core (fun c => { c with loops := AMap.insert c.loops id l1 })).modGrp l.who (fun g =>
          g.raise (out.2 ||| flIf (o1 || o2) flOOB))
  | _, _ => s

/-! The epilogue. -/

/-- The activation of a value (R98): the largest n with lo + n × h ≤ x picks slope and intercept. -/
def activate (tab : List Word) (x : Lane) : Lane × Flags :=
  let lo := f32Of ((tab.getD 0 0).extractLsb' 0 32)
  let h := (f32Of ((tab.getD 1 0).extractLsb' 0 32)).dy
  let v := f32Of x
  let reached (n : Nat) : Bool :=
    match lo, v with
    | .nan, _ => false
    | _, .nan => false
    | .inf true, _ => true
    | .inf false, .inf false => true
    | .inf false, _ => false
    | _, .inf neg => !neg
    | a, b => ((a.dy.add (h.mul (Dy.ofInt n))).le b.dy)
  if v == .nan then (nan32, 0)
  else
    let n := (List.range 64).foldl (fun a n => if reached n then n else a) 0
    let e := tab.getD (2 + n) 0
    ffma .rne x (e.extractLsb' 0 32) (e.extractLsb' 32 32)

/-- The drain of the elements (i, j) in rows, with the residual of the row (R97). -/
def State.drainCells (t : Team) (core : Nat) (l : Loop) (tab : List Word) :
    List (Nat × Nat) → Dy → State → Except (Miss × State) State
  | [], _, s => .ok s
  | (j, i) :: rest, res0, s =>
    let w := l.gs.getD 3 0
    let c := AMap.get 0 l.c (64 * i + j)
    let biased : Except Miss (Lane × Flags × State) :=
      match l.bias with
      | none => .ok (c, 0, s)
      | some v =>
        match s.loopElem t core l.who v (ix2 j 0) with
        | .error m => .error m
        | .ok (x, o, s1) =>
          let r := fadd .rne c (BitVec.ofNat 32 x)
          .ok (r.1, r.2 ||| flIf o flOOB, s1)
    match biased with
    | .error m => .error (m, s)
    | .ok (x1, f1, s1) =>
      let (x2, f2) := if bit w 1 then activate tab x1 else (x1, 0)
      let res := if j = 0 then Dy.zero else res0
      let (bytes, f3, res') : List Byte × Flags × Dy :=
        match (if bit w 2 then b8OfCode (bits w 31 24) else none) with
        | some b =>
          let r := narrowOne b (bit w 4) true (clampScale (l.gs.getD 4 0)) res (f32Of x2)
          ([BitVec.ofNat 8 r.1.code], r.1.fl, r.2)
        | none => (leBytes 4 x2.toNat, 0, Dy.zero)
      match l.dst with
      | none => .ok s1
      | some v =>
        let s2 (f : Flags) : State := s1.modGrp l.who (fun g => g.raise (f1 ||| f2 ||| f3 ||| f))
        match v.1.addr v.2 (ix2 j i) with
        | none => State.drainCells t core l tab rest res' (s2 (flIf v.1.noisy flOOB))
        | some a =>
          match s1.access t (elemAcc core v.1.esize true) a with
          | .error m => .error (m, s2 0)
          | .ok p =>
            let bs := storeBytes p bytes
            State.drainCells t core l tab rest res' (((s2 0).keepTables core (scrKeys bs) (fun j _ =>
              j.who.tid == l.who.tid && j.who.grp == l.who.grp && decide (j.op < l.op))).passGate l.who core bs [v.1])

/-- The end of the loop (R94, R95, R97, R300). -/
def State.endLoop (s : State) (t : Team) (core id : Nat) (l : Loop) : State :=
  let w := t.desc.width
  if l.epi then
    let tab := match ((s.core core).slice (s.sliceOf l.who)).act with | none => [] | some x => x.2
    match State.drainCells t core l tab (pairs w w) Dy.zero s with
    | .error (m, s1) => s1.faultLoop core id w l m
    | .ok s1 => (s1.dropLoop core id l).completed l.who l.inH
  else ((s.dropLoop core id l).modGrp l.who (l.writeC w l.d)).completed l.who l.inH

/-- The sequencer moves by one step, or ends, once nothing holds it (R94, R116, R117). A loop of
a resumed team first takes its directory entries (R115). A step that would take the
meter past its limit waits for the next window, and counts as a denial (R255, R184, log 48). -/
def State.moveLoop (s : State) (core id : Nat) : State :=
  match AMap.find (s.core core).loops id with
  | none => s
  | some l =>
    match AMap.find s.teams l.who.tid with
    | none => s
    | some t =>
      let earlier := (s.core core).loops.any (fun k => decide (k.1 < id) && s.sliceOf k.2.who == s.sliceOf l.who)
      if l.queued then
        if 32 < (s.core core).entries + l.entries then s
        else s.modCore core (fun c => { c with loops := AMap.insert c.loops id { l with queued := false } })
      else if earlier || (s.core core).behind id l.who false l.srcs l.dsts then s
      else
        let s1 := (l.srcs ++ l.dsts).foldl (fun s v => s.drainMeet core l.who v) s
        if l.steps ≤ l.step then s1.endLoop t core id l
        else if (s.core core).past (stepCharge t.desc.width) then
          s.modCore core (fun c => { c with denials := c.denials + 1 })
        else (s1.chargeStep core (s.sliceOf l.who) t.desc.width).stepLoop t core id l

end Sys2Proof.Machine
end

