-- ==== Sys2Proof/Machine/Pipes.lean ====
section
/-! DEFINITION. The words that give the transform pipes their jobs (R99, R100, R102, R336, R338); what a job
does is `State.runJob`. -/

namespace Sys2Proof.Machine

/-- A job enters its pipe (R99): its destinations are pending until the reply, and its flag rises. -/
def State.queueJob (s : State) (e : Env) (i : Instr) (gs : List Word) (vs : List (List Lane)) (exec : Word)
    (dsts : List Nat) : Res :=
  let core := e.gr.core
  let p := pipeOf e.gr.slice
  let k := s.core core
  let j : Job :=
    { who := e.who, instr := i, flag := e.flagOf i, pc := e.pc, cl := e.fr.pos.cl, exec := exec, inH := e.fr.inH,
      gs := gs, vs := vs, op := s.fresh, seq := k.cmdseq, redo := e.fr.re != [], replays := e.count }
  let s1 := s.modCore core (fun k =>
    { k with pipes := AMap.set [] k.pipes p (AMap.get [] k.pipes p ++ [j]), cmdseq := k.cmdseq + 1 })
  let s2 := s1.modGrp e.who (fun g =>
    ({ g with pend := g.pend ++ dsts.map (fun r => { reg := r, op := s.fresh, pc := e.pc : Pending }) }).flagUp j.flag)
  .done (s2.noteTask e.who core 0x01 (1 + p) j.seq i.opc e.pc [])

/-- A register in every lane. -/
def Env.column (e : Env) (r : Nat) : List Lane := (List.range 64).map (e.gr.vReg r)

/-- The lowest byte of the entries that lanes look up in a table, in a column, that ECC cannot correct. -/
def Team.lutBad (t : Team) (o : Nat) (col : List Lane) (lanes : Word) : Option Nat :=
  if t.bad.isEmpty then none
  else
    (lanesOf lanes).findSome? (fun l => (List.range 4).findSome? (fun b =>
      let x := 2 * ((col.getD l 0).extractLsb' (8 * b) 8).toNat
      [x, x + 1].find? (fun i => t.bad.contains (o + i))))

/-- The table of an `xlut` (R100): its address is translated at issue to a scratchpad offset, and with it are checked
the entries that the lanes look up (R122 order 10, R131, log 37). -/
def State.lutTable (s : State) (e : Env) (a : Word) (col : List Lane) (lanes : Word) : Except Miss Nat :=
  match s.access e.tm { n := 512, rd := true, wr := false, aligned := true, data := false } a with
  | .ok (.scr o) =>
    match e.tm.lutBad o col lanes with
    | some i => .error (.uncorrectable, a + BitVec.ofNat 64 i)
    | none => .ok o
  | .ok (.mem _ _) => .error (.scratchRange, a)
  | .error m =>
    let early := [MemReason.noncanon, .wrap, .misalign, .windowCross, .windowPerm].contains m.1
    match s.window e.tm.ctx a.toNat with
    | some w => if early || bit w.ctl 3 then .error m else .error (.scratchRange, a)
    | none => .error m

/-- `XLUT` (R100): Transform pipe maps each byte of a lane through a scratchpad table. gT is translated, and its fault is
taken, with no active lane too (log 78). -/
def execXlut (f : VF) (s : State) : Host.Outcome State Fault Refusal :=
  s.issue (.xlut f) (fun e s =>
    let d := f.d.toNat
    if d % 2 == 1 || e.over (d + 1) || e.over f.a.toNat then e.instr .regRange s
    else
      match s.lutTable e (e.g f.b.toNat) (e.column f.a.toNat) (e.lanesFor (.xlut f)) with
      | .error m => .trap (e.memTrap .engine m) s
      | .ok o => s.queueJob e (.xlut f) [BitVec.ofNat 64 o] [e.column f.a.toNat] (e.lanesFor (.xlut f)) [d, d + 1])

/-- `XUNP` (R100): Transform pipe unpacks bit fields of a 64-bit pair into registers. -/
def execXunp (f : VF) (s : State) : Host.Outcome State Fault Refusal :=
  s.issue (.xunp f) (fun e s =>
    let d := f.d.toNat
    let a := f.a.toNat
    let gf := e.g f.b.toNat
    let w := bits gf 5 0
    let n := bits gf 13 8
    if w = 0 ∨ 32 < w ∨ n = 0 ∨ 8 < n ∨ 64 < w * n ∨ bits gf 7 6 ≠ 0 ∨ bits gf 63 14 ≠ 0 then
      e.instr .reservedField s
    else if a % 2 == 1 || e.over (a + 1) || e.over (d + n - 1) then e.instr .regRange s
    else s.queueJob e (.xunp f) [gf] [e.column a, e.column (a + 1)] (e.lanesFor (.xunp f)) (block d n))

/-- `XLZ` (R102): Transform pipe expands an XBR stream from a job card, up to 4,096 bytes. -/
def execXlz (f : XF) (s : State) : Host.Outcome State Fault Refusal :=
  s.issue (.xlz f) (fun e s =>
    let j := f.gp.toNat
    if j % 8 != 0 then e.instr .regRange s
    else s.queueJob e (.xlz f) (e.gBlock j 8) [] e.fr.exec ((List.range 8).map (fun k => e.sbG (j + k))))

end Sys2Proof.Machine
end

