-- ==== Sys2Proof/Machine/Sync.lean ====
section
/-! DEFINITION. Barrier words (R164, R165, R265, R266), carve requests (R43, R280), and grants (R136, R290,
R291, R311). -/

namespace Sys2Proof.Machine

/-- What every barrier word checks first (R266): no open split, and a barrier below `.bars`. -/
def Env.atBar (e : Env) (n : Nat) (s : State) (k : Bar → Res) : Res :=
  if e.splits != [] then e.instr .meldSplit s
  else if e.tm.desc.bars ≤ n then e.view .barState s
  else match AMap.find e.tm.bars n with | none => e.view .barState s | some b => k b

/-- An engine command of the team that names a barrier is in flight (R164). -/
def State.barBusy (s : State) (t : Team) (tid n : Nat) : Bool :=
  t.cores.any (fun c => (s.core c).cmds.any (fun m => m.2.who.tid == tid && m.2.bar == some n))

/-- `BINI` (R164): Sets a barrier's expected group and engine arrival counts. -/
def execBini (f : XF) (s : State) : Host.Outcome State Fault Refusal :=
  s.issue (.bini f) (fun e s =>
    let n := f.bar.toNat
    let c := e.g f.gp.toNat
    let live := (e.tm.groups.filter (fun g => !g.2.ended)).length
    e.atBar n s (fun b =>
      if bits c 63 20 != 0 || bits c 7 0 == 0 || decide (live < bits c 7 0) || b.arr != [] || b.earr != 0 ||
          s.barBusy e.tm e.who.tid n then e.view .barState s
      else
        .done (s.modTeam e.who.tid (fun t =>
          { t with bars := AMap.insert t.bars n { ph := b.ph, grp := bits c 7 0, eng := bits c 19 8 } }))))

/-- A group arrives, after its earlier stores are performed (R165). -/
def State.arriveNow (s : State) (e : Env) (n : Nat) : State := (s.drainStores e.gr.core e.who).arrive e.who n

/-- The group waits for its phase (R165, R135): once that is over, later completions do not hold it again. -/
def State.waitBar (s : State) (e : Env) (n : Nat) : Res :=
  match s.envOf e.who with
  | none => .gone s
  | some e1 => if e1.barPassed n then .done s else .wait (if e1.barOver n then .freed n else .bar n) s

/-- `BARR` (R165): Releases the group's accesses at team scope and arrives at a barrier. -/
def execBarr (f : XF) (s : State) : Host.Outcome State Fault Refusal :=
  s.issue (.barr f) (fun e s =>
    let n := f.bar.toNat
    e.atBar n s (fun b => if b.arr.contains e.who.grp then e.view .barState s else .done (s.arriveNow e n)))

/-- `BWAIT` (R165): Waits until the barrier phase the group arrived in has completed, then acquires. -/
def execBwait (f : XF) (s : State) : Host.Outcome State Fault Refusal :=
  s.issue (.bwait f) (fun e s =>
    let n := f.bar.toNat
    e.atBar n s (fun _ => if (AMap.find e.gr.lp n).isNone then e.view .barState s else s.waitBar e n))

/-- `BSYNC` (R165): Arrives at a barrier and waits for the phase to complete. -/
def execBsync (f : XF) (s : State) : Host.Outcome State Fault Refusal :=
  s.issue (.bsync f) (fun e s =>
    let n := f.bar.toNat
    e.atBar n s (fun b =>
      if e.parked then s.waitBar e n
      else if b.arr.contains e.who.grp then e.view .barState s
      else (s.arriveNow e n).waitBar e n))

/-- `BTEST` (R165): Tests without waiting whether the group's barrier phase has completed. Where it has and a granted
carve waits to take effect, the group issues nothing more until then (R135, log 59). -/
def execBtest (f : XF) (s : State) : Host.Outcome State Fault Refusal :=
  s.issue (.btest f) (fun e s =>
    let n := f.bar.toNat
    e.atBar n s (fun b =>
      let passed := match AMap.find e.gr.lp n with | none => false | some p => p != b.ph
      .done (s.modGrp e.who (fun g =>
        { g.setGp (f.mode.extractLsb' 0 3).toNat passed with
            atCarve := passed && !e.tm.granted.isEmpty }))))

/-- `CRV` (R43): Makes a pending carve request for the team, decided at the next barrier completion. Of two of one
group in one phase the later names the reply predicate (log 44). -/
def execCrv (f : XF) (s : State) : Host.Outcome State Fault Refusal :=
  s.issue (.crv f) (fun e s =>
    let r := e.g f.gp.toNat
    let d := (f.mode.extractLsb' 0 3).toNat
    let regs := bits r 15 8
    let scr := bits r 7 0
    if e.tm.desc.bars == 0 || bits r 63 16 != 0 || decide (32 < regs) || (decide (64 < scr) && scr != 0xFF) then
      e.view .carve s
    else
      .done ((s.modTeam e.who.tid (fun t =>
        { t with carve := some { regs := regs, scr := if scr = 0xFF then none else some scr } })).modGrp e.who
          (fun g => { g.setGp d false with carveGp := some d })))

/-- The part of a team's scratchpad on a core (R41): its first offset and its length. -/
def Team.scrPart (t : Team) (core : Nat) : Nat × Nat :=
  let n := t.scrGran * 2 ^ 14
  match t.place with
  | none => (0, n)
  | some p => if core = p.core then (0, n) else (n, n)

/-- The token of a grant (R136). -/
def tokenOf (inst core slot gid : Nat) : Word :=
  BitVec.ofNat 64 (inst % 2 ^ 16 * 2 ^ 32 + core / 48 * 2 ^ 26 + core % 48 * 2 ^ 20 + slot * 2 ^ 14 + gid * 2 ^ 12)

/-- The group's stores at the gate to a scratchpad range are performed (R291). -/
def State.drainScr (s : State) (core : Nat) (w : Sel) (lo len : Nat) : State :=
  s.releaseWhere core (fun o => o.2.of w &&
    o.2.bytes.any (fun b => b.scr && decide (lo ≤ b.key) && decide (b.key < lo + len)))

/-- An interval of VAs reaches scratchpad bytes from `lo`, through a window of the context. -/
def State.reachesScr (s : State) (ctx : Nat) (r : Int × Int) (lo len : Nat) : Bool :=
  (List.range 16).any (fun n =>
    let w := s.win ctx n
    let a : Int := max r.1 w.va.toNat
    let b : Int := min r.2 (w.va.toNat + w.len.toNat : Nat)
    w.ok && bit w.ctl 3 && decide (a < b) &&
    overlap (w.ia.toNat + (a - w.va.toNat), w.ia.toNat + (b - w.va.toNat)) (lo, lo + len))

/-- A pipe job may still access scratchpad bytes from `lo` (R100, R103). -/
def State.jobReaches (s : State) (ctx : Nat) (j : Job) (lo len : Nat) : Bool :=
  let g (i : Nat) : Int := ((j.gs.getD i 0).toNat : Int)
  match j.instr with
  | .xlut _ => overlap (g 0, g 0 + 512) (lo, lo + len)
  | .xlz _ => s.reachesScr ctx (g 0, g 0 + g 1) lo len || s.reachesScr ctx (g 2 - min (g 5) 65535, g 2 + g 3) lo len
  | _ => false

/-- A matrix loop or a pipe job of the group may still access scratchpad bytes from `lo` (R291). -/
def State.workReaches (s : State) (e : Env) (lo len : Nat) : Bool :=
  let c := s.core e.gr.core
  let mine (w : Sel) : Bool := w.tid == e.who.tid && w.grp == e.who.grp
  (AMap.get [] c.pipes (pipeOf e.gr.slice)).any (fun j => mine j.who && s.jobReaches e.tm.ctx j lo len) ||
  c.loops.any (fun l => mine l.2.who && (l.2.srcs ++ l.2.dsts).any (fun v =>
    v.foot.any (fun f => s.reachesScr e.tm.ctx f lo len)))

/-- `GRANT` (R291): Opens a grant over a scratchpad range and returns a multicast token. It waits for the group's
earlier accesses to the range: stores at the gate, pipe jobs and matrix loops. -/
def execGrant (f : XF) (s : State) : Host.Outcome State Fault Refusal :=
  s.issue (.grant f) (fun e s =>
    let p := f.gp.toNat
    let d := (f.mode.extractLsb' 0 6).toNat
    let n := (f.mode.extractLsb' 8 2).toNat
    let o := (e.g p).toNat
    let len := (e.g (p + 1)).toNat
    let part := e.tm.scrPart e.gr.core
    if 62 < p then e.instr .regRange s
    else if (AMap.find e.tm.grants n).isSome then e.view .grantBad s
    else if o % 128 ≠ 0 ∨ len % 128 ≠ 0 ∨ len = 0 ∨ o < part.1 ∨ part.1 + part.2 < o + len then
      e.view .grantBad s
    else
      let slot := e.tm.slotOn e.gr.core
      let inst := (AMap.get 0 (s.core e.gr.core).inst slot).toNat
      let s0 := s.drainScr e.gr.core e.who o len
      if s0.workReaches e o len then .wait .unit s
      else
      let s1 := s0.modTeam e.who.tid (fun t =>
        { t.clearLines ((List.range (len / 128)).map (o / 128 + ·)) with
          grants := AMap.insert t.grants n { lo := o, len := len, core := e.gr.core } })
      .done ((s1.modGrp e.who (e.putG d (tokenOf inst e.gr.core slot n))).track e (.grant f) [] [] none))

/-- `REVK` (R311): Revokes a grant, sets its range present and closes it. -/
def execRevk (f : XF) (s : State) : Host.Outcome State Fault Refusal :=
  s.issue (.revk f) (fun e s =>
    .done ((s.modTeam e.who.tid (fun t => t.endGrant (f.mode.extractLsb' 8 2).toNat)).track e (.revk f) [] [] none))

end Sys2Proof.Machine
end

