-- ==== Sys2Proof/Machine/SysRegs.lean ====
section
/-! DEFINITION. The system registers by number (R256): what each reads and what a `swr` writes (R304, R305),
and the registers of a core that the host shares (R184, R186, R219, R223, R227 to R230). -/

namespace Sys2Proof.Machine

/-! Registers of a core. -/

/-- MGNSTAT (R219). -/
def Core.mgnstat (c : Core) : Word :=
  BitVec.ofNat 64 (c.ofs % 32 + (if c.settle || c.slew then 2 ^ 8 else 0) +
    (List.range 6).foldl (fun a n => a + (if c.quar || (c.slice n).limp then 2 ^ (16 + n) else 0)) 0 +
    (if c.quar then 2 ^ 24 else 0) + c.escal % 2 ^ 32 * 2 ^ 32)

/-- `%curm` (R184). -/
def Core.curm (c : Core) : Word := BitVec.ofNat 64 (c.curmSum % 2 ^ 32 + c.curmDen % 2 ^ 16 * 2 ^ 32)

/-- TRGCTL (R230). -/
def Core.trgctl (c : Core) : Word := BitVec.ofNat 64 (c.trgStart + c.trgStop * 2 ^ 8 + c.trgState * 2 ^ 13)

/-- An HC or margin register of a core by its system register number. -/
def Core.reg (c : Core) (n : Nat) : Word :=
  if n = 0x28 then BitVec.ofNat 64 c.cursoft
  else if n = 0x29 then BitVec.ofNat 64 c.curhard
  else if 0x2A ≤ n ∧ n ≤ 0x2F then
    BitVec.ofNat 64 ((c.slice (n - 0x2A)).target + (if (c.slice (n - 0x2A)).pend then 2 ^ 8 else 0))
  else if n = 0x30 then
    BitVec.ofNat 64 (c.hofs + c.omax * 2 ^ 8 + (if c.hw then 2 ^ 16 else 0) + c.quiet * 2 ^ 24)
  else if n = 0x31 then c.mgnstat
  else if n = 0x32 then BitVec.ofNat 64 (c.tecnt.toNat + c.win % 2 ^ 16 * 2 ^ 32)
  else if n = 0x33 then BitVec.ofNat 64 c.replim
  else if n = 0x34 then BitVec.ofNat 64 c.limpcyc
  else if n = 0x35 then BitVec.ofNat 64 c.escstep
  else if n = 0x36 then BitVec.ofNat 64 c.qthr
  else if n = 0x37 then BitVec.ofNat 64 ((if c.quar then 1 else 0) + c.qcount % 2 ^ 16 * 2 ^ 32)
  else if 0x80 ≤ n ∧ n ≤ 0xDF then
    let x : Cmpr := AMap.get {} c.cmps ((n - 0x80) / 3)
    if (n - 0x80) % 3 = 0 then x.ctl else if (n - 0x80) % 3 = 1 then x.lo else x.hi
  else if n = 0xE0 then c.smp
  else if n = 0xE1 then c.tagctl
  else if n = 0xE2 then c.trcmask
  else if n = 0xE3 then c.trgctl
  else 0

/-- A sluice register of a context by its system register number (R124). -/
def State.sluiceReg (s : State) (ctx n : Nat) : Word :=
  let w := s.win ctx ((n - 0x40) / 4)
  match (n - 0x40) % 4 with | 0 => w.va | 1 => w.len | 2 => w.ia | _ => w.ctl

/-! Registers of a group. -/

/-- `%dbg` (R225). -/
def Env.dbg (e : Env) : Word :=
  BitVec.ofNat 64 ((if e.gr.stepOn then 1 else 0) + (if e.tm.dbgBit then 2 else 0) +
    (if e.gr.stopped then 4 else 0) + e.gr.stopCause.toNat * 16)

/-- `%undo` (R225). -/
def Team.undoReg (t : Team) (grp : Nat) (hzn : Bool) : Word :=
  BitVec.ofNat 64 ((t.undo.filter (fun u => u.grp == grp && !u.opened)).length + (if hzn then 2 ^ 16 else 0))

/-- `%evmask` (R185). -/
def Group.evmask (g : Group) : Word := (if g.thr then 1 else 0) ||| (if g.thrp then 0x100000000 else 0)

/-- The lowest lane of a mask, or 0 (R256). -/
def lowLane (m : Word) : Nat := (lanesOf m).headD 0

/-- A system register by its number (R256). -/
def State.sysReg (s : State) (e : Env) (n : Nat) : Word :=
  let c := s.core e.gr.core
  let nat (x : Nat) : Word := BitVec.ofNat 64 x
  match n with
  | 0x00 => nat (lowLane e.fr.exec)
  | 0x01 => nat e.width
  | 0x02 => nat e.who.grp
  | 0x03 => nat e.tm.desc.team
  | 0x04 => nat e.tm.idx
  | 0x05 => nat e.tm.x
  | 0x06 => nat e.tm.y
  | 0x07 => nat e.tm.z
  | 0x08 => nat e.gr.core
  | 0x09 => nat (e.gr.core / 48)
  | 0x0A => nat e.gr.slice
  | 0x0B => nat (c.slice e.gr.slice).ratio
  | 0x0C => nat e.tm.launch
  | 0x10 => e.gr.gstat.zeroExtend 64
  | 0x11 => e.gr.tarm.zeroExtend 64
  | 0x12 => e.tm.desc.ptt
  | 0x13 => nat e.tm.desc.ptn
  | 0x14 => nat (e.depth + 8 * e.floor)
  | 0x15 => e.gr.evmask
  | 0x16 => e.gr.evvec
  | 0x18 => e.gr.tvec
  | 0x19 => e.gr.tcause
  | 0x1A => e.gr.tpc
  | 0x1B => e.gr.tva
  | 0x1C => e.gr.tlanes
  | 0x1D => e.gr.tstat
  | 0x1E => e.gr.hsa
  | 0x1F => e.gr.tnext
  | 0x20 => e.dbg
  | 0x21 => e.tm.undoReg e.who.grp e.gr.hzn
  | 0x22 => e.gr.te.zeroExtend 64
  | 0x23 => c.mgnstat
  | 0x24 => c.curm
  | n => if 0x40 ≤ n ∧ n < 0x80 then s.sluiceReg e.tm.ctx n else c.reg n

/-- An SV register (R256). -/
def sysSv (n : Nat) : Bool := decide (0x18 ≤ n) && decide (n ≤ 0x20)

/-- An HC register (R256, R219). -/
def sysHc (n : Nat) : Bool := (decide (0x28 ≤ n) && n != 0x31)

/-- `SRD` (R304): Reads a system register into a g register. -/
def execSrd (f : SF) (s : State) : Host.Outcome State Fault Refusal :=
  s.issue (.srd f) (fun e s =>
    let n := f.sys.toNat
    if (sysSv n || sysHc n) && !e.fr.inH then e.instr .priv s
    else if n = 0x10 then
      let s1 := s.complete e.gr.core e.gr.slice e.who
      if s1.piped e.gr.core e.gr.slice e.who then .wait .weir s1
      else
        match s1.envOf e.who with
        | none => .gone s1
        | some e1 => .done (s1.modGrp e.who (e.putG f.g.toNat (s1.sysReg e1 n)))
    else .done (s.modGrp e.who (e.putG f.g.toNat (s.sysReg e n))))

/-- The handler's record that `%tpc` has been written (R197). -/
def Group.tpcWritten (g : Group) : Group :=
  match g.hnd with | none => g | some h => { g with hnd := some { h with tpcWritten := true } }

/-- `exec` in force at the trap (R305). -/
def Group.trapExec (g : Group) : Word := match g.hnd with | none => BitVec.allOnes 64 | some h => h.frag.exec

/-- What `swr` writes in its group (R305, R192, R185); a read-only register keeps its value. -/
def Group.swr (g : Group) (n : Nat) (x : Word) : Group :=
  match n with
  | 0x10 => { g with gstat := g.gstat &&& ~~~(x.extractLsb' 0 8) }
  | 0x11 => { g with tarm := x.extractLsb' 0 8 }
  | 0x15 => { g with thr := bit x 0, thrp := g.thrp && !bit x 32 }
  | 0x16 => { g with evvec := x }
  | 0x18 => { g with tvec := x }
  | 0x19 => { g with tcause := x &&& 0x1FF }
  | 0x1A => { g with tpc := x }.tpcWritten
  | 0x1B => { g with tva := x }
  | 0x1C => { g with tlanes := x &&& g.trapExec }
  | 0x1D => { g with tstat := x }
  | 0x1E => { g with hsa := x }
  | 0x1F => { g with tnext := x }
  | 0x20 => { g with stepOn := bit x 0 }
  | _ => g

/-- `SWR` (R305): Writes a system register from a g register. -/
def execSwr (f : SF) (s : State) : Host.Outcome State Fault Refusal :=
  s.issue (.swr f) (fun e s =>
    let n := f.sys.toNat
    if sysHc n || (sysSv n && !e.fr.inH) then e.instr .priv s
    else .done (s.modGrp e.who (fun g => g.swr n (e.g f.g.toNat))))

end Sys2Proof.Machine
end

