-- ==== Sys2Proof/Machine/Image.lean ====
section
/-! DEFINITION. The save image of a team (R104, R206 to R208): its header, its objects, the record of each group, and
its registers and scratchpad compressed; and the frame that it is written to. -/

namespace Sys2Proof.Machine

/-! The group record. -/

/-- The fragment in the group's slot, whose place and `exec` the record shows. -/
def Group.main (g : Group) : Option (Nat × Frag) :=
  match g.frags.find? (fun f => g.inSlot f.2) with
  | some f => some f
  | none => g.frags.head?

/-- The meld stack that the record shows as current, and as set aside (R195, R208). -/
def Group.stack (g : Group) (aside : Bool) : List MeldLevel :=
  if aside then (if g.hnd.isSome then g.meld.reverse else [])
  else (if g.hnd.isSome then g.hmeld.reverse else g.meld.reverse)

/-- FLOOR likewise. -/
def Group.floorOf (g : Group) (aside : Bool) : Nat :=
  if aside then (if g.hnd.isSome then g.floor else 0) else (if g.hnd.isSome then g.hfloor else g.floor)

/-- Open split records likewise, the outermost first. -/
def Group.records (g : Group) (aside : Bool) : List SplitRec :=
  if aside && g.hnd.isNone then [] else g.splits.filter (fun r => r.inH == (g.hnd.isSome && !aside))

/-- The fragment is parked (R182, R208): at a join, a barrier, an absent line or a full hold. A wait for a register, a
flag or a unit is no park. -/
def Frag.isParked (f : Frag) : Bool :=
  f.st == .joined || f.parksGroup || (match f.stall with | some (.bar _) => true | some (.freed _) => true | _ => false)

/-- The lanes parked at the join of a record. -/
def Group.parkedAt (g : Group) (r : SplitRec) : Word :=
  (g.frags.filter (fun f => f.2.split == some r.id && f.2.st == .joined)).foldl (fun a f => a ||| f.2.exec) 0

/-- Word `k` of four of a split record in the group record (R208). Its mode is 1 for serial and 0 otherwise, values that
the manual does not give (log 39). -/
def Group.splitWord (g : Group) (aside : Bool) (n k : Nat) : Word :=
  match (g.records aside)[n]? with
  | none => 0
  | some r =>
    match k with
    | 0 => r.join
    | 1 => r.lanes
    | 2 => g.parkedAt r
    | _ => if r.serial then 1 else 0

/-- Word `k` of a meld stack in the group record: region mask and saved `exec` of each level. -/
def Group.meldWord (g : Group) (aside : Bool) (k : Nat) : Word :=
  match (g.stack aside)[k / 2]? with
  | none => 0
  | some m => if k % 2 = 0 then m.region else m.saved

/-- The state word of a fragment: 0 running, 1 parked at a join, 2 waiting to start, 3 waiting in serial mode,
and bit 3 for a carousel entry. The numbers are the model's. -/
def Group.fragState (g : Group) (f : Frag) : Nat :=
  let serial := (g.recs f).any (fun r => r.serial && some r.id == f.split)
  (match f.st with
   | .running => 0
   | .joined => 1
   | .waiting => if serial then 3 else 2) + (if f.entry then 8 else 0)

/-- Word `k` of three of fragment `n` in the group record. -/
def Group.fragWord (g : Group) (n k : Nat) : Word :=
  match g.frags[n]? with
  | none => 0
  | some f =>
    match k with
    | 0 => f.2.pos.pc
    | 1 => f.2.exec
    | _ => BitVec.ofNat 64 (g.fragState f.2)

/-- Eight flag counters, one byte each. -/
def Group.flagWord (g : Group) (n : Nat) : Word :=
  BitVec.ofNat 64 ((List.range 8).foldl (fun a i =>
    a + (if n + i < 12 then g.flag (n + i) * 256 ^ i else 0)) 0)

/-- The word at 0x050 (R208). -/
def Group.bitsWord (g : Group) : Word :=
  let f := g.main.map (·.2)
  let b (x : Bool) (n : Nat) : Nat := if x then 2 ^ n else 0
  BitVec.ofNat 64
    ((List.range 8).foldl (fun a n => a + b (g.gpReg n) n) 0 + (g.stack false).length % 8 * 2 ^ 8 +
     g.floorOf false % 8 * 2 ^ 11 + b g.hnd.isSome 14 + b g.halted 15 +
     b (f.any Frag.isParked) 16 +
     b (g.frags.any (fun f => f.2.held.isSome)) 17 + (g.records false).length % 32 * 2 ^ 18 + b g.stopped 23 +
     b g.idle 24 + b g.wake 25 + b g.stepOn 26 + g.loops % 8 * 2 ^ 27)

/-- The barrier records LV and LP (R165, R208). -/
def Group.barWord (g : Group) : Word :=
  BitVec.ofNat 64 ((List.range 16).foldl (fun a n =>
    match AMap.find g.lp n with
    | none => a
    | some p => a + 4 ^ n + (if p then 2 * 4 ^ n else 0)) 0)

/-- The mask of the views a group holds. -/
def Group.holdWord (g : Group) : Word :=
  BitVec.ofNat 64 ((List.range 16).foldl (fun a n => if (AMap.find g.holds n).isSome then a + 2 ^ n else a) 0)

/-- One half of the origins of a view a group holds. -/
def Group.originWord (g : Group) (n k : Nat) : Word :=
  match AMap.find g.holds n with
  | none => 0
  | some o => if k = 0 then o.1 else o.2

/-- The trap words from 0x8C8 on: `%tvec` to `%hsa`, then the `mmlp` origins. -/
def Group.trapWord (g : Group) (k : Nat) : Word :=
  [g.tvec, g.tcause, g.tpc, g.tva, g.tlanes, g.tstat, g.hsa, g.loopA.1, g.loopA.2, g.loopB.1, g.loopB.2].getD k 0

/-- The word at a byte offset of the group record (R208). -/
def Group.record (g : Group) (off : Nat) : Word :=
  let f := g.main
  if off < 0x008 then (f.map (·.2.pos.pc)).getD 0
  else if off < 0x010 then (f.map (·.2.exec)).getD 0
  else if off < 0x018 then g.live
  else if off < 0x050 then g.pReg ((off - 0x018) / 8 + 1)
  else if off < 0x058 then g.bitsWord
  else if off < 0x068 then g.flagWord (off - 0x058)
  else if off < 0x088 then [g.gstat.zeroExtend 64, g.tarm.zeroExtend 64, g.evmask, g.evvec].getD ((off - 0x068) / 8) 0
  else if off < 0x0C8 then g.meldWord false ((off - 0x088) / 8)
  else if off < 0x2C8 then g.splitWord false ((off - 0x0C8) / 32) ((off - 0x0C8) / 8 % 4)
  else if off < 0x8C8 then g.fragWord ((off - 0x2C8) / 24) ((off - 0x2C8) / 8 % 3)
  else if off < 0x920 then g.trapWord ((off - 0x8C8) / 8)
  else if off < 0x960 then AMap.get 0 g.h ((off - 0x920) / 8)
  else if off < 0xA60 then g.originWord ((off - 0x960) / 16) ((off - 0x960) / 8 % 2)
  else if off < 0xA68 then g.holdWord
  else if off < 0xA70 then g.te.zeroExtend 64
  else if off < 0xA78 then g.barWord
  else if off < 0xA80 then
    BitVec.ofNat 64 ((g.stack true).length % 8 + g.floorOf true % 8 * 8 + (g.records true).length % 32 * 64)
  else if off < 0xAC0 then g.meldWord true ((off - 0xA80) / 8)
  else if off < 0xCC0 then g.splitWord true ((off - 0xAC0) / 32) ((off - 0xAC0) / 8 % 4)
  else if off < 0xEC0 then AMap.get 0 g.g ((off - 0xCC0) / 8)
  else if off < 0xEC8 then g.tnext
  else 0

/-! Team objects. -/

/-- The word at a byte offset of the team objects (R207): for each view eight words of its record and one with
the open bit, the scope and the holding groups; for each barrier PH, GRP, ENG and its counts; the grants; the
pending carve request. The order inside is the model's. -/
def State.teamWord (s : State) (core : Nat) (t : Team) (off : Nat) : Word :=
  let k := off / 8
  let n := k / 7
  if k < 112 then
    match AMap.find t.views n with
    | none => 0
    | some v =>
      let held := (t.groups.filter (fun g => (AMap.find g.2.holds n).isSome)).foldl (fun a g => a + 2 ^ g.1) 0
      [v.base, v.ctl, v.ext10, v.ext32, v.str10, v.str32,
       BitVec.ofNat 64 (1 + v.scope % 8 * 2 + held * 2 ^ 16)].getD (k % 7) 0
  else if k < 144 then
    match AMap.find t.bars ((k - 112) / 2) with
    | none => 0
    | some b =>
      if k % 2 = 0 then BitVec.ofNat 64 ((if b.ph then 1 else 0) + b.grp % 256 * 2 ^ 8 + b.eng % 2 ^ 12 * 2 ^ 16)
      else BitVec.ofNat 64 (b.arr.length % 256 + b.earr % 2 ^ 12 * 2 ^ 8 + b.held % 2 ^ 32 * 2 ^ 20)
  else if k < 152 then
    match AMap.find t.grants ((k - 144) / 2) with
    | none => 0
    | some g =>
      if k % 2 = 0 then BitVec.ofNat 64 (g.lo % 2 ^ 32 + g.len % 2 ^ 32 * 2 ^ 32)
      else BitVec.ofNat 64 (1 + (AMap.get 0 (s.core core).inst (t.slotOn core)).toNat * 2 ^ 32)
  else if k = 152 then
    match t.carve with
    | none => 0
    | some r => BitVec.ofNat 64 (r.regs * 2 ^ 8 + r.scr.getD 0xFF + 2 ^ 63)
  else 0

/-! The image. -/

/-- The words of the team header (R207). Their places inside are the model's (log 39). -/
def Team.headerWords (t : Team) : List Word :=
  let scr := t.scrForm.length
  [t.launch, t.idx, t.desc.width, t.regs, t.groups.length,
   granules t.groups.length t.regs t.desc.width + t.scrGran * 2 ^ 16, if t.desc.pair then 1 else 0,
   2048, 4096 * t.groups.length, t.tailForm.length - scr, scr].map (BitVec.ofNat 64)

/-- The image of a team (R207): the header, the team objects, the group records, the vector registers of each group and
the scratchpad. -/
def State.image (s : State) (t : Team) : List Byte :=
  let core := (t.place.map (·.core)).getD 0
  let words (n : Nat) (f : Nat → Word) : List Byte := (List.range n).flatMap (fun k => leBytes 8 (f k).toNat)
  words 32 (fun k => t.headerWords.getD k 0) ++ words 256 (fun k => s.teamWord core t (8 * k)) ++
  t.groups.flatMap (fun g => words 512 (fun k => g.2.record (8 * k))) ++ t.tailForm

/-- An image is written to its frame (R205): the bytes from an address on take its values. -/
def State.putFrame (s : State) (pa : Nat) (bs : List Byte) : State :=
  let cells : List Host.Cell := ((List.range bs.length).zip bs).map (fun b => (pa + b.1, b.2))
  let past := pa + bs.length
  { s with
    mem := s.mem.filter (fun c => decide (c.1 < pa)) ++ cells.filter (fun c => c.2 != 0) ++
      s.mem.filter (fun c => decide (past ≤ c.1))
    l2 := s.l2.filter (fun c => decide (c.1 < pa) || decide (past ≤ c.1)) }

end Sys2Proof.Machine
end

