-- ==== Sys2Proof/Machine/System.lean ====
section
/-! DEFINITION. Traps and fences (R197, R306), deferred and pending traps (R340, R195), debug breaks (R272),
paging (R307 to R309), `mark` (R298) and `sig` (R310). -/

namespace Sys2Proof.Machine

/-- `TRAP` (R197): Raises a SOFT cause with the immediate as detail. -/
def execTrap (f : SF) (s : State) : Host.Outcome State Fault Refusal :=
  s.issue (.trap f) (fun e s => .trap (e.trapOf (.soft (f.imm.extractLsb' 0 6))) s)

/-- `TFENCE` (R193): Trap fence that waits for earlier instructions and traps on armed sticky flags. -/
def execTfence (f : SF) (s : State) : Host.Outcome State Fault Refusal :=
  s.issue (.tfence f) (fun _ s => .done s)

/-- `BRK` (R272): Stops the group before effect with debug cause 0x14F. -/
def execBrk (f : SF) (s : State) : Host.Outcome State Fault Refusal :=
  s.issue (.brk f) (fun e s => .stop 0x14F (s.advance e))

/-- The word at `%tpc`, where it can be read. -/
def State.wordAt (s : State) (e : Env) (va : Word) : Option Word :=
  match s.fetch e va with | .ok w => some w | .error _ => none

/-- The words that R340 lists, by OPC. -/
def r340 (opc : Nat) : Bool := opc = 0x181 || opc = 0x184 || opc = 0x185 || (0x247 ≤ opc && opc ≤ 0x24B)

/-- `%tstat` is misused (R197, R306). -/
def State.badTstat (s : State) (e : Env) : Bool :=
  let g := e.gr
  let loop := bit g.tstat 2
  let defer := bit g.tstat 4
  let w := s.wordAt e g.tpc
  let opc := w.elim 0 (fun w => (opcOf w).toNat)
  bits g.tstat 31 5 != 0 ||
  (loop && (opc != 0x181 ||
    (w.any (fun w => decide ((g.gReg false (XF.unpack w).gp.toNat).toNat < bits g.tstat 63 32))))) ||
  (defer && !r340 opc)

/-- `trret` goes back to the trapping word, or to `%tpc` where the handler wrote it (R197). A trap at a header
has no word to execute again: the clause is tried again, and counts for R201. -/
def Group.trret (g : Group) (h : Handler) : Group :=
  if h.tpcWritten then g.leave h { pc := g.tpc } h.whole []
  else
    let (exec, pos, re) := h.back
    if h.word.cl.left = 0 then (g.leave h h.word exec re).modFrag h.frag.key (fun f => { f with retry := true })
    else
    let cont := h.contAt g pos
    let step := if bit g.tstat 2 then some (bits g.tstat 63 32) else none
    g.leave h h.word g.tlanes ({ exec := exec, cont := cont, step := step } :: re)

/-- `TRRET` (R197): Leaves the handler, restoring stacks and re-executing or continuing as the trap registers
state. -/
def execTrret (f : SF) (s : State) : Host.Outcome State Fault Refusal :=
  s.issue (.trret f) (fun e s =>
    match e.fr.inH, e.gr.hnd with
    | true, some h =>
      if s.badTstat e then .gone (s.doubleFault e h .badTstat)
      else if e.depth ≠ 0 then .gone (s.doubleFault e h .meldDepth)
      else if e.splits != [] then .gone (s.doubleFault e h .meldSplit)
      else if h.tpcWritten && !(e.gr.tpc.toNat % 8 == 0 && (s.wordAt e e.gr.tpc).any isHeader) then .gone (s.doubleFault e h .notHeader)
      else .gone (s.modGrp e.who (fun g => g.trret h))
    | _, _ => e.instr .trretOutside s)

/-! Deferred and pending traps. -/

/-- A fragment that can issue and is not at a word that has begun: one whose record waits for the hold, or one that is
parked on an absent line (R135, R235). -/
def Env.between (e : Env) : Bool := e.canIssue && !e.parked && e.fr.stall != some .post && e.fr.stall != some .line

/-- The first deferred fault due before a fragment's next issue (R340): its `exec` holds every lane of the
fault that is still live. -/
def Env.due (e : Env) : Option Deferred :=
  if e.between && !e.fr.inH then
    e.gr.deferred.find? (fun d => d.info.lanes &&& e.gr.live &&& ~~~e.fr.exec == 0)
  else none

/-- A fragment takes the deferred fault that is due (R340), once it is about to issue a word: it goes on from that
word, and its WAIT is not tested again. -/
def State.takeDeferred (s : State) (w : Sel) : State :=
  match s.envOf w with
  | none => s
  | some e =>
    match e.due, s.nextPlace e with
    | some d, some p =>
      let s1 := s.modGrp w (fun g => { g with deferred := g.deferred.erase d })
      let ti := { d.info with lanes := d.info.lanes &&& e.gr.live, next := p.pc }
      match s1.envOf w with
      | none => s1
      | some e1 => s1.takeTrap e1 ti { pc := d.info.pc, cl := d.cl } p
    | _, _ => s

/-- DEFERRED_FAULT_TAKEN (R340). -/
def execDeferredFaultTaken (who : Sel) (s : State) : Host.Outcome State Fault Refusal :=
  .next (s.takeDeferred who).tick

/-- A fragment enters the handler with the trap it holds, once no fragment of the group is in it (R195,
R204). -/
def State.enterPending (s : State) (w : Sel) : State :=
  match s.envOf w with
  | none => s
  | some e =>
    let ready := e.tm.place.isSome && !e.tm.stopping && !e.gr.ended && !e.gr.halted && !e.gr.stopped &&
      e.gr.hnd.isNone
    match e.fr.held with
    | some (ti, word, cont) =>
      if ready then
        let s1 := s.modFrag w (fun f => { f with held := none })
        match s1.envOf w with
        | none => s1
        | some e1 => s1.enterTrap e1 ti word cont
      else s
    | none => s

/-- PENDING_TRAP_ENTRY (R195). -/
def execPendingTrapEntry (who : Sel) (s : State) : Host.Outcome State Fault Refusal :=
  .next (s.enterPending who).tick

/-! Paging. -/

/-- The bytes of a PA range read zero, in memory and in L2 (R202, R307). -/
def State.zeroFrame (s : State) (pa n : Nat) : State :=
  let out (x : Nat × Byte) : Bool := !(decide (pa ≤ x.1) && decide (x.1 < pa + n))
  { s with mem := s.mem.filter out, l2 := s.l2.filter out }

/-- A free frame of a size: of a die first, then of the others in ascending order (R307). -/
def State.poolKey (s : State) (die sz : Nat) : Option Nat :=
  ((die :: (List.range 8).filter (· != die)).map (fun d => 2 * d + sz)).find? (fun k =>
    AMap.get [] s.pool k != [])

/-- The record of an empty pool (R202): the group is not halted. -/
def Env.emptyRecord (e : Env) : FRec :=
  haltRecord e.tm e.who e.gr Cause.poolEmpty.code (e.gr.tcause.toNat % 2 ^ 9)
    { cause := .poolEmpty, pc := e.gr.tpc, va := e.gr.tva, lanes := e.gr.tlanes, stat := e.gr.tstat }

/-- The word is done once its record has entered the hold (R235). -/
def State.posted (s : State) (e : Env) : Res :=
  if s.waiting.any (fun r => r.src == some e.who) then .wait .post s else .done s

/-- Host-assisted fault service, or no handler (R196, R202). -/
def Env.pagePriv (e : Env) : Bool := !e.fr.inH || !e.tm.fsHw

/-- `PGTK` (R307): Takes a zero-filled frame from the device-local pool, posting POOL_EMPTY when none is left.
-/
def execPgtk (f : SF) (s : State) : Host.Outcome State Fault Refusal :=
  s.issue (.pgtk f) (fun e s =>
    let p := (f.imm.extractLsb' 0 3).toNat
    let sz := (f.imm.extractLsb' 8 1).toNat
    if e.pagePriv then e.instr .priv s
    else if e.fr.stall == some .post then s.posted e
    else
      match s.poolKey (e.gr.core / 48) sz with
      | none =>
        ((s.modGrp e.who (fun g => (e.putG f.g.toNat 0 g).setGp p false)).post e.emptyRecord).posted e
      | some k =>
        let free := AMap.get [] s.pool k
        let i := Config.frameChoice s.fresh % free.length
        let frame := free.getD i 0
        let s1 := { s with pool := AMap.set [] s.pool k (free.eraseIdx i) }
        .done (((s1.zeroFrame frame.toNat (if sz = 0 then 2 ^ 16 else 2 ^ 21)).modGrp e.who (fun g =>
          (e.putG f.g.toNat frame g).setGp p true)).track e (.pgtk f) [] [] none (e.sbG f.g.toNat :: sbGp p)))

/-- The IA of a VA by the sluice windows and the target checks of R122 (R308). -/
def State.windowIa (s : State) (t : Team) (a : Word) : Except Miss Nat :=
  if !canonical a then .error (.noncanon, a)
  else
    match s.window t.ctx a.toNat with
    | none => .error (.windowMiss, a)
    | some w =>
      let ia := w.ia.toNat + (a.toNat - w.va.toNat)
      if bit w.ctl 3 then .error (if t.scrBytes ≤ ia then .scratchRange else .windowPerm, a)
      else
        match s.target8 { n := 1, rd := false, wr := false } ia with
        | some r => .error (r, a)
        | none => if regionOf ia != .dev then .error (.windowPerm, a) else .ok ia

/-- The controller writes a page-table entry. -/
def State.wrEntry (s : State) (pa : Nat) (x : Word) : State :=
  { s with mem := (List.range 8).foldl (fun m i => AMap.set 0 m (pa + i) (x.extractLsb' (8 * i) 8)) s.mem
           l2 := (List.range 8).foldl (fun m i => AMap.erase m (pa + i)) s.l2 }

/-- A group writes the entries of these pages with `pgmap`: a walk already under way may still use what they held
before, an invalid entry too (R202, R308). -/
def State.goStale (s old : State) (w : Sel) (pages : List Nat) : State :=
  { s with stale := pages.foldl (old.holdStale (some (w.tid, w.grp)) (fun _ => true)) s.stale }

/-- `PGMAP` (R308): Writes a page-table leaf entry and removes the page from every indirection table. -/
def execPgmap (f : SF) (s : State) : Host.Outcome State Fault Refusal :=
  s.issue (.pgmap f) (fun e s =>
    let rE := (f.imm.extractLsb' 0 6).toNat
    let x := e.g rE
    if e.pagePriv then e.instr .priv s
    else
      match s.windowIa e.tm (e.g f.g.toNat) with
      | .error m => .trap (e.memTrap .engine m) s
      | .ok ia =>
        let top := BitVec.ofNat 64 (s.rdNat (s.topPa ia) 8)
        let isTop := bit x 1
        if !bit x 0 && x &&& ~~~0x2 != 0 then e.instr .reservedField s
        else if bit x 0 && (leafOf isTop x).isNone then e.instr .reservedField s
        else if !isTop && !(bit top 0 && !bit top 1) then e.instr .reservedField s
        else
          let pa := if isTop then s.topPa ia else secondPa (bits top 39 8 * 2 ^ 8) ia
          let old := BitVec.ofNat 64 (s.rdNat pa 8)
          if f.imm.getLsbD 8 && bit old 0 then
            .done ((s.modGrp e.who (e.putG rE old)).track e (.pgmap f) [] [] none [e.sbG rE])
          else
            let p := ia / 2 ^ 16
            let pages := if isTop then (List.range 32).map (p / 32 * 32 + ·) else [p]
            .done ((((s.wrEntry pa x).goStale s e.who pages).modGrp e.who (e.putG rE x)).track e (.pgmap f) [] [] none
              [e.sbG rE]))

/-- A stale copy that a group's `ptsync` drops: of an entry that the group has written, or that the host or the firmware
has, who have no `ptsync` of their own (R128, R202, R309). -/
def Stale.drops (x : Stale) (w : Sel) : Bool := x.writers.contains (some (w.tid, w.grp)) || x.writers.contains none

/-- A `pgmap` of the group is in flight. -/
def State.mapping (s : State) (e : Env) : Bool :=
  (s.core e.gr.core).ops.any (fun o => o.2.of e.who && o.2.opc == 0x3C7)

/-- `PTSYNC` (R309): Waits until every walker has dropped stale copies of the group's written entries. It waits for the
group's earlier `pgmap`s, and once more where a walker still holds a copy that it is to drop (log 56). Its flag
falls at the same moment, so that it is never seen raised. -/
def execPtsync (f : MF) (s : State) : Host.Outcome State Fault Refusal :=
  s.issue (.ptsync f) (fun e s =>
    if !e.fr.inH then e.instr .priv s
    else if s.mapping e || (e.fr.stall != some .sync && s.stale.any (fun x => x.2.drops e.who)) then .wait .sync s
    else .done { s with stale := s.stale.filter (fun x => !x.2.drops e.who) })

/-! Marks and signals. -/

/-- `MARK` (R298): Emits a trace mark record at commit. -/
def execMark (f : SF) (s : State) : Host.Outcome State Fault Refusal :=
  s.issue (.mark f) (fun e s =>
    .done (s.emit e.gr.core [34] (some (e.trec 0x0B
      [e.g f.g.toNat, (f.imm.extractLsb' 0 16).zeroExtend 64, e.pc]))))

/-- The record of a `sig` (R310). -/
def Env.sigRecord (e : Env) (n : Nat) (x : Word) : FRec :=
  let h (a b : Word) : Word := if e.fr.inH then a else b
  { words :=
      [BitVec.ofNat 64 ((h e.gr.tcause 0).toNat % 2 ^ 9 + 2 ^ 15 + n * 2 ^ 16 + e.tm.launch % 2 ^ 32 * 2 ^ 32),
       h e.gr.tpc e.pc, h e.gr.tva 0, h e.gr.tlanes e.fr.exec,
       placeWord e.gr.core e.gr.slice e.who.grp e.tm.idx, h e.gr.tstat 0, x, 0],
    src := some e.who }

/-- `SIG` (R310): Releases at .sys and posts a record to the host fault queue. -/
def execSig (f : SF) (s : State) : Host.Outcome State Fault Refusal :=
  s.issue (.sig f) (fun e s =>
    if e.fr.stall == some .post then s.posted e
    else
      ((s.drainStores e.gr.core e.who).post (e.sigRecord (f.imm.extractLsb' 0 6).toNat (e.g f.g.toNat))).posted e)

end Sys2Proof.Machine
end

