-- ==== Sys2Proof/Machine/Launch.lean ====
section
/-! DEFINITION. Launch queues (R172 to R177), the distributor (R178 to R181, R242), the start and the end of
teams and launches (R46 to R49), pre-emption and resumption (R205 to R209), and carves taking effect (R45). -/

namespace Sys2Proof.Machine

/-! Device memory by IA, as the host and the distributor reach it. -/

/-- The key behind a byte of device memory by the tables and the format windows as they stand, where its page
permits the access (R127, R233). -/
def State.iaKey (s : State) (wr : Bool) (ia : Nat) : Option Nat :=
  let acc : Acc := { n := 1, rd := !wr, wr := wr }
  if 2 ^ 40 ≤ ia then none
  else
    match s.aperture ia with
    | some f => match s.aperPages acc f ia with | .ok _ => some (ia + aperBase) | .error _ => none
    | none => match s.pageByte acc ia with | .ok k => some k | .error _ => none

/-- `n` bytes of device memory from an IA, or none where one cannot be read. -/
def State.iaRead (s : State) (ia : Nat) : Nat → Option (List Byte)
  | 0 => some []
  | n + 1 =>
    match s.iaRead ia n, s.iaKey false (ia + n) with
    | some bs, some k => some (bs ++ [s.rdKey k])
    | _, _ => none

/-- One of `n` bytes from an IA is data that ECC cannot correct (R131). -/
def State.iaBad (s : State) (ia n : Nat) : Bool :=
  (List.range n).any (fun i => (s.iaKey false (ia + i)).any s.keyBad)

/-- Bytes are written to device memory from an IA upward; one that cannot be written is dropped. -/
def State.iaWrite (s : State) (ia : Nat) (bs : List Byte) : State :=
  (bs.zip (List.range bs.length)).foldl (fun s b =>
    match s.iaKey true (ia + b.2) with
    | some k => s.wrKey k b.1
    | none => s) (s.recall none ((List.range bs.length).filterMap (fun i => s.iaKey true (ia + i))))

/-- Bytes as 8-byte words. -/
def wordsOf (bs : List Byte) : List Word :=
  (List.range (bs.length / 8)).map (fun i => BitVec.ofNat 64 (leVal ((bs.drop (8 * i)).take 8)))

/-! Launch records. -/

/-- A launch record keeps R174. -/
def recOk (r : List Word) : Bool :=
  let w (i : Nat) : Word := r.getD i 0
  let tx := bits (w 1) 31 0
  let ty := bits (w 1) 63 32
  let tz := bits (w 2) 31 0
  (w 0).toNat % 64 == 0 && tx != 0 && ty != 0 && tz != 0 && decide (tx * ty * tz ≤ 2 ^ 31) &&
  !bit (w 2) 35 && decide (bits (w 2) 40 36 ≤ 16) && bits (w 2) 63 43 == 0 && (w 3).toNat % 8 == 0 &&
  bits (w 4) 31 12 == 0 && bits (w 4) 63 44 == 0 && w 7 == 0

/-- The launch that a record of queue `q` at count `head` describes (R174). -/
def launchOf (q : Nat) (qu : Queue) (r : List Word) : Launch :=
  let w (i : Nat) : Word := r.getD i 0
  { q := q, qhead := qu.head.toNat, tx := bits (w 1) 31 0, ty := bits (w 1) 63 32, tz := bits (w 2) 31 0,
    prio := min (bits (w 2) 34 32) qu.qprio, wen := bit (w 2) 41, wctr := bits (w 4) 11 0, wval := w 5,
    sen := bit (w 2) 42, sctr := bits (w 4) 43 32, sadd := w 6 }

/-- Its teams. -/
def Launch.total (l : Launch) : Nat := l.tx * l.ty * l.tz

/-- `%launch` of the record at a count of a queue (R174). -/
def lidOf (q : Nat) (head : BitVec 32) : Nat := head.toNat % 2 ^ 24 * 256 + q

/-- A kernel descriptor, where it keeps R257 and the limits of R14. -/
def descOf (d : List Word) : Option Desc :=
  let w (i : Nat) : Word := d.getD i 0
  let width := bits (w 1) 7 0
  let regs := bits (w 1) 16 8
  let team := bits (w 1) 22 17
  let pair := bit (w 1) 23
  let prog := bits (w 1) 25 24
  let views := bits (w 1) 30 26
  let bars := bits (w 1) 35 31
  let scr := (w 2).toNat
  let ok :=
    (width == 16 || width == 32 || width == 64) && decide (8 ≤ regs) && decide (regs ≤ 256) && regs % 8 == 0 &&
    decide (1 ≤ team) && decide (team ≤ 48) && decide (team * width ≤ 2048) && prog != 3 && decide (views ≤ 16) &&
    decide (bars ≤ 16) && bits (w 1) 63 36 == 0 && decide (scr ≤ if pair then 2 ^ 21 else 2 ^ 20) &&
    decide ((w 5).toNat ≤ 64) && (w 6).toNat % 512 == 0 && bits (w 7) 63 32 == 0
  if ok then some
    { entry := w 0, width := width, regs := regs, team := team, pair := pair, prog := prog, views := views,
      bars := bars, scr := scr, handler := w 3, ptt := w 4, ptn := (w 5).toNat, hsa := w 6,
      hsan := (w 7).toNat }
  else none

/-- `n` words at a VA of launch context `q`, as the distributor reads them (R173). -/
def State.ctxRead (s : State) (q : Nat) (va : Word) : Nat → Option (List Word)
  | 0 => some []
  | n + 1 =>
    match s.access { ctx := q } { n := 8, rd := true, wr := false } va with
    | .error _ => none
    | .ok p =>
      match s.ctxRead q (va + 8) n with
      | none => none
      | some ws => some (BitVec.ofNat 64 (leVal (s.peek 0 p 8)) :: ws)

/-! What a core holds. -/

/-- Scratchpad granules of a team on each of its cores (R41, R42). How the halves of a pair round is not stated; each is
rounded up (log 66). -/
def Desc.scrGran (d : Desc) : Nat :=
  if d.pair then ((d.scr + 1) / 2 + 16383) / 16384 else (d.scr + 16383) / 16384

/-- Groups of a team on its first core and on the second one of a pair. -/
def Desc.split (d : Desc) : List Nat := if d.pair then [(d.team + 1) / 2, d.team / 2] else [d.team]

/-- The team of a group index: 0 on the lower core, 1 on the upper. -/
def Desc.half (d : Desc) (grp : Nat) : Nat := if d.pair && decide ((d.team + 1) / 2 ≤ grp) then 1 else 0

/-- Group slots of a core for `n` groups of a width of one launch, in halves (R20, R26). -/
def coreHolds (width n : Nat) : Bool :=
  decide (n ≤ if width = 16 then 192 else if width = 32 then 96 else 48)

/-- `n` teams fit an empty core or pair (R180). -/
def Desc.holds (d : Desc) (n : Nat) : Bool :=
  decide (n ≤ 48) && decide (n * d.views ≤ 32) &&
  d.split.all (fun k =>
    let reg := granules k d.regs d.width
    coreHolds d.width (n * k) && roomFor {} (.of (n * reg) (n * d.scrGran)))

/-- How many teams an empty core or pair holds. -/
def Desc.capacity (d : Desc) : Nat := ((List.range 48).filter (fun n => d.holds (n + 1))).length

/-- The places that could take a team: cores, or the lower cores of pairs. -/
def Desc.spots (d : Desc) : List Nat :=
  if d.pair then (List.range 192).map (2 * ·) else List.range 384

/-- The cores of a place. -/
def Desc.coresAt (d : Desc) (c : Nat) : List Nat := if d.pair then [c, c + 1] else [c]

/-- Places none of whose cores is quarantined. -/
def State.sound (s : State) (d : Desc) : List Nat :=
  d.spots.filter (fun c => (d.coresAt c).all (fun k => !(s.core k).quar))

/-- The sound cores of an otherwise empty module hold `n` teams of a launch (R49, R175). -/
def State.couldHold (s : State) (l : Launch) (n : Nat) : Bool :=
  decide (n ≤ (s.sound l.desc).length * l.desc.capacity)

/-- What a core holds of teams: their slots, views and group slots, and their granules. -/
structure CoreLoad where
  teams : Nat := 0
  views : Nat := 0
  groups : Nat := 0
  gran : Gran := {}
  deriving DecidableEq, Repr

/-- Two loads of a core together. -/
def CoreLoad.add (a b : CoreLoad) : CoreLoad :=
  { teams := a.teams + b.teams, views := a.views + b.views, groups := a.groups + b.groups, gran := a.gran.add b.gran }

/-- An otherwise empty core holds a load of teams of a width (R180). -/
def CoreLoad.ok (width : Nat) (a : CoreLoad) : Bool :=
  decide (a.teams ≤ 48) && decide (a.views ≤ 32) && coreHolds width a.groups && roomFor {} a.gran

/-- What a team asks of each core of its place, with the carve that it stands at and those granted to it (R44, R46). -/
def Team.load (t : Team) : List CoreLoad :=
  (List.range (t.desc.coresAt 0).length).map (fun k =>
    let mine := t.groups.filter (fun g => t.desc.half g.1 == k)
    { teams := 1, views := t.desc.views, groups := mine.length
      gran := t.need (mine.filter (fun g => !g.2.ended)).length })

/-- Teams of a width fit together into places that hold loads already. -/
def packs (width : Nat) : List (List CoreLoad) → List (List CoreLoad) → Bool
  | [], _ => true
  | t :: ts, ps => ps.eraseDups.any (fun p =>
      let q := List.zipWith CoreLoad.add p t
      q.all (CoreLoad.ok width) && packs width ts (q :: ps.erase p))

/-- The sound cores of an otherwise empty module hold all that is left of a launch: its teams as their carves stand, or
before it starts all that it asks for (R49, R175). -/
def State.stillHolds (s : State) (lid : Nat) (l : Launch) : Bool :=
  if l.started = 0 then s.couldHold l l.total
  else packs l.desc.width ((s.teams.filter (fun t => t.2.lid == lid)).map (fun t => t.2.load))
    ((s.sound l.desc).map (fun c => (l.desc.coresAt c).map (fun _ => {})))

/-! Queues. -/

/-- A queue fails a record (R175). -/
def State.failQueue (s : State) (q : Nat) (reason : Nat) (head : BitVec 32) : State :=
  s.raised (s.modQueue q (fun u =>
    { u with err := true, reason := BitVec.ofNat 8 reason, errHead := head }))

/-- The launch that the record at QHEAD describes, or the reason it fails (R175). -/
def State.readLaunch (s : State) (q : Nat) (u : Queue) : Except Nat Launch :=
  let ia := u.base.toNat + 64 * (u.head.toNat % 2 ^ u.size)
  match s.iaRead ia 64 with
  | none => .error 5
  | some bs =>
    let r := wordsOf bs
    if s.iaBad ia 64 then .error 5
    else if !recOk r then .error 1
    else
      let l := launchOf q u r
      match s.ctxRead q (r.getD 0 0) 8 with
      | none => .error 5
      | some d =>
        match descOf d with
        | none => .error 2
        | some d =>
          match s.ctxRead q (r.getD 3 0) (bits (r.getD 2 0) 40 36) with
          | none => .error 5
          | some args =>
            let l1 := { l with desc := d, args := args }
            if d.prog = 2 && !s.couldHold l1 l1.total then .error 3
            else if !d.holds 1 || (s.sound d).isEmpty then .error 7
            else .ok l1

/-- The module admits work: it runs, and no alarm of level 2 or 3 stands (R238, R240). -/
def State.open (s : State) : Bool := s.start.phase == .running && decide (s.start.alLevel < 2)

/-- A queue's record can be taken (R173 to R175). -/
def State.takeable (s : State) (q : Nat) : Bool :=
  let u := s.queue q
  s.open && u.en && !u.err && u.head != u.tail &&
  s.launches.all (fun l => l.2.q != q || l.2.started == l.2.total) &&
  (AMap.find s.launches (lidOf q u.head)).isNone

/-- The distributor takes the record at QHEAD (R175). -/
def State.takeLaunch (s : State) (q : Nat) : State :=
  if !s.takeable q then s
  else
    let u := s.queue q
    let lid := lidOf q u.head
    let s1 := s.modQueue q (fun u => { u with head := u.head + 1, last := lid })
    match s.readLaunch q u with
    | .error r => s1.failQueue q r u.head
    | .ok l => { s1 with launches := AMap.insert s1.launches lid l }

/-- LAUNCH_TAKE (R175). -/
def execLaunchTake (q : Nat) (s : State) : Host.Outcome State Fault Refusal := .next (s.takeLaunch q).tick

/-- A queue takes a record from device code (R177). -/
def Queue.takesDev (u : Queue) : Bool := u.en && u.dev && decide ((u.tail - u.head).toNat < 2 ^ u.size)

/-- `LNCH` (R177): Writes a launch record into a device-fed queue after a release at .mod scope. -/
def execLnch (f : CF) (s : State) : Host.Outcome State Fault Refusal :=
  s.issue (.lnch f) (fun e s =>
    let a := e.g (f.aux.extractLsb' 0 6).toNat
    let q := (f.aux.extractLsb' 6 6).toNat
    let d := (f.aux.extractLsb' 12 3).toNat
    if a.toNat % 64 ≠ 0 then .trap (e.memTrap .load (.misalign, a)) s
    else
      match s.access e.tm { n := 64, rd := true, wr := false, noIo := true, feet := s.feet e .load } a with
      | .error m => .trap (e.memTrap .load m) s
      | .ok p =>
        if (match p with | .scr o => e.tm.absentAt o 64 | _ => false) then .wait .line s
        else
          let (bs, s1) := s.load e.who e.gr.core false p 64
          let s2 := s1.modGrp e.who (fun g => g.setGp d false)
          let u := s2.queue q
          if !u.takesDev || !recOk (wordsOf bs) then .done s2
          else
            let s3 := (s2.drainStores e.gr.core e.who).iaWrite (u.base.toNat + 64 * (u.tail.toNat % 2 ^ u.size)) bs
            .done ((s3.modQueue q (fun u => { u with tail := u.tail + 1 })).modGrp e.who (fun g => g.setGp d true)))

/-! Placement. -/

/-- Group slots in use on a slice, in halves, for the teams `ts` (R26, R180): a width-16 group of a launch
shares a slot with another. Two that are left alone in their slots count as a pair again (log 66). -/
def sliceHalves (ts : List Team) (core slice : Nat) : Nat :=
  let here (t : Team) : Nat := (t.groups.filter (fun g => g.2.core == core && g.2.slice == slice)).length
  let wide := ts.foldl (fun a t =>
    a + (if t.desc.width = 64 then 4 * here t else if t.desc.width = 32 then 2 * here t else 0)) 0
  let narrow := ts.filter (fun t => t.desc.width == 16)
  let lids := (narrow.map (·.lid)).eraseDups
  wide + lids.foldl (fun a l =>
    a + ((narrow.filter (fun t => t.lid == l)).foldl (fun n t => n + here t) 0 + 1) / 2 * 2) 0

/-- The groups of `t` numbered in `ns` take slices of a core, each the first with room after a free start. -/
def seatGroups (s : State) (others : List Team) (core : Nat) : List Nat → Team → Option Team
  | [], t => some t
  | n :: ns, t =>
    let k := Config.placement s.fresh n
    let seat (sl : Nat) : Team := t.modGrp n (fun g => { g with core := core, slice := sl })
    let slices := (List.range 6).map (fun i => (k + i) % 6)
    match slices.find? (fun sl => !((s.core core).slice sl).pend &&
        decide (sliceHalves (others ++ [seat sl]) core sl ≤ 32)) with
    | none => none
    | some sl => seatGroups s others core ns (seat sl)

/-- The die's clock bin is not about to change (R237). -/
def State.dieOpen (s : State) (c : Nat) : Bool := !(AMap.get {} s.dies (c / 48) : DieClk).pend

/-- A free team slot of a core with the teams `ts`. -/
def freeSlot (s : State) (core : Nat) (ts : List Team) : Option Nat :=
  let free := (List.range 48).filter (fun n => ts.all (fun t => t.slotOn core != n))
  if free.isEmpty then none else some (free.getD (Config.placement s.fresh (100 + core) % free.length) 0)

/-- A team is placed at a core or pair that it fits with the teams `out` gone (R180), with its slots and
slices. -/
def State.seat (s : State) (t : Team) (c : Nat) (out : List Nat) : Option Team :=
  let d := t.desc
  let cores := d.coresAt c
  let others (k : Nat) : List Team := ((s.resident k).filter (fun x => !out.contains x.1)).map (·.2)
  let live (k : Nat) : Nat := (t.groups.filter (fun g => !g.2.ended && d.half g.1 == k)).length
  let fits (k : Nat) : Bool :=
    let core := c + k
    !(s.core core).quar && s.dieOpen core && (others core).length < 48 &&
    decide ((others core).foldl (fun a x => a + x.desc.views) d.views ≤ 32) &&
    roomFor (s.owned core out) (t.need (live k))
  if !d.spots.contains c || !(List.range cores.length).all fits then none
  else
    match freeSlot s c (others c), freeSlot s (c + 1) (if d.pair then others (c + 1) else []) with
    | some a, some b =>
      let at_ (k : Nat) : List Nat := (t.groups.filter (fun g => d.half g.1 == k)).map (·.1)
      let t0 := { t with place := some { core := c, slot := a, slot2 := if d.pair then b else 0 },
                         groups := AMap.mapVal t.groups (fun _ g => { g with core := 0x1000, slice := 0 }) }
      match seatGroups s (others c) c (at_ 0) t0 with
      | none => none
      | some t1 => if d.pair then seatGroups s (others (c + 1)) (c + 1) (at_ 1) t1 else some t1
    | _, _ => none

/-- Placement may use a core: with host-assisted placement only those of PLMASK (R234, R242). -/
def State.maskOk (s : State) (host : Bool) (d : Desc) (c : Nat) : Bool :=
  !host || (d.coresAt c).all (fun k => bit (AMap.get (BitVec.allOnes 64) s.host.plmask (k / 64)) (k % 64))

/-- The placement of a team that is asked for at core `c`: any fitting core, or with host-assisted placement
the lowest-numbered one (R242). -/
def State.spot (s : State) (host : Bool) (t : Team) (c : Nat) : Option Team :=
  if host then ((t.desc.spots.filter (s.maskOk true t.desc))).findSome? (fun c => s.seat t c [])
  else s.seat t c []

/-- A team fits some core now. -/
def State.fitsNow (s : State) (host : Bool) (t : Team) : Bool :=
  t.desc.spots.any (fun c => s.maskOk host t.desc c && (s.seat t c []).isSome)

/-! Teams at their start. -/

/-- `%hsa` at group start (R257). -/
def Desc.hsaAt (d : Desc) (team grp : Nat) : Word :=
  let i := team * d.team + grp
  if d.hsa = 0 then 0
  else d.hsa + BitVec.ofNat 64 (512 * (if d.hsan = 0 then i else i % d.hsan))

/-- A group at its start (R27, R257): the arguments in g0 upward, its one fragment at ENTRY. -/
def groupStart (l : Launch) (team grp : Nat) : Group :=
  let d := l.desc
  { g := (l.args.zip (List.range l.args.length)).foldl (fun m a => AMap.set 0 m a.2 a.1) []
    live := widthMask d.width
    frags := [(0, { key := 0, pos := { pc := d.entry }, exec := widthMask d.width })]
    tvec := d.handler
    hsa := d.hsaAt team grp }

/-- Team `idx` of a launch at its start (R40, R48, R257), not yet placed. -/
def teamStart (lid : Nat) (l : Launch) (idx age : Nat) (dbg : Bool) : Team :=
  let d := l.desc
  { lid := lid, desc := d, ctx := l.q, prio := l.prio, idx := idx, x := idx % l.tx, y := idx / l.tx % l.ty,
    z := idx / l.tx / l.ty, age := age
    groups := (List.range d.team).map (fun n => (n, groupStart l idx n))
    regs := d.regs, scrGran := d.scrGran
    bars := (List.range d.bars).map (fun n => (n, { grp := d.team }))
    dbgBit := dbg, fsHw := l.fsHw, trcBuf := l.trcBuf }

/-- The index of the team that a launch starts next (R179). -/
def State.nextIdx (s : State) (l : Launch) : Nat :=
  if l.desc.prog = 0 then
    let k := Config.teamChoice s.fresh
    (((List.range (l.begun.length + 1)).map (fun i => (k + i) % l.total)).find? (fun i => !l.begun.contains i)).getD 0
  else l.started

/-- The launch as its first team finds the modes (R242). -/
def State.moded (s : State) (l : Launch) : Launch :=
  if l.started = 0 then
    { l with place := s.host.place, fsHw := bit s.host.fsmode l.q, trcBuf := s.host.trcBuf
             hwCores := (s.cores.filter (fun c => c.2.hw)).map (·.1) }
  else l

/-- A placed team takes its cores: each slot counts an admission (R136), a resumption too (log 25), and L1 is invalidated
whole on a core that the launch comes to first (R176), else where its granules go (R42). -/
def State.takeCores (s : State) (t : Team) (whole : Nat → Bool) : State :=
  t.cores.foldl (fun s c => s.modCore c (fun k =>
    { (if whole c then { k with l1 := [] } else k.l1Shrink s.fresh (t.using c)) with
      inst := AMap.set 0 k.inst (t.slotOn c) (AMap.get 0 k.inst (t.slotOn c) + 1) })) s

/-- A team of a launch with the margin modes that its cores have for the launch (R242). -/
def Launch.marginModes (l : Launch) (t : Team) : Team :=
  match t.place with
  | none => t
  | some p => { t with mgnHw := (l.hwCores.contains p.core, l.hwCores.contains (p.core + 1)) }

/-- The next team of a launch starts at a place (R178, R179), under the modes of the launch (R242). -/
def State.startTeam (s : State) (lid : Nat) (l : Launch) (idx : Nat) (t : Team) : State :=
  let s1 := s.takeCores t (fun c => !l.fresh.contains c)
  { s1 with
    teams := AMap.insert s1.teams s.nextTid (l.marginModes t)
    nextTid := s.nextTid + 1
    launches := AMap.insert s1.launches lid
      { l with started := l.started + 1, begun := if l.desc.prog = 0 then idx :: l.begun else []
               fresh := (l.fresh ++ t.cores).eraseDups } }

/-! The distributor. -/

/-- A launch is eligible (R178): its wait is met and a team has not started. The wait is tested at each admission, so a
counter that the host lowers again stops the teams that are left (log 50). -/
def State.eligible (s : State) (l : Launch) : Bool :=
  decide (l.started < l.total) && (!l.wen || decide (l.wval.toNat ≤ (AMap.get 0 s.ectr l.wctr).toNat))

/-- The team that a launch would start next. -/
def State.nextTeam (s : State) (lid : Nat) (l : Launch) : Team :=
  let l := s.moded l
  teamStart lid l (s.nextIdx l) s.nextTid (Config.debugBit s.nextTid)

/-- The saved or stopping teams of a launch. -/
def State.away (s : State) (lid : Nat) : List (Nat × Team) :=
  s.teams.filter (fun t => t.2.lid == lid && (t.2.place.isNone || t.2.stopping))

/-- All teams of a concurrent launch start at once, over the places from the front of a list (R179). -/
def State.startAll (lid : Nat) : Nat → List Nat → State → Option State
  | 0, _, _ => none
  | _, [], _ => none
  | n + 1, c :: cs, s =>
    match AMap.find s.launches lid with
    | none => none
    | some l0 =>
      let l := s.moded l0
      if l.started = l.total then some s
      else
        match s.seat (s.nextTeam lid l) c [] with
        | some t =>
          let s1 := s.startTeam lid l (s.nextIdx l) t
          if l.started + 1 = l.total then some s1 else State.startAll lid n (c :: cs) s1
        | none => State.startAll lid n cs s

/-- The places for a launch, from `c` on, or with host-assisted placement from the lowest (R242). -/
def State.spotsFrom (s : State) (l : Launch) (c : Nat) : List Nat :=
  let xs := l.desc.spots.filter (s.maskOk l.place l.desc)
  if l.place then xs else xs.filter (fun x => decide (c ≤ x)) ++ xs.filter (fun x => decide (x < c))

/-- The launch could start now what it must start at once (R179). -/
def State.placeable (s : State) (lid : Nat) (l0 : Launch) : Bool :=
  let l := s.moded l0
  if l.desc.prog = 2 then (State.startAll lid (l.total + 400) (s.spotsFrom l 0) s).isSome
  else s.fitsNow l.place (s.nextTeam lid l)

/-- A concurrent launch waits for space (R179): it is eligible and does not fit, or a quarantine has
pre-empted teams of it that have not resumed. -/
def State.waitsForSpace (s : State) (lid : Nat) (l : Launch) : Bool :=
  l.desc.prog == 2 &&
  ((s.eligible l && !s.placeable lid l) || (s.away lid).any (fun t => t.2.why == 5))

/-- A waiting concurrent launch keeps back admissions of a priority (R179). -/
def State.heldBack (s : State) (lid prio : Nat) : Bool :=
  s.launches.any (fun l => l.1 != lid && decide (prio ≤ l.2.prio) && s.waitsForSpace l.1 l.2)

/-- The place of a queue in the round after the queue served last (R178). -/
def State.round (s : State) (q : Nat) : Nat := (q + 64 - (s.rr + 1) % 64) % 64

/-- The pre-empted teams of a concurrent launch resume in ascending `%team` (R179). -/
def State.resumesNext (s : State) (tid : Nat) (t : Team) : Bool :=
  t.desc.prog != 2 || t.why != 5 ||
  s.teams.all (fun u => u.1 == tid || u.2.lid != t.lid || (u.2.place.isSome && !u.2.stopping) || u.2.why != 5 ||
    decide (t.idx < u.2.idx))

/-- Host-assisted placement holds for the launch of a team (R242). -/
def State.hostPlaced (s : State) (t : Team) : Bool :=
  match AMap.find s.launches t.lid with | none => false | some l => l.place

/-- A saved team may return as far as its own launch and waiting concurrent launches let it (R179). -/
def State.mayReturn (s : State) (tid : Nat) (t : Team) : Bool :=
  t.place.isNone && s.resumesNext tid t && !(t.desc.prog == 0 && s.heldBack t.lid t.prio)

/-- A launch has something that could be placed now: a pre-empted team, which returns ahead of its unstarted ones, or
else its next team (R178). -/
def State.serveable (s : State) (lid : Nat) (l : Launch) : Bool :=
  if (s.away lid).isEmpty then !s.heldBack lid l.prio && s.placeable lid l
  else (s.away lid).any (fun t => s.mayReturn t.1 t.2 && s.fitsNow (s.hostPlaced t.2) t.2)

/-- Another launch is served first (R178): an eligible one of higher priority, or of the same and earlier in the round,
with something that could be placed now. -/
def State.servedFirst (s : State) (lid : Nat) (l : Launch) : Bool :=
  s.launches.any (fun m => m.1 != lid && s.eligible m.2 &&
    (decide (l.prio < m.2.prio) || (m.2.prio == l.prio && decide (s.round m.2.q < s.round l.q))) &&
    s.serveable m.1 m.2)

/-- Once the pre-emptions under way are done, a team fits a place at which they take one: nothing more needs to leave
for it (R181). -/
def State.makesRoom (s : State) (host : Bool) (t : Team) : Bool :=
  t.desc.spots.any (fun c =>
    let out := s.leaving (t.desc.coresAt c)
    out != [] && s.maskOk host t.desc c && (s.seat t c out).isSome)

/-- The weakly parallel teams that a launch may pre-empt at a place until its next team fits (R181, R206), beside those
that are leaving it already: none where that team will fit somewhere without. -/
def State.victims (s : State) (host : Bool) (t : Team) (c : Nat) : Option (List Nat) :=
  let cores := t.desc.coresAt c
  if s.makesRoom host t then none
  else victimsFrom (fun out => (s.seat t c (s.leaving cores ++ out)).isSome) []
    (s.savable (s.weakTeams cores s.nextTid (some t.prio)))

/-- The distributor admits the next team of a launch at a core, or all teams of a concurrent launch from that
core on, or pre-empts for it (R178 to R181). -/
def State.admitTeam (s : State) (lid c : Nat) : State :=
  match AMap.find s.launches lid with
  | none => s
  | some l0 =>
    let l := s.moded l0
    if !s.open || !s.eligible l || !(s.away lid).isEmpty || s.heldBack lid l.prio || s.servedFirst lid l then s
    else
      let t := s.nextTeam lid l
      let served (s : State) : State := { s with rr := l.q }
      if s.placeable lid l0 then
        if l.desc.prog = 2 then
          ((State.startAll lid (l.total + 400) (s.spotsFrom l c) s).map served).getD s
        else
          match s.spot l.place t c with
          | some t1 => served (s.startTeam lid l (s.nextIdx l) t1)
          | none => s
      else if s.maskOk l.place l.desc c then
        match s.victims l.place t c with
        | some out => out.foldl (fun s v => s.stopTeam 2 v) s
        | none => s
      else s

/-- TEAM_ADMISSION (R179). -/
def execTeamAdmission (lid core : Nat) (s : State) : Host.Outcome State Fault Refusal :=
  .next (s.admitTeam lid core).tick

/-! The end of teams and launches. -/

/-- Commands, loops and pipe jobs of a team are in flight on its cores. -/
def State.busyTeam (s : State) (tid : Nat) (t : Team) : Bool :=
  t.cores.any (fun c => (s.core c).cmds.any (fun m => m.2.who.tid == tid) ||
    (s.core c).loops.any (fun l => l.2.who.tid == tid) ||
    (s.core c).pipes.any (fun p => p.2.any (fun j => j.who.tid == tid)))

/-- Every operation of a team completes, and the stores that its groups have read from are performed. -/
def State.completeTeam (s : State) (tid : Nat) (t : Team) : State :=
  t.groups.foldl (fun s g =>
    let w : Sel := { tid := tid, grp := g.1, frag := 0 }
    (s.completeOps g.2.core w).drainStores g.2.core w) s

/-- The offset falls, and the core issues nothing until the supply has risen (R217, R221). -/
def Core.lower (c : Core) (ofs : Nat) : Core :=
  if ofs < c.ofs then { c with ofs := ofs, settle := true } else c

/-- The offset rises while the core runs (R221). -/
def Core.raiseOfs (c : Core) (ofs : Nat) : Core :=
  if c.ofs < ofs then { c with ofs := ofs, slew := true } else c

/-- The supply moves to an offset. -/
def Core.setOfs (c : Core) (ofs : Nat) : Core := if ofs < c.ofs then c.lower ofs else c.raiseOfs ofs

/-- A team has left a core: where it kept the core in hardware margin control and HW is clear, host-assisted control
takes effect with its offset (R221, R242). -/
def State.modeAfter (s old : State) (core : Nat) : State :=
  if old.mgnHw core && !s.mgnHw core && !(s.core core).quar then
    s.modCore core (fun c => c.setOfs (min c.hofs c.omax))
  else s

/-- A team has left its cores: entries that it gave back start fragments that wait for one (R208), and modes that it
held back take effect (R242). -/
def State.vacated (s old : State) (cores : List Nat) : State :=
  cores.foldl (fun s c =>
    (List.range 6).foldl (fun s n => State.fillEntries c n 64 s) (s.modeAfter old c)) s

/-- The team ends: its writes are released, and everything it held is free (R47). -/
def State.endTeam (s : State) (tid : Nat) : State :=
  match AMap.find s.teams tid with
  | none => s
  | some t =>
    if !t.groups.all (fun g => g.2.ended) || s.busyTeam tid t then s
    else
      let s1 := s.completeTeam tid t
      { s1 with
        teams := AMap.erase s1.teams tid
        launches := AMap.modify s1.launches t.lid (fun l => { l with ended := l.ended + 1 }) }.vacated s t.cores

/-- TEAM_END (R47). -/
def execTeamEnd (tid : Nat) (s : State) : Host.Outcome State Fault Refusal := .next (s.endTeam tid).tick

/-- A launch completes when every team has ended, and signals (R176). -/
def State.completeLaunch (s : State) (lid : Nat) : State :=
  match AMap.find s.launches lid with
  | none => s
  | some l =>
    if l.ended = l.total then
      { s with
        launches := AMap.erase s.launches lid
        ectr := if l.sen then AMap.set 0 s.ectr l.sctr (AMap.get 0 s.ectr l.sctr + l.sadd) else s.ectr }
    else s

/-- LAUNCH_COMPLETE (R176). -/
def execLaunchComplete (lid : Nat) (s : State) : Host.Outcome State Fault Refusal :=
  .next (s.completeLaunch lid).tick

/-- The core forgets a team that leaves it: its tables and the squashed fragments (R209). -/
def Core.forget (k : Core) (tid : Nat) : Core :=
  { k with
    cvt := k.cvt.filter (fun c => c.2.1 != tid)
    slices := (AMap.mapVal k.slices (fun _ l =>
      { l with squashed := l.squashed.filter (fun w => w.tid != tid)
               act := if l.act.any (fun a => a.1 == tid) then none else l.act })).filter
      (fun l => l.2 != {}) }

/-- A team leaves the module at once: its stores at the gate are performed, its commands are performed or
not, and its loops and jobs go (R175, R235). -/
def State.dropTeam (s : State) (tid : Nat) : State :=
  match AMap.find s.teams tid with
  | none => s
  | some t =>
    let s1 := s.completeTeam tid t
    let s2 := t.cores.foldl (fun s c =>
      let mine := (s.core c).cmds.filter (fun m => m.2.who.tid == tid)
      let s1 := mine.foldl (fun s m =>
        if Config.endPerformed s.fresh m.1 then
          s.runCmd c m.1 m.2
        else s) s
      s1.modCore c (fun k =>
        { k.forget tid with
          cmds := k.cmds.filter (fun m => m.2.who.tid != tid)
          loops := k.loops.filter (fun l => l.2.who.tid != tid)
          pipes := (k.pipes.map (fun p => (p.1, p.2.filter (fun j => j.who.tid != tid)))).filter
            (fun p => p.2 != []) })) s1
    { s2 with
      teams := AMap.erase s2.teams tid
      frames := s2.frames ++ (if t.place.isNone then t.frame.toList else [])
      mcast := s2.mcast.filter (fun l => l.2.who.tid != tid) }.vacated s t.cores

/-- A launch fails or is ended after it was taken (R175, R235). -/
def State.failLaunch (s : State) (lid reason : Nat) : State :=
  match AMap.find s.launches lid with
  | none => s
  | some l =>
    let tids := (s.teams.filter (fun t => t.2.lid == lid)).map (·.1)
    let s1 := tids.foldl (fun s t => s.dropTeam t) s
    ({ s1 with launches := AMap.erase s1.launches lid }).failQueue l.q reason (BitVec.ofNat 32 l.qhead)

/-! Pre-emption. -/

/-- The multicast lines of a core's commands of a team are delivered. -/
def State.deliver (s : State) (core tid : Nat) : State :=
  (s.mcast.filter (fun l => l.2.core == core && l.2.who.tid == tid)).foldl (fun s l => s.castLine l.1) s

/-- A command in flight waits for a loop to end (R116, R117). -/
def Core.awaited (c : Core) (id : Nat) (l : Loop) : Bool :=
  c.cmds.any (fun m => decide (id < m.1) && l.before m.2.who true m.2.srcs m.2.dsts)

/-- What a stopped team has issued is drained (R205 step 2): operations and jobs complete, loops stop at a
step boundary, and commands complete. A loop that a command waits for goes on to its end, so that the command completes in
its order (R116, R163, log 21). -/
def State.drainTeam (s : State) (tid : Nat) (t : Team) : State :=
  let s0 := t.groups.foldl (fun s g => s.complete g.2.core g.2.slice { tid := tid, grp := g.1, frag := 0 }) s
  let s1 := s0.completeTeam tid t
  let s2 := t.cores.foldl (fun s c =>
    ((s.core c).loops.filter (fun l => l.2.who.tid == tid && !(s.core c).awaited l.1 l.2)).foldl (fun s l =>
      (s.stopLoop c l.1 t.desc.width l.2).modGrp l.2.who (fun g => { g with halfLoop := some l.2 })) s) s1
  t.cores.foldl (fun s c =>
    let s1 := s.deliver c tid
    ((s1.core c).cmds.filter (fun m => m.2.who.tid == tid)).foldl (fun s m => s.completeCmd c m.1) s1) s2

/-- Nothing of the team is in flight. -/
def State.drained (s : State) (tid : Nat) (t : Team) : Bool :=
  !s.busyTeam tid t &&
  t.cores.all (fun c => !(s.core c).ops.any (fun o => o.2.who.tid == tid))

/-- A stopped team is drained, its image is written to a frame that holds it, and it leaves its cores (R205 steps 2 to
4). Where no frame holds the image as it then stands, the team waits. -/
def State.saveTeam (s : State) (tid : Nat) : State :=
  match AMap.find s.teams tid with
  | none => s
  | some t0 =>
    if !t0.stopping then s
    else
      let s1 := s.drainTeam tid t0
      match AMap.find s1.teams tid with
      | none => s1
      | some t =>
        if !s1.drained tid t then s1
        else
          match (t.frame.filter (fun f => decide (t.imageSize ≤ f.2))).orElse (fun _ => s1.frameFor t) with
          | none => s1
          | some f =>
            let s2 := (s1.putFrame f.1 (s1.image t)).modTeam tid (fun t =>
              { t with place := none, stopping := false, lastCore := (t.place.map (·.core)).getD 0, frame := some f })
            let s3 := t.cores.foldl (fun s c => s.modCore c (fun k => k.forget tid)) s2
            { s3 with frames := s3.frames.erase f }.vacated s t.cores

/-- PREEMPTION_SAVE (R205). -/
def execPreemptionSave (tid : Nat) (s : State) : Host.Outcome State Fault Refusal := .next (s.saveTeam tid).tick

/-- The cores whose teams must all leave, by the reason (R187, R218, R237): a slice's deadline, a bin's
deadline, a quarantine. -/
def State.mustLeave (s : State) (t : Team) : Option Nat :=
  t.cores.findSome? (fun c =>
    if (s.core c).quar then some 5
    else if (AMap.get {} s.dies (c / 48) : DieClk).due then some 4
    else if t.groups.any (fun g => g.2.core == c && ((s.core c).slice g.2.slice).due) then some 3
    else none)

/-- Forced pre-emptions begin, each while a frame that holds the image is free (R206). -/
def State.forceOut (s : State) : State :=
  s.teams.foldl (fun s t =>
    if t.2.stopping || (s.frameFor t.2).isNone then s
    else
      match s.mustLeave t.2 with
      | some r => s.stopTeam r t.1
      | none => s) s

/-- SAVE_FRAME_FREE (R206). -/
def execSaveFrameFree (s : State) : Host.Outcome State Fault Refusal := .next s.forceOut.tick

/-! Resumption. -/

/-- The carousel entries that a resumed team held are found again, or its fragments wait for one (R208). -/
def State.reseatFrags (s : State) (tid : Nat) (t : Team) : State :=
  t.groups.foldl (fun s g => g.2.frags.foldl (fun s f =>
    let w : Sel := { tid := tid, grp := g.1, frag := f.1 }
    if f.2.entry then
      match s.grp? w with
      | none => s
      | some gr =>
        if s.entriesFree gr.core gr.slice = 0 then s
        else s.modFrag w (fun f => { f with entry := true, late := false, st := if f.late then .running else f.st })
    else s) s) (s.modTeam tid (fun t =>
      { t with groups := AMap.mapVal t.groups (fun _ g =>
          { g with frags := AMap.mapVal g.frags (fun _ f =>
              if f.entry then { f with entry := false, late := f.st == .running || f.late,
                                       st := if f.st == .running then .waiting else f.st }
              else f) }) }))

/-- A stopped matrix loop goes on (R96, R205), or meets a table that is not its own (R98). -/
def State.restartLoop (s : State) (tid grp : Nat) : State :=
  let w : Sel := { tid := tid, grp := grp, frag := 0 }
  match AMap.find s.teams tid, s.grp? w with
  | some t, some g =>
    match g.halfLoop with
    | none => s
    | some l =>
      let s1 := s.modGrp w (fun g => { g with halfLoop := none })
      if l.epi && bit (l.gs.getD 3 0) 1 then
        s1.defer l.who
          { info := { cause := .view .table, pc := l.pc, lanes := l.exec,
                      stat := statDefer ||| statLoop l.step, again := l.redo }, cl := l.cl }
      else
        let s2 := s1.modCore g.core (fun k =>
          let again := { l with op := s.fresh, queued := decide (32 < k.entries + l.entries) }
          { k with loops := AMap.insert k.loops s.fresh again })
        (s2.modGrp w (fun g =>
          ({ g with pend := g.pend ++ (block l.d t.desc.width).map (fun r =>
              { reg := r, op := s.fresh, pc := l.pc : Pending }) }).flagUp l.flag)).tick
  | _, _ => s

/-- A saved team resumes at a core or pair that it fits (R209). -/
def State.resumeAt (s : State) (tid : Nat) (t : Team) : State :=
  let same := (t.place.map (·.core)) == some t.lastCore
  let t := match AMap.find s.launches t.lid with | none => t | some l => l.marginModes t
  let s1 := { s with teams := AMap.insert s.teams tid { t with frame := none } }.takeCores t (fun _ => !same)
  let s1 := s1.modTeam tid (fun t => { t with groups := AMap.mapVal t.groups (fun _ g =>
    if g.heldWake && !g.ended then
      { g with heldWake := false, idle := false, wake := g.wake || !g.idle }
    else g) })
  let s2 := t.views.foldl (fun s v =>
    if 3 ≤ v.2.scope then t.cores.foldl (fun s c => s.l1Invalidate c t.ctx v.2) s else s) s1
  let s3 := s2.reseatFrags tid t
  let s4 := t.groups.foldl (fun s g => s.restartLoop tid g.1) s3
  let s5 := t.groups.foldl (fun s g => g.2.frags.foldl (fun s f =>
    s.enterPending { tid := tid, grp := g.1, frag := f.1 }) s) s4
  let s6 := { s5 with frames := s5.frames ++ t.frame.toList }
  t.cores.foldl (fun s c =>
    s.emit c [] (some { kind := 0x08, core := c, slot := t.slotOn c, launch := t.launch
                        payload := [BitVec.ofNat 64 t.why, frameWord t.frame] })) s6

/-- A saved team resumes where it fits, unless a waiting concurrent launch keeps a weakly parallel team back, or another
launch is served first (R178, R179, R209). A resumption serves its queue, so it moves the round (log 51). -/
def State.resumeTeam (s : State) (tid c : Nat) : State :=
  match AMap.find s.teams tid with
  | none => s
  | some t =>
    if !s.open || !s.mayReturn tid t || (AMap.find s.launches t.lid).any (fun l => s.servedFirst t.lid l) then s
    else
      match s.spot (s.hostPlaced t) t c with
      | none => s
      | some t1 => { s with rr := t.ctx }.resumeAt tid t1

/-! Carves. -/

/-- The carve granted first takes effect in a team (R45, R280): what lies past the new ends is lost, what a growth adds
reads zero, and grants past the new end of the scratchpad end. -/
def Team.carved (t : Team) (r : Carve) : Team :=
  let (regs, scr) := r.over (t.regs, t.scrGran)
  let t1 : Team := { t with regs := regs, scrGran := scr, granted := t.granted.drop 1 }
  let size := min t.scrBytes t1.scrBytes
  let t2 := (t.grants.filter (fun g => decide (t1.scrBytes < g.2.lo + g.2.len))).foldl (fun t g => t.endGrant g.1) t1
  { t2 with
    groups := AMap.mapVal t2.groups (fun _ g =>
      { g with v := g.v.filter (fun e => decide (e.1 < 64 * min t.regs regs)), atCarve := g.atCarve && t1.granted != [] })
    scr := t2.scr.filter (fun e => decide (e.1 < size))
    bad := t2.bad.filter (fun o => decide (o < size))
    absent := t2.absent.filter (fun e => decide (128 * e.1 < size)) }

/-- The room of a team's carves, those granted too, is free of other teams (R44). -/
def State.carveRoom (s : State) (tid : Nat) (t : Team) : Bool :=
  t.cores.all (fun c => roomFor (s.owned c [tid]) (t.gran c))

/-- A granted carve takes effect once the team's engine work is done and its room is free (R45, R135): L1 loses the
lines of the granules that the team gains in all (R42). -/
def State.carveNow (s : State) (tid : Nat) : State :=
  match AMap.find s.teams tid with
  | none => s
  | some t =>
    match t.granted with
    | [] => s
    | r :: _ =>
      if s.busyTeam tid t || !s.carveRoom tid t || t.place.isNone then s
      else
        let s1 := (s.completeTeam tid t).modTeam tid (fun t => t.carved r)
        t.cores.foldl (fun s c => s.modCore c (fun k => k.l1Shrink s.fresh ((t.carved r).using c - t.using c))) s1

/-- CARVE_EFFECT (R45). -/
def execCarveEffect (tid : Nat) (s : State) : Host.Outcome State Fault Refusal := .next (s.carveNow tid).tick

end Sys2Proof.Machine
end

