-- ==== Sys2Proof/Machine/Select.lean ====
section
/-! DEFINITION. Clauses and the choice of the next issue: clause starts and THROTTLE (R30, R56, R185), readiness
and rank (R182, R183), the current meter (R184), and samples (R227). -/

namespace Sys2Proof.Machine

/-! The next word. -/

/-- The instruction at an instruction-word position of a clause, or the cause that its opcode gives (R245);
the causes of its other fields are decided when it issues. -/
def wordInstr (meld : Bool) (w : Word) : Except InstrCause Instr :=
  if isHeader w then .error .headerPos
  else
    match ofOpc (opcOf w).toNat w with
    | none => .error .illegalOpc
    | some i =>
      if meld then
        match ofOpcMelded (opcOf w).toNat w with
        | none => .error .meldOp
        | some j => .ok j
      else .ok i

/-- The word at which a fragment stands inside a clause, or a cause of fetching it (R270). -/
def State.nextWord (s : State) (e : Env) : Except TrapInfo (Except InstrCause Instr) :=
  match s.fetch e e.pc with
  | .error t => .error t
  | .ok w => .ok (wordInstr e.fr.pos.cl.meld w)

/-- A word that no opcode names: it reaches issue, where only its address can match a comparator, and traps. -/
def State.issueBad (t : Env → TrapInfo) (s : State) : Host.Outcome State Fault Refusal :=
  s.issue (.nop { guard := 0, off := 0, aux := 0 }) (fun e s => .trap (t e) s)

/-- A word without a melded form in a melded clause (R58, R194): its comparators and, where it is a trap fence, the
fence test come before INSTR.MELD_OP. -/
def State.issueMeldOp (s : State) : Host.Outcome State Fault Refusal :=
  match s.env with
  | none => .fault .noIssuer
  | some e =>
    let plain : Instr := .nop { guard := 0, off := 0, aux := 0 }
    let real := match s.fetch e e.pc with | .error _ => plain | .ok w => (ofOpc (opcOf w).toNat w).getD plain
    .next (s.attemptThen e plain (fun s => s.fencedThen e real (fun e s =>
      s.carryOut e plain (fun e s => .trap (e.trapOf (.instr .meldOp)) s)))).tick

/-! Clause starts. -/

/-- THROTTLE is due for a fragment at a clause boundary (R185, R195): no open split, and not in a handler. -/
def Env.throttled (e : Env) : Bool :=
  e.fr.pos.cl.left == 0 && e.gr.thr && e.gr.thrp && e.gr.hnd.isNone && e.gr.splits == []

/-- THROTTLE is delivered: a call to `%evvec` whose return address is the boundary (R185). -/
def State.deliverThrottle (s : State) (e : Env) : State :=
  match s.checkTarget e e.gr.evvec with
  | .error t => s.takeTrap e t e.fr.pos e.fr.pos
  | .ok _ =>
    (s.callFrom e e.pc).modGrp e.who (fun g =>
      { g with thr := false, thrp := false }.modFrag e.who.frag (fun f =>
        { f with pos := { pc := g.evvec }, stall := none }))

/-- A fragment at a clause boundary: the trap of its header comes first, then a deferred fault that falls due as a word
is about to issue, then THROTTLE, and then the clause starts once its WAIT is met (R30, R56, R204, R243, R340). -/
def State.startClause (s : State) (e : Env) : State :=
  if e.fr.pos.cl.left ≠ 0 then s
  else
    match s.headerHere e with
    | .error t => s.takeTrap e t e.fr.pos e.fr.pos
    | .ok w =>
      let met := e.gr.waitMet (HF.unpack w).wait
      if met && e.due.isSome then s.takeDeferred e.who
      else if e.throttled then s.deliverThrottle e
      else if met then s.modFrag e.who (fun f => { f with pos := clauseOf e.pc w, stall := none })
      else s

/-- CLAUSE_START (R30). -/
def execClauseStart (s : State) : Host.Outcome State Fault Refusal :=
  match s.env with
  | none => .fault .noIssuer
  | some e => .next (s.startClause e).tick

/-- THROTTLE_DELIVERY (R185): what falls due before it at the boundary comes first (R204). -/
def execThrottleDelivery (s : State) : Host.Outcome State Fault Refusal :=
  match s.env with
  | none => .fault .noIssuer
  | some e => .next (if e.throttled then s.startClause e else s).tick

/-! The meter. -/

/-- THROTTLE is posted to every team resident on a core (R184, R185). -/
def State.postThrottle (s : State) (core : Nat) : State :=
  { s with teams := AMap.mapVal s.teams (fun _ t =>
      if t.onCore core then
        { t with groups := AMap.mapVal t.groups (fun _ g => if g.thr then { g with thrp := true } else g) }
      else t) }

/-- The window ends: the meter latches its sum and its denials (R184). -/
def State.endWindow (s : State) (core : Nat) : State :=
  let d := (s.core core).denials
  let s1 := s.modCore core (fun c =>
    { c with curmSum := c.sum % 2 ^ 32, curmDen := min c.denials 0xFFFF, sum := 0, denials := 0 })
  if d = 0 then s1 else s1.postThrottle core

/-- METER_WINDOW_END (R184). -/
def execMeterWindowEnd (core : Nat) (s : State) : Host.Outcome State Fault Refusal :=
  .next (s.endWindow core).tick

/-! Readiness. -/

/-- A word could issue but for the meter (R33, R182): no register of it is pending and its flag has room. -/
def Env.free (e : Env) (i : Instr) : Bool :=
  !e.blocked (e.regs i) &&
  (match e.flagOf i with | none => true | some k => decide (e.gr.flag k < 63))

/-- The fragment at its next instruction (R182): the word at which it stands, or at a clause boundary where nothing falls
due first the first word of the clause that it could start, since a header takes no issue slot (R243). -/
def State.upNext (s : State) (e : Env) : Option Env :=
  if e.fr.pos.cl.left ≠ 0 then some e
  else if e.throttled || e.due.isSome then none
  else (s.nextPlace e).map (fun p => { e with fr := { e.fr with pos := p, stall := none } })

/-- The fragment at its next instruction, and that instruction. -/
def State.nextInstr (s : State) (e : Env) : Option (Env × Instr) :=
  match s.upNext e with
  | none => none
  | some e1 => match s.nextWord e1 with | .ok (.ok i) => some (e1, i) | _ => none

/-- The meter denies a fragment its next instruction. -/
def State.denied (s : State) (e : Env) : Bool :=
  (s.nextInstr e).any (fun x => x.1.free x.2 && (s.core e.gr.core).denies (weightOpc x.2.opc) (x.1.charge x.2))

/-- Flags of a WAIT field that are still non-zero. -/
def Group.waitLeft (g : Group) (wait : BitVec 12) : Nat :=
  (List.range 12).foldl (fun a k => if wait.getLsbD k && g.flag k != 0 then a + 2 ^ k else a) 0

/-- The WAIT field of the header at which a fragment stands. -/
def State.waitField (s : State) (e : Env) : BitVec 12 :=
  if e.fr.pos.cl.left ≠ 0 then 0
  else match s.checkTarget e e.pc with | .ok w => (HF.unpack w).wait | .error _ => 0

/-- What falls due at a clause boundary ahead of a word: the trap of the header, THROTTLE, or a deferred fault once the
WAIT is met (log 26). -/
def State.boundaryDue (s : State) (e : Env) : Bool :=
  match s.headerHere e with
  | .error _ => true
  | .ok w => e.throttled || (e.due.isSome && e.gr.waitMet (HF.unpack w).wait)

/-- A fragment is a candidate of its slice but for the meter (R30, R33, R182): its next instruction is free of
interlocks, or something falls due before it. -/
def State.willing (s : State) (e : Env) : Bool :=
  e.canIssue &&
  (match s.upNext e with
   | none => s.boundaryDue e
   | some e1 => (match s.nextWord e1 with | .ok (.ok i) => e1.free i | _ => true))

/-- GRACE_ISSUE (R185): a fragment whose group holds THRP passes the meter once. -/
def execGraceIssue (who : Sel) (s : State) : Host.Outcome State Fault Refusal :=
  .next (match s.envOf who with
    | none => s
    | some e =>
      if e.canIssue && e.gr.thrp && s.denied e then s.modFrag who (fun f => { f with grace := true }) else s).tick

/-- A fragment is parked, or its word waits for a unit: it is not ready (R182). A wait for a register or a flag is over
when these are free (log 58). -/
def Env.stuck (e : Env) : Bool :=
  match e.fr.stall with
  | none => false
  | some .reg => false
  | some .flag => false
  | some (.bar n) => !e.barPassed n
  | some (.freed n) => !e.barPassed n
  | some _ => true

/-- STARVATION_PROMOTION (R182): of a candidate that is ready. -/
def execStarvationPromotion (who : Sel) (s : State) : Host.Outcome State Fault Refusal :=
  .next (match s.envOf who with
    | none => s
    | some e =>
      if s.willing e && !s.denied e && !e.stuck then s.modFrag who (fun f => { f with promoted := true }) else s).tick

/-! Rank. -/

/-- The fragments that stand on a slice. -/
def State.onSlice (s : State) (core slice : Nat) : List Sel :=
  s.teams.flatMap (fun t =>
    if t.2.onCore core then
      (t.2.groups.filter (fun g => g.2.core == core && g.2.slice == slice)).flatMap (fun g =>
        g.2.frags.map (fun f => { tid := t.1, grp := g.1, frag := f.1 : Sel }))
    else [])

/-- See-saw pairing (R183): after a heavy issue a word that is not heavy comes first, and above CURSOFT the
smaller charge. -/
def State.seesaw (s : State) (e : Env) : Nat :=
  let c := s.core e.gr.core
  if !(c.slice e.gr.slice).heavy then 0
  else (s.nextInstr e).elim 0 (fun x => if c.cursoft < c.sum then x.1.charge x.2 else if heavyOpc x.2.opc then 1 else 0)

/-- The keys of a candidate in their order, the smaller first (R182, R339). How two that are both promoted rank against
each other is not stated; their launch priority still decides (log 58). -/
def State.rank (s : State) (e : Env) : List Nat :=
  [if e.fr.promoted then 0 else 1, 7 - e.tm.prio, s.seesaw e, if e.fr.yielded then 1 else 0, e.tm.age, e.who.grp,
   if e.gr.inSlot e.fr then 0 else 1, e.who.frag]

/-- Lexicographic order. -/
def lexLe : List Nat → List Nat → Bool
  | [], _ => true
  | _, [] => false
  | x :: xs, y :: ys => decide (x < y) || (x == y && lexLe xs ys)

/-- Insert by rank. -/
def insertRank (x : List Nat × Sel) : List (List Nat × Sel) → List (List Nat × Sel)
  | [] => [x]
  | y :: ys => if lexLe x.1 y.1 then x :: y :: ys else y :: insertRank x ys

/-- A fragment's `mmas` waits for its matrix unit: it holds its issue slot (R299). Once the unit is free it holds it only
where the meter does not deny it (R184). -/
def State.holdsSlot (s : State) (w : Sel) : Bool :=
  match s.envOf w with
  | none => false
  | some e => e.fr.stall == some .unit && e.canIssue &&
      (match s.nextWord e with | .ok (.ok (.mmas _)) => true | _ => false) &&
      (s.looping e.gr.core e.gr.slice || e.fr.grace || !s.denied e)

/-- The word that a fragment issues next was squashed by a timing event, or a fault or a THROTTLE falls due before it. -/
def State.replaying (s : State) (e : Env) : Bool := (s.upNext e).all (fun e => (e.gr.againAt e.key).isSome)

/-- The candidates of a slice in the order of R182, the squashed words of a timing event before all (R213), but for one
that the meter denies, which is passed over (log 27); the fragment that has just yielded is none of them (R339). An `mmas`
that holds its issue slot is the only one (R299). -/
def State.candidates (s : State) (core slice : Nat) : List Sel :=
  let sl := (s.core core).slice slice
  let ready (w : Sel) : Option (List Nat × Sel) :=
    match s.envOf w with
    | none => none
    | some e => if s.willing e && (e.fr.grace || !s.denied e) && sl.rest != some w then some (s.rank e, w) else none
  match (s.onSlice core slice).find? s.holdsSlot with
  | some w => [w]
  | none =>
  let first := sl.squashed.filter (fun w =>
    (s.envOf w).any (fun e => e.canIssue && (e.fr.grace || !s.denied e) && s.replaying e))
  let rest := (s.onSlice core slice).filterMap ready
  first.eraseDups ++ ((rest.foldr insertRank []).map (·.2)).filter (fun w => !first.contains w)

/-- The candidates that the meter denies in this slice cycle (R184); the fragment that has just yielded is none (R339). -/
def State.denials (s : State) (core slice : Nat) : Nat :=
  ((s.onSlice core slice).filter (fun w => ((s.core core).slice slice).rest != some w &&
    (s.envOf w).any (fun e => s.willing e && s.denied e && !e.fr.grace))).length

/-- Fragments of a slice that hold a trap they can enter now (R195). -/
def State.entering (s : State) (core slice : Nat) : Option Sel :=
  (s.onSlice core slice).find? (fun w =>
    (s.envOf w).any (fun e => e.fr.held.isSome && e.gr.hnd.isNone && e.tm.place.isSome && !e.tm.stopping &&
      !e.gr.ended && !e.gr.halted && !e.gr.stopped))

/-- The slice issues (R213, R217). -/
def State.issues (s : State) (core slice : Nat) : Bool :=
  !((s.core core).slice slice).bubble && !(s.core core).settle

/-- A slice cycle passes: what issued in the one before is no longer its issue (R227), and the rest after a `yield` is
over (R339). -/
def State.passCycle (s : State) (core slice : Nat) : State :=
  let sl := (s.core core).slice slice
  if sl.rest.isSome || sl.issued.isSome then s.modSlice core slice (fun l => { l with rest := none, issued := none }) else s

/-- A slice cycle in which words may issue begins: its denials are counted (R184). -/
def State.cycle (s : State) (core slice : Nat) : State :=
  let n := s.denials core slice
  (if n = 0 then s else s.modCore core (fun c => { c with denials := c.denials + n })).passCycle core slice

/-- A fragment that stood before a squashed word, in `old`, has issued it: the word is no longer among the squashed ones;
and no fragment is that has none left to issue again. -/
def State.unsquash (s old : State) (core slice : Nat) (w : Sel) : State :=
  let sq := ((s.core core).slice slice).squashed
  if !sq.contains w then s
  else
    let replay := (old.envOf w).any (fun e => (old.upNext e).any (fun e => (e.gr.againAt e.key).isSome))
    let left (v : Sel) : Bool := v != w || (s.grp? w).any (fun g => g.again.any (fun x => x.frag == w.frag))
    s.modSlice core slice (fun l => { l with squashed := (if replay then sq.erase w else sq).filter left })

/-- A fragment still waits where it waited before. -/
def stillWaits (s t : State) (w : Sel) : Bool :=
  match s.frag? w, t.frag? w with
  | some f, some g => f.stall.isSome && f.stall == g.stall && f.pos == g.pos
  | _, _ => false

/-! The slice cycle. -/

/-- The word at which a fragment stands issues; `ex` gives a word its meaning. -/
def State.runWordOf (ex : Instr → State → Host.Outcome State Fault Refusal) (s : State) (w : Sel) :
    Host.Outcome State Fault Refusal :=
  match s.envOf w with
  | none => .next s
  | some e =>
    match s.nextWord e with
    | .error t => s.issueBad (fun _ => t)
    | .ok (.error .meldOp) => s.issueMeldOp
    | .ok (.error c) => s.issueBad (fun e => e.trapOf (.instr c))
    | .ok (.ok i) => ex i s

/-- A fragment issues the word it stands at, or takes the deferred fault that is due. At a clause boundary it starts its
clause, whose first word issues in the same slice cycle, or takes what falls due there (R182, R243). -/
def State.runFragOf (ex : Instr → State → Host.Outcome State Fault Refusal) (s : State) (w : Sel) :
    Host.Outcome State Fault Refusal :=
  let s1 := { s with cur := some w }
  match s.envOf w with
  | none => .next s.tick
  | some e =>
    if e.fr.pos.cl.left = 0 then
      match execClauseStart s1 with
      | .next t => if (s.upNext e).isSome then t.runWordOf ex w else .next t
      | r => r
    else if e.due.isSome then execDeferredFaultTaken w s1
    else s1.runWordOf ex w

/-- The first candidate that does not wait where it waited before issues, or takes what falls due. -/
def State.issueFirstOf (ex : Instr → State → Host.Outcome State Fault Refusal) (core slice : Nat) :
    List Sel → State → Host.Outcome State Fault Refusal
  | [], s => .next s.tick
  | w :: ws, s =>
    match s.runFragOf ex w with
    | .next t => if stillWaits s t w then State.issueFirstOf ex core slice ws s else .next (t.unsquash s core slice w)
    | .fault r => .fault r
    | .refused r => .refused r

/-- A slice cycle (R182, R195, R213): a held trap is entered first. -/
def State.sliceCycleOf (ex : Instr → State → Host.Outcome State Fault Refusal) (s : State) (core slice : Nat) :
    Host.Outcome State Fault Refusal :=
  if !s.issues core slice then .next (s.passCycle core slice).tick
  else
    match s.entering core slice with
    | some w => execPendingTrapEntry w (s.cycle core slice)
    | none => State.issueFirstOf ex core slice (s.candidates core slice) (s.cycle core slice)

/-! Samples. -/

/-- The pending register that a fragment's next word waits for, with the word that writes it (R33). -/
def State.blame (s : State) (e : Env) : Option Word :=
  match s.nextInstr e with
  | none => none
  | some (e1, i) => (e.gr.pend.find? (fun p => (e1.regs i).contains p.reg)).map (·.pc)

/-- The flag of a fragment's next word stands at 63 (R32). -/
def State.flagFull (s : State) (e : Env) : Bool :=
  (s.nextInstr e).any (fun x => (x.1.flagOf x.2).any (fun k => decide (63 ≤ e.gr.flag k)))

/-- The stall reason of a sample: the first row of R227 that applies. A sample belongs to the slice cycle before it, so
that it reports 0 for a fragment that issued there (log 52). -/
def State.sampleReason (s : State) (e : Env) : Nat :=
  let c := s.core e.gr.core
  let out := e.gr.idle || e.gr.stopped || e.gr.halted || e.gr.ended || e.gr.posting ||
    e.gr.frags.any (fun f => f.2.stall == some .post)
  if (c.slice e.gr.slice).issued == some e.who then 0
  else if s.willing e && !s.denied e && !e.stuck && (s.blame e).isNone && s.issues e.gr.core e.gr.slice &&
      e.gr.waitLeft (s.waitField e) == 0 then 1
  else if e.gr.waitLeft (s.waitField e) != 0 then 2
  else if (s.blame e).isSome then 3
  else if e.fr.stall == some .unit then 4
  else if !out && s.denied e then 5
  else if e.gr.frags.any (fun f => f.2.stall == some .line) then 6
  else if e.fr.st == .joined then 7
  else if e.parked || e.atCarve then 8
  else if e.fr.stall == some .dir then 9
  else if !out && s.flagFull e then 10
  else if (c.slice e.gr.slice).bubble then 11
  else if e.fr.stall == some .weir || e.gr.frags.any (fun f => f.2.stall == some .sync) then 12
  else if c.settle then 13
  else if e.fr.st == .waiting then 14
  else if out then 15
  else 1

/-- The groups resident on a slice, in slot order: which group stands in which slot is not given. -/
def State.groupsOn (s : State) (core slice : Nat) : List Sel :=
  s.teams.flatMap (fun t =>
    if t.2.onCore core then
      (t.2.groups.filter (fun g => g.2.core == core && g.2.slice == slice)).map (fun g =>
        { tid := t.1, grp := g.1, frag := 0 : Sel })
    else [])

/-- The group after another in that order, or the first. -/
def nextGroup (last : Option Sel) (gs : List Sel) : Option Sel :=
  match last with
  | none => gs.head?
  | some w => (gs.find? (fun v => decide (w.tid < v.tid) || (v.tid == w.tid && decide (w.grp < v.grp)))).orElse
      (fun _ => gs.head?)

/-- A slice samples the next resident group (R227): the fragment in its slot. -/
def State.takeSample (s : State) (core slice : Nat) : State :=
  if !bit (s.core core).smp 0 then s
  else
    match nextGroup ((s.core core).slice slice).sample (s.groupsOn core slice) with
    | none => s
    | some w =>
    let s1 := s.modSlice core slice (fun l => { l with sample := some w })
    match s.grp? w with
    | none => s1
    | some g =>
      let f := ((g.frags.find? (fun f => g.inSlot f.2)).map (·.1)).getD 0
      match s.envOf { w with frag := f } with
      | none => s1.emit core [] (s.recOf w 0x09 [0, 15, 0, 0])
      | some e =>
        let r := s.sampleReason e
        s1.emit core [] (s.recOf w 0x09
          [e.pc, BitVec.ofNat 64 r, BitVec.ofNat 64 (g.waitLeft (s.waitField e)),
           if r = 3 then (s.blame e).getD 0 else 0])

/-- PC_SAMPLE (R227). -/
def execPcSample (core slice : Nat) (s : State) : Host.Outcome State Fault Refusal :=
  .next (s.takeSample core slice).tick

end Sys2Proof.Machine
end

