-- ==== Sys2Proof/Machine/Words.lean ====
section
/-! DEFINITION. The meanings of the instruction words, by which a timing event finds what issues behind its victim
(R213). -/

namespace Sys2Proof.Machine

/-- A word issues: what `exec` gives a word of the table. An event is no word, and does nothing here. -/
def runWord (i : Instr) (s : State) : Host.Outcome State Fault Refusal :=
  match i with
  | .bra f => execBra f s
  | .brg f => execBrg f s
  | .bri f => execBri f s
  | .call f => execCall f s
  | .calli f => execCalli f s
  | .ret f => execRet f s
  | .yield f => execYield f s
  | .nop f => execNop f s
  | .idle f => execIdle f s
  | .lnch f => execLnch f s
  | .brv f => execBrv f s
  | .briv f => execBriv f s
  | .exit f => execExit f s
  | .join f => execJoin f s
  | .mopen f => execMopen f s
  | .mclose f => execMclose f s
  | .mrep f => execMrep f s
  | .gadd f => execGadd f s
  | .gsub f => execGsub f s
  | .gmul f => execGmul f s
  | .gmulh f => execGmulh f s
  | .gmad f => execGmad f s
  | .gdiv f => execGdiv f s
  | .grem f => execGrem f s
  | .gand f => execGand f s
  | .gor f => execGor f s
  | .gxor f => execGxor f s
  | .gshl f => execGshl f s
  | .gshr f => execGshr f s
  | .gsar f => execGsar f s
  | .gmin f => execGmin f s
  | .gmax f => execGmax f s
  | .gmov f => execGmov f s
  | .gmovh f => execGmovh f s
  | .gcmp f => execGcmp f s
  | .gsel f => execGsel f s
  | .gbits f => execGbits f s
  | .gplog f => execGplog f s
  | .emov f => execEmov f s
  | .plog f => execPlog f s
  | .ballot f => execBallot f s
  | .vbc f => execVbc f s
  | .vrdl f => execVrdl f s
  | .vred f => execVred f s
  | .vshfl f => execVshfl f s
  | .vadd f => execVadd f s
  | .vsub f => execVsub f s
  | .vmul f => execVmul f s
  | .vmulh f => execVmulh f s
  | .vmad f => execVmad f s
  | .vand f => execVand f s
  | .vor f => execVor f s
  | .vxor f => execVxor f s
  | .vshl f => execVshl f s
  | .vshr f => execVshr f s
  | .vsar f => execVsar f s
  | .vmin f => execVmin f s
  | .vmax f => execVmax f s
  | .vabs f => execVabs f s
  | .vbits f => execVbits f s
  | .vbfe f => execVbfe f s
  | .vbfi f => execVbfi f s
  | .vcmp f => execVcmp f s
  | .vsel f => execVsel f s
  | .vmov f => execVmov f s
  | .vfadd f => execVfadd f s
  | .vfsub f => execVfsub f s
  | .vfmul f => execVfmul f s
  | .vfma f => execVfma f s
  | .vfmin f => execVfmin f s
  | .vfmax f => execVfmax f s
  | .vfcmp f => execVfcmp f s
  | .vfrcp f => execVfrcp f s
  | .vfrsq f => execVfrsq f s
  | .vfsqrt f => execVfsqrt f s
  | .vfex2 f => execVfex2 f s
  | .vflg2 f => execVflg2 f s
  | .vfsin f => execVfsin f s
  | .vfcos f => execVfcos f s
  | .vfcls f => execVfcls f s
  | .vfscl f => execVfscl f s
  | .vfdp4 f => execVfdp4 f s
  | .vcvt f => execVcvt f s
  | .vnarw f => execVnarw f s
  | .vwide f => execVwide f s
  | .vscl f => execVscl f s
  | .vpack f => execVpack f s
  | .vunpk f => execVunpk f s
  | .mmas f => execMmas f s
  | .xlut f => execXlut f s
  | .xunp f => execXunp f s
  | .mmlp f => execMmlp f s
  | .eptab f => execEptab f s
  | .xtab f => execXtab f s
  | .xlz f => execXlz f s
  | .ld f => execLd f s
  | .st f => execSt f s
  | .atom f => execAtom f s
  | .acas f => execAcas f s
  | .gld f => execGld f s
  | .gst f => execGst f s
  | .gatom f => execGatom f s
  | .fence f => execFence f s
  | .cclean f => execCclean f s
  | .cinval f => execCinval f s
  | .cflush f => execCflush f s
  | .ptsync f => execPtsync f s
  | .prf f => execPrf f s
  | .wopen f => execWopen f s
  | .wret f => execWret f s
  | .wld f => execWld f s
  | .wst f => execWst f s
  | .wadv f => execWadv f s
  | .wget f => execWget f s
  | .wchk f => execWchk f s
  | .cpa f => execCpa f s
  | .cpg f => execCpg f s
  | .cpx f => execCpx f s
  | .cpw f => execCpw f s
  | .cpm f => execCpm f s
  | .bini f => execBini f s
  | .barr f => execBarr f s
  | .bwait f => execBwait f s
  | .bsync f => execBsync f s
  | .btest f => execBtest f s
  | .crv f => execCrv f s
  | .grant f => execGrant f s
  | .revk f => execRevk f s
  | .trap f => execTrap f s
  | .trret f => execTrret f s
  | .tfence f => execTfence f s
  | .brk f => execBrk f s
  | .srd f => execSrd f s
  | .swr f => execSwr f s
  | .pgtk f => execPgtk f s
  | .pgmap f => execPgmap f s
  | .mark f => execMark f s
  | .sig f => execSig f s
  | .vaddImm f => execVaddImm f s
  | .vsubImm f => execVsubImm f s
  | .vmulImm f => execVmulImm f s
  | .vmulhImm f => execVmulhImm f s
  | .vandImm f => execVandImm f s
  | .vorImm f => execVorImm f s
  | .vxorImm f => execVxorImm f s
  | .vshlImm f => execVshlImm f s
  | .vshrImm f => execVshrImm f s
  | .vsarImm f => execVsarImm f s
  | .vminImm f => execVminImm f s
  | .vmaxImm f => execVmaxImm f s
  | .vcmpImm f => execVcmpImm f s
  | .vmovImm f => execVmovImm f s
  | .vfaddImm f => execVfaddImm f s
  | .vfsubImm f => execVfsubImm f s
  | .vfmulImm f => execVfmulImm f s
  | .vfminImm f => execVfminImm f s
  | .vfmaxImm f => execVfmaxImm f s
  | .vfcmpImm f => execVfcmpImm f s
  | .vaddMelded f => execVaddMelded f s
  | .vsubMelded f => execVsubMelded f s
  | .vmulMelded f => execVmulMelded f s
  | .vmadMelded f => execVmadMelded f s
  | .vandMelded f => execVandMelded f s
  | .vorMelded f => execVorMelded f s
  | .vxorMelded f => execVxorMelded f s
  | .vshlMelded f => execVshlMelded f s
  | .vshrMelded f => execVshrMelded f s
  | .vsarMelded f => execVsarMelded f s
  | .vminMelded f => execVminMelded f s
  | .vmaxMelded f => execVmaxMelded f s
  | .vcmpMelded f => execVcmpMelded f s
  | .vmovMelded f => execVmovMelded f s
  | .vfaddMelded f => execVfaddMelded f s
  | .vfsubMelded f => execVfsubMelded f s
  | .vfmulMelded f => execVfmulMelded f s
  | .vfmaMelded f => execVfmaMelded f s
  | .vfminMelded f => execVfminMelded f s
  | .vfmaxMelded f => execVfmaxMelded f s
  | .vfcmpMelded f => execVfcmpMelded f s
  | .ldMelded f => execLdMelded f s
  | .stMelded f => execStMelded f s
  | .wldMelded f => execWldMelded f s
  | .wstMelded f => execWstMelded f s
  | .clauseStart => .next s
  | .meterWindowEnd _ => .next s
  | .throttleDelivery => .next s
  | .graceIssue _ => .next s
  | .starvationPromotion _ => .next s
  | .timingEvent _ _ _ _ => .next s
  | .replayBubbleEnd _ _ => .next s
  | .limpModeEnd _ _ => .next s
  | .supplySettled _ => .next s
  | .quietPeriodExpiry _ => .next s
  | .teWindowEnd _ => .next s
  | .egressGateRelease _ _ => .next s
  | .launchTake _ => .next s
  | .teamAdmission _ _ => .next s
  | .preemptionSave _ => .next s
  | .saveFrameFree => .next s
  | .teamResume _ _ => .next s
  | .teamEnd _ => .next s
  | .launchComplete _ => .next s
  | .carveEffect _ => .next s
  | .operationCompletion _ _ => .next s
  | .engineCommandCompletion _ _ => .next s
  | .mmlpStep _ _ => .next s
  | .pipeJobReply _ _ => .next s
  | .scratchLineArrival _ _ => .next s
  | .multicastLineArrival _ => .next s
  | .deferredFaultTaken _ => .next s
  | .pendingTrapEntry _ => .next s
  | .pcSample _ _ => .next s
  | .faultRingAccept => .next s
  | .pageMoveCopy _ _ => .next s
  | .pageMoveSwitch => .next s
  | .apertureWriteback _ => .next s
  | .sliceRatioChange _ _ => .next s
  | .ratioDeadline _ _ => .next s
  | .binDeadline _ => .next s
  | .binSwitch _ => .next s
  | .powerOnStart _ => .next s
  | .alarmLevel2 _ => .next s
  | .alarmLevel3 _ => .next s
  | .linkStateChange _ _ => .next s
  | .attestationDone => .next s
  | .provisionDone => .next s
  | .qtailWrite _ _ => .next s
  | .qctlWrite _ _ => .next s
  | .qerrClear _ _ => .next s
  | .hfqheadWrite _ => .next s
  | .intstatClear _ => .next s
  | .intmaskWrite _ => .next s
  | .dbgcmdResume _ => .next s
  | .dbgcmdStepBack _ => .next s
  | .dbgcmdEndLaunch _ => .next s
  | .dbgvdataAccess _ _ => .next s
  | .dbgsdataAccess _ _ => .next s
  | .wake _ _ => .next s
  | .sratioWrite _ _ _ => .next s
  | .mgnctlWrite _ _ => .next s
  | .qstatClear _ _ => .next s
  | .dieclkWrite _ _ => .next s
  | .stcmdWarm _ => .next s
  | .stcmdCold _ => .next s
  | .atcmd _ => .next s
  | .provcmd _ => .next s
  | .trgctlWrite _ _ => .next s
  | .broadcastWrite _ _ => .next s
  | .registerWrite _ _ => .next s
  | .hostBar2Read _ _ _ => .next s
  | .hostBar2Write _ _ _ => .next s
  | .hostBar4Access _ _ _ _ => .next s
  | .peerAccessArrival _ _ _ _ => .next s
  | .peerPortStateChange _ _ => .next s

end Sys2Proof.Machine
end

