-- ==== Sys2Proof/Machine/Margin.lean ====
section
/-! DEFINITION. Running below the guaranteed margin: timing events, escalation and quarantine (R211 to R221),
the egress gate's release and completions (R32, R215), slice ratios (R186, R187) and clock bins (R237). -/

namespace Sys2Proof.Machine

/-- The register space and the memory answer the host: not in safe mode, and not under an alarm of level 2 or 3,
where only the start and security block does (R238, R240). -/
def State.answers (s : State) : Bool := s.start.phase != .safe && decide (s.start.alLevel < 2)

/-- What a host write to a register does, where the host is answered. -/
def State.told (s : State) (f : State → State) : State := if s.answers then f s else s

/-! Slice ratios. -/

/-- SRATIO takes a target (R186): outside 1 to 8 the write is ignored; the ratio in force cancels a pending
change. -/
def State.writeRatio (s : State) (core slice n : Nat) : State :=
  if n = 0 ∨ 8 < n then s
  else
    s.modSlice core slice (fun l =>
      if n = l.ratio then { l with target := n, pend := false, due := false }
      else { l with target := n, pend := true })

/-- SRATIO_WRITE (R186). -/
def execSratioWrite (core slice : Nat) (x : Word) (s : State) : Host.Outcome State Fault Refusal :=
  .next (s.told (fun s => s.writeRatio core slice (bits x 3 0))).tick

/-- The new ratio takes effect once no team has a group on the slice (R187). -/
def State.changeRatio (s : State) (core slice : Nat) : State :=
  if ((s.core core).slice slice).pend && (s.groupsOn core slice).isEmpty then
    s.modSlice core slice (fun l => { l with ratio := l.target, pend := false, due := false })
  else s

/-- SLICE_RATIO_CHANGE (R187). -/
def execSliceRatioChange (core slice : Nat) (s : State) : Host.Outcome State Fault Refusal :=
  .next (s.changeRatio core slice).tick

/-- RATIO_DEADLINE (R187): every team still on the slice is pre-empted, as save frames allow (R206). -/
def execRatioDeadline (core slice : Nat) (s : State) : Host.Outcome State Fault Refusal :=
  .next (if ((s.core core).slice slice).pend then
      (s.modSlice core slice (fun l => { l with due := true })).forceOut
    else s).tick

/-! The supply. -/

/-- SUPPLY_SETTLED (R217, R221). -/
def execSupplySettled (core : Nat) (s : State) : Host.Outcome State Fault Refusal :=
  .next (s.modCore core (fun c => { c with settle := false, slew := false })).tick

/-- QUIET_PERIOD_EXPIRY (R221): in hardware mode the headgate raises the offset by 1, up to OMAX. -/
def execQuietPeriodExpiry (core : Nat) (s : State) : Host.Outcome State Fault Refusal :=
  .next (s.modCore core (fun c =>
    if s.mgnHw core && !c.quar && decide (c.ofs < c.omax) then c.raiseOfs (c.ofs + 1) else c)).tick

/-- LIMP_MODE_END (R216); in a quarantine every slice stays in limp mode (R218). -/
def execLimpModeEnd (core slice : Nat) (s : State) : Host.Outcome State Fault Refusal :=
  .next (if (s.core core).quar then s else s.modSlice core slice (fun l => { l with limp := false })).tick

/-- TE_WINDOW_END (R218). -/
def execTeWindowEnd (core : Nat) (s : State) : Host.Outcome State Fault Refusal :=
  .next (s.modCore core (fun c =>
    { c with win := 0, stepped := false
             slices := (AMap.mapVal c.slices (fun _ l => { l with teWin := 0 })).filter (fun l => l.2 != {}) })).tick

/-- REPLAY_BUBBLE_END (R213): the squashed words issue again, ahead of any other candidate. -/
def execReplayBubbleEnd (core slice : Nat) (s : State) : Host.Outcome State Fault Refusal :=
  .next (s.modSlice core slice (fun l => { l with bubble := false })).tick

/-! Timing events. -/

/-- What a timing event hits of a victim: the VA of its word, how often it has been hit with this one, and the
state that counts it. A word of the victim that has not committed is squashed; a matrix step, a pipe beat, an engine's
access or the write of a result is repeated alone (R96, R99, R213, R214, R216). -/
structure Hit where
  va : Word
  count : Nat
  s : State
  squash : Bool
  /-- that access or write is repeated alone: no bubble, and nothing behind it is squashed -/
  alone : Bool := false

/-- The words that issue on a slice from here, one slice cycle after the other, by R182, as long as they are of the
fragments named and in their order: each with its fragment as it stood. With them the state that these issues lead
to. -/
def State.issueRun (core slice : Nat) : List Sel → State → List (Env × Instr) × State
  | [], s => ([], s)
  | w :: ws, s =>
    match (s.envOf w).bind s.nextInstr, s.sliceCycleOf runWord core slice with
    | some x, .next t =>
      if ((t.core core).slice slice).issued == some w then
        let (xs, u) := State.issueRun core slice ws t
        (x :: xs, u)
      else ([], s)
    | _, _ => ([], s)

/-- The hit of the word that the victim has issued and not committed: the one that its slice selects. -/
def State.wordHit (s : State) (core slice : Nat) (w : Sel) : List Hit :=
  (State.issueRun core slice [w] s).1.map (fun x =>
    { va := x.1.pc, count := x.1.count + 1, squash := true, s := s })

/-- The hits of the group's matrix loop: the step is repeated, and charged again (R96, R222, R255). -/
def State.loopHits (s : State) (core slice width : Nat) (mine : Sel → Bool) : List Hit :=
  ((s.core core).loops.filter (fun l => mine l.2.who)).map (fun l =>
    { va := l.2.pc, count := l.2.replays + 1, squash := false
      s := (s.modCore core (fun c =>
        { c with loops := AMap.modify c.loops l.1 (fun l => { l with replays := l.replays + 1 }) })).chargeStep
        core slice width })

/-- The hits of the pipe's head job: a beat is repeated (R99), and a reply is written again alone (R214). -/
def State.jobHits (s : State) (core slice : Nat) (mine : Sel → Bool) : List Hit :=
  match AMap.get [] (s.core core).pipes (pipeOf slice) with
  | [] => []
  | j :: _ =>
    if mine j.who then
      [false, true].map (fun alone =>
        { va := j.pc, count := j.replays + 1, squash := false, alone := alone
          s := s.modCore core (fun c => { c with pipes := AMap.modify c.pipes (pipeOf slice) (fun js =>
            match js with | [] => [] | j :: js => { j with replays := j.replays + 1 } :: js) }) })
    else []

/-- The hits of operations in flight. A store that stands at the gate is discarded, squashed and issued again in one
move, which leaves it at the gate and charges it again (R215). The result of a load or an atomic is written again from
its return buffer (R214). -/
def State.opHits (s : State) (core : Nat) (g : Group) (mine : Sel → Bool) : List Hit :=
  ((s.core core).ops.filter (fun o => mine o.2.who &&
    ((o.2.gated && !o.2.left) || g.pend.any (fun p => p.op == o.1)))).map (fun o =>
    { va := o.2.pc, count := o.2.replays + 1, squash := false
      alone := !o.2.gated
      s := s.modCore core (fun c =>
        { c with sum := c.sum + (if o.2.gated then o.2.charge else 0)
                 ops := AMap.modify c.ops o.1 (fun o => { o with replays := o.replays + 1 }) }) })

/-- The hits of the reservoir accesses of engine commands, and of their arrivals in the scratchpad: the access is
repeated alone (R213, R214). -/
def State.cmdHits (s : State) (core : Nat) (mine : Sel → Bool) : List Hit :=
  ((s.core core).cmds.filter (fun m => mine m.2.who)).map (fun m =>
    { va := m.2.pc, count := m.2.replays + 1, squash := false, alone := true
      s := s.modCore core (fun c =>
        { c with cmds := AMap.modify c.cmds m.1 (fun m => { m with replays := m.replays + 1 }) }) })

/-- The hit of the context-save path, while the victim's team is being pre-empted: its access is repeated alone (R213).
It is charged to the word at which the group stopped (log 53). -/
def State.saveHit (s : State) (w : Sel) : List Hit :=
  match s.envOf w with
  | none => []
  | some e => if e.tm.stopping then [{ va := e.pc, count := 1, squash := false, alone := true, s := s }] else []

/-- Everything of the victim's group that a timing event on a slice could hit. -/
def State.hits (s : State) (core slice : Nat) (w : Sel) : List Hit :=
  let mine (v : Sel) : Bool := v.tid == w.tid && v.grp == w.grp
  match AMap.find s.teams w.tid, s.grp? w with
  | some t, some g =>
    if g.core == core && g.slice == slice then
      s.wordHit core slice w ++ s.loopHits core slice t.desc.width mine ++ s.jobHits core slice mine ++
      s.opHits core g mine ++ s.cmdHits core mine ++ s.saveHit w
    else []
  | _, _ => []

/-- What a timing event hits, if its victim can be one: which of several things is open. -/
def State.hit (s : State) (core slice : Nat) (w : Sel) : Option Hit :=
  match s.hits core slice w with
  | [] => none
  | [h] => some h
  | hs => hs[Config.teTarget s.fresh % hs.length]?

/-- A squashed issue has met the comparators (R224); nothing else of it stays but its charge (R184, R213). -/
def State.squash (s : State) (core : Nat) (x : Env × Instr) : State :=
  let ms := if x.1.tested then s.matches x.1 x.2 else []
  if ms == [] then s else s.emit core (ms.map (·.1)) none

/-- A fragment with squashed words stands at the first of them: one that was about to start its clause has started it,
and its WAIT is not tested again (R213). -/
def State.replayFrom (s old : State) (w : Sel) (first : Pos) : State :=
  let starts := ((old.envOf w).bind old.upNext).any (fun e => e.fr.pos == first)
  s.modFrag w (fun f => { f with pos := if starts then first else f.pos })

/-- The comparators test none of the replays to come (R224): `left` are the untested issues to come once all have
issued. -/
def State.replays (s : State) (w : Sel) (left rs : List Again) : State := s.modGrp w (fun g => { g with again := rs ++ left })

/-- Words that issued from `old` are squashed in `s`: `t` is where their issues have led, of which the slice cycles with
their charges and denials stay, and the words issue again first and in their order (R184, R213). The first of them has
now been a victim `n` times, where it is the victim (R216). -/
def State.squashAll (s old t : State) (core slice : Nat) (n : Option Nat) (xs : List (Env × Instr)) : State :=
  let ws := xs.map (·.1.who)
  let l1 := (t.core core).slice slice
  let s1 := (xs.foldl (fun s x => s.squash core x) s).modCore core (fun c =>
    { c with
      sum := c.sum + ((t.core core).sum - (old.core core).sum)
      denials := c.denials + ((t.core core).denials - (old.core core).denials) }.modSlice slice (fun l =>
        { l with heavy := l1.heavy, issued := l1.issued, rest := if ws == [] then l.rest else none
                 squashed := ws ++ ws.foldl List.erase l.squashed }))
  let rs : List (Env × Nat) := match xs with
    | [] => []
    | x :: xs => (x.1, n.getD x.1.count) :: xs.map (fun x => (x.1, x.1.count))
  let s2 := ws.eraseDups.foldl (fun s w =>
    s.replayFrom old w ((xs.find? (fun x => x.1.who == w)).elim {} (·.1.fr.pos))) s1
  ((ws.map (fun w => { w with frag := 0 })).eraseDups).foldl (fun s w =>
    s.replays w ((t.grp? w).elim [] (·.again))
      ((rs.filter (fun r => r.1.who.tid == w.tid && r.1.who.grp == w.grp)).map (fun r => { r.1.key with count := r.2 }))) s2

/-- Escalation of a timing event on a slice in limp mode at an offset above 0 (R217, R220). -/
def State.escalate (s : State) (core slice : Nat) (va : Word) : State :=
  let c := s.core core
  let ofs := c.ofs - c.escstep
  (s.modCore core (fun c =>
    { c.lower ofs with hofs := if s.mgnHw core then c.hofs else ofs, escal := min (c.escal + 1) 0xFFFFFFFF })).post
    (marginRecord 0x101 core c.ofs ofs slice (c.reg 0x32) va)

/-- The record of a quarantine whose pre-emptions find no save frame (R206): it names a core, not a group. -/
def frameRecord (core : Nat) : FRec :=
  { words := [BitVec.ofNat 64 (0x183 + 0x102 * 2 ^ 16), 0, 0, 0, BitVec.ofNat 64 core, 0, 0, 0] }

/-- Pre-emptions forced by quarantine begin; where a frame lacks, the record of R206 is posted once. -/
def State.quarOut (s : State) (core : Nat) : State :=
  let s1 := s.forceOut
  if (s1.resident core).any (fun t => !t.2.stopping) && !(s1.core core).qposted then
    (s1.modCore core (fun c => { c with qposted := true })).post (frameRecord core)
  else s1

/-- A core is quarantined (R218): admission stops, its teams are pre-empted, the notice is posted, and in a cycle after
that (log 57) every concurrent launch fails whose teams the sound cores could not hold (R49, R175). -/
def State.quarantine (s : State) (core slice : Nat) (va : Word) : State :=
  let s1 := s.modCore core (fun c => { c with quar := true, qcount := c.win, qposted := false })
  let s2 := (s1.quarOut core).post (marginRecord 0x102 core 0 0 slice ((s1.core core).reg 0x32) va)
  (s2.launches.filter (fun l => l.2.desc.prog == 2 && !s2.stillHolds l.1 l.2)).foldl
    (fun s l => s.tick.failLaunch l.1 4) s2

/-- The slice of a core that counted the most timing events of the window, the lowest on a tie (R221). -/
def Core.worst (c : Core) : Nat :=
  (List.range 6).foldl (fun a n => if (c.slice a).teWin < (c.slice n).teWin then n else a) 0

/-- At offset 0 in hardware mode, past half of QTHR, the headgate steps the worst slice's ratio down, at most
once a window (R221). -/
def State.headgateStep (s : State) (core : Nat) : State :=
  let c := s.core core
  if s.mgnHw core && c.ofs == 0 && decide (c.qthr / 2 < c.win) && !c.stepped then
    let n := c.worst
    (s.modCore core (fun c => { c with stepped := true })).writeRatio core n (max 1 ((c.slice n).target - 1))
  else s

/-- A timing event (R213 to R218): the victim and the words issued behind it are squashed and the bubble starts, unless
what it hit is repeated alone, and the event is counted and may bring limp mode, escalation or quarantine. The window
count stops at 0xFFFF, and a slice's count too takes the events at offset 0 alone (R218, R221, log 27). -/
def State.timing (s : State) (core slice : Nat) (victim : Sel) (behind : List Sel) : State :=
  match s.hit core slice victim with
  | none => s
  | some h =>
    let c := s.core core
    let limp := (c.slice slice).limp || c.quar
    let run := State.issueRun core slice (if h.alone then [] else if h.squash then victim :: behind else behind) s
    let s1 := h.s.squashAll s run.2 core slice (if h.squash then some h.count else none) run.1
    let s2 := s1.modGrp victim (fun g => { g with te := g.te + 1 })
    let s3 := s2.modCore core (fun k =>
      { k with tecnt := k.tecnt + 1, win := if c.ofs = 0 then min (k.win + 1) 0xFFFF else k.win }.modSlice slice
        (fun l => { l with bubble := l.bubble || !h.alone, teWin := if c.ofs = 0 then l.teWin + 1 else l.teWin
                           limp := l.limp || decide (c.replim ≤ h.count) }))
    let s4 := s3.emit core [33] (s3.recOf victim 0x05
      [h.va, BitVec.ofNat 64 h.count, if limp then 1 else 0])
    let s5 := if limp && decide (0 < c.ofs) then s4.escalate core slice h.va else s4
    if c.ofs ≠ 0 then s5
    else
      (if !c.quar && decide (c.qthr < (s5.core core).win) then s5.quarantine core slice h.va else s5).headgateStep core

/-- TIMING_EVENT (R213). -/
def execTimingEvent (core slice : Nat) (victim : Sel) (behind : List Sel) (s : State) :
    Host.Outcome State Fault Refusal := .next (s.timing core slice victim behind).tick

/-! The gate and completions. -/

/-- EGRESS_GATE_RELEASE (R215): a store leaves the gate, and comes as far towards its points of coherence as this step
takes it (R141, R144). -/
def execEgressGateRelease (core op : Nat) (s : State) : Host.Outcome State Fault Refusal :=
  .next (s.leaveGate core op).tick

/-- OPERATION_COMPLETION (R32). -/
def execOperationCompletion (core op : Nat) (s : State) : Host.Outcome State Fault Refusal :=
  .next (s.completeOp core op).tick

/-! Clock bins. -/

/-- DIECLK takes a request (R237): a bin that the fuses do not populate is ignored, and so is the bin in force
while nothing is pending. -/
def State.writeBin (s : State) (die bin : Nat) : State :=
  let d : DieClk := AMap.get {} s.dies die
  if 8 ≤ die ∨ Config.binFreq bin = 0 then s
  else if !d.pend && bin == d.cur then s
  else { s with dies := AMap.set {} s.dies die { d with req := bin, pend := true } }

/-- DIECLK_WRITE (R237). -/
def execDieclkWrite (die : Nat) (x : Word) (s : State) : Host.Outcome State Fault Refusal :=
  .next (s.writeBin die (bits x 3 0)).tick

/-- BIN_DEADLINE (R237). -/
def execBinDeadline (die : Nat) (s : State) : Host.Outcome State Fault Refusal :=
  let d : DieClk := AMap.get {} s.dies die
  .next (if d.pend then
      { s with dies := AMap.set {} s.dies die { d with due := true } }.forceOut
    else s).tick

/-- The clock of a die switches once no team is resident on it (R211, R237). -/
def State.switchBin (s : State) (die : Nat) : State :=
  let d : DieClk := AMap.get {} s.dies die
  let cores := (List.range 48).map (48 * die + ·)
  if d.pend && cores.all (fun c => (s.resident c).isEmpty) then
    let s1 := cores.foldl (fun s c => s.modCore c (fun k => k.lower 0)) s
    { s1 with dies := AMap.set {} s1.dies die { req := d.req, cur := d.req } }
  else s

/-- BIN_SWITCH (R237). -/
def execBinSwitch (die : Nat) (s : State) : Host.Outcome State Fault Refusal := .next (s.switchBin die).tick

/-! Margin registers. -/

/-- MGNCTL takes a value that keeps its limits (R219): OMAX caps the offset at once, HOFS acts in host-assisted
mode, and in a quarantine nothing changes the offset (R218). `hwMode` is the mode in force after the write (R242). -/
def Core.writeMgnctl (c : Core) (hwMode : Bool) (x : Word) : Core :=
  let quiet := bits x 31 24
  if quiet = 0 then c
  else
    let c1 := { c with hofs := bits x 4 0, omax := bits x 12 8, hw := bit x 16, quiet := quiet }
    if c.quar then c1
    else if hwMode then (if c1.omax < c1.ofs then c1.lower c1.omax else c1)
    else c1.setOfs (min c1.hofs c1.omax)

/-- The mode of margin control that is in force on a core after HW takes a value: a team that is resident keeps the
core in its own (R242). -/
def State.modeWith (s : State) (core : Nat) (hw : Bool) : Bool :=
  if (s.eldest core).isSome then s.mgnHw core else hw

/-- MGNCTL of a core takes a value. -/
def State.writeMgnctl (s : State) (core : Nat) (x : Word) : State :=
  s.modCore core (fun c => c.writeMgnctl (s.modeWith core (bit x 16)) x)

/-- MGNCTL_WRITE (R219). -/
def execMgnctlWrite (core : Nat) (x : Word) (s : State) : Host.Outcome State Fault Refusal :=
  .next (s.told (fun s => s.writeMgnctl core x)).tick

/-- QSTAT is W1C (R219): ones clear bits of the window count, and a one at Q ends a quarantine (R218). -/
def Core.clearQuar (c : Core) (x : Word) : Core :=
  let c1 := { c with qcount := (BitVec.ofNat 16 c.qcount &&& ~~~x.extractLsb' 32 16).toNat }
  if bit x 0 && c.quar then
    { c1 with quar := false, win := 0, qposted := false
              slices := (AMap.mapVal c.slices (fun _ l => { l with limp := false })).filter (fun l => l.2 != {}) }
  else c1

/-- QSTAT_CLEAR (R218). -/
def execQstatClear (core : Nat) (x : Word) (s : State) : Host.Outcome State Fault Refusal :=
  .next (s.told (fun s => s.modCore core (fun c => c.clearQuar x))).tick

end Sys2Proof.Machine
end

