-- ==== Sys2Proof/Machine/HostRecord.lean ====
section
/-! DEFINITION. What the host writes of a stopped or halted group (R207, R208, R235): its record, its vector registers
and its part of the scratchpad. The writes are kept with the group, a read shows them, and they take effect when the
group resumes. -/

namespace Sys2Proof.Machine

/-! Writes of the record. -/

/-- The group with a stack of meld levels, level 1 first, as its current one or the one set aside. -/
def Group.putStack (g : Group) (aside : Bool) (ls : List MeldLevel) : Group :=
  if g.hnd.isSome && !aside then { g with hmeld := ls.reverse }
  else if g.hnd.isSome || !aside then { g with meld := ls.reverse } else g

/-- FLOOR likewise, which never passes DEPTH (R50). -/
def Group.putFloor (g : Group) (aside : Bool) (n : Nat) : Group :=
  let fl := min n (g.stack aside).length
  if g.hnd.isSome && !aside then { g with hfloor := fl }
  else if g.hnd.isSome || !aside then { g with floor := fl } else g

/-- A stack cut or grown to a depth of at most 4. -/
def restack (ls : List MeldLevel) (n : Nat) : List MeldLevel :=
  (ls ++ List.replicate 4 ({ region := 0, saved := 0 } : MeldLevel)).take (min n 4)

/-- A word of a meld stack is written, where the level is open. -/
def Group.putMeldWord (g : Group) (aside : Bool) (k : Nat) (x : Word) : Group :=
  g.putStack aside ((g.stack aside).modify (k / 2) (fun m =>
    if k % 2 = 0 then { m with region := x } else { m with saved := x }))

/-- The lanes parked at the join of a record are written: each parked fragment keeps those of its lanes that are named,
and the first takes those that no other has. -/
def Group.putParked (g : Group) (r : SplitRec) (x : Word) : Group :=
  let at_ (f : Frag) : Bool := f.split == some r.id && f.st == .joined
  match g.frags.find? (fun f => at_ f.2) with
  | none => g
  | some (k, _) =>
    let rest := (g.frags.filter (fun f => f.1 != k && at_ f.2)).foldl (fun a f => a ||| f.2.exec) 0
    { g with frags := AMap.mapVal g.frags (fun n f =>
        if at_ f then { f with exec := (if n = k then x &&& ~~~rest else f.exec &&& x) &&& g.live } else f) }

/-- A word of an open split record is written: its join, its lanes, the lanes parked at the join, or its mode. -/
def Group.putSplitWord (g : Group) (aside : Bool) (n k : Nat) (x : Word) : Group :=
  match (g.records aside)[n]? with
  | none => g
  | some r =>
    let put (h : SplitRec → SplitRec) : Group :=
      { g with splits := g.splits.map (fun y => if y.id = r.id then h y else y) }
    match k with
    | 0 => put (fun y => { y with join := x })
    | 1 => put (fun y => { y with lanes := x })
    | 2 => g.putParked r x
    | _ => put (fun y => { y with serial := bit x 0 })

/-! The split stack. -/

/-- A record opens inside the innermost one of the current stack or of the one set aside, round the fragments that stand
there. -/
def Group.openRecord (g : Group) (aside : Bool) : Group :=
  let inner := (g.records aside).getLast?
  let inH := g.hnd.isSome && !aside
  let here (f : Frag) : Bool := f.inH == inH && f.split == inner.map (·.id)
  let fs := g.frags.filter (fun f => here f.2)
  let r : SplitRec :=
    { id := g.nextRec, parent := inner.map (·.id), join := 0, lanes := fs.foldl (fun a f => a ||| f.2.exec) 0,
      outer := inner.elim g.live (·.lanes), serial := false, home := false, key := fs.head?.elim 0 (·.1), inH := inH }
  { g with
    splits := g.splits ++ [r], nextRec := g.nextRec + 1
    frags := AMap.mapVal g.frags (fun _ f => if here f then { f with split := some r.id, mask := f.exec } else f) }

/-- Records close: the fragments of each go on in the innermost record round it that stays. -/
def Group.closeRecords (g : Group) (gone : List Nat) : Group :=
  { g with
    splits := g.splits.filter (fun r => !gone.contains r.id)
    frags := AMap.mapVal g.frags (fun _ f =>
      if f.split.any gone.contains then
        { f with split := ((g.recs f).find? (fun r => !gone.contains r.id)).map (·.id)
                 st := if f.st == .joined then .running else f.st }
      else f) }

/-- The split depth is written (R208): the records past it close, or records open up to 16. -/
def Group.putDepth (g : Group) (aside : Bool) (n : Nat) : Group :=
  let rs := g.records aside
  if aside && g.hnd.isNone then g
  else if n < rs.length then g.closeRecords ((rs.drop n).map (·.id))
  else (List.range (min n 16 - rs.length)).foldl (fun g _ => g.openRecord aside) g

/-! Fragments. -/

/-- A fragment goes on at another VA, as at a clause boundary; the same VA changes nothing. -/
def Frag.goTo (f : Frag) (x : Word) : Frag :=
  if f.pos.pc = x then f else { f with pos := { pc := x }, stall := none, re := [] }

/-- The state word of a fragment is written, in the numbers of `Group.fragState`. -/
def Frag.putState (f : Frag) (x : Word) : Frag :=
  { f with st := if bits x 2 0 = 0 then .running else if bits x 2 0 = 1 then .joined else .waiting, entry := bit x 3 }

/-- Slots of the record open up to slot `n` (R208): fragments with no lane yet, in the innermost record. -/
def Group.openSlots (g : Group) (n : Nat) : Group :=
  (List.range (min (n + 1) 64 - g.frags.length)).foldl (fun g _ =>
    { g with
      nextKey := g.nextKey + 1
      frags := AMap.insert g.frags g.nextKey
        { key := g.nextKey, entry := true, inH := g.hnd.isSome, split := (g.records false).getLast?.map (·.id) } }) g

/-- The place, the lanes or the state of a fragment are written. -/
def Group.putFragWord (g : Group) (n k : Nat) (x : Word) : Group :=
  let g1 := g.openSlots n
  match g1.frags[n]? with
  | none => g1
  | some f =>
    g1.modFrag f.1 (fun f =>
      match k with
      | 0 => f.goTo x
      | 1 => { f with exec := x &&& g.live, mask := f.mask ||| x &&& g.live }
      | _ => f.putState x)

/-! The word at 0x050. -/

/-- Every cause (R188 to R191). -/
def allCauses : List Cause :=
  [MemKind.load, .store, .atomic, .engine].flatMap (fun k =>
    [MemReason.noncanon, .wrap, .windowMiss, .windowPerm, .windowCross, .misalign, .pageInvalid, .pagePerm,
     .formatAtomic, .engineRange, .scratchRange, .vaultRange, .ioSize, .uncorrectable].map (Cause.mem k)) ++
  (List.range 63).map (fun n => Cause.arith (BitVec.ofNat 6 (n + 1))) ++
  [InstrCause.illegalOpc, .reservedField, .badHeader, .notHeader, .headerPos, .regRange, .formatCode, .meldDepth,
   .meldOp, .meldSplit, .pttIndex, .pttTarget, .trretOutside, .badTstat, .priv, .width, .flagField].map Cause.instr ++
  [ViewCause.closed, .busy, .record, .dirQuota, .oob, .xdrop, .grantBad, .barState, .carve, .xlzFormat, .xlzCap,
   .table].map Cause.view ++
  [.marginEscalate, .marginQuarantine, .doubleFault, .faultLoop, .poolEmpty, .hostResume] ++
  (List.range 64).map (fun n => Cause.soft (BitVec.ofNat 6 n))

/-- The trap that the trap registers name (R192), where their cause is one. -/
def Group.trapNamed (g : Group) : Option TrapInfo :=
  (allCauses.find? (fun c => c.code == g.tcause.toNat)).map (fun c =>
    { cause := c, pc := g.tpc, va := g.tva, lanes := g.tlanes, stat := g.tstat, next := g.tnext })

/-- The bit `in handler` is written (R208). Cleared, the handler's stacks and fragments become the group's own; set, the
current ones become the handler's, with nothing set aside, and the trap is the one that the trap registers name. -/
def Group.putInHandler (g : Group) (b : Bool) : Group :=
  match g.hnd, b with
  | some _, false =>
    { g with
      hnd := none, meld := g.hmeld, floor := g.hfloor, hmeld := [], hfloor := 0
      splits := (g.splits.filter (·.inH)).map (fun r => { r with inH := false })
      frags := AMap.mapVal g.frags (fun _ f =>
        if f.inH then { f with inH := false }
        else { f with split := none, st := if f.st == .joined then .running else f.st }) }
  | none, true =>
    match g.main, g.trapNamed with
    | some (_, f), some ti =>
      { g with
        hnd := some { frag := { f with split := none }, info := ti, entry := f.exec, word := { pc := g.tpc }, cont := f.pos }
        hmeld := g.meld, hfloor := g.floor, meld := [], floor := 0
        splits := g.splits.map (fun r => { r with inH := true })
        frags := AMap.mapVal g.frags (fun _ f => { f with inH := true }) }
    | _, _ => g
  | _, _ => g

/-- The bit `trap pending` is written (R208): cleared, no trap is held; set, the fragment in the group's slot holds the
trap that the trap registers name. -/
def Group.putHeld (g : Group) (b : Bool) : Group :=
  if !b then { g with frags := AMap.mapVal g.frags (fun _ f => { f with held := none }) }
  else if g.frags.any (fun f => f.2.held.isSome) then g
  else
    match g.main, g.trapNamed with
    | some (k, f), some ti =>
      let word : Pos := if f.pos.pc = g.tpc then f.pos else { pc := g.tpc }
      g.modFrag k (fun f => { f with held := some (ti, word, word.next) })
    | _, _ => g

/-- The bit `parked` is written (R208): cleared, the fragment in the group's slot is parked no more. Where it stands is
told by the other words of the record, so that setting it parks nothing. -/
def Group.putParkedBit (g : Group) (b : Bool) : Group :=
  match g.main with
  | none => g
  | some (k, f) => if b || !f.isParked then g else g.modFrag k (fun f => { f with st := .running, stall := none })

/-- The word at 0x050 is written (R208): first whether the group is in its handler, then its other bits. Bits 15 and 23
change with the resume itself. -/
def Group.putBits (g : Group) (x : Word) : Group :=
  let g0 := g.putInHandler (bit x 14)
  let g1 := (List.range 8).foldl (fun g n => g.setGp n (bit x n)) g0
  let g2 := g1.putStack false (restack (g1.stack false) (bits x 10 8))
  let g3 := (((g2.putFloor false (bits x 13 11)).putDepth false (bits x 22 18)).putHeld (bit x 17)).putParkedBit (bit x 16)
  { g3 with idle := bit x 24, wake := bit x 25, stepOn := bit x 26, loops := bits x 29 27 }

/-! The record. -/

/-- The word at a byte offset of the group record is written (R208, R235). -/
def Group.putRecord (g : Group) (width off : Nat) (x : Word) : Group :=
  let main (h : Frag → Frag) : Group := match g.main with | none => g | some f => g.modFrag f.1 h
  let i (base : Nat) : Nat := (off - base) / 8
  if off < 0x008 then main (fun f => f.goTo x)
  else if off < 0x010 then main (fun f => { f with exec := x &&& g.live })
  else if off < 0x018 then { g with live := x &&& widthMask width }
  else if off < 0x050 then g.setP (i 0x018 + 1) (widthMask width) x
  else if off < 0x058 then g.putBits x
  else if off < 0x068 then
    (List.range 8).foldl (fun g j =>
      let n := off - 0x058 + j
      if n < 12 then { g with k := AMap.set 0 g.k n (bits x (8 * j + 5) (8 * j)) } else g) g
  else if off < 0x070 then { g with gstat := x.extractLsb' 0 8 }
  else if off < 0x078 then { g with tarm := x.extractLsb' 0 8 }
  else if off < 0x080 then { g with thr := bit x 0, thrp := bit x 32 }
  else if off < 0x088 then { g with evvec := x }
  else if off < 0x0C8 then g.putMeldWord false (i 0x088) x
  else if off < 0x2C8 then g.putSplitWord false (i 0x0C8 / 4) (i 0x0C8 % 4) x
  else if off < 0x8C8 then g.putFragWord (i 0x2C8 / 3) (i 0x2C8 % 3) x
  else if off < 0x920 then
    match i 0x8C8 with
    | 0 => { g with tvec := x }
    | 1 => { g with tcause := x &&& 0x1FF }
    | 2 => { g with tpc := x }.tpcWritten
    | 3 => { g with tva := x }
    | 4 => { g with tlanes := x &&& g.trapExec }
    | 5 => { g with tstat := x }
    | 6 => { g with hsa := x }
    | 7 => { g with loopA := (x, g.loopA.2) }
    | 8 => { g with loopA := (g.loopA.1, x) }
    | 9 => { g with loopB := (x, g.loopB.2) }
    | _ => { g with loopB := (g.loopB.1, x) }
  else if off < 0x960 then { g with h := AMap.set 0 g.h (i 0x920) x }
  else if off < 0xA60 then
    let n := i 0x960 / 2
    { g with holds := AMap.modify g.holds n (fun o => if i 0x960 % 2 = 0 then (x, o.2) else (o.1, x)) }
  else if off < 0xA68 then
    { g with holds := ((List.range 16).filter (bit x)).map (fun n => (n, (AMap.find g.holds n).getD (0, 0))) }
  else if off < 0xA70 then { g with te := x.extractLsb' 0 32 }
  else if off < 0xA78 then
    { g with lp := ((List.range 16).filter (fun n => bit x (2 * n))).map (fun n => (n, bit x (2 * n + 1))) }
  else if off < 0xA80 then
    ((g.putStack true (restack (g.stack true) (bits x 2 0))).putFloor true (bits x 5 3)).putDepth true (bits x 10 6)
  else if off < 0xAC0 then g.putMeldWord true (i 0xA80) x
  else if off < 0xCC0 then g.putSplitWord true (i 0xAC0 / 4) (i 0xAC0 % 4) x
  else if off < 0xEC0 then { g with g := AMap.set 0 g.g (i 0xCC0) x }
  else if off < 0xEC8 then { g with tnext := x }
  else g

/-! The writes that wait. -/

/-- Words of the record that others build on: the live lanes, the trap registers, by which the bits at 0x050 name a trap,
and the views held, whose origins stand before them. -/
def recordFirst (off : Nat) : Bool := off == 0x010 || (decide (0x8C8 ≤ off) && decide (off < 0x8F8)) || off == 0xA60 || off == 0xEC0

/-- The group as the host's writes of its record leave it (R235): the words that others build on first, then the rest by
rising offset. -/
def Group.edited (g : Group) (width : Nat) : Group :=
  (g.hostRec.filter (fun w => recordFirst w.1) ++ g.hostRec.filter (fun w => !recordFirst w.1)).foldl
    (fun g w => g.putRecord width w.1 w.2) g

/-- A lane of a vector register as the host reads it. -/
def Group.hostLane (g : Group) (r l : Nat) : Lane := (AMap.find g.hostVec (64 * r + l)).getD (g.vReg r l)

/-- A byte of the scratchpad as the host reads it through a group. -/
def Team.hostByte (t : Team) (g : Group) (o : Nat) : Byte := (AMap.find g.hostScr o).getD (t.scrRd o)

/-- The writes that wait take effect in the group (R235): slots that the host opened and gave no lane close again. -/
def Group.landed (g : Group) (width : Nat) : Group :=
  let g1 := g.edited width
  { g1 with
    frags := g1.frags.filter (fun f => decide (f.1 < g.nextKey) || f.2.exec != 0)
    v := g.hostVec.foldl (fun m x => AMap.set 0 m x.1 x.2) g1.v
    hostRec := [], hostVec := [], hostScr := [] }

/-- The writes that wait at a group take effect (R235); one of the scratchpad past the end of the carve, as it stands by
then, has no place (R45). -/
def State.landHost (s : State) (w : Sel) : State :=
  s.modTeam w.tid (fun t =>
    match AMap.find t.groups w.grp with
    | none => t
    | some g =>
      ((g.hostScr.filter (fun b => decide (b.1 < t.scrBytes))).foldl (fun t b => t.scrWr b.1 b.2) t).modGrp w.grp
        (fun g => g.landed t.desc.width))

end Sys2Proof.Machine
end

