-- ==== Sys2Proof/Machine/DebugHost.lean ====
section
/-! DEFINITION. The host's debug access to a group through its core window (R200, R226, R232, R235), with the
matrix steps, pipe jobs and resumptions for which its commands wait (R94, R99, R209), and wakes (R297). -/

namespace Sys2Proof.Machine

/-! The selected group. -/

/-- The group that DBGSEL selects on a core (R235). -/
def State.selected (s : State) (core : Nat) : Option (Sel × Team × Group) :=
  let x := (s.core core).dbgsel
  match s.inSlotOf core (bits x 5 0) with
  | none => none
  | some (tid, t) =>
    match AMap.find t.groups (bits x 13 8) with
    | none => none
    | some g => if g.core = core then some ({ tid := tid, grp := bits x 13 8, frag := 0 }, t, g) else none

/-- The selected group, where it is stopped or halted, so that the host may reach its state (R235). -/
def State.opened (s : State) (core : Nat) : Option (Sel × Team × Group) :=
  match s.selected core with
  | none => none
  | some x => if x.2.2.stopped || x.2.2.halted then some x else none

/-! Vector registers and the scratchpad. -/

/-- The register and the lane that DBGVSEL selects. -/
def vselOf (x : Word) : Nat × Nat × Bool := (bits x 7 0, bits x 13 8, bit x 16)

/-- DBGVSEL after an access with INC (R235). -/
def vselNext (width : Nat) (x : Word) : Word :=
  let (r, l, inc) := vselOf x
  if !inc then x
  else if l + 1 < width then BitVec.ofNat 64 (r + (l + 1) * 2 ^ 8 + 2 ^ 16)
  else BitVec.ofNat 64 ((r + 1) % 256 + 2 ^ 16)

/-- A host read leaves its bytes with the host. -/
def State.toHost (s : State) (bs : List Byte) : State := { s with hostOut := s.hostOut ++ [bs] }

/-- An access to DBGVDATA (R235): a read with no data, or a write. DBGVSEL steps by the width of the selected group, or
by 64 lanes where DBGSEL names none (log 54). -/
def State.vdata (s : State) (core : Nat) (data : Option Word) : State :=
  let x := (s.core core).dbgvsel
  let (r, l, _) := vselOf x
  let width := match s.selected core with | none => 64 | some (_, t, _) => t.desc.width
  let s1 := s.modCore core (fun c => { c with dbgvsel := vselNext width x })
  match s.opened core with
  | none => match data with | none => s1.toHost (leBytes 8 0) | some _ => s1
  | some (w, t, g) =>
    let ok := decide (r < t.regs) && decide (l < t.desc.width)
    match data with
    | none => s1.toHost (leBytes 8 (if ok then (g.hostLane r l).toNat else 0))
    | some d =>
      if ok then s1.modGrp w (fun g => { g with hostVec := AMap.insert g.hostVec (64 * r + l) (d.extractLsb' 0 32) })
      else s1

/-- DBGVDATA_ACCESS (R235). -/
def execDbgvdataAccess (core : Nat) (data : Option Word) (s : State) : Host.Outcome State Fault Refusal :=
  .next (s.told (fun s => s.vdata core data)).tick

/-- An access to DBGSDATA (R235): 8 bytes of the part of the team's carve on the core. -/
def State.sdata (s : State) (core : Nat) (data : Option Word) : State :=
  let x := (s.core core).dbgsaddr
  let s1 := s.modCore core (fun c => { c with dbgsaddr := x + 8 })
  match s.opened core with
  | none => match data with | none => s1.toHost (leBytes 8 0) | some _ => s1
  | some (w, t, g) =>
    let part := t.scrPart core
    let o := part.1 + x.toNat
    let ok := decide (x.toNat + 8 ≤ part.2)
    match data with
    | none => s1.toHost (if ok then (List.range 8).map (fun i => t.hostByte g (o + i)) else leBytes 8 0)
    | some d =>
      if ok then
        s1.modGrp w (fun g => { g with
          hostScr := (List.range 8).foldl (fun m i => AMap.insert m (o + i) (d.extractLsb' (8 * i) 8)) g.hostScr })
      else s1

/-- DBGSDATA_ACCESS (R235). -/
def execDbgsdataAccess (core : Nat) (data : Option Word) (s : State) : Host.Outcome State Fault Refusal :=
  .next (s.told (fun s => s.sdata core data)).tick

/-! Commands. -/

/-- A halted group enters its handler again (R200): in its handler with what the first entry set aside, else as
at a first entry. -/
def State.unhalt (s : State) (w : Sel) : State :=
  match s.grp? w with
  | none => s
  | some g =>
    match g.haltRec with
    | none => s
    | some (ti, word, cont) =>
      let up (g : Group) : Group := { g with halted := false, haltRec := none }
      match g.hnd with
      | some h =>
        s.modGrp w (fun g =>
          let g1 := up (g.setTrap .hostResume h.info)
          let f : Frag := ((AMap.find g.frags h.frag.key).getD h.frag)
          { g1 with
            frags := AMap.insert (g1.frags.filter (fun f => !f.2.inH)) h.frag.key
              { f with inH := true, exec := h.entry &&& g.live, pos := { pc := g.tvec }, split := none, re := [],
                       held := none, stall := none, st := .running, entry := h.frag.entry }
            splits := g1.splits.filter (fun r => !r.inH)
            hmeld := [], hfloor := 0, hnd := some { h with tpcWritten := false } })
      | none =>
        let s1 := s.modGrp w up
        match s1.envOf { w with frag := g.haltKey } with
        | none => s1
        | some e => s1.enter e .hostResume ti word cont

/-- A map with the entries that a word changed put back (R232). -/
def undoMap {α : Type} [DecidableEq α] (before after now : AMap α) : AMap α :=
  now.putBack before ((before.map (·.1) ++ after.map (·.1)).eraseDups.filter (fun k =>
    decide (AMap.find before k ≠ AMap.find after k)))

/-- The entries of `v` that the word left pending. -/
def Undo.vKeys (u : Undo) : List Nat :=
  (u.dests.filter (· < 256)).flatMap (fun r => (lanesOf u.lanes).map (64 * r + ·))

/-- The registers it left pending that the scoreboard numbers from `lo` below `hi`, from 0 on. -/
def Undo.keys (u : Undo) (lo hi : Nat) : List Nat :=
  (u.dests.filter (fun r => decide (lo ≤ r) && decide (r < hi))).map (· - lo)

/-- The flag counters with what the word did to them taken back, never above what they hold now: an operation that has
completed since counts no more. -/
def undoFlags (b a g : Group) : AMap Nat :=
  (List.range 12).foldl (fun m n => if b.flag n = a.flag n then m else AMap.set 0 m n (min (b.flag n) (g.flag n))) g.k

/-- The group before a trap that was entered after the word, by the fragment that issued it: the handler is left, and a
deferred fault waits again (R231, R232, R340). -/
def Group.beforeTrap (g : Group) (u : Undo) : Group :=
  match g.hnd with
  | none => g
  | some h =>
    if u.after.hnd.isNone && h.frag.key == u.frag then
      let g1 := g.leave h h.cont h.frag.exec h.frag.re
      if h.deferred then { g1 with deferred := { info := { h.info with next := 0 }, cl := h.word.cl } :: g1.deferred } else g1
    else g

/-- A fragment stands at a word that it has issued before: a resume issues it without a test, and nothing else that was to
issue again is (R226). -/
def Group.backAt (g : Group) (k : Nat) : Group :=
  match AMap.find g.frags k with
  | none => g
  | some f => { g with again := f.issueKey k :: g.again.filter (fun x => x.frag != k) }

/-- The group with what a word wrote put back, and the fragment back at the word (R231, R232). -/
def Group.undo (now : Group) (u : Undo) : Group :=
  let g := now.beforeTrap u
  let b := u.before
  let a := u.after
  let pick {α : Type} [DecidableEq α] (f : Group → α) : α := if f b = f a then f g else f b
  let moved := b.splits != a.splits || b.frags.map (·.1) != a.frags.map (·.1)
  let (meld, floor) := pick (fun g => (g.meld, g.floor))
  let (hmeld, hfloor) := pick (fun g => (g.hmeld, g.hfloor))
  let flags := b.gstat ^^^ a.gstat
  let g1 : Group :=
    { g with
      v := (undoMap b.v a.v g.v).putBack b.v u.vKeys, p := undoMap b.p a.p g.p
      g := (undoMap b.g a.g g.g).putBack b.g (u.keys 256 320)
      gp := (undoMap b.gp a.gp g.gp).putBack b.gp (u.keys 328 336)
      k := undoFlags b a g, h := (undoMap b.h a.h g.h).putBack b.h (u.keys 320 328)
      holds := undoMap b.holds a.holds g.holds
      lp := undoMap b.lp a.lp g.lp
      live := pick (·.live), meld := meld, hmeld := hmeld, floor := floor, hfloor := hfloor
      gstat := (g.gstat &&& ~~~flags) ||| (b.gstat &&& flags), tarm := pick (·.tarm), thr := pick (·.thr)
      thrp := pick (·.thrp), evvec := pick (·.evvec), tvec := pick (·.tvec), tcause := pick (·.tcause)
      tpc := pick (·.tpc), tva := pick (·.tva), tlanes := pick (·.tlanes), tstat := pick (·.tstat)
      hsa := pick (·.hsa), tnext := pick (·.tnext), hnd := pick (·.hnd), stepOn := pick (·.stepOn) }
  if moved then { g1 with splits := b.splits, frags := b.frags }
  else
    match AMap.find b.frags u.frag with
    | none => g1
    | some f => g1.modFrag u.frag (fun h =>
        { h with pos := f.pos, exec := f.exec, re := f.re, inH := f.inH, split := f.split, mask := f.mask, st := f.st
                 entry := f.entry, stall := none, held := f.held, retry := f.retry })

/-- The group has a matrix loop or a pipe job in flight on a core. -/
def State.flying (s : State) (core : Nat) (w : Sel) : Bool :=
  (s.core core).loops.any (fun l => l.2.who.tid == w.tid && l.2.who.grp == w.grp) ||
  (s.grp? w).any (fun g => g.halfLoop.isSome || s.piped core g.slice w)

/-- A step back (R232): the newest entry of a stopped group's undo log is put back, its old bytes by plain stores. -/
def State.backOne (s : State) (core : Nat) (w : Sel) : State :=
  match AMap.find s.teams w.tid, s.grp? w with
  | some t, some g =>
    if !g.stopped then s
    else
      match (t.undo.filter (fun u => u.grp == w.grp && !u.opened)).getLast? with
      | none =>
        if g.hzn then
          (s.modGrp w (fun g => { g with stopCause := 0x170 })).emit core []
            (s.recOf w 0x0D [0x170, (g.main.map (·.2.pos.pc)).getD 0])
        else s
      | some u =>
        let s1 := (s.drainStores core w).perform w core
          (u.bytes.filter (fun b => !b.scr || decide (b.key < t.scrBytes)))
        s1.modTeam w.tid (fun t =>
          { t.modGrp w.grp (fun g => (g.undo u).backAt u.frag) with
            views := undoMap u.views u.viewsAfter t.views
            undo := ((t.undo.filter (fun v => !(v.grp == w.grp && v.opened))).reverse.eraseP
              (fun v => v.grp == w.grp)).reverse })
  | _, _ => s

/-- A resume (R200, R226, R235): what the host has written takes effect, and a stopped group goes on; a halted one enters
its handler, unless its record still waits or `%tvec` is 0. -/
def State.resumeNow (s : State) (w : Sel) : State :=
  match AMap.find s.teams w.tid, s.grp? w with
  | some t, some g =>
    if g.stopped then (s.landHost w).modGrp w (fun g => { g with stopped := false })
    else if g.halted && !s.recordWaits w && (g.edited t.desc.width).tvec != 0 then (s.landHost w).unhalt w
    else s
  | _, _ => s

/-- A command of the host, a step back or a resume, is carried out at a group; a step back waits, with `none`, for the
loads, atomics, pipe jobs and matrix loops that the group has issued (R226, log 64). -/
def State.obey (s : State) (core : Nat) (w : Sel) (g : Group) (back : Bool) : Option State :=
  if !back then some (s.resumeNow w)
  else
    let s1 := s.complete core g.slice w
    if s1.flying core w then none else some (s1.backOne core w)

/-- The commands of the host that wait at a group are carried out in their order. -/
def State.serveHost (core : Nat) (w : Sel) : Nat → State → State
  | 0, s => s
  | n + 1, s =>
    match s.grp? w with
    | none => s
    | some g =>
      match g.hostCmds with
      | [] => s
      | back :: rest =>
        match (s.modGrp w (fun g => { g with hostCmds := rest })).obey core w g back with
        | none => s
        | some t => State.serveHost core w n t

/-- A command of the host reaches a group, behind those that wait there. -/
def State.hostCmd (s : State) (core : Nat) (w : Sel) (g : Group) (back : Bool) : State :=
  match (if g.hostCmds == [] then s.obey core w g back else none) with
  | some t => t
  | none => s.modGrp w (fun g => { g with hostCmds := g.hostCmds ++ [back] })

/-- Operations of groups on a core have ended: commands of the host may have waited for them. -/
def State.afterOps (s : State) (core : Nat) : State :=
  s.teams.foldl (fun s t =>
    (t.2.groups.filter (fun g => g.2.core == core && g.2.hostCmds != [])).foldl (fun s g =>
      State.serveHost core { tid := t.1, grp := g.1, frag := 0 } g.2.hostCmds.length s) s) s

/-- Commands of the host wait at groups of a core. -/
def State.hostWaits (s : State) (core : Nat) : Bool :=
  s.teams.any (fun t => t.2.groups.any (fun g => g.2.core == core && g.2.hostCmds != []))

/-- DBGCMD 1 (R200, R226, R235): a command to a group that is neither stopped nor halted is ignored. -/
def State.resumeCmd (s : State) (core : Nat) : State :=
  match s.opened core with
  | none => s
  | some (w, _, g) => s.hostCmd core w g false

/-- DBGCMD_RESUME (R200, R226). -/
def execDbgcmdResume (core : Nat) (s : State) : Host.Outcome State Fault Refusal := .next (s.told (fun s => s.resumeCmd core)).tick

/-- DBGCMD 2 (R232). -/
def State.stepBack (s : State) (core : Nat) : State :=
  match s.selected core with
  | none => s
  | some (w, _, g) => if g.stopped then s.hostCmd core w g true else s

/-- DBGCMD_STEP_BACK (R232). -/
def execDbgcmdStepBack (core : Nat) (s : State) : Host.Outcome State Fault Refusal := .next (s.told (fun s => s.stepBack core)).tick

/-- Work of groups on a core has led from `s` to `t`: commands of the host that wait there are tried again. -/
def State.hostServed (s t : State) (core : Nat) : State := if s.hostWaits core then t.afterOps core else t

/-- MMLP_STEP (R94). -/
def execMmlpStep (core loop : Nat) (s : State) : Host.Outcome State Fault Refusal :=
  .next (s.hostServed (s.moveLoop core loop) core).tick

/-- PIPE_JOB_REPLY (R99): the head job of a pipe runs to its reply. -/
def execPipeJobReply (core pipe : Nat) (s : State) : Host.Outcome State Fault Refusal :=
  .next (s.hostServed (s.runJob core pipe) core).tick

/-- A team of `s` has come back to its cores in `t`: commands of the host that waited at its groups when it was saved are
tried again. -/
def State.hostBack (s t : State) (tid : Nat) : State :=
  if (AMap.find s.teams tid).any (fun u => u.place.isNone && u.groups.any (fun g => g.2.hostCmds != [])) then
    (AMap.find t.teams tid).elim t (fun u => u.cores.foldl State.afterOps t)
  else t

/-- TEAM_RESUME (R209). -/
def execTeamResume (tid core : Nat) (s : State) : Host.Outcome State Fault Refusal :=
  .next (s.hostBack (s.resumeTeam tid core) tid).tick

/-- DBGCMD 3 (R235): the launch of a stopped or halted group ends with reason 6. -/
def State.endCmdLaunch (s : State) (core : Nat) : State :=
  match s.opened core with
  | none => s
  | some (_, t, _) => s.failLaunch t.lid 6

/-- DBGCMD_END_LAUNCH (R235). -/
def execDbgcmdEndLaunch (core : Nat) (s : State) : Host.Outcome State Fault Refusal :=
  .next (s.told (fun s => s.endCmdLaunch core)).tick

/-! Wakes. -/

/-- A wake reaches a group (R297): one in `idle` goes on, another keeps it; a group that has ended drops it. -/
def Group.woken (g : Group) : Group :=
  if g.ended then g else if g.idle then { g with idle := false } else { g with wake := true }

/-- A write of WAKE (R297): the wake named by it and WAKEID. The distributor holds one for a team that is not
resident on the core. -/
def State.sendWake (s : State) (core : Nat) (x : Word) : State :=
  let id := (s.core core).wakeid
  match s.teams.find? (fun t => t.2.lid == bits x 31 0 && t.2.idx == bits id 31 0) with
  | none => s
  | some (tid, t) =>
    let w : Sel := { tid := tid, grp := bits id 37 32, frag := 0 }
    if t.onCore core then s.modGrp w Group.woken
    else s.modGrp w (fun g => if g.ended then g else { g with heldWake := true })

/-- WAKE (R297). -/
def execWake (core : Nat) (x : Word) (s : State) : Host.Outcome State Fault Refusal :=
  .next (s.told (fun s => s.sendWake core x)).tick

end Sys2Proof.Machine
end

