-- ==== Sys2Proof/Machine/HostBus.lean ====
section
/-! DEFINITION. What reaches the module from outside: the host's accesses through BAR2 and BAR4 (R233), peers
(R157, R236), the links, page moves (R129), write-backs of aperture lines (R88), and the fault ring (R235). -/

namespace Sys2Proof.Machine

/-! The host's accesses to memory. -/

/-- A link is up. -/
def State.linkUp (s : State) (linkB : Bool) : Bool := if linkB then s.linkB else s.linkA

/-- A host access error (R233, R234): INTSTAT bit 4 is set, and HAERR takes the first access since it was
clear. -/
def State.accessError (s : State) (bar4 read : Bool) (ia : Nat) : State :=
  if s.host.intstat.getLsbD 4 then s
  else
    ({ s with host := { s.host with
        haerr := BitVec.ofNat 64 (ia % 2 ^ 52 + (if bar4 then 2 ^ 62 else 0) + (if read then 2 ^ 63 else 0)) } }).latch 4

/-- The pieces of an access, none of which crosses a 128-byte line: first address and length. -/
def linePieces (a n : Nat) : List (Nat × Nat) :=
  (List.range ((a + n - 1) / 128 + 1 - a / 128)).map (fun i =>
    let lo := max a (128 * (a / 128 + i))
    (lo, min (a + n) (128 * (a / 128 + i + 1)) - lo))

/-- What a read of the host gives back, with the poisoned-data indication where it met data that ECC cannot
correct (R233). -/
def State.toHostIf (s : State) (bad : Bool) (bs : List Byte) : State :=
  if bad then { s.toHost bs with poison := s.poison ++ [s.hostOut.length] } else s.toHost bs

/-- `n` bytes in place of data that cannot be corrected. -/
def State.lostBytes (s : State) (ia n : Nat) : List Byte :=
  (List.range n).map (fun i => Config.freeByte s.fresh (300 + (ia + i) % 128))

/-- A BAR2 read of one piece: all ones where the page does not allow it, and an access error as well where its data
cannot be corrected (R233). -/
def State.bar2Piece (s : State) (ia n : Nat) : List Byte × State :=
  match s.iaRead ia n with
  | some bs => if s.iaBad ia n then (s.lostBytes ia n, s.accessError false true ia) else (bs, s)
  | none => (List.replicate n 0xFF, s.accessError false true ia)

/-- A BAR2 read (R233). -/
def State.bar2Read (s : State) (linkB : Bool) (ia n : Nat) : State :=
  if !s.answers || !s.linkUp linkB || n = 0 || decide (2 ^ 40 < ia + n) then s
  else
    let r := (linePieces ia n).foldl (fun (a : List Byte × State) p =>
      let q := a.2.bar2Piece p.1 p.2
      (a.1 ++ q.1, q.2)) ([], s)
    r.2.toHostIf ((linePieces ia n).any (fun p => s.iaBad p.1 p.2)) r.1

/-- HOST_BAR2_READ (R233). -/
def execHostBar2Read (linkB : Bool) (ia n : Nat) (s : State) : Host.Outcome State Fault Refusal :=
  .next (s.bar2Read linkB ia n).tick

/-- A BAR2 write (R233): a piece whose page does not allow it is dropped. -/
def State.bar2Write (s : State) (linkB : Bool) (ia : Nat) (data : List Byte) : State :=
  if !s.answers || !s.linkUp linkB || data.isEmpty || decide (2 ^ 40 < ia + data.length) then s
  else
    (linePieces ia data.length).foldl (fun s p =>
      if (List.range p.2).all (fun i => (s.iaKey true (p.1 + i)).isSome) then
        s.iaWrite p.1 ((data.drop (p.1 - ia)).take p.2)
      else s.accessError false false p.1) s

/-- HOST_BAR2_WRITE (R233). -/
def execHostBar2Write (linkB : Bool) (ia : Nat) (data : List Byte) (s : State) : Host.Outcome State Fault Refusal :=
  .next (s.bar2Write linkB ia data).tick

/-- A BAR4 offset reaches a vault (R126, R233). -/
def vaultAt (off : Nat) : Bool := decide (off < 2 ^ 31) && !vaultHole (2 ^ 48 + off)

/-- A BAR4 read of one piece: where no vault is, 0. The vault bytes of a line with data that cannot be corrected are
lost, and the access is recorded (R233). -/
def State.bar4Piece (s : State) (off n : Nat) : List Byte × Bool × State :=
  let lost := (List.range n).any (fun i => vaultAt (off + i) && s.bad.contains (2 ^ 48 + off + i))
  ((List.range n).map (fun i =>
    if !vaultAt (off + i) then 0
    else if lost then Config.freeByte s.fresh (300 + (off + i) % 128)
    else s.rd (2 ^ 48 + off + i)),
   lost, if lost then s.accessError true true (2 ^ 48 + off) else s)

/-- A BAR4 access, line by line (R233): vault bytes, an enabled trace buffer included; where no vault is, writes are
ignored. -/
def State.bar4 (s : State) (linkB : Bool) (off n : Nat) (data : Option (List Byte)) : State :=
  if !s.answers || !s.linkUp linkB || decide (2 ^ 31 < off + n) then s
  else
    match data with
    | none =>
      let r := (linePieces off n).foldl (fun (a : List Byte × Bool × State) p =>
        let q := a.2.2.bar4Piece p.1 p.2
        (a.1 ++ q.1, a.2.1 || q.2.1, q.2.2)) ([], false, s)
      r.2.2.toHostIf r.2.1 r.1
    | some bs =>
      ((bs.take n).zip (List.range n)).foldl (fun s b =>
        if vaultAt (off + b.2) then s.wrKey (2 ^ 48 + off + b.2) b.1 else s) s

/-- HOST_BAR4_ACCESS (R233). -/
def execHostBar4Access (linkB : Bool) (off n : Nat) (data : Option (List Byte)) (s : State) :
    Host.Outcome State Fault Refusal := .next (s.bar4 linkB off n data).tick

/-- LINK_STATE_CHANGE (R233). -/
def execLinkStateChange (linkB up : Bool) (s : State) : Host.Outcome State Fault Refusal :=
  .next (if linkB then { s with linkB := up } else { s with linkA := up }).tick

/-! Peers. -/

/-- A peer port is enabled and trained (R236). -/
def State.portUp (s : State) (port : Nat) : Bool :=
  let x := AMap.get 0 s.peers port
  bit x 0 && bit x 1

/-- An access of a peer module to device memory (R126, R157): one transaction of 1, 2, 4 or 8 bytes. What a read
of a page that does not allow it returns is not given; a write is dropped. -/
def State.peerAccess (s : State) (port ia n : Nat) (data : Option (List Byte)) : State :=
  if !s.portUp port || !(n == 1 || n == 2 || n == 4 || n == 8) || decide (2 ^ 40 < ia + n) then s
  else
    match data with
    | none => s.toHost ((s.iaRead ia n).getD ((List.range n).map (fun i => Config.freeByte s.fresh (200 + i))))
    | some bs => s.iaWrite ia (bs.take n)

/-- PEER_ACCESS_ARRIVAL (R157). -/
def execPeerAccessArrival (port ia n : Nat) (data : Option (List Byte)) (s : State) :
    Host.Outcome State Fault Refusal := .next (s.peerAccess port ia n data).tick

/-- A port finishes training, once enabled, or goes down (R236). -/
def State.portChange (s : State) (port : Nat) (up : Bool) : State :=
  let x := AMap.get 0 s.peers port
  if 16 ≤ port ∨ (up && !bit x 0) then s
  else { s with peers := AMap.set 0 s.peers port (if up then x ||| 2 else x &&& ~~~2) }

/-- PEER_PORT_STATE_CHANGE (R236). -/
def execPeerPortStateChange (port : Nat) (up : Bool) (s : State) : Host.Outcome State Fault Refusal :=
  .next (s.portChange port up).tick

/-! Page moves. -/

/-- The leaf that maps an IA: the PA of its entry, the entry, the PA of the frame and the page's size. -/
def State.leafAt (s : State) (ia : Nat) : Option (Nat × Word × Nat × Nat) :=
  let top := BitVec.ofNat 64 (s.rdNat (s.topPa ia) 8)
  match leafOf true top with
  | some l => some (s.topPa ia, top, l.pa, 2 ^ 21)
  | none =>
    match nextOf top with
    | none => none
    | some t =>
      let e := BitVec.ofNat 64 (s.rdNat (secondPa t ia) 8)
      (leafOf false e).map (fun l => (secondPa t ia, e, l.pa, 2 ^ 16))

/-- Bytes of physical memory are copied by the firmware, past the L2; only bytes that differ from an unlisted one need
work. A copy of a byte that ECC cannot correct is not correct either (R131). -/
def State.copyRange (s : State) (src dst n : Nat) : State :=
  let at_ (b : Nat) : List Nat :=
    (s.mem.filter (fun c => decide (b ≤ c.1) && decide (c.1 < b + n))).map (fun c => c.1 - b)
  let t := ((at_ src ++ at_ dst).eraseDups).foldl (fun t o => t.wrStack (dst + o) (s.rd (src + o))) s
  { t with bad := (s.bad ++ (s.bad.filter (fun k => decide (src ≤ k) && decide (k < src + n))).map
      (fun k => dst + (k - src))).eraseDups }

/-- The firmware copies a live page into a new frame, and from then on records the lines written (R129). -/
def State.moveCopy (s : State) (ia : Nat) (frame : Word) : State :=
  match s.move, s.leafAt ia with
  | none, some (_, _, pa, n) =>
    if frame.toNat % n = 0 ∧ frame.toNat < 2 ^ 40 ∧ frame.toNat ≠ pa then
      { s.copyRange pa frame.toNat n with move := some { ia := ia, frame := frame } }
    else s
  | _, _ => s

/-- PAGE_MOVE_COPY (R129). -/
def execPageMoveCopy (ia : Nat) (frame : Word) (s : State) : Host.Outcome State Fault Refusal :=
  .next (s.moveCopy ia frame).tick

/-- A byte to be written to a page of `n` bytes at an IA reaches it in its new frame (R129). -/
def StByte.rekey (ia n old new : Nat) (b : StByte) : StByte :=
  if !b.scr && b.ia / n == ia / n && decide (old ≤ b.key) && decide (b.key < old + n) then
    { b with key := new + (b.key - old) }
  else b

/-- Stores in flight to a page reach it in its new frame (R129). -/
def Core.rekey (c : Core) (ia n old new : Nat) : Core :=
  { c with ops := AMap.mapVal c.ops (fun _ o => { o with bytes := o.bytes.map (StByte.rekey ia n old new) }) }

/-- What a step back is to write to a page reaches it in its new frame (R129, R232). -/
def Team.rekey (t : Team) (ia n old new : Nat) : Team :=
  { t with undo := t.undo.map (fun u => { u with bytes := u.bytes.map (StByte.rekey ia n old new) }) }

/-- The switch (R129): the lines written meanwhile are copied, the entry names the new frame, every indirection table
holds it, and what is still to be written to the page goes to the new frame. -/
def State.moveSwitch (s : State) : State :=
  match s.move with
  | none => s
  | some m =>
    match s.leafAt m.ia with
    | none => { s with move := none }
    | some (ea, e, pa, n) =>
      let s1 := s.copyRange pa m.frame.toNat n
      let s2 := s1.wrEntry ea ((e &&& ~~~0xFFFFFF0000#64) ||| (m.frame &&& 0xFFFFFF0000#64))
      let p0 := m.ia / n * n / 2 ^ 16
      { s2 with move := none
                cores := AMap.mapVal s2.cores (fun _ c => c.rekey m.ia n pa m.frame.toNat)
                teams := AMap.mapVal s2.teams (fun _ t => t.rekey m.ia n pa m.frame.toNat)
                stale := s2.stale.filter (fun p => decide (p.1 < p0) || decide (p0 + n / 2 ^ 16 ≤ p.1)) }

/-- PAGE_MOVE_SWITCH (R129). -/
def execPageMoveSwitch (s : State) : Host.Outcome State Fault Refusal := .next s.moveSwitch.tick

/-- APERTURE_WRITEBACK (R88). -/
def execApertureWriteback (line : Nat) (s : State) : Host.Outcome State Fault Refusal :=
  .next (s.writeBack line).tick

/-- FAULT_RING_ACCEPT (R235). -/
def execFaultRingAccept (s : State) : Host.Outcome State Fault Refusal := .next s.ringAccept.tick

end Sys2Proof.Machine
end

