-- ==== Sys2Proof/Machine/Secure.lean ====
section
/-! DEFINITION. Start-up (R238), attestation (R239), alarms (R240) and provisioning (R241). -/

namespace Sys2Proof.Machine

/-! Start-up. -/

/-- What memory outside the host and the peers holds after a start: not given. -/
def State.memoryAfter (s : State) : List Host.Cell :=
  ((Config.memoryAfter s.fresh).filter (fun c => decide (c.1 < 2 ^ 50)) ++
    s.mem.filter (fun c => decide (2 ^ 50 ≤ c.1))).foldl (fun m c => AMap.set 0 m c.1 c.2) []

/-- A frame that pool `k` may hold (R307): aligned to its size, on a stack of the die. -/
def poolFrameOk (k : Nat) (p : Word) : Bool :=
  decide (p.toNat % (if k % 2 = 0 then 2 ^ 16 else 2 ^ 21) = 0 ∧ p.toNat / 2 ^ 36 / 2 = k / 2)

/-- The pools as the firmware fills them at start-up (R307). -/
def poolsAtStart : AMap (List Word) :=
  ((List.range 16).map (fun k => (k, (Config.poolFrames k).filter (poolFrameOk k)))).filter (fun p => p.2 != [])

/-- The module with all compute state discarded and every register at its reset value, but for the start and
security block, the links and what has already left the module (R238). -/
def State.restarted (s : State) : State :=
  { mem := s.memoryAfter, start := s.start, linkA := s.linkA, linkB := s.linkB, trace := s.trace, msix := s.msix,
    hostOut := s.hostOut, poison := s.poison, agenda := s.agenda, fresh := s.fresh, nextTid := s.nextTid,
    pool := poolsAtStart, frames := Config.saveFrames }

/-- OMAX of every core as a margin search finds it, and HW set: what step 5 of a cold start writes (R221, R238). -/
def StartRegs.searched (r : StartRegs) : StartRegs :=
  { r with omax := (List.range 384).foldl (fun m c => AMap.set 0 m c (Config.marginSearch c).toNat) []
           hw := (List.range 384).foldl (fun m c => AMap.set false m c true) [] }

/-- OMAX and HW of every core, retained for a warm start (R238). -/
def State.retain (s : State) : StartRegs :=
  { s.start with omax := (List.range 384).foldl (fun m c => AMap.set 0 m c (s.core c).omax) []
                 hw := (List.range 384).foldl (fun m c => AMap.set false m c (s.core c).hw) [] }

/-- OMAX and HW of the cores as a start leaves them (R221, R238). -/
def State.margins (s : State) : State :=
  (List.range 384).foldl (fun s c => s.modCore c (fun k =>
    { k with omax := AMap.get 0 s.start.omax c, hw := AMap.get false s.start.hw c })) s

/-- A start runs a step (R238): of the seven, a warm start skips the self-test, and takes the training and the margins
from retained values. -/
def stepRuns (cold : Bool) (n : Nat) : Bool := [1, 4, 6, 7].contains n || (cold && [2, 3, 5].contains n)

/-- The step at which a start fails, of those that it runs: without keys every start fails at step 7 (R240). -/
def StartRegs.failsAt (r : StartRegs) (cold : Bool) (failed : Option Nat) : Option Nat :=
  (failed.filter (stepRuns cold)).orElse (fun _ => if r.keys.isNone then some 7 else none)

/-- The start block as a start begins (R238, R240): a cold start clears the alarm level, but not before the keys are
provisioned again after level 3. No key serves until step 7. -/
def StartRegs.begin (r : StartRegs) (cold : Bool) (failed : Option Nat) : StartRegs :=
  { r with alLevel := if cold && r.keys.isSome then 0 else r.alLevel
           atBusy := false, atDone := false, provBusy := false, served := none
           phase := if cold then .cold else .warm
           run := some (cold, failed) }

/-- A start that has failed (R238): three failed cold starts in a row enter safe mode, and three failed warm
starts force a cold start, which begins at once. -/
def StartRegs.failed (r : StartRegs) (cold : Bool) (step : Nat) : StartRegs :=
  if cold then
    { r with lastFail := step, coldFail := min (r.coldFail + 1) 3, run := none
             phase := if 3 ≤ r.coldFail + 1 then Phase.safe else Phase.off }
  else if 3 ≤ r.warmFail + 1 then { r with lastFail := step, warmFail := 3 }.begin true none
  else { r with lastFail := step, warmFail := r.warmFail + 1, run := none, phase := .off }

/-- In safe mode every function runs host-assisted (R238, R242), and the offset of every core is 0, with HW and HOFS clear
(R221). -/
def State.assisted (s : State) : State :=
  if s.start.phase = .safe then
    { s with
      host := { s.host with place := true, fwprog := true, fsmode := 0, trcBuf := true }
      cores := AMap.mapVal s.cores (fun _ c => { c with hw := false, hofs := 0 }.setOfs 0) }
  else s

/-- What a start has found of the margins when it ends at a step: past step 5 a cold start has searched them (R238). -/
def StartRegs.upTo (r : StartRegs) (cold : Bool) (step : Nat) : StartRegs := if cold && decide (5 < step) then r.searched else r

/-- A start fails at a step (R238): past step 5 the cores hold their OMAX and HW. A cold start that this forces begins like
any other, with the compute state discarded. -/
def State.startFails (s : State) (r : StartRegs) (cold : Bool) (step : Nat) : State :=
  let r1 := (r.upTo cold step).failed cold step
  (if r1.run.isSome then { s.restarted with start := r1 }
   else if 5 < step then { s with start := r1 }.margins else { s with start := r1 }).assisted

/-- A start begins (R238): the module restarts and all compute state is discarded. What the cores held of the margin
is retained. -/
def State.boot (s : State) (cold : Bool) (failed : Option Nat) : State :=
  let r := if s.start.phase = .running then s.retain else s.start
  { s.restarted with start := r.begin cold failed }

/-- The start under way ends (R238): as failed at the first step that fails; else the module runs. -/
def State.bootEnd (s : State) (cold : Bool) (failed : Option Nat) : State :=
  let r := s.start
  match r.failsAt cold failed with
  | some n => s.startFails r cold n
  | none =>
    ({ s with start :=
        { r.upTo cold 8 with
          phase := .running, warmFail := 0, coldFail := 0, run := none, served := r.keys } }).margins

/-- POWER_ON_START (R238): power-up begins a cold start. While a start is under way, the event is its end: it fails at
the step that its beginning named, or that this event names. -/
def execPowerOnStart (failed : Option Nat) (s : State) : Host.Outcome State Fault Refusal :=
  match s.start.run with
  | some (cold, f) => .next (s.bootEnd cold (f.orElse (fun _ => failed))).tick
  | none => .next (if s.start.phase = .off then s.boot true failed else s).tick

/-- A warm start (R238): with invalid retained values, or forced after three failed ones, it runs as a cold start. -/
def State.warmStart (s : State) (failed : Option Nat) : State :=
  s.boot (!Config.retained s.fresh || decide (3 ≤ s.start.warmFail)) failed

/-- STCMD_WARM (R238). -/
def execStcmdWarm (failed : Option Nat) (s : State) : Host.Outcome State Fault Refusal :=
  .next (s.warmStart failed).tick

/-- STCMD_COLD (R238). -/
def execStcmdCold (failed : Option Nat) (s : State) : Host.Outcome State Fault Refusal :=
  .next (s.boot true failed).tick

/-! Alarms. -/

/-- An alarm is recorded in ALSTAT, and ends a start under way as failed (R240). At which of its steps the start stood is
not given. -/
def State.alarmLog (s : State) (level source : Nat) : State :=
  let r := { s.start with alLevel := max s.start.alLevel level, alSource := source % 256 }
  match r.run with
  | none => { s with start := r }
  | some (cold, _) =>
    let steps := (List.range 8).filter (stepRuns cold)
    s.startFails r cold (steps.getD ((Config.freeWord s.fresh 111).toNat % steps.length) 7)

/-- A level-1 alarm (R240): a log entry. The number of its source is not given. -/
def State.alarm1 (s : State) : State := s.alarmLog 1 (Config.freeWord s.fresh 110).toNat

/-- The groups of the resident teams. -/
def State.everyGroup (s : State) : List Sel :=
  s.teams.flatMap (fun t => if t.2.place.isNone then []
    else t.2.groups.map (fun g => { tid := t.1, grp := g.1, frag := 0 }))

/-- The causes of a debug stop (R188, R191, R224, R225, R232): a comparator's, that of `brk`, the step and the horizon. -/
def stopCauses : List Nat := (List.range 16).map (0x140 + ·) ++ (List.range 15).map (0x150 + ·) ++ [0x160, 0x170]

/-- Every group stops as at R226, each with its record. Which cause of a debug stop it has is not given. -/
def State.stopAll (s : State) : State :=
  let c := stopCauses.getD ((Config.freeWord s.fresh 112).toNat % stopCauses.length) 0x160
  s.everyGroup.foldl (fun s w => s.stopGroup w (BitVec.ofNat 9 c)) s

/-- An alarm of level 2 or 3 (R240): every group stops, admission ends, the module answers only through the start
and security block, and the host is told; level 3 first erases the keys. -/
def State.alarm (s : State) (level source : Nat) : State :=
  let s0 := if 3 ≤ level then { s with start := { s.start with keys := none, served := none } } else s
  (s0.alarmLog level source).stopAll.latch 2

/-- ALARM_LEVEL_2 (R240): a second one is an alarm of level 3. -/
def execAlarmLevel2 (source : Nat) (s : State) : Host.Outcome State Fault Refusal :=
  .next (s.alarm (if 2 ≤ s.start.alLevel then 3 else 2) source).tick

/-- ALARM_LEVEL_3 (R240). -/
def execAlarmLevel3 (source : Nat) (s : State) : Host.Outcome State Fault Refusal :=
  .next (s.alarm 3 source).tick

/-! Attestation. -/

/-- MODECTL as the host reads it (R234). -/
def HostRegs.modectl (h : HostRegs) : Word := (if h.place then 1 else 0) ||| (if h.fwprog then 2 else 0)

/-- The configuration that an attestation covers: MODECTL, FSMODE, the fuses, and each core's OMAX; then the
nonce, and before them the firmware image (R239). -/
def State.attested (s : State) : List Byte :=
  Config.firmware ++ leBytes 8 s.host.modectl.toNat ++ leBytes 8 s.host.fsmode.toNat ++ Config.fuses s.start.serial ++
  ((List.range 384).flatMap (fun c => leBytes 1 (s.core c).omax)) ++ s.start.nonce

/-- ATCMD (R239): 1 starts an attestation; any other value is a bad host command (R240). -/
def State.attest (s : State) (x : Word) : State :=
  if s.start.atBusy then s
  else if x = 1 then { s with start := { s.start with atBusy := true, atDone := false } }
  else s.alarm1

/-- ATCMD (R239). -/
def execAtcmd (x : Word) (s : State) : Host.Outcome State Fault Refusal := .next (s.attest x).tick

/-- The security controller has hashed and signed (R239); without the key the request fails (R240). -/
def State.attestEnd (s : State) : State :=
  if !s.start.atBusy then s
  else
    match s.start.served with
    | none => ({ s with start := { s.start with atBusy := false } }).alarm1
    | some k =>
      let d := sha512 s.attested
      { s with start := { s.start with
          atBusy := false, atDone := true, atOut := d ++ Config.attestSign (Config.attestKey k) d } }

/-- ATTESTATION_DONE (R239). -/
def execAttestationDone (s : State) : Host.Outcome State Fault Refusal := .next s.attestEnd.tick

/-! Provisioning. -/

/-- PROVCMD (R241): accepted in safe mode and under level 3, and otherwise ignored. -/
def State.provision (s : State) (x : Word) : State :=
  if x = 1 ∧ !s.start.provBusy ∧ (s.start.phase = .safe ∨ s.start.alLevel = 3) then
    { s with start := { s.start with provBusy := true, provDone := false, provFail := false } }
  else s

/-- PROVCMD (R241). -/
def execProvcmd (x : Word) (s : State) : Host.Outcome State Fault Refusal := .next (s.provision x).tick

/-- The package in PROVBUF. -/
def StartRegs.package (r : StartRegs) : List Byte := (List.range 4096).map (AMap.get 0 r.provBuf)

/-- The reason for which a package is turned away, or 0 (R241): the signature, the module and the header, then a serial
that is not above the last one installed, then the wrapping. -/
def StartRegs.provCheck (r : StartRegs) : Nat :=
  let n := [0, 1, 2, 4, 5].getD (Config.provReason r.package % 5) 0
  if n ≠ 0 ∧ n ≠ 2 then n else if Config.provSerial r.package % 2 ^ 64 ≤ r.serial then 3 else n

/-- The package has been checked (R241): its keys are in the store, from which the next start derives those that serve,
its serial is recorded and the lockout of level 3 cleared, or FAIL is set with its reason. -/
def State.provisionEnd (s : State) : State :=
  if !s.start.provBusy then s
  else
    let r := s.start.provCheck
    if r = 0 then
      { s with start := { s.start with
          provBusy := false, provDone := true, provReason := 0, keys := some s.start.package
          serial := Config.provSerial s.start.package % 2 ^ 64 } }
    else
      ({ s with start := { s.start with provBusy := false, provFail := true, provReason := r } }).alarm1

/-- PROVISION_DONE (R241). -/
def execProvisionDone (s : State) : Host.Outcome State Fault Refusal := .next s.provisionEnd.tick

end Sys2Proof.Machine
end

