-- ==== Sys2Proof/Machine/HostRegs.lean ====
section
/-! DEFINITION. The host's register space BAR0 (R234): what each register reads and what a write of it does, the
queue block (R172, R173), the controllers (R86, R127) and the core windows (R235). Reserved bits are not stored;
a value that breaks a register's limits is ignored whole. -/

namespace Sys2Proof.Machine

/-! Queues. -/

/-- QCTL (R172). -/
def Queue.ctl (u : Queue) : Word :=
  BitVec.ofNat 64 ((if u.en then 1 else 0) + (if u.dev then 2 else 0) + u.qprio % 8 * 16 + u.size % 32 * 256)

/-- QERR (R172). -/
def Queue.errReg (u : Queue) : Word :=
  BitVec.ofNat 64 ((if u.err then 1 else 0) + u.reason.toNat * 2 ^ 8 + u.errHead.toNat * 2 ^ 32)

/-- A word of the queue block. -/
def Queue.reg (u : Queue) (k : Nat) : Word :=
  [u.base, u.ctl, u.head.zeroExtend 64, u.tail.zeroExtend 64, u.errReg, BitVec.ofNat 64 u.last].getD k 0

/-- A write of QBASE, aligned to the ring's size (R172). -/
def Queue.writeBase (u : Queue) (x : Word) : Queue :=
  if x.toNat % (64 * 2 ^ u.size) = 0 then { u with base := x } else u

/-- A write of QCTL: one that sets S outside 4 to 12 is ignored whole (R173). -/
def Queue.writeCtl (u : Queue) (x : Word) : Queue :=
  let n := bits x 12 8
  if n < 4 ∨ 12 < n then u
  else { u with en := bit x 0, dev := bit x 1, qprio := bits x 6 4, size := n }

/-- A write of QTAIL: ignored while DEV = 1, and where the queue would hold more than its ring (R172, R173). -/
def Queue.writeTail (u : Queue) (x : Word) : Queue :=
  let t := x.extractLsb' 0 32
  if u.dev || decide (2 ^ u.size < (t - u.head).toNat) then u else { u with tail := t }

/-- A write of QERR clears the bits it sets (R172, R175). -/
def Queue.writeErr (u : Queue) (x : Word) : Queue :=
  { u with err := u.err && !bit x 0, reason := u.reason &&& ~~~x.extractLsb' 8 8
           errHead := u.errHead &&& ~~~x.extractLsb' 32 32 }

/-- A write in the queue block. -/
def Queue.write (u : Queue) (k : Nat) (x : Word) : Queue :=
  match k with
  | 0 => u.writeBase x
  | 1 => u.writeCtl x
  | 3 => u.writeTail x
  | 4 => u.writeErr x
  | _ => u

/-- A register of queue `q` is written, where the host is answered. -/
def State.writeQueue (s : State) (q k : Nat) (x : Word) : State :=
  if 64 ≤ q ∨ !s.answers then s else s.raised (s.modQueue q (fun u => u.write k x))

/-- QTAIL_WRITE (R173). -/
def execQtailWrite (q : Nat) (x : Word) (s : State) : Host.Outcome State Fault Refusal :=
  .next (s.writeQueue q 3 x).tick

/-- QCTL_WRITE (R173). -/
def execQctlWrite (q : Nat) (x : Word) (s : State) : Host.Outcome State Fault Refusal :=
  .next (s.writeQueue q 1 x).tick

/-- QERR_CLEAR (R175). -/
def execQerrClear (q : Nat) (x : Word) (s : State) : Host.Outcome State Fault Refusal :=
  .next (s.writeQueue q 4 x).tick

/-! The module block. -/

/-- The state with the host's registers changed, and the interrupts of the change (R234). -/
def State.modHost (s : State) (f : HostRegs → HostRegs) : State := s.raised { s with host := f s.host }

/-- HFQCTL (R234). -/
def HostRegs.hfqctl (h : HostRegs) : Word := BitVec.ofNat 64 ((if h.hfqEn then 1 else 0) + h.hfqS % 32 * 256)

/-- TRCCTL (R229). -/
def HostRegs.trcctl (h : HostRegs) : Word :=
  BitVec.ofNat 64 ((if h.trcEn then 1 else 0) + (if h.trcBuf then 2 else 0) + (if h.trcWrap then 4 else 0))

/-- A register of the blocks from 0x0002_0000 and 0x0003_0000 (R234). -/
def State.moduleReg (s : State) (off : Nat) : Word :=
  let h := s.host
  match off with
  | 0x20000 => h.hfqbase
  | 0x20008 => h.hfqctl
  | 0x20010 => h.hfqtail.zeroExtend 64
  | 0x20018 => h.hfqhead.zeroExtend 64
  | 0x20020 => BitVec.ofNat 64 h.hfqlost
  | 0x20040 => s.intstat.zeroExtend 64
  | 0x20048 => h.intmask.zeroExtend 64
  | 0x20050 => h.haerr
  | 0x20080 => h.modectl
  | 0x20088 => h.fsmode
  | 0x30000 => h.trcctl
  | 0x30008 => h.tbbase
  | 0x30010 => h.tblen
  | 0x30018 => h.tbptr
  | n =>
    if 0x20090 ≤ n ∧ n < 0x200C0 then AMap.get (BitVec.allOnes 64) h.plmask ((n - 0x20090) / 8) else 0

/-- A write of one of them. -/
def HostRegs.write (h : HostRegs) (off : Nat) (x : Word) : HostRegs :=
  match off with
  | 0x20000 => if x.toNat % 4096 = 0 then { h with hfqbase := x } else h
  | 0x20008 =>
    let n := bits x 12 8
    if n < 6 ∨ 16 < n then h else { h with hfqEn := bit x 0, hfqS := n }
  | 0x20018 => { h with hfqhead := x.extractLsb' 0 32 }
  | 0x20020 => { h with hfqlost := (BitVec.ofNat 32 h.hfqlost &&& ~~~x.extractLsb' 0 32).toNat }
  | 0x20040 => { h with intstat := h.intstat &&& ~~~(x.extractLsb' 0 5 &&& 0b11100) }
  | 0x20048 => { h with intmask := x.extractLsb' 0 5 }
  | 0x20080 => { h with place := bit x 0, fwprog := bit x 1 }
  | 0x20088 => { h with fsmode := x }
  | 0x30000 => { h with trcEn := bit x 0, trcBuf := bit x 1, trcWrap := bit x 2 }
  | 0x30008 => if x.toNat % 2 ^ 16 = 0 then { h with tbbase := x } else h
  | 0x30010 => if x.toNat % 2 ^ 16 = 0 then { h with tblen := x } else h
  | n =>
    if 0x20090 ≤ n ∧ n < 0x200C0 ∧ n % 8 = 0 then
      { h with plmask := AMap.set (BitVec.allOnes 64) h.plmask ((n - 0x20090) / 8) x }
    else h

/-- A register of the module blocks is written, where the host is answered. -/
def State.writeModule (s : State) (off : Nat) (x : Word) : State :=
  if s.answers then s.modHost (fun h => h.write off x) else s

/-- HFQHEAD_WRITE (R234). -/
def execHfqheadWrite (x : Word) (s : State) : Host.Outcome State Fault Refusal :=
  .next (s.writeModule 0x20018 x).tick

/-- INTSTAT_CLEAR (R234). -/
def execIntstatClear (x : Word) (s : State) : Host.Outcome State Fault Refusal :=
  .next (s.writeModule 0x20040 x).tick

/-- INTMASK_WRITE (R234). -/
def execIntmaskWrite (x : Word) (s : State) : Host.Outcome State Fault Refusal :=
  .next (s.writeModule 0x20048 x).tick

/-! The start and security block. -/

/-- Bytes of a list as the word at an offset. -/
def wordAtByte (bs : List Byte) (o : Nat) : Word :=
  BitVec.ofNat 64 (leVal ((List.range 8).map (fun i => bs.getD (o + i) 0)))

/-- PHASE (R238). -/
def Phase.num : Phase → Nat
  | .off => 0 | .cold => 1 | .warm => 2 | .running => 3 | .safe => 4

/-- A register of the start and security block, by its offset in the block (R236 to R241). -/
def State.startReg (s : State) (off : Nat) : Word :=
  let r := s.start
  if off = 0 then
    BitVec.ofNat 64 (r.phase.num + r.lastFail % 16 * 16 + r.warmFail % 4 * 256 + r.coldFail % 4 * 1024)
  else if 0x40 ≤ off ∧ off < 0x60 then wordAtByte r.nonce (off - 0x40)
  else if off = 0x60 then BitVec.ofNat 64 (if r.atDone then 2 ^ 8 else 0)
  else if off = 0x80 then BitVec.ofNat 64 (r.alLevel % 4 + r.alSource % 256 * 256)
  else if 0x100 ≤ off ∧ off < 0x180 then AMap.get 0 s.peers ((off - 0x100) / 8)
  else if 0x180 ≤ off ∧ off < 0x1C0 then
    let d : DieClk := AMap.get {} s.dies ((off - 0x180) / 8)
    BitVec.ofNat 64 (d.req % 16 + d.cur % 16 * 256 + (if d.pend then 2 ^ 16 else 0))
  else if 0x200 ≤ off ∧ off < 0x500 then wordAtByte r.atOut (off - 0x200)
  else if 0x500 ≤ off ∧ off < 0x580 then (Config.binFreq ((off - 0x500) / 8)).zeroExtend 64
  else if off = 0x608 then
    BitVec.ofNat 64 ((if r.provBusy then 1 else 0) + (if r.provDone then 2 else 0) + (if r.provFail then 4 else 0) +
      r.provReason % 256 * 256)
  else if 0x800 ≤ off ∧ off < 0x1800 then
    BitVec.ofNat 64 (leVal ((List.range 8).map (fun i => AMap.get 0 r.provBuf (off - 0x800 + i))))
  else 0

/-- A write of the start and security block. Any other value of STCMD than 1 or 2 is a bad host command (R240); a
start that fails at a step is the event of its own (POWER_ON_START). A one in bit 0 of ALSTAT clears level 1, and ones in
its source bits clear nothing, which R240 leaves open (log 65). -/
def State.writeStart (s : State) (off : Nat) (x : Word) : State :=
  let r := s.start
  if off = 0x08 then (if x = 1 then s.warmStart none else if x = 2 then s.boot true none else s.alarm1)
  else if 0x40 ≤ off ∧ off < 0x60 then
    if r.atBusy then s
    else
      { s with start := { r with nonce := (List.range 32).map (fun i =>
          if off - 0x40 ≤ i ∧ i < off - 0x40 + 8 then x.extractLsb' (8 * (i - (off - 0x40))) 8
          else r.nonce.getD i 0) } }
  else if off = 0x60 then s.attest x
  else if off = 0x80 then
    if r.alLevel = 1 ∧ bit x 0 then { s with start := { r with alLevel := 0 } } else s
  else if 0x100 ≤ off ∧ off < 0x180 then
    let p := (off - 0x100) / 8
    { s with peers := AMap.set 0 s.peers p ((x &&& 0xFF01) ||| (AMap.get 0 s.peers p &&& 2)) }
  else if 0x180 ≤ off ∧ off < 0x1C0 then s.writeBin ((off - 0x180) / 8) (bits x 3 0)
  else if off = 0x600 then s.provision x
  else if 0x800 ≤ off ∧ off < 0x1800 then
    { s with start := { r with provBuf := (List.range 8).foldl (fun m i =>
        AMap.set 0 m (off - 0x800 + i) (x.extractLsb' (8 * i) 8)) r.provBuf } }
  else s

/-! Controllers. -/

/-- A format window by the offset of one of its registers (R86). -/
def FmtWin.reg (f : FmtWin) (k : Nat) : Word := [f.ctl, f.pkb, f.len, f.scb, f.apb].getD k 0

/-- A write of a format window (R86): EN with a code outside the binary8 codes, and a base or a length off its
alignment, is ignored whole. -/
def FmtWin.write (f : FmtWin) (k : Nat) (x : Word) : FmtWin :=
  match k with
  | 0 => if bit x 0 && (b8OfCode (bits x 15 8)).isNone then f else { f with ctl := x &&& 0x1FF01 }
  | 1 => if bits x 11 0 != 0 || bits x 63 52 != 0 then f else { f with pkb := x }
  | 2 => if bits x 11 0 != 0 then f else { f with len := x }
  | 3 => if bits x 6 0 != 0 then f else { f with scb := x }
  | 4 => if bits x 11 0 != 0 then f else { f with apb := x }
  | _ => f

/-- A register of a controller, by its offset in the block (R86, R127). -/
def Ctrl.reg (c : Ctrl) (off : Nat) : Word :=
  if off < 0x400 then (AMap.get {} c.fmt (off / 0x40) : FmtWin).reg (off % 0x40 / 8)
  else if off = 0x400 then c.satc
  else if off = 0x800 then c.ptbase
  else 0

/-- A write of a controller's register. -/
def Ctrl.write (c : Ctrl) (off : Nat) (x : Word) : Ctrl :=
  if off < 0x400 then
    { c with fmt := AMap.set {} c.fmt (off / 0x40) ((AMap.get {} c.fmt (off / 0x40) : FmtWin).write (off % 0x40 / 8) x) }
  else if off = 0x400 then { c with satc := x }
  else if off = 0x800 then { c with ptbase := x }
  else c

/-- The state with a controller changed. -/
def State.modCtrl (s : State) (c : Nat) (f : Ctrl → Ctrl) : State :=
  { s with ctrls := AMap.set {} s.ctrls c (f (s.ctrl c)) }

/-- A write of the broadcast block reaches all 16 controllers, in the broadcast mode only (R234, R242). -/
def State.broadcast (s : State) (off : Nat) (x : Word) : State :=
  if s.host.fwprog || !s.answers then s
  else (List.range 16).foldl (fun s c => s.modCtrl c (fun k => k.write off x)) s

/-- BROADCAST_WRITE (R234). -/
def execBroadcastWrite (off : Nat) (x : Word) (s : State) : Host.Outcome State Fault Refusal :=
  .next (s.broadcast off x).tick

/-! Core windows. -/

/-- A comparator set's register takes a value that keeps its limits (R223). -/
def Cmpr.write (c : Cmpr) (k : Nat) (x : Word) : Cmpr :=
  match k with
  | 0 =>
    if 6 ≤ bits x 3 1 ∨ 15 ≤ bits x 11 8 ∨ 48 ≤ bits x 21 16 then c else { c with ctl := x &&& 0xBF3F0F3F }
  | 1 => { c with lo := x }
  | _ => { c with hi := x }

/-- TRGCTL takes its sources; STATE 1 arms the trigger (R230); 0 makes it idle, and 2 and 3 leave it (log 77). -/
def Core.writeTrg (c : Core) (x : Word) : Core :=
  { c with trgStart := bits x 4 0, trgStop := bits x 12 8
           trgState := if bits x 14 13 = 1 then 1 else if bits x 14 13 = 0 then 0 else c.trgState }

/-- TRGCTL_WRITE (R230). -/
def execTrgctlWrite (core : Nat) (x : Word) (s : State) : Host.Outcome State Fault Refusal :=
  .next (s.told (fun s => s.modCore core (fun c => c.writeTrg x))).tick

/-- An HC register of a core by its system register number, apart from SRATIO and MGNCTL (R184, R219, R223, R227 to
R230). -/
def Core.write (c : Core) (n : Nat) (x : Word) : Core :=
  let low := bits x 31 0
  if n = 0x28 then { c with cursoft := low }
  else if n = 0x29 then { c with curhard := low }
  else if n = 0x32 then { c with tecnt := x.extractLsb' 0 32 }
  else if n = 0x33 then (if bits x 3 0 = 0 then c else { c with replim := bits x 3 0 })
  else if n = 0x34 then (if bits x 19 0 < 256 then c else { c with limpcyc := bits x 19 0 })
  else if n = 0x35 then (if bits x 4 0 = 0 then c else { c with escstep := bits x 4 0 })
  else if n = 0x36 then { c with qthr := bits x 15 0 }
  else if n = 0x37 then c.clearQuar x
  else if 0x80 ≤ n ∧ n ≤ 0xDF then
    let k := (n - 0x80) / 3
    { c with cmps := AMap.set {} c.cmps k ((AMap.get {} c.cmps k : Cmpr).write ((n - 0x80) % 3) x) }
  else if n = 0xE0 then (if bits x 31 8 < 64 then c else { c with smp := x &&& 0xFFFFFF01 })
  else if n = 0xE1 then (if bits x 31 8 < 1 then c else { c with tagctl := x &&& 0xFFFFFF01 })
  else if n = 0xE2 then { c with trcmask := x }
  else if n = 0xE3 then c.writeTrg x
  else c

/-- A register of a core window, by its offset (R235, R297). The data registers and the commands have side
effects and are the events of their names. -/
def State.windowReg (s : State) (core off : Nat) : Word :=
  let c := s.core core
  if 384 ≤ core then 0
  else if off < 0x8000 then c.reg (off / 8)
  else if off = 0x8000 then c.dbgsel
  else if off = 0x8020 then c.dbgvsel
  else if off = 0x8030 then c.dbgsaddr
  else if 0x9000 ≤ off ∧ off < 0xA000 then
    match s.opened core with | none => 0 | some (_, t, g) => (g.edited t.desc.width).record (off - 0x9000)
  else if 0xA000 ≤ off ∧ off < 0xA800 then
    match s.opened core with | none => 0 | some (_, t, _) => s.teamWord core t (off - 0xA000)
  else 0

/-- A write in a core window (R235). -/
def State.writeWindow (s : State) (core off : Nat) (x : Word) : State :=
  if 384 ≤ core then s
  else if off < 0x8000 then
    let n := off / 8
    if 0x2A ≤ n ∧ n ≤ 0x2F then s.writeRatio core (n - 0x2A) (bits x 3 0)
    else if n = 0x30 then s.writeMgnctl core x
    else s.modCore core (fun c => c.write n x)
  else if off = 0x8000 then s.modCore core (fun c => { c with dbgsel := x &&& 0x3F3F })
  else if off = 0x8008 then
    if x = 1 then s.resumeCmd core else if x = 2 then s.stepBack core else if x = 3 then s.endCmdLaunch core else s
  else if off = 0x8010 then s.modCore core (fun c => { c with wakeid := x &&& 0x3FFFFFFFFF })
  else if off = 0x8018 then s.sendWake core x
  else if off = 0x8020 then s.modCore core (fun c => { c with dbgvsel := x &&& 0x13FFF })
  else if off = 0x8028 then s.vdata core (some x)
  else if off = 0x8030 then
    if x.toNat % 8 = 0 then s.modCore core (fun c => { c with dbgsaddr := x }) else s
  else if off = 0x8038 then s.sdata core (some x)
  else if 0x9000 ≤ off ∧ off < 0xA000 then
    match s.opened core with
    | none => s
    | some (w, _, _) => s.modGrp w (fun g => { g with hostRec := AMap.insert g.hostRec (off - 0x9000) x })
  else s

/-! The whole register space. -/

/-- What a BAR0 offset reads (R234); an unlisted one reads 0. -/
def State.bar0 (s : State) (off : Nat) : Word :=
  if off % 8 ≠ 0 then 0
  else if !(0x40000 ≤ off && off < 0x50000) && !s.answers then 0
  else if off < 0x1000 then (s.queue (off / 0x40)).reg (off % 0x40 / 8)
  else if 0x10000 ≤ off ∧ off < 0x18000 then AMap.get 0 s.ectr ((off - 0x10000) / 8)
  else if 0x20000 ≤ off ∧ off < 0x40000 then s.moduleReg off
  else if 0x40000 ≤ off ∧ off < 0x50000 then s.startReg (off - 0x40000)
  else if 0x50000 ≤ off ∧ off < 0x58000 then
    let w := s.win ((off - 0x50000) / 0x200) (off % 0x200 / 32)
    [w.va, w.len, w.ia, w.ctl].getD (off / 8 % 4) 0
  else if 0x800000 ≤ off ∧ off < 0x810000 then (s.ctrl ((off - 0x800000) / 0x1000)).reg (off % 0x1000)
  else if 0x1000000 ≤ off then s.windowReg ((off - 0x1000000) / 0x10000) (off % 0x10000)
  else 0

/-- A sluice register takes any value: a window whose fields break R124 matches nothing. -/
def Win.write (w : Win) (k : Nat) (x : Word) : Win :=
  match k with
  | 0 => { w with va := x }
  | 1 => { w with len := x }
  | 2 => { w with ia := x }
  | _ => { w with ctl := x }

/-- A write of a BAR0 offset (R234); an unlisted one is ignored. -/
def State.writeBar0 (s : State) (off : Nat) (x : Word) : State :=
  if off % 8 ≠ 0 then s
  else if 0x40000 ≤ off ∧ off < 0x50000 then s.writeStart (off - 0x40000) x
  else if !s.answers then s
  else if off < 0x1000 then s.writeQueue (off / 0x40) (off % 0x40 / 8) x
  else if 0x10000 ≤ off ∧ off < 0x18000 then
    { s with ectr := AMap.set 0 s.ectr ((off - 0x10000) / 8) x }
  else if 0x20000 ≤ off ∧ off < 0x40000 then s.writeModule off x
  else if 0x50000 ≤ off ∧ off < 0x58000 then
    let n := 16 * ((off - 0x50000) / 0x200) + off % 0x200 / 32
    { s with ctxs := AMap.set {} s.ctxs n ((AMap.get {} s.ctxs n : Win).write (off / 8 % 4) x) }
  else if 0x800000 ≤ off ∧ off < 0x810000 then
    s.modCtrl ((off - 0x800000) / 0x1000) (fun c => c.write (off % 0x1000) x)
  else if 0x900000 ≤ off ∧ off < 0x901000 then s.broadcast (off - 0x900000) x
  else if 0x1000000 ≤ off then s.writeWindow ((off - 0x1000000) / 0x10000) (off % 0x10000) x
  else s

/-- REGISTER_WRITE (R234). -/
def execRegisterWrite (off : Nat) (x : Word) (s : State) : Host.Outcome State Fault Refusal :=
  .next (s.writeBar0 off x).tick

end Sys2Proof.Machine
end

