-- ==== Sys2Proof/Machine/Dispatch.lean ====
section
/-! DEFINITION. One arm for each constructor of `Instr`: the meaning of each row of the opcode table. -/

namespace Sys2Proof.Machine

def exec (i : Instr) (s : State) : Host.Outcome State Fault Refusal :=
  match i with
  | .bra f => Sys2Proof.Machine.execBra f s
  | .brg f => Sys2Proof.Machine.execBrg f s
  | .bri f => Sys2Proof.Machine.execBri f s
  | .call f => Sys2Proof.Machine.execCall f s
  | .calli f => Sys2Proof.Machine.execCalli f s
  | .ret f => Sys2Proof.Machine.execRet f s
  | .yield f => Sys2Proof.Machine.execYield f s
  | .nop f => Sys2Proof.Machine.execNop f s
  | .idle f => Sys2Proof.Machine.execIdle f s
  | .lnch f => Sys2Proof.Machine.execLnch f s
  | .brv f => Sys2Proof.Machine.execBrv f s
  | .briv f => Sys2Proof.Machine.execBriv f s
  | .exit f => Sys2Proof.Machine.execExit f s
  | .join f => Sys2Proof.Machine.execJoin f s
  | .mopen f => Sys2Proof.Machine.execMopen f s
  | .mclose f => Sys2Proof.Machine.execMclose f s
  | .mrep f => Sys2Proof.Machine.execMrep f s
  | .gadd f => Sys2Proof.Machine.execGadd f s
  | .gsub f => Sys2Proof.Machine.execGsub f s
  | .gmul f => Sys2Proof.Machine.execGmul f s
  | .gmulh f => Sys2Proof.Machine.execGmulh f s
  | .gmad f => Sys2Proof.Machine.execGmad f s
  | .gdiv f => Sys2Proof.Machine.execGdiv f s
  | .grem f => Sys2Proof.Machine.execGrem f s
  | .gand f => Sys2Proof.Machine.execGand f s
  | .gor f => Sys2Proof.Machine.execGor f s
  | .gxor f => Sys2Proof.Machine.execGxor f s
  | .gshl f => Sys2Proof.Machine.execGshl f s
  | .gshr f => Sys2Proof.Machine.execGshr f s
  | .gsar f => Sys2Proof.Machine.execGsar f s
  | .gmin f => Sys2Proof.Machine.execGmin f s
  | .gmax f => Sys2Proof.Machine.execGmax f s
  | .gmov f => Sys2Proof.Machine.execGmov f s
  | .gmovh f => Sys2Proof.Machine.execGmovh f s
  | .gcmp f => Sys2Proof.Machine.execGcmp f s
  | .gsel f => Sys2Proof.Machine.execGsel f s
  | .gbits f => Sys2Proof.Machine.execGbits f s
  | .gplog f => Sys2Proof.Machine.execGplog f s
  | .emov f => Sys2Proof.Machine.execEmov f s
  | .plog f => Sys2Proof.Machine.execPlog f s
  | .ballot f => Sys2Proof.Machine.execBallot f s
  | .vbc f => Sys2Proof.Machine.execVbc f s
  | .vrdl f => Sys2Proof.Machine.execVrdl f s
  | .vred f => Sys2Proof.Machine.execVred f s
  | .vshfl f => Sys2Proof.Machine.execVshfl f s
  | .vadd f => Sys2Proof.Machine.execVadd f s
  | .vsub f => Sys2Proof.Machine.execVsub f s
  | .vmul f => Sys2Proof.Machine.execVmul f s
  | .vmulh f => Sys2Proof.Machine.execVmulh f s
  | .vmad f => Sys2Proof.Machine.execVmad f s
  | .vand f => Sys2Proof.Machine.execVand f s
  | .vor f => Sys2Proof.Machine.execVor f s
  | .vxor f => Sys2Proof.Machine.execVxor f s
  | .vshl f => Sys2Proof.Machine.execVshl f s
  | .vshr f => Sys2Proof.Machine.execVshr f s
  | .vsar f => Sys2Proof.Machine.execVsar f s
  | .vmin f => Sys2Proof.Machine.execVmin f s
  | .vmax f => Sys2Proof.Machine.execVmax f s
  | .vabs f => Sys2Proof.Machine.execVabs f s
  | .vbits f => Sys2Proof.Machine.execVbits f s
  | .vbfe f => Sys2Proof.Machine.execVbfe f s
  | .vbfi f => Sys2Proof.Machine.execVbfi f s
  | .vcmp f => Sys2Proof.Machine.execVcmp f s
  | .vsel f => Sys2Proof.Machine.execVsel f s
  | .vmov f => Sys2Proof.Machine.execVmov f s
  | .vfadd f => Sys2Proof.Machine.execVfadd f s
  | .vfsub f => Sys2Proof.Machine.execVfsub f s
  | .vfmul f => Sys2Proof.Machine.execVfmul f s
  | .vfma f => Sys2Proof.Machine.execVfma f s
  | .vfmin f => Sys2Proof.Machine.execVfmin f s
  | .vfmax f => Sys2Proof.Machine.execVfmax f s
  | .vfcmp f => Sys2Proof.Machine.execVfcmp f s
  | .vfrcp f => Sys2Proof.Machine.execVfrcp f s
  | .vfrsq f => Sys2Proof.Machine.execVfrsq f s
  | .vfsqrt f => Sys2Proof.Machine.execVfsqrt f s
  | .vfex2 f => Sys2Proof.Machine.execVfex2 f s
  | .vflg2 f => Sys2Proof.Machine.execVflg2 f s
  | .vfsin f => Sys2Proof.Machine.execVfsin f s
  | .vfcos f => Sys2Proof.Machine.execVfcos f s
  | .vfcls f => Sys2Proof.Machine.execVfcls f s
  | .vfscl f => Sys2Proof.Machine.execVfscl f s
  | .vfdp4 f => Sys2Proof.Machine.execVfdp4 f s
  | .vcvt f => Sys2Proof.Machine.execVcvt f s
  | .vnarw f => Sys2Proof.Machine.execVnarw f s
  | .vwide f => Sys2Proof.Machine.execVwide f s
  | .vscl f => Sys2Proof.Machine.execVscl f s
  | .vpack f => Sys2Proof.Machine.execVpack f s
  | .vunpk f => Sys2Proof.Machine.execVunpk f s
  | .mmas f => Sys2Proof.Machine.execMmas f s
  | .xlut f => Sys2Proof.Machine.execXlut f s
  | .xunp f => Sys2Proof.Machine.execXunp f s
  | .mmlp f => Sys2Proof.Machine.execMmlp f s
  | .eptab f => Sys2Proof.Machine.execEptab f s
  | .xtab f => Sys2Proof.Machine.execXtab f s
  | .xlz f => Sys2Proof.Machine.execXlz f s
  | .ld f => Sys2Proof.Machine.execLd f s
  | .st f => Sys2Proof.Machine.execSt f s
  | .atom f => Sys2Proof.Machine.execAtom f s
  | .acas f => Sys2Proof.Machine.execAcas f s
  | .gld f => Sys2Proof.Machine.execGld f s
  | .gst f => Sys2Proof.Machine.execGst f s
  | .gatom f => Sys2Proof.Machine.execGatom f s
  | .fence f => Sys2Proof.Machine.execFence f s
  | .cclean f => Sys2Proof.Machine.execCclean f s
  | .cinval f => Sys2Proof.Machine.execCinval f s
  | .cflush f => Sys2Proof.Machine.execCflush f s
  | .ptsync f => Sys2Proof.Machine.execPtsync f s
  | .prf f => Sys2Proof.Machine.execPrf f s
  | .wopen f => Sys2Proof.Machine.execWopen f s
  | .wret f => Sys2Proof.Machine.execWret f s
  | .wld f => Sys2Proof.Machine.execWld f s
  | .wst f => Sys2Proof.Machine.execWst f s
  | .wadv f => Sys2Proof.Machine.execWadv f s
  | .wget f => Sys2Proof.Machine.execWget f s
  | .wchk f => Sys2Proof.Machine.execWchk f s
  | .cpa f => Sys2Proof.Machine.execCpa f s
  | .cpg f => Sys2Proof.Machine.execCpg f s
  | .cpx f => Sys2Proof.Machine.execCpx f s
  | .cpw f => Sys2Proof.Machine.execCpw f s
  | .cpm f => Sys2Proof.Machine.execCpm f s
  | .bini f => Sys2Proof.Machine.execBini f s
  | .barr f => Sys2Proof.Machine.execBarr f s
  | .bwait f => Sys2Proof.Machine.execBwait f s
  | .bsync f => Sys2Proof.Machine.execBsync f s
  | .btest f => Sys2Proof.Machine.execBtest f s
  | .crv f => Sys2Proof.Machine.execCrv f s
  | .grant f => Sys2Proof.Machine.execGrant f s
  | .revk f => Sys2Proof.Machine.execRevk f s
  | .trap f => Sys2Proof.Machine.execTrap f s
  | .trret f => Sys2Proof.Machine.execTrret f s
  | .tfence f => Sys2Proof.Machine.execTfence f s
  | .brk f => Sys2Proof.Machine.execBrk f s
  | .srd f => Sys2Proof.Machine.execSrd f s
  | .swr f => Sys2Proof.Machine.execSwr f s
  | .pgtk f => Sys2Proof.Machine.execPgtk f s
  | .pgmap f => Sys2Proof.Machine.execPgmap f s
  | .mark f => Sys2Proof.Machine.execMark f s
  | .sig f => Sys2Proof.Machine.execSig f s
  | .vaddImm f => Sys2Proof.Machine.execVaddImm f s
  | .vsubImm f => Sys2Proof.Machine.execVsubImm f s
  | .vmulImm f => Sys2Proof.Machine.execVmulImm f s
  | .vmulhImm f => Sys2Proof.Machine.execVmulhImm f s
  | .vandImm f => Sys2Proof.Machine.execVandImm f s
  | .vorImm f => Sys2Proof.Machine.execVorImm f s
  | .vxorImm f => Sys2Proof.Machine.execVxorImm f s
  | .vshlImm f => Sys2Proof.Machine.execVshlImm f s
  | .vshrImm f => Sys2Proof.Machine.execVshrImm f s
  | .vsarImm f => Sys2Proof.Machine.execVsarImm f s
  | .vminImm f => Sys2Proof.Machine.execVminImm f s
  | .vmaxImm f => Sys2Proof.Machine.execVmaxImm f s
  | .vcmpImm f => Sys2Proof.Machine.execVcmpImm f s
  | .vmovImm f => Sys2Proof.Machine.execVmovImm f s
  | .vfaddImm f => Sys2Proof.Machine.execVfaddImm f s
  | .vfsubImm f => Sys2Proof.Machine.execVfsubImm f s
  | .vfmulImm f => Sys2Proof.Machine.execVfmulImm f s
  | .vfminImm f => Sys2Proof.Machine.execVfminImm f s
  | .vfmaxImm f => Sys2Proof.Machine.execVfmaxImm f s
  | .vfcmpImm f => Sys2Proof.Machine.execVfcmpImm f s
  | .vaddMelded f => Sys2Proof.Machine.execVaddMelded f s
  | .vsubMelded f => Sys2Proof.Machine.execVsubMelded f s
  | .vmulMelded f => Sys2Proof.Machine.execVmulMelded f s
  | .vmadMelded f => Sys2Proof.Machine.execVmadMelded f s
  | .vandMelded f => Sys2Proof.Machine.execVandMelded f s
  | .vorMelded f => Sys2Proof.Machine.execVorMelded f s
  | .vxorMelded f => Sys2Proof.Machine.execVxorMelded f s
  | .vshlMelded f => Sys2Proof.Machine.execVshlMelded f s
  | .vshrMelded f => Sys2Proof.Machine.execVshrMelded f s
  | .vsarMelded f => Sys2Proof.Machine.execVsarMelded f s
  | .vminMelded f => Sys2Proof.Machine.execVminMelded f s
  | .vmaxMelded f => Sys2Proof.Machine.execVmaxMelded f s
  | .vcmpMelded f => Sys2Proof.Machine.execVcmpMelded f s
  | .vmovMelded f => Sys2Proof.Machine.execVmovMelded f s
  | .vfaddMelded f => Sys2Proof.Machine.execVfaddMelded f s
  | .vfsubMelded f => Sys2Proof.Machine.execVfsubMelded f s
  | .vfmulMelded f => Sys2Proof.Machine.execVfmulMelded f s
  | .vfmaMelded f => Sys2Proof.Machine.execVfmaMelded f s
  | .vfminMelded f => Sys2Proof.Machine.execVfminMelded f s
  | .vfmaxMelded f => Sys2Proof.Machine.execVfmaxMelded f s
  | .vfcmpMelded f => Sys2Proof.Machine.execVfcmpMelded f s
  | .ldMelded f => Sys2Proof.Machine.execLdMelded f s
  | .stMelded f => Sys2Proof.Machine.execStMelded f s
  | .wldMelded f => Sys2Proof.Machine.execWldMelded f s
  | .wstMelded f => Sys2Proof.Machine.execWstMelded f s
  | .clauseStart => Sys2Proof.Machine.execClauseStart s
  | .meterWindowEnd core => Sys2Proof.Machine.execMeterWindowEnd core s
  | .throttleDelivery => Sys2Proof.Machine.execThrottleDelivery s
  | .graceIssue who => Sys2Proof.Machine.execGraceIssue who s
  | .starvationPromotion who => Sys2Proof.Machine.execStarvationPromotion who s
  | .timingEvent core slice victim behind => Sys2Proof.Machine.execTimingEvent core slice victim behind s
  | .replayBubbleEnd core slice => Sys2Proof.Machine.execReplayBubbleEnd core slice s
  | .limpModeEnd core slice => Sys2Proof.Machine.execLimpModeEnd core slice s
  | .supplySettled core => Sys2Proof.Machine.execSupplySettled core s
  | .quietPeriodExpiry core => Sys2Proof.Machine.execQuietPeriodExpiry core s
  | .teWindowEnd core => Sys2Proof.Machine.execTeWindowEnd core s
  | .egressGateRelease core op => Sys2Proof.Machine.execEgressGateRelease core op s
  | .launchTake q => Sys2Proof.Machine.execLaunchTake q s
  | .teamAdmission lid core => Sys2Proof.Machine.execTeamAdmission lid core s
  | .preemptionSave tid => Sys2Proof.Machine.execPreemptionSave tid s
  | .saveFrameFree => Sys2Proof.Machine.execSaveFrameFree s
  | .teamResume tid core => Sys2Proof.Machine.execTeamResume tid core s
  | .teamEnd tid => Sys2Proof.Machine.execTeamEnd tid s
  | .launchComplete lid => Sys2Proof.Machine.execLaunchComplete lid s
  | .carveEffect tid => Sys2Proof.Machine.execCarveEffect tid s
  | .operationCompletion core op => Sys2Proof.Machine.execOperationCompletion core op s
  | .engineCommandCompletion core cmd => Sys2Proof.Machine.execEngineCommandCompletion core cmd s
  | .mmlpStep core loop => Sys2Proof.Machine.execMmlpStep core loop s
  | .pipeJobReply core pipe => Sys2Proof.Machine.execPipeJobReply core pipe s
  | .scratchLineArrival tid line => Sys2Proof.Machine.execScratchLineArrival tid line s
  | .multicastLineArrival n => Sys2Proof.Machine.execMulticastLineArrival n s
  | .deferredFaultTaken who => Sys2Proof.Machine.execDeferredFaultTaken who s
  | .pendingTrapEntry who => Sys2Proof.Machine.execPendingTrapEntry who s
  | .pcSample core slice => Sys2Proof.Machine.execPcSample core slice s
  | .faultRingAccept => Sys2Proof.Machine.execFaultRingAccept s
  | .pageMoveCopy ia frame => Sys2Proof.Machine.execPageMoveCopy ia frame s
  | .pageMoveSwitch => Sys2Proof.Machine.execPageMoveSwitch s
  | .apertureWriteback line => Sys2Proof.Machine.execApertureWriteback line s
  | .sliceRatioChange core slice => Sys2Proof.Machine.execSliceRatioChange core slice s
  | .ratioDeadline core slice => Sys2Proof.Machine.execRatioDeadline core slice s
  | .binDeadline die => Sys2Proof.Machine.execBinDeadline die s
  | .binSwitch die => Sys2Proof.Machine.execBinSwitch die s
  | .powerOnStart failed => Sys2Proof.Machine.execPowerOnStart failed s
  | .alarmLevel2 source => Sys2Proof.Machine.execAlarmLevel2 source s
  | .alarmLevel3 source => Sys2Proof.Machine.execAlarmLevel3 source s
  | .linkStateChange linkB up => Sys2Proof.Machine.execLinkStateChange linkB up s
  | .attestationDone => Sys2Proof.Machine.execAttestationDone s
  | .provisionDone => Sys2Proof.Machine.execProvisionDone s
  | .qtailWrite q x => Sys2Proof.Machine.execQtailWrite q x s
  | .qctlWrite q x => Sys2Proof.Machine.execQctlWrite q x s
  | .qerrClear q x => Sys2Proof.Machine.execQerrClear q x s
  | .hfqheadWrite x => Sys2Proof.Machine.execHfqheadWrite x s
  | .intstatClear x => Sys2Proof.Machine.execIntstatClear x s
  | .intmaskWrite x => Sys2Proof.Machine.execIntmaskWrite x s
  | .dbgcmdResume core => Sys2Proof.Machine.execDbgcmdResume core s
  | .dbgcmdStepBack core => Sys2Proof.Machine.execDbgcmdStepBack core s
  | .dbgcmdEndLaunch core => Sys2Proof.Machine.execDbgcmdEndLaunch core s
  | .dbgvdataAccess core data => Sys2Proof.Machine.execDbgvdataAccess core data s
  | .dbgsdataAccess core data => Sys2Proof.Machine.execDbgsdataAccess core data s
  | .wake core x => Sys2Proof.Machine.execWake core x s
  | .sratioWrite core slice x => Sys2Proof.Machine.execSratioWrite core slice x s
  | .mgnctlWrite core x => Sys2Proof.Machine.execMgnctlWrite core x s
  | .qstatClear core x => Sys2Proof.Machine.execQstatClear core x s
  | .dieclkWrite die x => Sys2Proof.Machine.execDieclkWrite die x s
  | .stcmdWarm failed => Sys2Proof.Machine.execStcmdWarm failed s
  | .stcmdCold failed => Sys2Proof.Machine.execStcmdCold failed s
  | .atcmd x => Sys2Proof.Machine.execAtcmd x s
  | .provcmd x => Sys2Proof.Machine.execProvcmd x s
  | .trgctlWrite core x => Sys2Proof.Machine.execTrgctlWrite core x s
  | .broadcastWrite off x => Sys2Proof.Machine.execBroadcastWrite off x s
  | .registerWrite off x => Sys2Proof.Machine.execRegisterWrite off x s
  | .hostBar2Read linkB ia n => Sys2Proof.Machine.execHostBar2Read linkB ia n s
  | .hostBar2Write linkB ia data => Sys2Proof.Machine.execHostBar2Write linkB ia data s
  | .hostBar4Access linkB off n data => Sys2Proof.Machine.execHostBar4Access linkB off n data s
  | .peerAccessArrival port ia n data => Sys2Proof.Machine.execPeerAccessArrival port ia n data s
  | .peerPortStateChange port up => Sys2Proof.Machine.execPeerPortStateChange port up s

end Sys2Proof.Machine
end

