-- ==== Sys2Proof/Machine/Turn.lean ====
section
/-! DEFINITION. One move of the machine: an event of the table, or a slice cycle, in which at most one candidate
issues the word that it fetches (R182). -/

namespace Sys2Proof.Machine

/-- A slice cycle, in which the words have the meanings of `exec` (R182). -/
def State.sliceCycle (s : State) (core slice : Nat) : Host.Outcome State Fault Refusal := s.sliceCycleOf exec core slice

/-- An event of the table; a word issues only from a slice. -/
def isEvent (i : Instr) : Bool := (encode i).isNone

/-- One move. -/
def State.move1 (s : State) (t : Turn) : Host.Outcome State Fault Refusal :=
  match t with
  | .event who i => if isEvent i then exec i { s with cur := who } else .next s.tick
  | .issue c n => s.sliceCycle c n

/-- The move that the schedule of the outside world names for an empty agenda. -/
def scheduled (n : Nat) : Turn :=
  match Config.schedule n with
  | some (w, i) => .event w i
  | none => .issue (Config.scheduleSlice n).1 (Config.scheduleSlice n).2

/-- What moves next, and the rest of the agenda. -/
def State.nextTurn (s : State) : Turn × State :=
  match s.agenda with
  | t :: rest => (t, { s with agenda := rest })
  | [] => (scheduled s.fresh, s)

/-! A word placed where the next step fetches. -/

/-- The launch context, the window, the code and the team by which a step fetches a word: one group of 32 lanes,
inside a clause of one word, in the first slot of slice 0 of core 0. -/
def fetchWindow : Win := { va := 0x10000, len := 0x10000, ia := 0x1000000000000, ctl := 3 }

/-- A header of one word with no WAIT and no flags (R243). -/
def fetchHeader : Word := HF.pack { len := 1, wait := 0, seta := 15, setb := 15, meld := false, zero := 0 }

/-- The fragment that stands at the word. -/
def fetchFrag : Frag := { exec := widthMask 32, pos := clauseOf 0x10000 fetchHeader }

/-- Its team. -/
def fetchTeam : Team :=
  { desc := { entry := 0x10000 }, place := some { core := 0, slot := 0 },
    groups := [(0, { live := widthMask 32, frags := [(0, fetchFrag)] })] }

/-- The state with a word of 64 bits where the next step fetches it. -/
def State.placeWord (s : State) (w : Word) : State :=
  let put (m : List Host.Cell) (a : Nat) (bs : List Byte) : List Host.Cell :=
    (bs.zip (List.range bs.length)).foldl (fun m b => AMap.set 0 m (a + b.2) b.1) m
  { s with
    mem := put (put s.mem (2 ^ 48) (bytesOfWord fetchHeader)) (2 ^ 48 + 8) (bytesOfWord w)
    ctxs := AMap.set {} s.ctxs 0 fetchWindow
    teams := [(s.nextTid, fetchTeam)], nextTid := s.nextTid + 1
    cores := AMap.erase s.cores 0
    agenda := .issue 0 0 :: s.agenda }

end Sys2Proof.Machine
end

