-- ==== Sys2Proof/Machine/Step.lean ====
section
/-! DEFINITION. The step of the machine. -/

namespace Sys2Proof.Machine

/-- One step: the head of the agenda moves, or what the schedule names. -/
def step (s : State) : Host.Outcome State Fault Refusal :=
  let n := s.nextTurn
  n.2.move1 n.1

/-- The state in which the next step fetches and issues a word (log 8). -/
def State.withFetchWord (s : State) (nbits w : Nat) : State := s.placeWord (BitVec.ofNat 64 (w % 2 ^ nbits))

end Sys2Proof.Machine
end

