-- ==== Sys2Proof/Safety.lean ====
section
/-! DEFINITION. The terms of the statements: when a word issues, what an issue does beside the word's own
effect, and the readings of registers and results that the statements are written in. -/

namespace Sys2Proof.Machine

/-! Issue. -/

/-- The word `i` of the fragment `e` reaches its meaning in this step (R194): the fragment issues, no
comparator matches, the word's fields are legal, its guard does not switch it off, none of its registers is
pending (R33), and its flag can count (R32). -/
structure Issues (s : State) (e : Env) (i : Instr) : Prop where
  env : s.env = some e
  quiet : e.tested = true → s.matches e i = []
  form : i.check = none
  guard : i.guard.lane = true ∨ e.groupGuard i.guard = true
  ready : e.blocked (e.regs i) = false
  room : ∀ k, e.flagOf i = some k → e.gr.flag k < 63

/-- The state a meaning starts from: the fragment's marks for this issue are used up. -/
def State.begun (s : State) (e : Env) : State := s.modGrp e.who (·.used e.key)

/-- The word has issued from `s` and its own effect has left `t`: the fragment goes on after it. -/
def State.issued (t : State) (s : State) (e : Env) (i : Instr) : State := ((t.advance e).retire s e i).tick

/-- The word has issued and its whole own effect is `f` on its group. -/
def State.wrote (s : State) (e : Env) (i : Instr) (f : Group → Group) : State :=
  ((s.begun e).modGrp e.who f).issued s e i

/-- The word has issued, its own effect has left `t`, and control goes to the header at `pc`. -/
def State.jumped (t : State) (s : State) (e : Env) (i : Instr) (pc : Word) : State :=
  ((t.jump e pc).retire s e i).tick

end Sys2Proof.Machine

namespace Sys2Proof

/-! Group arithmetic (R284). -/

/-- An operand of a G word as an integer: n bits, signed unless U. -/
def GF.int (f : GF) (x : Word) : Int :=
  if f.w then (if f.u then (x.toNat : Int) else x.toInt)
  else if f.u then ((x.setWidth 32).toNat : Int) else (x.setWidth 32).toInt

/-- An operand of a G word as n bits with a sign, whatever U says. -/
def GF.sgn (f : GF) (x : Word) : Int := if f.w then x.toInt else (x.setWidth 32).toInt

/-- An operand of a G word as n bits without a sign. -/
def GF.nat (f : GF) (x : Word) : Nat := if f.w then x.toNat else (x.setWidth 32).toNat

/-- The result of a G word: an integer at n bits, extended by U when n is 32. -/
def GF.put (f : GF) (x : Int) : Word :=
  if f.w then BitVec.ofInt 64 x
  else if f.u then (BitVec.ofInt 32 x).setWidth 64 else (BitVec.ofInt 32 x).signExtend 64

end Sys2Proof

namespace Sys2Proof.Machine

/-! Lane results. -/

/-- A value of an integer type congruent to `x` (R70: arithmetic wraps). -/
def tyNorm (ty : Nat) (x : Int) : Int :=
  if (intTy ty).signed then x.bmod (2 ^ (intTy ty).w) else x % 2 ^ (intTy ty).w

/-- An integer as a register of its type holds it, or as a pair does (R28, R316). -/
def tyBits (ty : Nat) (x : Int) : Word :=
  if wide ty then BitVec.ofInt 64 x else (BitVec.ofInt 32 (tyNorm ty x)).setWidth 64

/-- Lane `l` of register `r` once the lanes of each arm have taken their results: a pair takes the low half in
the even register and the high half in the odd one (R28). -/
def laneAfter (g : Group) (pair : Bool) (arms : List Arm) (x : Arm → Nat → Word) (r l : Nat) : Lane :=
  match arms.find? (fun a => a.m.getLsbD l) with
  | none => g.vReg r l
  | some a =>
    if r = a.d then (x a l).extractLsb' 0 32
    else if pair && r == a.d + 1 then (x a l).extractLsb' 32 32
    else g.vReg r l

/-- The flags that the lanes of the arms raise. -/
def armFlags (arms : List Arm) (fl : Arm → Nat → Flags) : Flags :=
  arms.foldl (fun f a => (lanesOf a.m).foldl (fun f l => f ||| fl a l) f) 0

/-- The one arm of a word that is not melded. -/
def oneArm (m : Word) (d : Nat) : List Arm := [{ m := m, d := d, a := 0, b := 0 }]

/-- The word completes, and its whole own effect is that the lanes of each arm take their results and raise
their flags. -/
def TakesLanes (s : State) (e : Env) (i : Instr) (pair : Bool) (arms : List Arm) (x : Arm → Nat → Word)
    (fl : Arm → Nat → Flags) : Prop :=
  ∃ V : AMap Lane,
    exec i s = .next (s.wrote e i (fun g => { g with v := V, gstat := g.gstat ||| armFlags arms fl })) ∧
    ∀ r l, l < 64 → AMap.get 0 V (64 * r + l) = laneAfter e.gr pair arms x r l

/-- The word completes, and its whole own effect is that the lanes of each arm of its predicate, D bits 2:0, take
`b`; a write to p0 is ignored (R27). -/
def TakesPred (s : State) (e : Env) (i : Instr) (arms : List Arm) (b : Arm → Nat → Bool) : Prop :=
  ∃ P : AMap Word,
    exec i s = .next (s.wrote e i (fun g => { g with p := P })) ∧
    ∀ n l, l < 64 → (AMap.get 0 P n).getLsbD l =
      match arms.find? (fun a => a.m.getLsbD l) with
      | some a => if n = a.d % 8 ∧ n ≠ 0 then b a l else (AMap.get 0 e.gr.p n).getLsbD l
      | none => (AMap.get 0 e.gr.p n).getLsbD l

/-- Place `i` of level `k` of the tree of R85 over the lanes `x`, the left operand first. -/
def treeAt {α : Type} (op : α → α → α) : Nat → (Nat → α) → Nat → α
  | 0, x, i => x i
  | k + 1, x, i => op (treeAt op k x (2 * i)) (treeAt op k x (2 * i + 1))

/-- The conditions 0 to 5 of a compare (R58). -/
def condInt (c : Nat) (a b : Int) : Bool :=
  match c with
  | 0 => decide (a = b)
  | 1 => decide (a ≠ b)
  | 2 => decide (a < b)
  | 3 => decide (a ≤ b)
  | 4 => decide (b < a)
  | _ => decide (b ≤ a)

/-- The bits of a lane source at a type's width read as a signed number (R324). -/
def Opnd.sgn (o : Opnd) (ty : Nat) (g : Group) (l : Nat) : Int :=
  (IntTy.mk (intTy ty).w true).val (o.num ty g l)

/-- Both lane sources of a melded arm and its addend (R58). -/
def Arm.a' (x : Arm) : Opnd := .reg x.a
/-- B of an arm. -/
def Arm.b' (x : Arm) : Opnd := .reg x.b

end Sys2Proof.Machine

namespace Sys2Proof.Machine

/-! Rounding (R72, R73, R79). -/

/-- The magnitude of an exact number. -/
def Dy.abs (x : Dy) : Dy := { m := x.m.natAbs, e := x.e }

/-- The number in the middle of two. -/
def Dy.mid (x y : Dy) : Dy := (x.add y).scale (-1)

/-- The mode rounds the magnitude of a number of the sign toward zero (R73). -/
def RMode.toZero (rm : RMode) (neg : Bool) : Bool := rm == .rz || rm == (if neg then .rup else .rdn)

/-- The mode rounds the magnitude of a number of the sign away from zero (R73). -/
def RMode.away (rm : RMode) (neg : Bool) : Bool := rm == (if neg then .rdn else .rup)

/-- `r` is a positive exact number rounded once to a wide format with a sign (R72, R73, R79): `le t` and `ge t` say that
the dyadic number t is not above that number, and not below it. A number that rounds past the range is infinite or, in a
mode that goes toward zero, the largest finite one, with OF and NX; with `sat` it is the largest finite one with SAT. Any
other number takes, toward zero, the greatest code that is not above it, away from zero the least that is not below it,
and to nearest the code that lies on its side of the middle to every other, an even one where it lies in a middle itself;
NX says that it is inexact, and UF that it is inexact and still below the normal range once rounded to the precision of
the format alone. -/
def RoundedIn (f : FFmt) (sat : Bool) (rm : RMode) (neg : Bool) (le ge : Dy → Prop) (r : Nat × Flags) : Prop :=
  let p := f.fb + 1
  let emin : Int := 1 - f.bias
  let emax : Int := 2 ^ f.eb - 2 - f.bias
  let past : Prop :=
    (rm = .rne ∧ le { m := 2 ^ (p + 1) - 1, e := emax - p }) ∨ (rm.toZero neg = true ∧ le { m := 1, e := emax + 1 }) ∨
      (rm.away neg = true ∧ ¬ge { m := 2 ^ p - 1, e := emax - f.fb })
  let tiny : Prop :=
    (rm = .rne ∧ ¬le { m := 2 ^ (p + 1) - 1, e := emin - p - 1 }) ∨ (rm.toZero neg = true ∧ ¬le { m := 1, e := emin }) ∨
      (rm.away neg = true ∧ ge { m := 2 ^ p - 1, e := emin - p })
  (past → r = if sat then (f.signCode neg + (f.infCode - 1), flSAT)
    else (f.signCode neg + (if rm.toZero neg then f.infCode - 1 else f.infCode), flOF ||| flNX)) ∧
  (¬past → r.1 < 2 ^ (1 + f.eb + f.fb) ∧ ∃ m q, f.decode r.1 = .fin neg m q ∧
    let x : Dy := { m := m, e := q }
    let exact : Prop := le x ∧ ge x
    (rm.toZero neg = true →
      le x ∧ ∀ c k z, f.decode c = .fin false k z → le { m := k, e := z } → Dy.le { m := k, e := z } x = true) ∧
    (rm.away neg = true →
      ge x ∧ ∀ c k z, f.decode c = .fin false k z → ge { m := k, e := z } → x.le { m := k, e := z } = true) ∧
    (rm = .rne → ∀ c k z, f.decode c = .fin false k z →
      let y : Dy := { m := k, e := z }
      (y.lt x = true → le (x.mid y)) ∧ (x.lt y = true → ge (x.mid y)) ∧
      (y.lt x = true ∨ x.lt y = true → le (x.mid y) → ge (x.mid y) → r.1 % 2 = 0)) ∧
    (r.2 &&& flNX = 0 ↔ exact) ∧ (r.2 &&& flUF ≠ 0 ↔ ¬exact ∧ tiny) ∧
    r.2 &&& ~~~(flNX ||| flUF) = 0)

/-- `RoundedIn` of an f32 lane. -/
def Rounded (rm : RMode) (neg : Bool) (le ge : Dy → Prop) (r : Lane × Flags) : Prop :=
  RoundedIn f32 false rm neg le ge (r.1.toNat, r.2)

/-- `r` is the exact number x, other than zero, rounded once to a wide format. -/
def RoundsTo (f : FFmt) (sat : Bool) (rm : RMode) (x : Dy) (r : Nat × Flags) : Prop :=
  RoundedIn f sat rm (decide (x.m < 0)) (fun t => t.le x.abs = true) (fun t => x.abs.le t = true) r

/-- An infinity. -/
def FVal.isInf : FVal → Bool
  | .inf _ => true
  | _ => false

/-- `r` is the sum of an addend and of products, formed exactly and rounded once to f32 (R83, R84): a NaN anywhere gives
the canonical NaN, infinity times zero or infinities of both signs among the terms give NaN and NV, an infinite term
gives that infinity, and an exact zero is +0, or -0 where every term is -0 or the mode is RDN. That a NaN beside an
invalid product raises no NV, and the sign of an exact zero of more than two terms, are the model's choices (logs 73 and
74, DESIGN CHOICE). -/
def SumOnce (rm : RMode) (c : FVal) (ps : List (FVal × FVal)) (r : Lane × Flags) : Prop :=
  let sign (p : FVal × FVal) : Bool := p.1.sign != p.2.sign
  let nan : Prop := c = .nan ∨ ∃ p ∈ ps, p.1 = .nan ∨ p.2 = .nan
  let invalid : Prop := ∃ p ∈ ps, (p.1.isInf = true ∧ p.2.isZero = true) ∨ (p.1.isZero = true ∧ p.2.isInf = true)
  let infinite (n : Bool) : Prop := c = .inf n ∨ ∃ p ∈ ps, (p.1.isInf = true ∨ p.2.isInf = true) ∧ sign p = n
  let zeros (n : Bool) : Prop := (c.isZero = true ∧ c.sign = n) ∧
    ∀ p ∈ ps, (p.1.isZero = true ∨ p.2.isZero = true) ∧ sign p = n
  let total : Dy := ps.foldr (fun p a => (p.1.dy.mul p.2.dy).add a) c.dy
  (nan → r = (0x7FC00000, 0)) ∧
  (¬nan → invalid ∨ (infinite true ∧ infinite false) → r = (0x7FC00000, flNV)) ∧
  (∀ n, ¬nan → ¬invalid → infinite n → ¬infinite (!n) → r = (if n then 0xFF800000 else 0x7F800000, 0)) ∧
  (¬nan → ¬invalid → (∀ n, ¬infinite n) →
    (total.m ≠ 0 → RoundsTo f32 false rm total (r.1.toNat, r.2)) ∧
    (total.m = 0 → r.2 = 0 ∧ (zeros true → r.1 = 0x80000000) ∧ (zeros false → r.1 = 0) ∧
      (¬zeros true → ¬zeros false → r.1 = if rm = .rdn then 0x80000000 else 0)))

end Sys2Proof.Machine

namespace Sys2Proof.Machine

/-! Control, traps and fences. -/

/-- The word has issued from `s`, and its own effect has placed the fragment itself and left `t`. -/
def State.left (t s : State) (e : Env) (i : Instr) : State := (t.retire s e i).tick

/-- The word has been charged and its trap is taken (R255, R195). That a word which traps is charged, and one which waits
(`State.waits`) is not, is log 11. -/
def State.trapped (s : State) (e : Env) (i : Instr) (ti : TrapInfo) : State :=
  (((s.begun e).chargeIssue e i).takeTrap e ti e.fr.pos e.after).tick

/-- What the word at `va` reads as, for a transfer (R267): a load of 8 bytes for the group. -/
def HeaderAt (s : State) (e : Env) (va : Word) : Prop :=
  va.toNat % 8 = 0 ∧ ∃ w, s.fetch e va = .ok w ∧ isHeader w = true ∧ (HF.unpack w).ok = true

/-- The clause at `va` begins with `join` (R269). -/
def JoinAt (s : State) (e : Env) (va : Word) : Prop := HeaderAt s e va ∧ ∃ w, s.fetch e (va + 8) = .ok w ∧ opcOf w = 0x009

/-- Nothing that a trap waits for is in flight for the group (R195): no pipe job and no operation. -/
def Settled (s : State) (e : Env) : Prop :=
  s.piped e.gr.core e.gr.slice e.who = false ∧ ∀ o ∈ (s.core e.gr.core).ops, o.2.of e.who = false

/-- A trap fence passes (R193): the fragment's earlier instructions have completed, which leaves `s1` and sees
`e1`, and no armed flag is set, or the fence stands in a handler; then the word issues. -/
structure Passes (s : State) (e : Env) (i : Instr) (s1 : State) (e1 : Env) : Prop where
  env : s.env = some e
  quiet : e.tested = true → s.matches e i = []
  fence : trapFence i = true
  held : e.groupGuard i.guard = true
  fresh : e.parked = false
  done : s1 = s.complete e.gr.core e.gr.slice e.who
  idle : s1.piped e.gr.core e.gr.slice e.who = false
  seen : s1.envOf e.who = some e1
  clear : e1.gr.gstat &&& e1.gr.tarm = 0 ∨ e.fr.inH = true
  form : i.check = none
  guard : e1.groupGuard i.guard = true
  ready : e1.blocked (e1.regs i) = false

/-- The group of the fragment halts (R199, R201): its registers stand in `u` as the halt found them, the halt is
noted, and its record, with a cause and an inner cause, is posted. -/
def Halts (s t : State) (e : Env) (cause inner : Nat) (ti : TrapInfo) (word cont : Pos) : Prop :=
  ∃ (u : State) (g : Group), u.grp? e.who = some g ∧ g.halted = true ∧ g.haltRec = some (ti, word, cont) ∧
    t = u.post (haltRecord e.tm e.who g cause inner ti) ∧ u.hold = s.hold ∧ u.waiting = s.waiting ∧
    t.grp? e.who = some g

/-- The register state that a trap's entry leaves in its group (R192, R195, R196): the handler's `exec` is the lanes that
the trap names, or all of `exec` where every lane of the word is concerned, and the fragment stands aside. -/
structure Entered (g g' : Group) (k : Nat) (fr : Frag) (ti : TrapInfo) : Prop where
  cause : g'.tcause = BitVec.ofNat 64 ti.cause.code
  pc : g'.tpc = ti.pc
  va : g'.tva = ti.va
  lanes : g'.tlanes = ti.lanes
  stat : g'.tstat = ti.stat
  next : g'.tnext = ti.next
  at_ : ∃ f, AMap.find g'.frags k = some f ∧ f.inH = true ∧ f.pos = { pc := g.tvec } ∧ f.split = none ∧
    f.exec = match ti.cause with
      | .mem _ _ => ti.lanes
      | .instr .pttTarget => ti.lanes
      | _ => if bit ti.stat 4 then ti.lanes else fr.exec
  aside : ∃ h, g'.hnd = some h ∧ h.frag = fr ∧ h.info = ti
  meld : g'.hmeld = [] ∧ g'.hfloor = 0 ∧ g'.meld = g.meld ∧ g'.floor = g.floor
  kept : g'.v = g.v ∧ g'.p = g.p ∧ g'.g = g.g ∧ g'.gp = g.gp ∧ g'.k = g.k ∧ g'.live = g.live ∧
    g'.gstat = g.gstat ∧ g'.tarm = g.tarm ∧ g'.tvec = g.tvec ∧ g'.hsa = g.hsa

end Sys2Proof.Machine

namespace Sys2Proof.Machine

/-! Barriers. -/

/-- A barrier whose phase is complete, once it has gone on (R165 steps 1 and 2): the groups that have exited are no longer
expected, and where no group is left to expect, held engine arrivals alone complete one phase after another. -/
def Bar.through (b : Bar) : Bar :=
  if b.fewer < b.grp ∨ b.eng = 0 then
    { ph := !b.ph, grp := b.grp - b.fewer, eng := b.eng, arr := [], earr := min b.held b.eng
      held := b.held - b.eng, fewer := 0 }
  else
    { ph := b.ph != decide (b.held / b.eng % 2 = 0), grp := 0, eng := b.eng, arr := [], earr := b.held % b.eng
      held := 0, fewer := 0 }

/-! Memory. -/

/-- An access passes the orders 1 to 7 of R122: `w` is the window that holds it, with the permissions it needs, and no
footprint is in its way. -/
structure Windowed (s : State) (t : Team) (acc : Acc) (a : Word) (w : Win) : Prop where
  some_ : 0 < acc.n
  canon : canonical a = true
  inside : wraps a.toNat acc.n = false
  straight : acc.aligned = true ∨ acc.n = 16 → a.toNat % acc.n = 0
  held : s.window t.ctx a.toNat = some w
  ends : a.toNat + acc.n ≤ w.va.toNat + w.len.toNat
  allowed : (acc.rd = true → bit w.ctl 1 = true) ∧ (acc.wr = true → bit w.ctl 2 = true)
  apart : ∀ f, f ∈ acc.feet → ¬(f.1 < f.2 ∧ f.1 < (a.toNat : Int) + acc.n ∧ (a.toNat : Int) < f.2)

/-- The lanes of a mask each reach a place with `n` bytes, none of it an absent scratchpad line (R122, R135). -/
def Reaches (s : State) (e : Env) (acc : Acc) (m : Word) (ea : Nat → Word) (place : Nat → Where) : Prop :=
  ∀ l, m.getLsbD l = true → s.access e.tm acc (ea l) = .ok (place l) ∧ e.absent acc.n (place l) = false

/-- No store of the core stands between its L1 and its point of coherence (R144): a load performs none. -/
def Unapplied (s : State) (core : Nat) : Prop := ∀ o, o ∈ (s.core core).ops → o.2.applied = false

/-- There are save frames for every team, each large enough for every image (R206). -/
def FramesEnough (s : State) : Prop :=
  s.frames.Nodup ∧ AMap.sorted s.teams = true ∧
  s.teams.length ≤ (s.freeFrames.filter (fun f => s.teams.all (fun t => decide (t.2.imageSize ≤ f.2)))).length

/-- Nothing but the group named `w`, its core's caches and flags, and the counters of the machine may differ: memory,
every other group, and the team's scratchpad are as before. -/
structure SameMemory (s t : State) (w : Sel) : Prop where
  mem : t.mem = s.mem
  l2 : t.l2 = s.l2
  aper : t.aper = s.aper
  scr : ∀ tid x, AMap.find s.teams tid = some x → ∃ y, AMap.find t.teams tid = some y ∧ y.scr = x.scr
  others : ∀ v : Sel, v.tid ≠ w.tid ∨ v.grp ≠ w.grp → t.grp? v = s.grp? v

/-- The compute state is discarded, and the registers are at their reset values (R238). -/
def Discarded (t : State) : Prop :=
  t.teams = [] ∧ t.launches = [] ∧ t.queues = [] ∧ t.ectr = [] ∧ t.ctxs = [] ∧ t.ctrls = [] ∧ t.hold = [] ∧
  t.host = {} ∧ ∀ c, t.core c = {}

/-- The registers of a group other than its vector registers, its completion flags and its sticky flags are as
before. -/
structure SameScalars (g g' : Group) : Prop where
  p : g'.p = g.p
  g_ : g'.g = g.g
  gp : g'.gp = g.gp
  h : g'.h = g.h
  live : g'.live = g.live
  tarm : g'.tarm = g.tarm
  trap : g'.tvec = g.tvec ∧ g'.tcause = g.tcause ∧ g'.tpc = g.tpc ∧ g'.tva = g.tva ∧ g'.tlanes = g.tlanes ∧
    g'.tstat = g.tstat ∧ g'.tnext = g.tnext ∧ g'.hsa = g.hsa
  holds : g'.holds = g.holds
  meld : g'.meld = g.meld ∧ g'.hmeld = g.hmeld

/-- The last byte of a store's list for a scratchpad offset or a key, which is the one that stays (R142). -/
def lastByte (bs : List StByte) (scr : Bool) (k : Nat) : Option Byte :=
  ((bs.filter (fun b => b.scr == scr && b.key == k)).getLast?).map (·.val)

/-- The lanes of a view access by its form (R120, R58): `wld` and `wst` index by the lane or by the registers of IX,
a melded word by the lane. -/
def viewLanesOf (e : Env) (i : Instr) : Option (List ViewLane) :=
  match i with
  | .wld f | .wst f =>
    match e.held f.w1.toNat with
    | none => none
    | some (v, o) =>
      if e.over f.vop.toNat || (match f.ix with | none => false | some r => e.over r) || e.badElem v f.vop.toNat f.ix
      then none
      else some (e.viewLanes (e.active i.guard) v o f.vop.toNat f.ix)
  | .wldMelded f =>
    if (f.arms e).all (fun a => !e.over a.d && (e.held a.a).any (fun v => !e.badElem v.1 a.d none)) then
      some ((f.arms e).flatMap (fun a =>
        match e.held a.a with | none => [] | some (v, o) => e.viewLanes a.m v o a.d none))
    else none
  | .wstMelded f =>
    if (f.arms e).all (fun a => !e.over a.b && (e.held a.a).any (fun v => !e.badElem v.1 a.b none)) then
      some ((f.arms e).flatMap (fun a =>
        match e.held a.a with | none => [] | some (v, o) => e.viewLanes a.m v o a.b none))
    else none
  | _ => none

/-! The epilogue of a matrix loop. -/

/-- What the stages of R97 make of the element at row i and column j of C: biased by element (j, 0, 0, 0) of BV, activated,
and requantised with the residual of the element before it in its row, which leaves `s1`, the bytes to store, the flags
raised and the next residual. -/
def CellOf (t : Team) (core : Nat) (l : Loop) (tab : List Word) (i j : Nat) (s : State) (res : Dy) (s1 : State)
    (bytes : List Byte) (fl : Flags) (res' : Dy) : Prop :=
  let cw := l.gs.getD 3 0
  let c := AMap.get 0 l.c (64 * i + j)
  ∃ (x y : Lane × Flags) (f : Flags),
    (l.bias = none → s1 = s ∧ x = (c, 0)) ∧
    (∀ v, l.bias = some v → ∃ n oob, s.loopElem t core l.who v (ix2 j 0) = .ok (n, oob, s1) ∧
      let r := fadd .rne c (BitVec.ofNat 32 n)
      x = (r.1, r.2 ||| flIf oob flOOB)) ∧
    y = (if bit cw 1 then activate tab x.1 else (x.1, 0)) ∧
    (∀ b, bit cw 2 = true → b8OfCode (bits cw 31 24) = some b →
      let r := narrowOne b (bit cw 4) true (clampScale (l.gs.getD 4 0)) (if j = 0 then Dy.zero else res) (f32Of y.1)
      bytes = [BitVec.ofNat 8 r.1.code] ∧ f = r.1.fl ∧ res' = r.2) ∧
    (bit cw 2 = false → bytes = leBytes 4 y.1.toNat ∧ f = 0) ∧
    fl = x.2 ||| y.2 ||| f

/-- The store of R97 of an element at row i and column j through DV at (j, i, 0, 0), with its flags: dropped out of
bounds, else it leaves the gate at once; `xlut` jobs of the group issued before the loop do not see it (R140). -/
def CellStored (t : Team) (core : Nat) (l : Loop) (v : View × Word × Word) (i j : Nat) (s1 : State) (bytes : List Byte)
    (fl : Flags) (s2 : State) : Prop :=
  (v.1.addr v.2 (ix2 j i) = none →
    s2 = s1.modGrp l.who (fun g => g.raise (if v.1.noisy then fl ||| flOOB else fl))) ∧
  (∀ a, v.1.addr v.2 (ix2 j i) = some a → ∃ p, s1.access t (elemAcc core v.1.esize true) a = .ok p ∧
    let bs := storeBytes p bytes
    s2 = (((s1.modGrp l.who (fun g => g.raise fl)).keepTables core (scrKeys bs) (fun j _ =>
      j.who.tid == l.who.tid && j.who.grp == l.who.grp && decide (j.op < l.op))).passGate l.who core bs [v.1]))

/-- The element at row i and column j faults, at its bias or at its store, which leaves `s2`. -/
def CellFaults (t : Team) (core : Nat) (l : Loop) (tab : List Word) (v : View × Word × Word) (i j : Nat) (s : State)
    (res : Dy) (m : Miss) (s2 : State) : Prop :=
  (∃ b, l.bias = some b ∧ s.loopElem t core l.who b (ix2 j 0) = .error m ∧ s2 = s) ∨
  (∃ s1 bytes fl res' a, CellOf t core l tab i j s res s1 bytes fl res' ∧ v.1.addr v.2 (ix2 j i) = some a ∧
    s1.access t (elemAcc core v.1.esize true) a = .error m ∧ s2 = s1.modGrp l.who (fun g => g.raise fl))

end Sys2Proof.Machine
end

