-- ==== Sys2Proof/Certificates/Slice0/Obligations.lean ====
section
/-! DEFINITION. The statements for the provers, each under the rule of the manual it formalises. -/

open Sys2Proof Sys2Proof.Machine

/-! Group arithmetic. -/

/-- Every group arithmetic word completes where it issues, and writes g[D] alone (R284, R285): integers at n bits with
the sign that U gives, computed exactly and put back at n bits; a zero divisor gives all ones or the dividend and
raises DZ; and each result of `gbits` is told by the bits of its operand. -/
def Obligations.GroupArithmetic : Prop :=
  (∀ (s : State) (e : Env) (f : GF),
     let a := e.g f.a.toNat
     let b := f.srcB e false
     let z := f.srcB e true
     let d := e.g f.d.toNat
     let k := f.nat b
     let puts (i : Instr) (x : Word) : Prop := Issues s e i → exec i s = .next (s.wrote e i (e.putG f.d.toNat x))
     puts (.gadd f) (f.put (f.int a + f.int b)) ∧
     puts (.gsub f) (f.put (f.int a - f.int b)) ∧
     puts (.gmul f) (f.put (f.int a * f.int b)) ∧
     puts (.gmulh f) (f.put (f.int a * f.int b / 2 ^ f.n)) ∧
     puts (.gmad f) (f.put (f.int a * f.int b + f.int d)) ∧
     puts (.gand f) (f.put (a &&& z).toInt) ∧
     puts (.gor f) (f.put (a ||| z).toInt) ∧
     puts (.gxor f) (f.put (a ^^^ z).toInt) ∧
     puts (.gshl f) (f.put (f.int a * 2 ^ k)) ∧
     puts (.gshr f) (f.put ((f.nat a / 2 ^ k : Nat) : Int)) ∧
     puts (.gsar f) (f.put (f.sgn a / 2 ^ k)) ∧
     puts (.gmin f) (f.put (min (f.int a) (f.int b))) ∧
     puts (.gmax f) (f.put (max (f.int a) (f.int b))) ∧
     puts (.gmov f) (f.put z.toInt) ∧
     puts (.gmovh f) (z.setWidth 32 ++ d.setWidth 32) ∧
     puts (.gsel f) (f.put (if e.gr.gpReg f.sel.toNat then a else b).toInt)) ∧
  (∀ (s : State) (e : Env) (f : GF),
     let a := e.g f.a.toNat
     let b := f.srcB e false
     (Issues s e (.gdiv f) → f.nat b ≠ 0 →
       exec (.gdiv f) s = .next (s.wrote e (.gdiv f) (e.putG f.d.toNat (f.put ((f.int a).tdiv (f.int b)))))) ∧
     (Issues s e (.gdiv f) → f.nat b = 0 →
       exec (.gdiv f) s = .next (s.wrote e (.gdiv f) (fun g => (e.putG f.d.toNat (f.put (-1)) g).raise flDZ))) ∧
     (Issues s e (.grem f) → f.nat b ≠ 0 →
       exec (.grem f) s = .next (s.wrote e (.grem f) (e.putG f.d.toNat (f.put ((f.int a).tmod (f.int b)))))) ∧
     (Issues s e (.grem f) → f.nat b = 0 →
       exec (.grem f) s = .next (s.wrote e (.grem f) (fun g => (e.putG f.d.toNat (f.put (f.int a)) g).raise flDZ)))) ∧
  (∀ (s : State) (e : Env) (f : GF), Issues s e (.gbits f) →
     let b := f.nat (f.srcB e true)
     ∃ r : Nat,
       exec (.gbits f) s = .next (s.wrote e (.gbits f) (e.putG f.d.toNat (f.put r))) ∧ r < 2 ^ f.n ∧
       (f.sel = 0 → r = (List.range f.n).countP (fun j => b.testBit j)) ∧
       (f.sel = 1 → r ≤ f.n ∧ b < 2 ^ (f.n - r) ∧ (r < f.n → 2 ^ (f.n - 1 - r) ≤ b)) ∧
       (f.sel = 2 → r ≤ f.n ∧ (∀ j, j < r → b.testBit j = false) ∧ (r < f.n → b.testBit r = true)) ∧
       (f.sel = 3 → ∀ j, j < f.n → r.testBit j = b.testBit (f.n - 1 - j)) ∧
       (f.sel = 4 → ∀ j, j < f.n → r.testBit j = b.testBit (8 * (f.n / 8 - 1 - j / 8) + j % 8)))

/-- Group predicates and masks (R284, R286, R27, R282, R283): `gcmp` and `gplog` write gp[D] alone, and a write to gp0 is
ignored; `emov` moves between masks and g registers, and a write of `exec` keeps the lanes that the group may still
reach. -/
def Obligations.GroupPredicates : Prop :=
  (∀ (s : State) (e : Env) (f : GF),
     let puts (i : Instr) (b : Bool) : Prop :=
       Issues s e i → exec i s = .next (s.wrote e i (fun g => g.setGp f.d.toNat b)) ∧
         ((e.gr.setGp f.d.toNat b).gpReg 0 = true) ∧
         (f.d ≠ 0 → (e.gr.setGp f.d.toNat b).gpReg f.d.toNat = b)
     puts (.gcmp f) (condInt f.sel.toNat (f.int (e.g f.a.toNat)) (f.int (f.srcB e false))) ∧
     (let a := e.gr.gpReg f.a.toNat
      let b := e.gr.gpReg f.b.toNat
      puts (.gplog f) (match f.sel.toNat with
        | 0 => a && b
        | 1 => a || b
        | 2 => a != b
        | 3 => a && !b
        | 4 => a || !b
        | 5 => !(a && b)
        | 6 => !(a || b)
        | _ => a == b))) ∧
  (∀ (s : State) (e : Env) (f : GF), Issues s e (.emov f) →
     (f.sel = 0 → exec (.emov f) s = .next (s.wrote e (.emov f) (e.putG f.d.toNat e.fr.exec))) ∧
     (f.sel = 1 → exec (.emov f) s = .next (s.wrote e (.emov f) (fun g =>
       g.modFrag e.who.frag (fun fr => { fr with exec := e.g f.a.toNat &&& e.reach })))) ∧
     (f.sel = 2 → exec (.emov f) s = .next (s.wrote e (.emov f)
       (e.putG f.d.toNat (e.gr.pReg f.a.toNat &&& widthMask e.width)))) ∧
     (f.sel = 3 → exec (.emov f) s = .next (s.wrote e (.emov f) (fun g =>
       g.setP f.d.toNat (widthMask e.width) (e.g f.a.toNat)))))

/-! Lane arithmetic. -/

/-- The integer V words (R316, R317, R324): every active lane takes its result at the type, all sources read
first, and no other lane, register or flag changes. -/
def Obligations.LaneIntegers : Prop :=
  ∀ (s : State) (e : Env) (f : VF),
    let ty := f.ty.toNat
    let t := intTy ty
    let d := f.d.toNat
    let va : Opnd := .reg f.a.toNat
    let vb := f.srcB e
    let a (l : Nat) : Int := va.int ty e.gr l
    let b (l : Nat) : Int := vb.int ty e.gr l
    let c (l : Nat) : Int := (f.srcC e).int ty e.gr l
    let na (l : Nat) : Nat := va.num ty e.gr l
    let nb (l : Nat) : Nat := vb.num ty e.gr l
    let k (l : Nat) : Nat := (vb.lo e.gr l).toNat
    let puts (i : Instr) (srcs : List Opnd) (x : Nat → Int) (fl : Nat → Flags) : Prop :=
      Issues s e i → e.badV ty d srcs = false →
        TakesLanes s e i (wide ty) (oneArm (e.active i.guard) d) (fun _ l => tyBits ty (x l)) (fun _ l => fl l)
    puts (.vadd f) [va, vb]
      (fun l => if f.sat then max t.min (min t.max (a l + b l)) else a l + b l)
      (fun l => flIf (f.sat && (decide (a l + b l < t.min) || decide (t.max < a l + b l))) flSAT) ∧
    puts (.vsub f) [va, vb] (fun l => a l - b l) (fun _ => 0) ∧
    puts (.vmul f) [va, vb] (fun l => a l * b l) (fun _ => 0) ∧
    puts (.vmulh f) [va, vb] (fun l => a l * b l / 2 ^ t.w) (fun _ => 0) ∧
    puts (.vmad f) [va, vb, f.srcC e] (fun l => a l * b l + c l) (fun _ => 0) ∧
    puts (.vand f) [va, vb] (fun l => ((na l &&& nb l : Nat) : Int)) (fun _ => 0) ∧
    puts (.vor f) [va, vb] (fun l => ((na l ||| nb l : Nat) : Int)) (fun _ => 0) ∧
    puts (.vxor f) [va, vb] (fun l => ((na l ^^^ nb l : Nat) : Int)) (fun _ => 0) ∧
    puts (.vshl f) [va, vb] (fun l => (na l : Int) * 2 ^ k l) (fun _ => 0) ∧
    puts (.vshr f) [va, vb] (fun l => ((na l / 2 ^ k l : Nat) : Int)) (fun _ => 0) ∧
    puts (.vsar f) [va, vb] (fun l => va.sgn ty e.gr l / 2 ^ k l) (fun _ => 0) ∧
    puts (.vmin f) [va, vb] (fun l => min (a l) (b l)) (fun _ => 0) ∧
    puts (.vmax f) [va, vb] (fun l => max (a l) (b l)) (fun _ => 0) ∧
    puts (.vabs f) [va]
      (fun l => if f.sat then min t.max (a l).natAbs else ((a l).natAbs : Int))
      (fun l => flIf (f.sat && decide (a l = t.min)) flSAT)

/-- The integer VI words (R247), whose B is the immediate, and the melded ones (R57 to R60): arm A's lanes take arm A's
result and arm B's lanes arm B's, both arms' sources read first; with CX 01 the addend of `vmad` is the arm's own
destination, else 0. -/
def Obligations.IntegerForms : Prop :=
  (∀ (s : State) (e : Env) (f : VIF),
     let ty := f.ty.toNat
     let t := intTy ty
     let d := f.d.toNat
     let va : Opnd := .reg f.a.toNat
     let vb : Opnd := .const f.val
     let a (l : Nat) : Int := va.int ty e.gr l
     let b : Int := vb.int ty e.gr 0
     let na (l : Nat) : Nat := va.num ty e.gr l
     let nb : Nat := vb.num ty e.gr 0
     let k : Nat := (vb.lo e.gr 0).toNat
     let puts (i : Instr) (x : Nat → Int) : Prop :=
       Issues s e i → e.badV ty d [va] = false →
         TakesLanes s e i (wide ty) (oneArm (e.active i.guard) d) (fun _ l => tyBits ty (x l)) (fun _ _ => 0)
     puts (.vaddImm f) (fun l => a l + b) ∧
     puts (.vsubImm f) (fun l => a l - b) ∧
     puts (.vmulImm f) (fun l => a l * b) ∧
     puts (.vmulhImm f) (fun l => a l * b / 2 ^ t.w) ∧
     puts (.vandImm f) (fun l => ((na l &&& nb : Nat) : Int)) ∧
     puts (.vorImm f) (fun l => ((na l ||| nb : Nat) : Int)) ∧
     puts (.vxorImm f) (fun l => ((na l ^^^ nb : Nat) : Int)) ∧
     puts (.vshlImm f) (fun l => (na l : Int) * 2 ^ k) ∧
     puts (.vshrImm f) (fun l => ((na l / 2 ^ k : Nat) : Int)) ∧
     puts (.vsarImm f) (fun l => va.sgn ty e.gr l / 2 ^ k) ∧
     puts (.vminImm f) (fun l => min (a l) b) ∧
     puts (.vmaxImm f) (fun l => max (a l) b) ∧
     (Issues s e (.vmovImm f) → e.badReg ty d = false →
       TakesLanes s e (.vmovImm f) (wide ty) (oneArm (e.active (Instr.vmovImm f).guard) d) (fun _ _ => f.val)
         (fun _ _ => 0))) ∧
  (∀ (s : State) (e : Env) (f : VMF),
     let ty := f.ty
     let t := intTy ty
     let a (x : Arm) (l : Nat) : Int := x.a'.int ty e.gr l
     let b (x : Arm) (l : Nat) : Int := x.b'.int ty e.gr l
     let c (x : Arm) (l : Nat) : Int := if f.acc then (Opnd.reg x.d).int ty e.gr l else 0
     let na (x : Arm) (l : Nat) : Nat := x.a'.num ty e.gr l
     let nb (x : Arm) (l : Nat) : Nat := x.b'.num ty e.gr l
     let k (x : Arm) (l : Nat) : Nat := (x.b'.lo e.gr l).toNat
     let puts (i : Instr) (v : Arm → Nat → Int) : Prop :=
       Issues s e i → (f.arms e).all (fun x => !e.over x.d && !e.over x.a && !e.over x.b) = true →
         TakesLanes s e i false (f.arms e) (fun x l => tyBits ty (v x l)) (fun _ _ => 0)
     t.w = 32 ∧
     puts (.vaddMelded f) (fun x l => a x l + b x l) ∧
     puts (.vsubMelded f) (fun x l => a x l - b x l) ∧
     puts (.vmulMelded f) (fun x l => a x l * b x l) ∧
     puts (.vmadMelded f) (fun x l => a x l * b x l + c x l) ∧
     puts (.vandMelded f) (fun x l => ((na x l &&& nb x l : Nat) : Int)) ∧
     puts (.vorMelded f) (fun x l => ((na x l ||| nb x l : Nat) : Int)) ∧
     puts (.vxorMelded f) (fun x l => ((na x l ^^^ nb x l : Nat) : Int)) ∧
     puts (.vshlMelded f) (fun x l => (na x l : Int) * 2 ^ k x l) ∧
     puts (.vshrMelded f) (fun x l => ((na x l / 2 ^ k x l : Nat) : Int)) ∧
     puts (.vsarMelded f) (fun x l => x.a'.sgn ty e.gr l / 2 ^ k x l) ∧
     puts (.vminMelded f) (fun x l => min (a x l) (b x l)) ∧
     puts (.vmaxMelded f) (fun x l => max (a x l) (b x l)) ∧
     (Issues s e (.vmovMelded f) → (f.arms e).all (fun x => !e.over x.d && !e.over x.a) = true →
       TakesLanes s e (.vmovMelded f) false (f.arms e) (fun x l => (e.gr.vReg x.a l).setWidth 64) (fun _ _ => 0)))

/-- `vbits`, `vbfe` and `vbfi` (R317): counts go to one register; a field is told bit by bit. -/
def Obligations.LaneBits : Prop :=
  ∀ (s : State) (e : Env) (f : VF),
    let ty := f.ty.toNat
    let d := f.d.toNat
    let m (i : Instr) : Word := e.active i.guard
    let va : Opnd := .reg f.a.toNat
    (Issues s e (.vbits f) → e.badReg (if f.sub < 3 then 2 else ty) d = false → e.badOpnd ty va = false →
      ∃ r : Nat → Nat,
        TakesLanes s e (.vbits f) (wide ty && decide (3 ≤ f.sub)) (oneArm (m (.vbits f)) d)
          (fun _ l => BitVec.ofNat 64 (r l)) (fun _ _ => 0) ∧
        ∀ l, l < 64 → let w := (intTy ty).w; let b := va.num ty e.gr l
          r l < 2 ^ w ∧
          (f.sub = 0 → r l = (List.range w).countP (fun j => b.testBit j)) ∧
          (f.sub = 1 → r l ≤ w ∧ b < 2 ^ (w - r l) ∧ (r l < w → 2 ^ (w - 1 - r l) ≤ b)) ∧
          (f.sub = 2 → r l ≤ w ∧ (∀ j, j < r l → b.testBit j = false) ∧ (r l < w → b.testBit (r l) = true)) ∧
          (f.sub = 3 → ∀ j, j < w → (r l).testBit j = b.testBit (w - 1 - j)) ∧
          (f.sub = 4 → ∀ j, j < w → (r l).testBit j = b.testBit (8 * (w / 8 - 1 - j / 8) + j % 8))) ∧
    (let a (l : Nat) : Lane := va.lo e.gr l
     let st (l : Nat) : Nat := ((f.srcB e).lo e.gr l).toNat
     let n (l : Nat) : Nat := min ((f.srcC e).lo e.gr l).toNat (32 - st l)
     (Issues s e (.vbfe f) → e.badV 2 d [va, f.srcB e, f.srcC e] = false →
       ∃ r : Nat → Lane,
         TakesLanes s e (.vbfe f) false (oneArm (m (.vbfe f)) d) (fun _ l => (r l).setWidth 64) (fun _ _ => 0) ∧
         ∀ l, l < 64 →
           (n l = 0 → r l = 0) ∧
           (0 < n l → ∀ j, j < 32 → (r l).getLsbD j =
             if j < n l then (a l).getLsbD (st l + j) else decide (f.ty = 0) && (a l).getLsbD (st l + n l - 1))) ∧
     (Issues s e (.vbfi f) → e.badV 2 d [va, f.srcB e, f.srcC e] = false →
       ∃ r : Nat → Lane,
         TakesLanes s e (.vbfi f) false (oneArm (m (.vbfi f)) d) (fun _ l => (r l).setWidth 64) (fun _ _ => 0) ∧
         ∀ l j, l < 64 → j < 32 → (r l).getLsbD j =
           if st l ≤ j ∧ j < st l + n l then (a l).getLsbD (j - st l) else (e.gr.vReg d l).getLsbD j))

/-- Moves between lanes and registers (R319, R325, R326, R327). -/
def Obligations.LaneMoves : Prop :=
  ∀ (s : State) (e : Env) (f : VF),
    let ty := f.ty.toNat
    let d := f.d.toNat
    let w := wide ty
    let va : Opnd := .reg f.a.toNat
    let whole (o : Opnd) (l : Nat) : Word := if w then o.pair e.gr l else (o.lo e.gr l).setWidth 64
    let puts (i : Instr) (x : Nat → Word) : Prop :=
      TakesLanes s e i w (oneArm (e.active i.guard) d) (fun _ l => x l) (fun _ _ => 0)
    (Issues s e (.vsel f) → e.badV ty d [va, f.srcB e] = false →
      puts (.vsel f) (fun l => whole (if (e.gr.pReg f.c.toNat).getLsbD l then va else f.srcB e) l)) ∧
    (Issues s e (.vmov f) → f.sub = 0 → e.badV ty d [va] = false → puts (.vmov f) (whole va)) ∧
    (Issues s e (.vmov f) → f.sub = 1 → e.badV ty d [] = false → puts (.vmov f) (fun l => BitVec.ofNat 64 l)) ∧
    (Issues s e (.vbc f) → e.badReg ty d = false → puts (.vbc f) (fun _ => e.g f.b.toNat)) ∧
    (Issues s e (.vrdl f) → e.badReg ty f.a.toNat = false →
      let l := if f.cg then (e.g f.c.toNat).toNat else f.c.toNat
      l < e.width →
      exec (.vrdl f) s = .next (s.wrote e (.vrdl f) (e.putG d
        (if w then va.pair e.gr l
         else if f.ty = 0 then (va.lo e.gr l).signExtend 64 else (va.lo e.gr l).setWidth 64)))) ∧
    (Issues s e (.vshfl f) → e.badReg ty d = false → e.badReg ty f.a.toNat = false →
      (f.sub = 0 → f.bg = false → e.over f.b.toNat = false) →
      (f.sub ≠ 0 → f.cg = false → f.c.toNat < e.width) →
      let k (l : Nat) : Nat :=
        if f.sub = 0 then ((f.srcB e).lo e.gr l).toNat
        else if f.cg then (e.g f.c.toNat).toNat else f.c.toNat
      let from_ (l : Nat) : Int :=
        if f.sub = 0 then (k l : Int)
        else if f.sub = 1 then (l : Int) - k l
        else if f.sub = 2 then (l : Int) + k l
        else ((l ^^^ k l : Nat) : Int)
      puts (.vshfl f) (fun l =>
        whole va (if 0 ≤ from_ l ∧ from_ l < e.width then (from_ l).toNat else l)))

/-- Lane compares (R318, R322, R58): the active lanes of one predicate, every other lane of it and p0 unchanged;
an f32 compare with a NaN is only unequal or unordered. -/
def Obligations.LaneCompares : Prop :=
  ∀ (s : State) (e : Env),
    (∀ f : VF, Issues s e (.vcmp f) → e.badOpnd f.ty.toNat (.reg f.a.toNat) = false →
      e.badOpnd f.ty.toNat (f.srcB e) = false →
      TakesPred s e (.vcmp f) (oneArm (e.active (Instr.vcmp f).guard) f.d.toNat) (fun _ l =>
        condInt (f.d.toNat / 8) ((Opnd.reg f.a.toNat).int f.ty.toNat e.gr l) ((f.srcB e).int f.ty.toNat e.gr l))) ∧
    (∀ f : VIF, Issues s e (.vcmpImm f) → e.badOpnd f.ty.toNat (.reg f.a.toNat) = false →
      TakesPred s e (.vcmpImm f) (oneArm (e.active (Instr.vcmpImm f).guard) f.d.toNat) (fun _ l =>
        condInt (f.d.toNat / 8) ((Opnd.reg f.a.toNat).int f.ty.toNat e.gr l)
          ((Opnd.const f.val).int f.ty.toNat e.gr l))) ∧
    (∀ f : VF, Issues s e (.vfcmp f) → e.over f.a.toNat = false → e.badOpnd 1 (f.srcB e) = false →
      TakesPred s e (.vfcmp f) (oneArm (e.active (Instr.vfcmp f).guard) f.d.toNat) (fun _ l =>
        condHolds (f.d.toNat / 8) (fcompare (e.gr.vReg f.a.toNat l) ((f.srcB e).lo e.gr l)))) ∧
    (∀ f : VIF, Issues s e (.vfcmpImm f) → e.over f.a.toNat = false →
      TakesPred s e (.vfcmpImm f) (oneArm (e.active (Instr.vfcmpImm f).guard) f.d.toNat) (fun _ l =>
        condHolds (f.d.toNat / 8) (fcompare (e.gr.vReg f.a.toNat l) (f.val.setWidth 32)))) ∧
    (∀ f : VMF, Issues s e (.vcmpMelded f) → (f.arms e).all (fun x => !e.over x.a && !e.over x.b) = true →
      TakesPred s e (.vcmpMelded f) (f.arms e) (fun x l =>
        condInt (x.d / 8) (x.a'.int f.ty e.gr l) (x.b'.int f.ty e.gr l))) ∧
    (∀ f : VMF, Issues s e (.vfcmpMelded f) → (f.arms e).all (fun x => !e.over x.a && !e.over x.b) = true →
      TakesPred s e (.vfcmpMelded f) (f.arms e) (fun x l =>
        condHolds (x.d / 8) (fcompare (e.gr.vReg x.a l) (e.gr.vReg x.b l)))) ∧
    (∀ x y c, fcompare x y = none → condHolds c (fcompare x y) = decide (c = 1 ∨ c = 6))

/-- `plog`, `ballot` and `vred` (R264, R312, R85, R328): active lanes alone take part; a vote over no lane is `.any` false
and `.all` true; a reduction replaces an inactive lane by the operation's identity and combines in the fixed tree, and
g[D] is written whatever the guard. -/
def Obligations.LaneVotes : Prop :=
  (∀ (s : State) (e : Env) (f : VF),
     let m := e.active (Instr.ballot f).guard
     let p := e.gr.pReg f.a.toNat
     (Issues s e (.plog f) →
       TakesPred s e (.plog f) (oneArm (e.active (Instr.plog f).guard) f.d.toNat) (fun _ l =>
         let a := p.getLsbD l
         let b := (e.gr.pReg f.b.toNat).getLsbD l
         match f.sub.toNat with
         | 0 => a && b
         | 1 => a || b
         | 2 => a != b
         | 3 => a && !b
         | 4 => a || !b
         | 5 => !(a && b)
         | 6 => !(a || b)
         | _ => a == b)) ∧
     (Issues s e (.ballot f) →
       (f.sub = 0 → exec (.ballot f) s = .next (s.wrote e (.ballot f) (e.putG f.d.toNat (m &&& p)))) ∧
       (f.sub = 1 → exec (.ballot f) s = .next (s.wrote e (.ballot f) (fun g =>
         g.setGp f.d.toNat ((List.range 64).any (fun l => m.getLsbD l && p.getLsbD l))))) ∧
       (f.sub = 2 → exec (.ballot f) s = .next (s.wrote e (.ballot f) (fun g =>
         g.setGp f.d.toNat ((List.range 64).all (fun l => !m.getLsbD l || p.getLsbD l))))))) ∧
  (∀ (s : State) (e : Env) (f : VF) (k : Nat), Issues s e (.vred f) →
     e.badOpnd f.ty.toNat (.reg f.a.toNat) = false → e.width = 2 ^ k → k ≤ 6 →
     let ty := f.ty.toNat
     let t := intTy ty
     let m := e.active (Instr.vred f).guard
     let n (one : Nat) (l : Nat) : Nat := if m.getLsbD l then (Opnd.reg f.a.toNat).num ty e.gr l else one
     let puts (c : BitVec 6) (one : Nat) (op : Nat → Nat → Nat) : Prop := f.sub = c →
       exec (.vred f) s = .next (s.wrote e (.vred f)
         (e.putG f.d.toNat (BitVec.ofInt 64 (t.val (treeAt op k (n one) 0)))))
     let x (one : Lane) (l : Nat) : Lane × Flags := (if m.getLsbD l then e.gr.vReg f.a.toNat l else one, 0)
     let putsF (c : BitVec 6) (one : Lane) (op : Lane → Lane → Lane × Flags) : Prop := f.sub = c →
       let r := treeAt (fun y z => ((op y.1 z.1).1, y.2 ||| z.2 ||| (op y.1 z.1).2)) k (x one) 0
       exec (.vred f) s = .next (s.wrote e (.vred f) (fun g => (e.putG f.d.toNat (r.1.setWidth 64) g).raise r.2))
     puts 0 0 (fun a b => (a + b) % 2 ^ t.w) ∧
     puts 1 (2 ^ t.w - 1) (fun a b => a &&& b) ∧
     puts 2 0 (fun a b => a ||| b) ∧
     puts 3 0 (fun a b => a ^^^ b) ∧
     puts 4 (t.max % 2 ^ t.w).toNat (fun a b => if t.val b < t.val a then b else a) ∧
     puts 5 (t.min % 2 ^ t.w).toNat (fun a b => if t.val a < t.val b then b else a) ∧
     putsF 6 0 (fadd .rne) ∧
     putsF 7 0x7F800000 fmin ∧
     putsF 8 0xFF800000 fmax)

/-! Floats. -/

/-- The f32 words (R321, R322, R74): every active lane takes the operation of its sources and raises its flags. That
`vfma` of a NaN addend beside an infinity times zero raises no flag is the model's choice (log 73, DESIGN CHOICE). -/
def Obligations.LaneFloats : Prop :=
  ∀ (s : State) (e : Env) (f : VF),
    let d := f.d.toNat
    let va : Opnd := .reg f.a.toNat
    let a (l : Nat) : Lane := e.gr.vReg f.a.toNat l
    let b (l : Nat) : Lane := (f.srcB e).lo e.gr l
    let c (l : Nat) : Lane := (f.srcC e).lo e.gr l
    let rm := RMode.of f.mod
    let puts (i : Instr) (srcs : List Opnd) (x : Nat → Lane × Flags) : Prop :=
      Issues s e i → e.badV 1 d srcs = false →
        TakesLanes s e i false (oneArm (e.active i.guard) d) (fun _ l => (x l).1.setWidth 64) (fun _ l => (x l).2)
    puts (.vfadd f) [va, f.srcB e] (fun l => fadd rm (a l) (b l)) ∧
    puts (.vfsub f) [va, f.srcB e] (fun l => fsub rm (a l) (b l)) ∧
    puts (.vfmul f) [va, f.srcB e] (fun l => fmul rm (a l) (b l)) ∧
    puts (.vfma f) [va, f.srcB e, f.srcC e] (fun l => ffma rm (a l) (b l) (c l)) ∧
    puts (.vfmin f) [va, f.srcB e] (fun l => fmin (a l) (b l)) ∧
    puts (.vfmax f) [va, f.srcB e] (fun l => fmax (a l) (b l)) ∧
    puts (.vfscl f) [va, f.srcB e] (fun l => fscale rm (a l) (b l).toInt) ∧
    puts (.vfrcp f) [va] (fun l => frcp rm (a l)) ∧
    puts (.vfrsq f) [va] (fun l => frsqrt rm (a l)) ∧
    puts (.vfsqrt f) [va] (fun l => fsqrt rm (a l)) ∧
    puts (.vfex2 f) [va] (fun l => fex2 (Config.undecided (64 * s.fresh + l) (a l)) (a l)) ∧
    puts (.vflg2 f) [va] (fun l => flg2 (Config.undecided (64 * s.fresh + l) (a l)) (a l)) ∧
    puts (.vfsin f) [va] (fun l => fsin (Config.undecided (64 * s.fresh + l) (a l))
      (Config.zeroSign (64 * s.fresh + l) (a l)) (a l)) ∧
    puts (.vfcos f) [va] (fun l => fcos (Config.undecided (64 * s.fresh + l) (a l)) (a l)) ∧
    puts (.vfcls f) [va] (fun l => (fclass (a l), 0))

/-- The f32 VI words and melded words, which round to nearest even (R73, R58, R59), and `vfdp4` (R84): a0 × b0 to
a3 × b3 and the addend summed exactly and rounded once, with the special cases of R83. The sign of an exact zero sum of
more than two terms, and that a NaN term beside an invalid product raises no flag, are the model's choices (logs 74 and
73, DESIGN CHOICE). -/
def Obligations.FloatForms : Prop :=
  ∀ (s : State) (e : Env),
    (∀ f : VIF,
      let a (l : Nat) : Lane := e.gr.vReg f.a.toNat l
      let b : Lane := f.val.setWidth 32
      let puts (i : Instr) (x : Nat → Lane × Flags) : Prop :=
        Issues s e i → e.over f.d.toNat = false → e.over f.a.toNat = false →
          TakesLanes s e i false (oneArm (e.active i.guard) f.d.toNat) (fun _ l => (x l).1.setWidth 64)
            (fun _ l => (x l).2)
      puts (.vfaddImm f) (fun l => fadd .rne (a l) b) ∧
      puts (.vfsubImm f) (fun l => fsub .rne (a l) b) ∧
      puts (.vfmulImm f) (fun l => fmul .rne (a l) b) ∧
      puts (.vfminImm f) (fun l => fmin (a l) b) ∧
      puts (.vfmaxImm f) (fun l => fmax (a l) b)) ∧
    (∀ f : VMF,
      let a (x : Arm) (l : Nat) : Lane := e.gr.vReg x.a l
      let b (x : Arm) (l : Nat) : Lane := e.gr.vReg x.b l
      let puts (i : Instr) (v : Arm → Nat → Lane × Flags) : Prop :=
        Issues s e i → (f.arms e).all (fun x => !e.over x.d && !e.over x.a && !e.over x.b) = true →
          TakesLanes s e i false (f.arms e) (fun x l => (v x l).1.setWidth 64) (fun x l => (v x l).2)
      puts (.vfaddMelded f) (fun x l => fadd .rne (a x l) (b x l)) ∧
      puts (.vfsubMelded f) (fun x l => fsub .rne (a x l) (b x l)) ∧
      puts (.vfmulMelded f) (fun x l => fmul .rne (a x l) (b x l)) ∧
      puts (.vfmaMelded f) (fun x l => ffma .rne (a x l) (b x l) (if f.acc then e.gr.vReg x.d l else 0)) ∧
      puts (.vfminMelded f) (fun x l => fmin (a x l) (b x l)) ∧
      puts (.vfmaxMelded f) (fun x l => fmax (a x l) (b x l))) ∧
    (∀ f : VF, Issues s e (.vfdp4 f) →
      let n := if f.ty = 1 then 4 else 2
      e.over f.d.toNat = false → e.badOpnd 1 (f.srcC e) = false →
      f.a.toNat % n = 0 → e.over (f.a.toNat + n - 1) = false →
      f.b.toNat % n = 0 → e.over (f.b.toNat + n - 1) = false →
      let el (r l j : Nat) : FVal :=
        if f.ty = 1 then f32Of (e.gr.vReg (r + j) l)
        else (if f.ty = 9 then f16 else e8m7).decode
          ((e.gr.vReg (r + j / 2) l).toNat / 2 ^ (16 * (j % 2)) % 2 ^ 16)
      ∃ x : Nat → Lane × Flags,
        (∀ l, SumOnce (RMode.of f.mod) (f32Of ((f.srcC e).lo e.gr l))
          [(el f.a.toNat l 0, el f.b.toNat l 0), (el f.a.toNat l 1, el f.b.toNat l 1),
           (el f.a.toNat l 2, el f.b.toNat l 2), (el f.a.toNat l 3, el f.b.toNat l 3)] (x l)) ∧
        TakesLanes s e (.vfdp4 f) false (oneArm (e.active (Instr.vfdp4 f).guard) f.d.toNat)
          (fun _ l => (x l).1.setWidth 64) (fun _ l => (x l).2))

/-- What the f32 operations give (R72 to R74, R322). A result is the exact one rounded once in its mode, to nearest with
ties to even or in its direction, with OF, UF and NX by it; a NaN result is the canonical one, and a NaN operand raises
no flag; the special cases of the functions; and `vfmin`, `vfmax`, the compares and `vfcls` by the bits of their
operands. -/
def Obligations.FloatRounding : Prop :=
  (∀ (rm : RMode) (z : Bool) (x : Dy), x.m ≠ 0 →
     RoundsTo f32 false rm x (f32.roundDy rm false z x)) ∧
  (∀ (rm : RMode) (a b c : Lane) (x : Dy) (r : Lane × Flags),
     (∃ n m q, f32Of a = .fin n m q) → (∃ n m q, f32Of b = .fin n m q) → (∃ n m q, f32Of c = .fin n m q) →
     (x = (f32Of a).dy.add (f32Of b).dy ∧ r = fadd rm a b) ∨ (x = (f32Of a).dy.sub (f32Of b).dy ∧ r = fsub rm a b) ∨
       (x = (f32Of a).dy.mul (f32Of b).dy ∧ r = fmul rm a b) ∨
       (x = ((f32Of a).dy.mul (f32Of b).dy).add (f32Of c).dy ∧ r = ffma rm a b c) →
     x.m ≠ 0 → RoundsTo f32 false rm x (r.1.toNat, r.2)) ∧
  (∀ (rm : RMode) (a b c : Lane),
     (∃ n m q, f32Of a = .fin n m q) → (∃ n m q, f32Of b = .fin n m q) → (∃ n m q, f32Of c = .fin n m q) →
     let zero : Lane := if rm = .rdn then 0x80000000 else 0
     let prod : Dy := (f32Of a).dy.mul (f32Of b).dy
     (((f32Of a).dy.add (f32Of b).dy).m = 0 → fadd rm a b = (if a = b then a else zero, 0)) ∧
     (((f32Of a).dy.sub (f32Of b).dy).m = 0 → fsub rm a b = (if a = b ^^^ 0x80000000 then a else zero, 0)) ∧
     (prod.m = 0 → fmul rm a b = (if a.msb = b.msb then 0 else 0x80000000, 0)) ∧
     ((prod.add (f32Of c).dy).m = 0 →
       ffma rm a b c = (if prod.m = 0 ∧ c.msb = (a.msb != b.msb) then c else zero, 0))) ∧
  (∀ (rm : RMode) (a b : Lane) (n : Bool), f32Of a = .inf n → f32Of b ≠ .nan →
     (f32Of b = .inf (!n) → fadd rm a b = (0x7FC00000, flNV)) ∧ (f32Of b ≠ .inf (!n) → fadd rm a b = (a, 0)) ∧
     (f32Of b = .inf n → fsub rm a b = (0x7FC00000, flNV)) ∧ (f32Of b ≠ .inf n → fsub rm a b = (a, 0)) ∧
     (b.setWidth 31 = 0 → fmul rm a b = (0x7FC00000, flNV) ∧ fmul rm b a = (0x7FC00000, flNV)) ∧
     (b.setWidth 31 ≠ 0 → fmul rm a b = (if b.msb then a ^^^ 0x80000000 else a, 0))) ∧
  (∀ (rm : RMode) (a b c : Lane) (r : Lane × Flags),
     (r = fadd rm a b ∨ r = fsub rm a b ∨ r = fmul rm a b ∨ r = ffma rm a b c) →
     (f32Of r.1 = .nan → r.1 = 0x7FC00000) ∧
     (f32Of a = .nan ∨ f32Of b = .nan → r = (0x7FC00000, 0))) ∧
  (∀ (rm : RMode) (x : Lane) (n : Bool) (m : Nat) (q : Int), f32Of x = .fin n m q → m ≠ 0 →
     let v : Dy := { m := m, e := q }
     let one : Dy := { m := 1, e := 0 }
     Rounded rm n (fun t => (t.mul v).le one = true) (fun t => one.le (t.mul v) = true) (frcp rm x) ∧
     (n = false → Rounded rm false (fun t => (t.mul t).le v = true) (fun t => v.le (t.mul t) = true) (fsqrt rm x) ∧
       Rounded rm false (fun t => ((t.mul t).mul v).le one = true) (fun t => one.le ((t.mul t).mul v) = true)
         (frsqrt rm x)) ∧
     (n = true → fsqrt rm x = (0x7FC00000, flNV) ∧ frsqrt rm x = (0x7FC00000, flNV) ∧
       ∀ u, flg2 u x = (0x7FC00000, flNV)) ∧
     ∀ k : Int, Rounded rm n (fun t => t.le (v.scale k) = true) (fun t => (v.scale k).le t = true) (fscale rm x k)) ∧
  (∀ (rm : RMode) (u : Lane) (z : Bool) (k : Int),
     frcp rm 0 = (0x7F800000, flDZ) ∧ frcp rm 0x80000000 = (0xFF800000, flDZ) ∧ frcp rm 0x7F800000 = (0, 0) ∧
     frcp rm 0xFF800000 = (0x80000000, 0) ∧
     frsqrt rm 0 = (0x7F800000, flDZ) ∧ frsqrt rm 0x80000000 = (0xFF800000, flDZ) ∧ frsqrt rm 0x7F800000 = (0, 0) ∧
     frsqrt rm 0xFF800000 = (0x7FC00000, flNV) ∧
     fsqrt rm 0 = (0, 0) ∧ fsqrt rm 0x80000000 = (0x80000000, 0) ∧ fsqrt rm 0x7F800000 = (0x7F800000, 0) ∧
     fsqrt rm 0xFF800000 = (0x7FC00000, flNV) ∧
     fex2 u 0xFF800000 = (0, 0) ∧ fex2 u 0x7F800000 = (0x7F800000, 0) ∧
     flg2 u 0 = (0xFF800000, flDZ) ∧ flg2 u 0x80000000 = (0xFF800000, flDZ) ∧ flg2 u 0x3F800000 = (0, 0) ∧
     flg2 u 0x7F800000 = (0x7F800000, 0) ∧ flg2 u 0xFF800000 = (0x7FC00000, flNV) ∧
     fsin u z 0 = (0, 0) ∧ fsin u z 0x80000000 = (0x80000000, 0) ∧ fsin u z 0x7F800000 = (0x7FC00000, flNV) ∧
     fsin u z 0xFF800000 = (0x7FC00000, flNV) ∧
     fcos u 0x7F800000 = (0x7FC00000, flNV) ∧ fcos u 0xFF800000 = (0x7FC00000, flNV) ∧
     (∀ x, x = 0 ∨ x = 0x80000000 ∨ x = 0x7F800000 ∨ x = 0xFF800000 → fscale rm x k = (x, 0)) ∧
     ∀ x, f32Of x = .nan → frcp rm x = (0x7FC00000, 0) ∧ frsqrt rm x = (0x7FC00000, 0) ∧
       fsqrt rm x = (0x7FC00000, 0) ∧ fex2 u x = (0x7FC00000, 0) ∧ flg2 u x = (0x7FC00000, 0) ∧
       fsin u z x = (0x7FC00000, 0) ∧ fcos u x = (0x7FC00000, 0) ∧ fscale rm x k = (0x7FC00000, 0)) ∧
  (∀ (x u : Lane) (z n : Bool) (m : Nat) (q k : Int), f32Of x = .fin n m q →
     let v : Dy := (f32Of x).dy
     let two : Dy := { m := 1, e := k }
     ((v.sub (Dy.ofInt k)).m = 0 →
       Rounded .rne false (fun t => t.le two = true) (fun t => two.le t = true) (fex2 u x) ∧
       (m ≠ 0 → fsin u z x = (if n then 0x80000000 else 0, 0))) ∧
     (((v.scale 2).sub (Dy.ofInt (2 * k + 1))).m = 0 → fcos u x = (0, 0))) ∧
  (∀ a b : Lane,
     let rank (x : Lane) : Int := if x.msb then -((x.setWidth 31).toNat : Int) - 1 else x.toNat
     (f32Of a = .nan → f32Of b = .nan → fmin a b = (0x7FC00000, 0) ∧ fmax a b = (0x7FC00000, 0)) ∧
     (f32Of a = .nan → f32Of b ≠ .nan → fmin a b = (b, 0) ∧ fmax a b = (b, 0)) ∧
     (f32Of a ≠ .nan → f32Of b = .nan → fmin a b = (a, 0) ∧ fmax a b = (a, 0)) ∧
     (f32Of a ≠ .nan → f32Of b ≠ .nan →
       fmin a b = (if rank b < rank a then b else a, 0) ∧ fmax a b = (if rank a < rank b then b else a, 0) ∧
       fcompare a b = some (if a.setWidth 31 = 0 ∧ b.setWidth 31 = 0 then .eq else compare (rank a) (rank b))) ∧
     (f32Of a = .nan ∨ f32Of b = .nan → fcompare a b = none)) ∧
  (∀ x : Lane,
     let ex := x.extractLsb' 23 8
     let fr := x.extractLsb' 0 23
     (f32Of x = .nan ↔ ex = 0xFF ∧ fr ≠ 0) ∧
     fclass x =
       if ex = 0xFF ∧ fr ≠ 0 then 0x100
       else if ex = 0xFF then (if x.msb then 0x01 else 0x80)
       else if ex = 0 ∧ fr = 0 then (if x.msb then 0x08 else 0x10)
       else if ex = 0 then (if x.msb then 0x04 else 0x20)
       else if x.msb then 0x02 else 0x40)

/-- `vfex2`, `vflg2`, `vfsin` and `vfcos` (R74) of a finite operand x: 2^x, log2 x, sin 2πx and cos 2πx over the real
numbers, rounded once to nearest. Where the function's value is a number of finitely many binary digits this holds as it
stands; elsewhere the model may leave the result to the free value u, with NX, since its enclosure need not decide the
rounding (logs 6 and 31, DESIGN CHOICE). -/
def Obligations.FunctionRounding : Prop :=
  ∀ (x u : Lane) (zn n : Bool) (m : Nat) (q : Int), f32Of x = .fin n m q →
    let real (t : Dy) : ℝ := t.m * 2 ^ t.e
    let v : ℝ := real (f32Of x).dy
    let rounds (z : ℝ) (r : Lane × Flags) : Prop :=
      z ≠ 0 → (∃ neg : Bool, (neg = true ↔ z < 0) ∧ Rounded .rne neg (fun t => real t ≤ |z|) (fun t => |z| ≤ real t) r) ∨
        (r = (u, flNX) ∧ ∀ t, real t ≠ z)
    rounds (2 ^ v) (fex2 u x) ∧
    (0 < v → rounds (Real.logb 2 v) (flg2 u x)) ∧
    rounds (Real.sin (2 * Real.pi * v)) (fsin u zn x) ∧
    rounds (Real.cos (2 * Real.pi * v)) (fcos u x)

/-! Conversions and narrow formats. -/

/-- `vcvt` (R320, R71, R72, R79): between integers a value is kept, wrapped, or with SAT clamped; a float result or
source is decoded from its fields and rounded once in the mode, past the range to infinity or with SAT to the largest
finite magnitude; an integer result out of bounds is the bound with NV, and a NaN gives 0 with NV. That an integer beyond
the range of the float format gives, with SAT, the largest finite magnitude and raises SAT is the model's choice (log 49,
DESIGN CHOICE): R79 says it of float sources. -/
def Obligations.Conversions : Prop :=
  (∀ f, f = f32 ∨ f = f16 ∨ f = e8m7 →
    (∀ (rm : RMode) (sat n : Bool) (m : Nat) (q z : Int),
      f.ofVal rm sat .nan = (if f = f32 then 0x7FC00000 else if f = f16 then 0x7E00 else 0x7FC0, 0) ∧
      f.ofVal rm sat (.inf n) = ((if n then 2 ^ (f.eb + f.fb) else 0) + (2 ^ f.eb - 1) * 2 ^ f.fb, 0) ∧
      f.ofVal rm sat (.fin n 0 q) = (if n then 2 ^ (f.eb + f.fb) else 0, 0) ∧
      f.ofIntVal rm sat 0 = (0, 0) ∧
      (m ≠ 0 → RoundsTo f sat rm (FVal.fin n m q).dy (f.ofVal rm sat (.fin n m q))) ∧
      (z ≠ 0 → RoundsTo f sat rm { m := z, e := 0 } (f.ofIntVal rm sat z))) ∧
    (∀ (sg : Bool) (ex fr : Nat), ex < 2 ^ f.eb → fr < 2 ^ f.fb →
      f.decode ((if sg then 2 ^ (f.eb + f.fb) else 0) + ex * 2 ^ f.fb + fr) =
        if ex = 2 ^ f.eb - 1 then (if fr = 0 then .inf sg else .nan)
        else if ex = 0 then .fin sg fr (1 - (f.bias : Int) - f.fb)
        else .fin sg (2 ^ f.fb + fr) (ex - (f.bias : Int) - f.fb)) ∧
    (∀ (rm : RMode) (lo hi : Int) (c : Nat),
      (f.decode c = .nan → intOfVal rm lo hi (f.decode c) = (0, flNV)) ∧
      (∀ n, f.decode c = .inf n → intOfVal rm lo hi (f.decode c) = (if n then lo else hi, flNV)) ∧
      (∀ n m q, f.decode c = .fin n m q →
        let x : Dy := (f.decode c).dy
        ∃ z : Int,
          (rm = .rdn ∨ (rm = .rz ∧ n = false) → (Dy.ofInt z).le x = true ∧ x.lt (Dy.ofInt (z + 1)) = true) ∧
          (rm = .rup ∨ (rm = .rz ∧ n = true) → (Dy.ofInt (z - 1)).lt x = true ∧ x.le (Dy.ofInt z) = true) ∧
          (rm = .rne → (Dy.ofInt (2 * z - 1)).le (x.scale 1) = true ∧ (x.scale 1).le (Dy.ofInt (2 * z + 1)) = true ∧
            (∀ k : Int, ((x.scale 1).sub (Dy.ofInt (2 * k + 1))).m = 0 → z % 2 = 0)) ∧
          intOfVal rm lo hi (f.decode c) =
            if z < lo then (lo, flNV) else if hi < z then (hi, flNV)
            else (z, if (x.sub (Dy.ofInt z)).m = 0 then 0 else flNX)))) ∧
  ∀ (s : State) (e : Env) (f : VF), Issues s e (.vcvt f) →
    let ty := f.ty.toNat
    let c := f.c.toNat
    let sty := (intTyOfCode c).getD 1
    let va : Opnd := .reg f.a.toNat
    e.badReg ty f.d.toNat = false → e.badOpnd sty va = false →
    let m := e.active (Instr.vcvt f).guard
    let raw (l : Nat) : Word := if wide sty then va.pair e.gr l else (va.lo e.gr l).setWidth 64
    ((intTyOfCode c).isSome = true → wideOfTy ty = none →
      let t := intTy ty
      let v (l : Nat) : Int := va.int sty e.gr l
      TakesLanes s e (.vcvt f) (wide ty) (oneArm m f.d.toNat)
        (fun _ l => tyBits ty (if f.sat then max t.min (min t.max (v l)) else v l))
        (fun _ l => flIf (f.sat && (decide (v l < t.min) || decide (t.max < v l))) flSAT)) ∧
    ((intTyOfCode c).isSome = true → ∀ dst, wideOfTy ty = some dst →
      TakesLanes s e (.vcvt f) false (oneArm m f.d.toNat)
        (fun _ l => BitVec.ofNat 64 (dst.ofIntVal (RMode.of f.mod) f.sat (va.int sty e.gr l)).1)
        (fun _ l => (dst.ofIntVal (RMode.of f.mod) f.sat (va.int sty e.gr l)).2)) ∧
    (∀ src, wideOfCode c = some src → wideOfTy ty = none →
      let t := intTy ty
      let x (l : Nat) : Int × Flags :=
        intOfVal (RMode.of f.mod) t.min t.max (src.decode ((raw l).toNat % 2 ^ src.width))
      TakesLanes s e (.vcvt f) (wide ty) (oneArm m f.d.toNat) (fun _ l => tyBits ty (x l).1) (fun _ l => (x l).2)) ∧
    (∀ src dst, wideOfCode c = some src → wideOfTy ty = some dst → src ≠ dst →
      let x (l : Nat) : Nat × Flags :=
        dst.ofVal (RMode.of f.mod) f.sat (src.decode ((raw l).toNat % 2 ^ src.width))
      TakesLanes s e (.vcvt f) false (oneArm m f.d.toNat) (fun _ l => BitVec.ofNat 64 (x l).1) (fun _ l => (x l).2)) ∧
    (∀ src, wideOfCode c = some src → wideOfTy ty = some src →
      TakesLanes s e (.vcvt f) false (oneArm m f.d.toNat)
        (fun _ l => BitVec.ofNat 64 (if src.decode ((raw l).toNat % 2 ^ src.width) = .nan then src.nanCode
          else (raw l).toNat % 2 ^ src.width))
        (fun _ _ => 0))

/-- `vscl` (R81, R330): the smallest block scale from -127 to 127 that brings the largest finite magnitude of the
active lanes within the format. -/
def Obligations.BlockScale : Prop :=
  (∀ c, (∀ b, b8OfCode c = some b →
      maxFiniteOf c = some (b.decode ((if b.uns then 0xFE else 0x7F) - (if b.inf then 1 else 0))).dy) ∧
    (b8OfCode c = none →
      maxFiniteOf c = if c = 0x20 then some { m := 2047, e := 5 } else if c = 0x21 then some { m := 255, e := 120 } else none)) ∧
  ∀ (s : State) (e : Env) (f : VF) (mf : Dy), Issues s e (.vscl f) → e.over f.a.toNat = false →
    maxFiniteOf f.c.toNat = some mf →
    let m := e.active (Instr.vscl f).guard
    let mag (l : Nat) : Option Dy :=
      match f32Of (e.gr.vReg f.a.toNat l) with
      | .fin _ n x => if m.getLsbD l then some { m := n, e := x } else none
      | _ => none
    ∃ z : Int, exec (.vscl f) s = .next (s.wrote e (.vscl f) (e.putG f.d.toNat (BitVec.ofInt 64 z))) ∧
      -127 ≤ z ∧ z ≤ 127 ∧
      ((∀ l x, l < 64 → mag l = some x → x.m = 0) → z = -127) ∧
      (∀ y : Int, -127 ≤ y → y < z → ∃ l x, l < 64 ∧ mag l = some x ∧ x.le (mf.scale y) = false) ∧
      (z = 127 ∨ ∀ l x, l < 64 → mag l = some x → x.le (mf.scale z) = true)

/-- `vnarw` and `vwide` (R75, R76, R80, R82, R329, R331), `vpack` and `vunpk` (R332): a code decodes by its fields; an
element, divided by its scale and with its residual added, takes the code of the nearest value at the format's precision,
or saturates; encoding with error feedback passes the residual from lane to lane in ascending order and leaves it,
rounded to f32, in g[C]; decoding scales by 2^g[B]; packing puts n elements of w bits, wrapped or clamped, into one
register. That at precision 1 a tie goes to the even multiple of the spacing, which is the upper one, is the model's
reading (log 32, DEDUCED). -/
def Obligations.NarrowForms : Prop :=
  (∀ b : B8, 1 ≤ b.p → b.p ≤ 7 →
    let top : Nat := if b.uns then 256 else 128
    let bias : Int := 2 ^ ((if b.uns then 8 else 7) - b.p)
    let nanCode : Nat := if b.uns then 0xFF else 0x80
    -- the greatest finite code without its sign
    let last : Nat := (if b.uns then 0xFE else 0x7F) - (if b.inf then 1 else 0)
    let infCode (n : Bool) : Nat := if b.uns then 0xFE else if n then 0xFF else 0x7F
    let ofFields (n : Bool) (x t : Nat) : FVal :=
      if x = 0 then .fin n t (1 - bias - (b.p - 1 : Nat))
      else .fin n (2 ^ (b.p - 1) + t) (x - bias - (b.p - 1 : Nat))
    (∀ (n : Bool) (x t : Nat),
      let c := x * 2 ^ (b.p - 1) + t
      let code := (if n then 128 else 0) + c
      (b.uns = true → n = false) → t < 2 ^ (b.p - 1) → c < top →
      b.decode code =
        if code = nanCode then .nan
        else if b.inf = true ∧ code = infCode n then .inf n
        else ofFields n x t) ∧
    (∀ sat : Bool, b.encode sat .nan = { code := nanCode, fl := 0, stop := true }) ∧
    (∀ sat n : Bool, b.encode sat (.inf n) =
      if n = true ∧ b.uns = true then { code := 0, fl := flSAT, stop := true }
      else if b.inf = true ∧ sat = false then { code := infCode n, fl := 0, stop := true }
      else { code := (if n then 128 else 0) + last, fl := flSAT, stop := true }) ∧
    (∀ (sat n : Bool) (q : Int), b.encode sat (.fin n 0 q) = { code := 0, fl := 0, stop := false }) ∧
    (∀ (sat n : Bool) (m : Nat) (q : Int), m ≠ 0 →
      let x : Dy := { m := m, e := q }
      let r := b.encode sat (.fin n m q)
      -- k multiples of the spacing 2^z of x's binade, or of the subnormal one, are nearest to x
      ∃ (k : Nat) (w z : Int),
        Dy.le { m := 1, e := w } x = true ∧ x.lt { m := 1, e := w + 1 } = true ∧ z = max w (1 - bias) - (b.p - 1 : Nat) ∧
        let y : Dy := { m := k, e := z }
        let lo : Dy := { m := 2 * (k : Int) - 1, e := z - 1 }
        let hi : Dy := { m := 2 * k + 1, e := z - 1 }
        lo.le x = true ∧ x.le hi = true ∧ (x.le lo = true ∨ hi.le x = true → k % 2 = 0) ∧
        let exact : Bool := (x.sub y).m == 0
        (n = true → b.uns = true →
          r = if k = 0 then { code := 0, fl := 0, stop := false } else { code := 0, fl := flSAT, stop := true }) ∧
        (n = false ∨ b.uns = false →
          ((b.decode last).dy.lt y = true →
            r = if b.inf = true ∧ sat = false then { code := infCode n, fl := flOF ||| flNX, stop := true }
              else { code := (if n then 128 else 0) + last, fl := flSAT, stop := true }) ∧
          (y.le (b.decode last).dy = true →
            r.stop = false ∧ r.code < 256 ∧ (k = 0 → r.code = 0) ∧
            (∃ o z', b.decode r.code = .fin (n && k != 0) o z' ∧ (Dy.sub { m := o, e := z' } y).m = 0) ∧
            r.fl = flIf (!exact) flNX ||| flIf (!exact && y.lt { m := 1, e := 1 - bias }) flUF))) ∧
    (∀ (sat ef : Bool) (sc : Int) (res : Dy) (v : FVal),
      let r := narrowOne b sat ef sc res v
      ((∀ n m q, v ≠ .fin n m q) → r = (b.encode sat v, Dy.zero)) ∧
      (∀ n m q, v = .fin n m q → ∃ x : FVal, (∃ n' m' q', x = .fin n' m' q') ∧
        (x.dy.sub ((v.dy.scale (-sc)).add res)).m = 0 ∧ r.1 = b.encode sat x ∧
        (ef = false ∨ r.1.stop = true → r.2 = Dy.zero) ∧
        (ef = true → r.1.stop = false → ((r.2.add (b.decode r.1.code).dy).sub x.dy).m = 0)))) ∧
  (∀ (s : State) (e : Env) (f : VF) (b : B8), b8OfSub f.sub = some b →
     e.over f.d.toNat = false → e.over f.a.toNat = false →
     let x (l : Nat) : FVal := f32Of (e.gr.vReg f.a.toNat l)
     (Issues s e (.vnarw f) → f.mod.getLsbD 2 = false →
       let r (l : Nat) : Enc := (narrowOne b f.sat false (clampScale (e.g f.b.toNat)) Dy.zero (x l)).1
       TakesLanes s e (.vnarw f) false (oneArm (e.active (Instr.vnarw f).guard) f.d.toNat)
         (fun _ l => BitVec.ofNat 64 (r l).code) (fun _ l => (r l).fl)) ∧
     (Issues s e (.vnarw f) → f.mod.getLsbD 2 = true →
       let e0 := f32Of ((e.g f.c.toNat).setWidth 32)
       let sc := clampScale (e.g f.b.toNat)
       let m := e.active (Instr.vnarw f).guard
       ∃ res : Nat → Dy,
         (∀ v, e0 = v → res 0 = (match v with | .fin _ _ _ => v.dy | _ => Dy.zero)) ∧
         (∀ l, l < 64 → res (l + 1) = if m.getLsbD l then (narrowOne b f.sat true sc (res l) (x l)).2 else res l) ∧
         let q := f32.roundDy .rne false false (res 64)
         let fl := flIf (match e0 with | .fin _ _ _ => false | _ => true) flNV |||
           armFlags (oneArm m f.d.toNat) (fun _ l => (narrowOne b f.sat true sc (res l) (x l)).1.fl) ||| q.2
         ∃ V : AMap Lane,
           exec (.vnarw f) s = .next (s.wrote e (.vnarw f) (fun g =>
             (e.putG f.c.toNat (BitVec.ofNat 64 q.1) { g with v := V }).raise fl)) ∧
           ∀ r l, l < 64 → AMap.get 0 V (64 * r + l) = laneAfter e.gr false (oneArm m f.d.toNat)
             (fun _ l => BitVec.ofNat 64 (narrowOne b f.sat true sc (res l) (x l)).1.code) r l) ∧
     (∀ dst, Issues s e (.vwide f) → wideOfTy f.ty.toNat = some dst →
       let sc := if f.bg then clampScale (e.g f.b.toNat) else 0
       let v (l : Nat) : FVal :=
         match b.decode ((e.gr.vReg f.a.toNat l).toNat / 256 ^ f.c.toNat % 256) with
         | .fin n m q => .fin n m (q + sc)
         | y => y
       TakesLanes s e (.vwide f) false (oneArm (e.active (Instr.vwide f).guard) f.d.toNat)
         (fun _ l => BitVec.ofNat 64 (dst.ofVal .rne false (v l)).1) (fun _ l => (dst.ofVal .rne false (v l)).2))) ∧
  (∀ (s : State) (e : Env) (f : VF),
     let ty := f.ty.toNat
     let t := intTy ty
     let n := if ty < 5 then 2 else 4
     (Issues s e (.vpack f) → e.over f.d.toNat = false → f.a.toNat % n = 0 → e.over (f.a.toNat + n - 1) = false →
       let x (l j : Nat) : Int :=
         if t.signed then (e.gr.vReg (f.a.toNat + j) l).toInt else (e.gr.vReg (f.a.toNat + j) l).toNat
       let y (l j : Nat) : Int := if f.sat then max t.min (min t.max (x l j)) else x l j
       ∃ r : Nat → Lane,
         TakesLanes s e (.vpack f) false (oneArm (e.active (Instr.vpack f).guard) f.d.toNat)
           (fun _ l => (r l).setWidth 64)
           (fun _ l => flIf (f.sat && (List.range n).any (fun j => x l j != y l j)) flSAT) ∧
         ∀ l j, l < 64 → j < n → (((r l).toNat / 2 ^ (t.w * j) % 2 ^ t.w : Nat) : Int) = y l j % 2 ^ t.w) ∧
     (Issues s e (.vunpk f) → e.over f.a.toNat = false → f.d.toNat % n = 0 → e.over (f.d.toNat + n - 1) = false →
       ∃ V : AMap Lane,
         exec (.vunpk f) s = .next (s.wrote e (.vunpk f) (fun g => { g with v := V })) ∧
         ∀ r l, l < 64 → AMap.get 0 V (64 * r + l) =
           if (e.active (Instr.vunpk f).guard).getLsbD l ∧ f.d.toNat ≤ r ∧ r < f.d.toNat + n then
             BitVec.ofInt 32 (tyNorm ty
               ((e.gr.vReg f.a.toNat l).toNat / 2 ^ (t.w * (r - f.d.toNat)) % 2 ^ t.w : Nat))
           else e.gr.vReg r l))

/-! Control. -/

/-- Transfers (R63, R267, R268, R271, R303, R339, R31): the target is checked before any effect, and control goes to it; a
call writes the return address and FLOOR to g62 and sets FLOOR to DEPTH, and a return restores FLOOR. Bits 60:56 of g62 are
those of the address, as R271 has it, or copies of its bit 55, as R63 has it: the two agree for every address but 2^55, and
which holds there is free (log 72, DESIGN CHOICE). A bad target traps each
of them, `brg` only where it is taken, and `yield` at the header after its clause; a return with levels open, or into a
frame that the stack no longer reaches, traps. -/
def Obligations.Transfers : Prop :=
  (∀ (s : State) (e : Env) (f : CF),
     let t := e.header + BitVec.ofInt 64 (8 * f.off.toInt)
     let r := e.g (f.aux.setWidth 6).toNat
     let s0 := s.begun e
     let called : State := s0.modGrp e.who (fun g =>
       e.putMeld e.meld e.depth (e.putG 62 (BitVec.ofNat 3 e.floor ++
         (if Config.linkExtended s.fresh then (e.afterClause.extractLsb' 0 56).signExtend 61
          else e.afterClause.extractLsb' 0 61)) g))
     let goes (i : Instr) (pc : Word) (u : State) : Prop := Issues s e i → HeaderAt s e pc →
       exec i s = .next (u.jumped s e i pc)
     let p := e.gr.gpReg (f.aux.extractLsb' 0 3).toNat
     let fl := bits (e.g 62) 63 61
     goes (.bra f) t s0 ∧
     goes (.bri f) r s0 ∧
     goes (.call f) t called ∧
     goes (.calli f) r called ∧
     (p ≠ f.aux.getLsbD 3 → goes (.brg f) t s0) ∧
     (p = f.aux.getLsbD 3 → Issues s e (.brg f) → exec (.brg f) s = .next (s0.issued s e (.brg f))) ∧
     (e.depth = e.floor → fl ≤ e.depth →
       goes (.ret f) (((e.g 62).extractLsb' 0 56).signExtend 64) (s0.modGrp e.who (e.putMeld e.meld fl)))) ∧
  (∀ (s : State) (e : Env) (f : CF) (i : Instr) (t w : Word),
     (i = .bra f ∧ t = e.header + BitVec.ofInt 64 (8 * f.off.toInt)) ∨
       (i = .bri f ∧ t = e.g (f.aux.setWidth 6).toNat) ∨
       (i = .call f ∧ t = e.header + BitVec.ofInt 64 (8 * f.off.toInt)) ∨
       (i = .calli f ∧ t = e.g (f.aux.setWidth 6).toNat) ∨
       (i = .brg f ∧ e.gr.gpReg (f.aux.extractLsb' 0 3).toNat ≠ f.aux.getLsbD 3 ∧
         t = e.header + BitVec.ofInt 64 (8 * f.off.toInt)) ∨
       (i = .ret f ∧ e.depth = e.floor ∧ bits (e.g 62) 63 61 ≤ e.depth ∧
         t = ((e.g 62).extractLsb' 0 56).signExtend 64) ∨
       (i = .yield f ∧ t = e.afterClause) →
     Issues s e i →
     (∀ ti, t.toNat % 8 = 0 → s.fetch e t = .error ti → exec i s = .next (s.trapped e i ti)) ∧
     (t.toNat % 8 ≠ 0 → exec i s = .next (s.trapped e i (e.trapOf (.instr .notHeader)))) ∧
     (t.toNat % 8 = 0 → s.fetch e t = .ok w → isHeader w = false →
       exec i s = .next (s.trapped e i (e.trapOf (.instr .notHeader)))) ∧
     (t.toNat % 8 = 0 → s.fetch e t = .ok w → isHeader w = true → (HF.unpack w).ok = false →
       exec i s = .next (s.trapped e i (e.trapOf (.instr .badHeader))))) ∧
  (∀ (s : State) (e : Env) (f : CF), Issues s e (.ret f) → e.depth ≠ e.floor ∨ e.depth < bits (e.g 62) 63 61 →
     exec (.ret f) s = .next (s.trapped e (.ret f) (e.trapOf (.instr .meldDepth))))

/-- `nop`, `yield` and `idle` (R303, R339, R296): nothing; the clause ends, as by a taken branch to the header after it,
and the rank falls; the group parks, or consumes a pending wake. -/
def Obligations.PlainControl : Prop :=
  ∀ (s : State) (e : Env) (f : CF),
    (Issues s e (.nop f) → exec (.nop f) s = .next ((s.begun e).issued s e (.nop f))) ∧
    (Issues s e (.yield f) → HeaderAt s e e.afterClause →
      exec (.yield f) s = .next ((((s.begun e).modFrag e.who (fun fr => { fr with yielded := true })).modSlice
        e.gr.core e.gr.slice (fun l => { l with rest := some e.who })).jumped s e (.yield f) e.afterClause)) ∧
    (Issues s e (.idle f) → e.gr.wake = true →
      exec (.idle f) s = .next (s.wrote e (.idle f) (fun g => { g with wake := false }))) ∧
    (Issues s e (.idle f) → e.gr.wake = false →
      exec (.idle f) s = .next (s.wrote e (.idle f) (fun g => { g with idle := true })))

/-- `mopen` (R53) and `mclose` (R54). -/
def Obligations.MeldLevels : Prop :=
  (∀ (s : State) (e : Env) (f : CF), Issues s e (.mopen f) →
    let p := e.gr.pReg (f.aux.extractLsb' 0 3).toNat
    (e.splits ≠ [] → exec (.mopen f) s = .next (s.trapped e (.mopen f) (e.trapOf (.instr .meldSplit)))) ∧
    (e.splits = [] → e.depth = 4 →
      exec (.mopen f) s = .next (s.trapped e (.mopen f) (e.trapOf (.instr .meldDepth)))) ∧
    (e.splits = [] → e.depth < 4 →
      exec (.mopen f) s = .next (s.wrote e (.mopen f)
        (e.putMeld ({ region := e.fr.exec &&& p, saved := e.fr.exec } :: e.meld) e.floor))) ∧
    (e.trapOf (.instr .meldSplit)).lanes = e.fr.exec ∧
    (∀ (g : Group) (n : Nat) (m x : Word), (g.setP n m x).meld = g.meld ∧ (g.setP n m x).hmeld = g.hmeld) ∧
    (f.aux = 0 → e.fr.exec &&& p = e.fr.exec)) ∧
  (∀ (s : State) (e : Env) (f : CF), Issues s e (.mclose f) →
    (e.splits ≠ [] → exec (.mclose f) s = .next (s.trapped e (.mclose f) (e.trapOf (.instr .meldSplit)))) ∧
    (e.splits = [] → e.depth = e.floor →
      exec (.mclose f) s = .next (s.trapped e (.mclose f) (e.trapOf (.instr .meldDepth)))) ∧
    (∀ top rest, e.splits = [] → e.floor < e.depth → e.meld = top :: rest →
      exec (.mclose f) s = .next (s.wrote e (.mclose f) (fun g =>
        (e.putMeld rest e.floor g).modFrag e.who.frag (fun fr => { fr with exec := top.saved &&& e.gr.live })))))

/-- `mrep` (R55): its traps in the rule's order, each for the lanes of `exec`; else each lane's count falls by one
unless it is zero, lanes at zero leave `exec`, and the loop goes on while a lane is left, at a target that is a
header. -/
def Obligations.MeldRepeat : Prop :=
  ∀ (s : State) (e : Env) (f : CF), Issues s e (.mrep f) →
    let r := (f.aux.extractLsb' 0 8).toNat
    let t := e.header + BitVec.ofInt 64 (8 * f.off.toInt)
    let traps (n : InstrCause) : Prop := exec (.mrep f) s = .next (s.trapped e (.mrep f) (e.trapOf (.instr n)))
    (∀ c, (e.trapOf c).lanes = e.fr.exec) ∧
    (e.over r = true → traps .regRange) ∧
    (e.over r = false → e.splits ≠ [] → traps .meldSplit) ∧
    (e.over r = false → e.splits = [] → e.depth = e.floor → traps .meldDepth) ∧
    (e.over r = false → e.splits = [] → e.floor < e.depth →
      ∃ (V : AMap Lane) (m : Word),
        (∀ l, l < 64 → m.getLsbD l = (e.fr.exec.getLsbD l && decide (2 ≤ (e.gr.vReg r l).toNat))) ∧
        (∀ q l, l < 64 → AMap.get 0 V (64 * q + l) =
          if q = r ∧ e.fr.exec.getLsbD l = true ∧ e.gr.vReg r l ≠ 0 then e.gr.vReg r l - 1 else e.gr.vReg q l) ∧
        (let counted (g : Group) : Group :=
           { g with v := V }.modFrag e.who.frag (fun fr => { fr with exec := m })
         (m = 0 → exec (.mrep f) s = .next (s.wrote e (.mrep f) counted)) ∧
         (m ≠ 0 → HeaderAt s e t →
           exec (.mrep f) s = .next (((s.begun e).modGrp e.who counted).jumped s e (.mrep f) t)) ∧
         (∀ w, m ≠ 0 → t.toNat % 8 = 0 → s.fetch e t = .ok w → isHeader w = false → traps .notHeader)))

/-- `brv` and `briv` (R34, R35, R39, R269, R270): one way for every lane is a branch; else a record opens, the lanes go
apart by their targets, and with no entry free the taken part of `brv` runs first. The parts of `briv` take every lane
of `exec` once, each to its target, and the part of the lowest table index is the first. The first part keeps the issue
context, each other runs in an entry of its own while one is free and waits otherwise, and all remember the record. -/
def Obligations.Splits : Prop :=
  (∀ (s : State) (e : Env) (f : CF),
     (let i := Instr.brv f
      let t := e.header + BitVec.ofInt 64 (8 * f.off.toInt)
      let j := e.header + BitVec.ofInt 64 (8 * (f.aux.extractLsb' 4 20).toInt)
      let p := e.gr.pReg (f.aux.extractLsb' 0 3).toNat
      let m := e.active i.guard &&& (if f.aux.getLsbD 3 then ~~~p else p)
      let free := s.entriesFree e.gr.core e.gr.slice
      Issues s e i → HeaderAt s e t → JoinAt s e j →
      (m = e.fr.exec → exec i s = .next ((s.begun e).jumped s e i t)) ∧
      (m ≠ e.fr.exec → m = 0 → exec i s = .next ((s.begun e).jumped s e i e.afterClause)) ∧
      (m ≠ e.fr.exec → m ≠ 0 → e.splits.length < 16 → 0 < free →
        exec i s = .next (((s.begun e).modGrp e.who (fun g =>
          g.split e j (e.whole &&& ~~~m, e.afterClause) [(m, t)] 1 false)).left s e i)) ∧
      (m ≠ e.fr.exec → m ≠ 0 → e.splits.length < 16 → free = 0 →
        exec i s = .next (((s.begun e).modGrp e.who (fun g =>
          g.split e j (m, t) [(e.whole &&& ~~~m, e.afterClause)] 0 true)).left s e i)) ∧
      (m ≠ e.fr.exec → m ≠ 0 → 16 ≤ e.splits.length →
        exec i s = .next (s.trapped e i (e.trapOf (.instr .meldSplit))))) ∧
     (let i := Instr.briv f
      let r := (f.aux.extractLsb' 0 8).toNat
      let n := (f.aux.extractLsb' 8 6).toNat
      let a := e.active i.guard
      let ix (l : Nat) : Nat := (e.gr.vReg r l).toNat
      ∀ tb cnt j s1 s2, Issues s e i → e.over r = false → n < e.tm.desc.ptn →
        State.loadWords e [e.tm.desc.ptt + BitVec.ofNat 64 (8 * n)] (s.begun e) = .ok ([tb], s1) →
        State.loadWords e [tb, tb + 8] s1 = .ok ([cnt, j], s2) → cnt.toNat ≠ 0 → cnt.toNat ≤ 64 →
        (a = 0 → exec i s = .next (s2.jumped s e i e.afterClause)) ∧
        ((∃ l, a.getLsbD l = true ∧ cnt.toNat ≤ ix l) →
          ∃ m : Word, (∀ l, l < 64 → m.getLsbD l = (a.getLsbD l && decide (cnt.toNat ≤ ix l))) ∧
            exec i s = .next ((s2.chargeIssue e i).takeTrap e
              { e.trapOf (.instr .pttTarget) with lanes := m } e.fr.pos e.after).tick) ∧
        (let used := ascending cnt.toNat ((lanesOf a).map ix)
         ∀ tgts s3, a ≠ 0 → (∀ l, a.getLsbD l = true → ix l < cnt.toNat) →
          State.loadWords e (used.map (fun k => tb + BitVec.ofNat 64 (16 + 8 * k))) s2 = .ok (tgts, s3) →
          (∀ t, t ∈ tgts → HeaderAt s3 e t) → JoinAt s3 e j →
          let parts := e.brivParts a (used.headD 0) ix (used.zip tgts)
          (∀ x, parts = [x] → exec i s = .next (s3.jumped s e i x.2)) ∧
          (∀ x y ys, parts = x :: y :: ys →
            (e.splits.length < 16 → exec i s = .next ((s3.modGrp e.who (fun g =>
              g.split e j x (y :: ys) (s3.entriesFree e.gr.core e.gr.slice) false)).left s e i)) ∧
            (16 ≤ e.splits.length → exec i s = .next ((s3.chargeIssue e i).takeTrap e
              (e.trapOf (.instr .meldSplit)) e.fr.pos e.after).tick))))) ∧
  (∀ (e : Env) (a : Word) (low : Nat) (ix : Nat → Nat) (tgts : List (Nat × Word)),
     let parts := e.brivParts a low ix tgts
     (parts.map (·.2)).Nodup ∧ (∀ v, v ∈ parts.map (·.2) ↔ v ∈ tgts.map (·.2)) ∧
     (∀ l k v, l < 64 → tgts.find? (fun x => x.1 == if a.getLsbD l then ix l else low) = some (k, v) →
       ∀ p, p ∈ parts → p.1.getLsbD l = (e.whole.getLsbD l && p.2 == v)) ∧
     (∀ k v rest, tgts = (k, v) :: rest → ∃ m ps, parts = (m, v) :: ps)) ∧
  (∀ (g : Group) (e : Env) (j ma ta : Word) (rest : List (Word × Word)) (free : Nat) (serial : Bool),
     e.who.frag < g.nextKey →
     let g' := g.split e j (ma, ta) rest free serial
     (∃ f, AMap.find g'.frags e.who.frag = some f ∧ f.exec = ma ∧ f.pos = { pc := ta } ∧ f.st = .running ∧
       f.entry = false ∧ f.split = some g.nextRec) ∧
     (∀ k m t, rest[k]? = some (m, t) →
       ∃ f, AMap.find g'.frags (g.nextKey + k) = some f ∧ f.exec = m ∧ f.pos = { pc := t } ∧
         f.split = some g.nextRec ∧ f.entry = decide (k < free) ∧
         f.st = if k < free then .running else .waiting) ∧
     (∃ r, g'.splits = g.splits ++ [r] ∧ r.id = g.nextRec ∧ r.join = j ∧ r.lanes = e.whole ∧
       r.parent = e.fr.split ∧ r.home = e.fr.entry ∧ r.key = e.who.frag ∧ r.serial = serial) ∧
     g'.v = g.v ∧ g'.p = g.p ∧ g'.g = g.g ∧ g'.live = g.live)

/-- `join` (R36, R269): without a record, or at another record's join, it does nothing; at its own it parks, and a
waiting part starts in the context given up, or as the last part it fuses the record's lanes: one fragment is left in
the record's home context, with the live lanes of every part in `exec`. That the parts' whole masks come back, also
lanes that a part had taken out of `exec` by `emov` or `mrep`, is the model's reading (log 15). -/
def Obligations.Joins : Prop :=
  (∀ (s : State) (e : Env) (f : CF), Issues s e (.join f) →
    (e.gr.recs e.fr = [] → exec (.join f) s = .next ((s.begun e).issued s e (.join f))) ∧
    (∀ r outer, e.gr.recs e.fr = r :: outer →
      (r.join ≠ e.header → outer.any (fun x => x.join == e.header) = false →
        exec (.join f) s = .next ((s.begun e).issued s e (.join f))) ∧
      (r.join ≠ e.header → outer.any (fun x => x.join == e.header) = true →
        exec (.join f) s = .next (s.trapped e (.join f) (e.trapOf (.instr .meldSplit)))) ∧
      (r.join = e.header →
        ∃ G : Group → Group,
          exec (.join f) s = .next ((State.fillEntries e.gr.core e.gr.slice 64
            ((s.begun e).modGrp e.who G)).left s e (.join f)) ∧
          ∀ g, let others := (g.members r.id).filter (fun x => x.1 != e.who.frag)
            (others.all (fun x => x.2.split == some r.id && x.2.st == .joined) = true →
              G g = g.fuse r e.fr e.after) ∧
            (others.all (fun x => x.2.split == some r.id && x.2.st == .joined) = false →
              ∃ g1, g1 = g.modFrag e.who.frag (fun fr => { fr with st := .joined, stall := none }) ∧
                G g = (g1.startWaiting r.id e.fr).getD g1)))) ∧
  (∀ (g : Group) (r : SplitRec) (base : Frag) (pos : Pos),
    let g' := g.fuse r base pos
    (∃ f, AMap.find g'.frags r.key = some f ∧ f.pos = pos ∧ f.split = r.parent ∧ f.st = .running ∧ f.entry = r.home ∧
      f.re = [] ∧ ∀ l, f.exec.getLsbD l =
        ((g.members r.id).any (fun x => x.2.mask.getLsbD l) && g.live.getLsbD l)) ∧
    (AMap.sorted g.frags = true → ∀ k f, k ≠ r.key → AMap.find g.frags k = some f →
      AMap.find g'.frags k = if (g.recs f).any (fun x => x.id == r.id) then none else some f) ∧
    (∀ x, x ∈ g'.splits ↔ x ∈ g.splits ∧ x.id ≠ r.id) ∧ g'.v = g.v ∧ g'.g = g.g ∧ g'.live = g.live) ∧
  (∀ (g : Group) (id : Nat) (giver : Frag), AMap.sorted g.frags = true →
    let waits (f : Frag) : Prop := f.split = some id ∧ f.st = .waiting
    (g.startWaiting id giver = none ↔ ∀ x, x ∈ g.frags → ¬waits x.2) ∧
    (∀ g', g.startWaiting id giver = some g' → ∃ k f f', AMap.find g.frags k = some f ∧ waits f ∧
      (∀ j h, j < k → AMap.find g.frags j = some h → ¬waits h) ∧ AMap.find g'.frags k = some f' ∧
      f'.st = .running ∧ f'.entry = giver.entry ∧ f'.pos = f.pos ∧ f'.exec = f.exec ∧ f'.split = f.split))

/-- `exit` (R37, R46, R295): the active lanes end and the others go on with the clause after; with the last live lane the
group ends, waiting for its loads, atomics and pipe jobs but for none of its stores, and counts at every barrier where
it has not arrived; where that is an arrival, the group's own stores and those it has read from are performed first
(R166). Registers and flags keep their values, and so does every other byte of memory. -/
def Obligations.Exits : Prop :=
  (∀ (s : State) (e : Env) (f : CF), Issues s e (.exit f) →
    let m := e.active (Instr.exit f).guard
    let ends : Prop := exec (.exit f) s = .next (((s.begun e).exitLanes e m).left s e (.exit f))
    (m = 0 ∨ m ≠ e.gr.live → ends) ∧
    (m ≠ 0 → m = e.gr.live → s.piped e.gr.core e.gr.slice e.who = false →
      (∀ o, o ∈ (s.core e.gr.core).ops → o.2.of e.who = true → o.2.gated = true) →
      (s.core e.gr.core).loops.any (fun l => l.2.who.tid == e.who.tid && l.2.who.grp == e.who.grp) = false → ends)) ∧
  (∀ (s : State) (e : Env) (m : Word) (t : Team) (g : Group) (f : Frag), AMap.find s.teams e.who.tid = some t →
    AMap.find t.groups e.who.grp = some g → AMap.find g.frags e.who.frag = some f →
    let left := g.live &&& ~~~m
    let u := s.exitLanes e m
    (∃ g', u.grp? e.who = some g' ∧ g'.live = left ∧ g'.ended = (g.ended || decide (left = 0)) ∧ g'.v = g.v ∧
      g'.p = g.p ∧ g'.g = g.g ∧ (left ≠ 0 ∨ t.carve = none → g'.gp = g.gp) ∧ g'.k = g.k ∧ g'.gstat = g.gstat ∧
      (left = 0 → g'.frags = []) ∧
      (left ≠ 0 → g.hnd = none → e.fr.split = none → ∃ f', AMap.find g'.frags e.who.frag = some f' ∧
        f'.pos = { pc := e.afterClause } ∧ f'.exec = e.whole &&& ~~~m ∧ f'.re = [])) ∧
    (left ≠ 0 → ∀ w h, w.tid ≠ e.who.tid ∨ w.grp ≠ e.who.grp → s.grp? w = some h → ∃ h', u.grp? w = some h' ∧
      h'.v = h.v ∧ h'.k = h.k ∧ h'.gstat = h.gstat ∧ SameScalars h h') ∧
    (left = 0 → ∀ n b, n < 16 → AMap.find t.bars n = some b →
      let b' : Bar := { b with arr := if b.arr.contains e.who.grp then b.arr else b.arr ++ [e.who.grp]
                               fewer := b.fewer + 1 }
      (b'.full = false → ∃ t', AMap.find u.teams e.who.tid = some t' ∧ AMap.find t'.bars n = some b') ∧
      (b'.full = true → ∃ t', AMap.find u.teams e.who.tid = some t' ∧ AMap.find t'.bars n = some b'.through)) ∧
    (s.host.trcEn = false → t.carve = none → (∀ d, d ∈ g.deferred → d.info.lanes &&& left ≠ 0) →
      (left ≠ 0 ∨ s.barsLeft e.who = [] ∨ (∀ o, o ∈ (s.core g.core).ops → o.2.of e.who = false ∧ o.2.readBy e.who = false) →
        u.mem = s.mem) ∧
      (left = 0 → s.barsLeft e.who ≠ [] →
        ∃ h : Group → Group, u.mem = ((s.modGrp e.who h).drainStores g.core e.who).mem)))

/-! Traps. -/

/-- Taking a trap (R192, R195, R196, R199, R201): the six registers, the handler's clause position and stacks, and
everything else of the group as it was; with `%tvec` 0 the group halts, a trap in the handler is a double fault that
halts it, a trap beside a sibling in the handler is held, and the fourth identical trap in a row halts the group with
SYS.FAULT_LOOP; each halt posts its record with the cause, the inner cause and the trap's values. With work in flight
the group's earlier instructions complete first, and a pipe job that cannot complete holds the trap. That a halt with no
handler, and one by SYS.FAULT_LOOP, leaves the trap registers written is the model's reading (log 30). -/
def Obligations.TrapEntry : Prop :=
  (∀ (s : State) (e : Env) (ti : TrapInfo) (word cont : Pos), s.envOf e.who = some e → e.gr.stepOn = false →
     (e.gr.hnd = none → Settled s e → e.gr.tvec ≠ 0 → e.loopCount e.gr ti < 4 →
       ∃ g', (s.takeTrap e ti word cont).grp? e.who = some g' ∧ Entered e.gr g' e.who.frag e.fr ti ∧
         g'.halted = e.gr.halted ∧
         (∀ w, w.tid ≠ e.who.tid ∨ w.grp ≠ e.who.grp → (s.takeTrap e ti word cont).grp? w = s.grp? w)) ∧
     (e.gr.hnd = none →
       let s1 := s.complete e.gr.core e.gr.slice e.who
       (s1.piped e.gr.core e.gr.slice e.who = true → s.takeTrap e ti word cont =
         s1.modFrag e.who (fun f => { f with held := some (ti, word, cont), stall := none })) ∧
       ∀ g1 f1, s1.piped e.gr.core e.gr.slice e.who = false → s1.grp? e.who = some g1 →
         AMap.find g1.frags e.who.frag = some f1 → g1.tvec ≠ 0 → e.loopCount g1 ti < 4 →
         ∃ g', (s.takeTrap e ti word cont).grp? e.who = some g' ∧ Entered g1 g' e.who.frag e.fr ti ∧
           g'.halted = g1.halted) ∧
     (e.gr.hnd = none → Settled s e → e.gr.tvec = 0 →
       Halts s (s.takeTrap e ti word cont) e ti.cause.code 0 ti word cont ∧
       ∃ g', (s.takeTrap e ti word cont).grp? e.who = some g' ∧ g'.tcause = BitVec.ofNat 64 ti.cause.code ∧
         g'.tpc = ti.pc) ∧
     (e.gr.hnd = none → Settled s e → e.gr.tvec ≠ 0 → e.fr.re ≠ [] → ti.stat &&& statDefer = 0 →
       e.gr.lastTrap = some ti.key → e.gr.loops = 3 →
       Halts s (s.takeTrap e ti word cont) e 0x182 ti.cause.code ti word cont ∧
       ∃ g', (s.takeTrap e ti word cont).grp? e.who = some g' ∧ g'.hnd = none) ∧
     (∀ h, e.gr.hnd = some h → e.fr.inH = true →
       Halts s (s.takeTrap e ti word cont) e Cause.doubleFault.code h.info.cause.code h.info h.word h.cont ∧
       ∃ g', (s.takeTrap e ti word cont).grp? e.who = some g' ∧ g'.tcause = e.gr.tcause ∧ g'.tpc = e.gr.tpc) ∧
     (e.gr.hnd ≠ none → e.fr.inH = false →
       s.takeTrap e ti word cont =
         s.modFrag e.who (fun f => { f with held := some (ti, word, cont), stall := none }))) ∧
  (∀ (t : Team) (w : Sel) (g : Group) (cause inner : Nat) (ti : TrapInfo), cause < 512 → inner < 512 →
     let r := haltRecord t w g cause inner ti
     let x := r.words.getD 0 0
     bits x 8 0 = cause ∧ bits x 24 16 = inner ∧ bits x 63 32 = t.lid % 2 ^ 32 ∧ r.words.length = 8 ∧
     r.words.getD 1 0 = ti.pc ∧ r.words.getD 2 0 = ti.va ∧ r.words.getD 3 0 = ti.lanes ∧
     r.words.getD 5 0 = ti.stat ∧ r.words.getD 6 0 = g.gstat.setWidth 64)

/-- `trap`, `tfence`, `brk` and the fence test (R197, R193, R272): a SOFT cause with the immediate's detail; a fence that
passes does nothing, and one with an armed flag outside a handler traps before effect with FENCE in `%tstat`, as ARITH
with bits 5:0 of the armed flags, or else as VIEW.OOB or VIEW.XDROP; `brk` stops the group with cause 0x14F. -/
def Obligations.TrapWords : Prop :=
  (∀ (s : State) (e : Env) (f : SF),
     (Issues s e (.trap f) →
       exec (.trap f) s = .next (s.trapped e (.trap f) (e.trapOf (.soft (f.imm.extractLsb' 0 6)))) ∧
       (Cause.soft (f.imm.extractLsb' 0 6)).code = 0x1C0 + (f.imm.extractLsb' 0 6).toNat) ∧
     (∀ s1 e1, Passes s e (.tfence f) s1 e1 →
       exec (.tfence f) s = .next ((s1.begun e1).issued s1 e1 (.tfence f))) ∧
     (Issues s e (.brk f) →
       exec (.brk f) s = .next (((s.begun e).advance e).debugStop e 0x14F false).tick)) ∧
  (∀ (s : State) (e e1 : Env) (i : Instr) (s1 : State),
     (∃ f, i = .tfence f) ∨ (∃ f, i = .barr f) ∨ (∃ f, i = .bwait f) ∨ (∃ f, i = .bsync f) ∨ (∃ f, i = .btest f) ∨
       (∃ f, i = .bini f) →
     s.env = some e → (e.tested = true → s.matches e i = []) → e.groupGuard i.guard = true → e.parked = false →
     s1 = s.complete e.gr.core e.gr.slice e.who → s1.piped e.gr.core e.gr.slice e.who = false →
     s1.envOf e.who = some e1 → e.fr.inH = false → e1.gr.gstat &&& e1.gr.tarm ≠ 0 →
     exec i s = .next (((s1.chargeIssue e1 i).takeTrap e1
       { e1.trapOf (fenceCause (e1.gr.gstat &&& e1.gr.tarm)) with stat := 8 } e1.fr.pos e1.after).tick)) ∧
  (∀ f : Flags, f ≠ 0 →
     (f.extractLsb' 0 6 ≠ 0 → fenceCause f = .arith (f.extractLsb' 0 6) ∧
       (fenceCause f).code = 0x40 + (f.extractLsb' 0 6).toNat) ∧
     (f.extractLsb' 0 6 = 0 → f.getLsbD 6 = true → fenceCause f = .view .oob ∧ (fenceCause f).code = 0xC5) ∧
     (f.extractLsb' 0 6 = 0 → f.getLsbD 6 = false → fenceCause f = .view .xdrop ∧ (fenceCause f).code = 0xC6))

/-- `trret` (R197): outside a handler it traps; with `%tpc` written the whole fragment continues there, else the
lanes of `%tlanes` execute the word again and the rest waits for them; a trap at a header tries the clause again. A
written `%tpc` that is no multiple of 8 or names no header is a double fault, and so are an illegal `%tstat`, an open
meld level and an open split record. Three points are the model's reading (log 12, DEDUCED): that a word which trapped
again while it was executed again goes back to where its first execution left (`Handler.back`), that a written `%tpc`
leaves nothing to execute again, and that a clause whose header trapped is tried again. -/
def Obligations.TrapReturn : Prop :=
  ∀ (s : State) (e : Env) (f : SF), Issues s e (.trret f) →
    (e.fr.inH = false → exec (.trret f) s = .next (s.trapped e (.trret f) (e.trapOf (.instr .trretOutside)))) ∧
    (∀ h, e.fr.inH = true → e.gr.hnd = some h →
      let doubles (c : InstrCause) : Prop :=
        exec (.trret f) s = .next (((s.begun e).doubleFault e h c).left s e (.trret f))
      (s.badTstat e = true → doubles .badTstat) ∧
      (s.badTstat e = false → e.depth ≠ 0 → doubles .meldDepth) ∧
      (s.badTstat e = false → e.depth = 0 → e.splits ≠ [] → doubles .meldSplit)) ∧
    (∀ h, e.fr.inH = true → e.gr.hnd = some h → s.badTstat e = false → e.depth = 0 → e.splits = [] →
      h.tpcWritten = true → e.gr.tpc.toNat % 8 ≠ 0 ∨ (∀ w, s.wordAt e e.gr.tpc = some w → isHeader w = false) →
      exec (.trret f) s = .next (((s.begun e).doubleFault e h .notHeader).left s e (.trret f))) ∧
    (∀ h, e.fr.inH = true → e.gr.hnd = some h → s.badTstat e = false → e.depth = 0 → e.splits = [] →
      (h.tpcWritten = true → e.gr.tpc.toNat % 8 = 0 ∧ ∃ w, s.wordAt e e.gr.tpc = some w ∧ isHeader w = true) →
      exec (.trret f) s = .next (((s.begun e).modGrp e.who (fun g => g.trret h)).left s e (.trret f))) ∧
    (∀ (g : Group) (h : Handler),
      let g' := g.trret h
      let back := h.back
      g'.hnd = none ∧ g'.hmeld = [] ∧ g'.meld = g.meld ∧ g'.floor = g.floor ∧
      ∃ f', AMap.find g'.frags h.frag.key = some f' ∧
        (h.tpcWritten = true → f'.pos = { pc := g.tpc } ∧ f'.exec = h.whole &&& g.live ∧ f'.re = []) ∧
        (h.tpcWritten = false → h.word.cl.left = 0 → f'.pos = h.word ∧ f'.exec = back.1 &&& g.live ∧
          f'.re = back.2.2 ∧ f'.retry = true) ∧
        (h.tpcWritten = false → h.word.cl.left ≠ 0 → f'.pos = h.word ∧ f'.exec = g.tlanes &&& g.live ∧
          ∃ r, f'.re = r :: back.2.2 ∧ r.exec = back.1 ∧
            r.cont = (if bit g.tstat 4 then { back.2.1 with pc := g.tnext }
              else if bit h.info.stat 4 then h.word.next else back.2.1) ∧
            r.step = if bit g.tstat 2 then some (bits g.tstat 63 32) else none))

/-! Barriers, carves and grants. -/

/-- The barrier words (R164, R165, R266): after their fence, no record is open and the barrier is set up, else they trap:
at a number out of range, `bini` with counts out of range or a barrier in use, an arrival of a group that has already
arrived, and `bwait` with no phase to wait for; and a phase goes on exactly when the expected groups and engine commands
have all arrived, which frees the fragments that wait for it. That
a group whose `btest` sees its phase over waits there for a granted carve is the model's reading (log 59). -/
def Obligations.BarrierWords : Prop :=
  (∀ (s s1 : State) (e e1 : Env) (f : XF) (b : Bar),
     let n := f.bar.toNat
     let s0 := s1.begun e1
     let at_ (i : Instr) : Prop := Passes s e i s1 e1 ∧ e1.splits = [] ∧ n < e1.tm.desc.bars ∧
       AMap.find e1.tm.bars n = some b
     (at_ (.bini f) →
       let c := e1.g f.gp.toNat
       bits c 63 20 = 0 → bits c 7 0 ≠ 0 →
       bits c 7 0 ≤ (e1.tm.groups.filter (fun g => !g.2.ended)).length → b.arr = [] → b.earr = 0 →
       s1.barBusy e1.tm e1.who.tid n = false →
       exec (.bini f) s = .next ((s0.modTeam e1.who.tid (fun t =>
         { t with bars := AMap.insert t.bars n { ph := b.ph, grp := bits c 7 0, eng := bits c 19 8 } })).issued
           s1 e1 (.bini f))) ∧
     (at_ (.barr f) → b.arr.contains e1.who.grp = false →
       exec (.barr f) s = .next (((s0.drainStores e1.gr.core e1.who).arrive e1.who n).issued s1 e1 (.barr f))) ∧
     (at_ (.bwait f) → (AMap.find e1.gr.lp n).isSome = true →
       (e1.barPassed n = true → exec (.bwait f) s = .next (s0.issued s1 e1 (.bwait f))) ∧
       (e1.barPassed n = false → exec (.bwait f) s =
         .next ((s0.openLog e1).waits e1 (if e1.barOver n then .freed n else .bar n)).tick)) ∧
     (at_ (.bsync f) → b.arr.contains e1.who.grp = false →
       let t := (s0.drainStores e1.gr.core e1.who).arrive e1.who n
       ∀ e2, t.envOf e1.who = some e2 →
       (e2.barPassed n = true → exec (.bsync f) s = .next (t.issued s1 e1 (.bsync f))) ∧
       (e2.barPassed n = false → exec (.bsync f) s =
         .next ((t.openLog e1).waits e1 (if e2.barOver n then .freed n else .bar n)).tick)) ∧
     (Issues s e (.bsync f) → e.parked = true → e.splits = [] → n < e.tm.desc.bars →
       AMap.find e.tm.bars n = some b → e.barPassed n = true →
       exec (.bsync f) s = .next ((s.begun e).issued s e (.bsync f))) ∧
     (at_ (.btest f) →
       let passed := match AMap.find e1.gr.lp n with | none => false | some p => p != b.ph
       exec (.btest f) s = .next ((s0.modGrp e1.who (fun g =>
         { g.setGp (f.mode.extractLsb' 0 3).toNat passed with atCarve := passed && !e1.tm.granted.isEmpty })).issued
           s1 e1 (.btest f))) ∧
     (let traps (i : Instr) : Prop := exec i s =
        .next (((s1.begun e1).chargeIssue e1 i).takeTrap e1 (e1.trapOf (.view .barState)) e1.fr.pos e1.after).tick
      let c := e1.g f.gp.toNat
      (at_ (.bini f) → bits c 63 20 ≠ 0 ∨ bits c 7 0 = 0 ∨
          (e1.tm.groups.filter (fun g => !g.2.ended)).length < bits c 7 0 ∨ b.arr ≠ [] ∨ b.earr ≠ 0 ∨
          s1.barBusy e1.tm e1.who.tid n = true → traps (.bini f)) ∧
      (at_ (.barr f) → b.arr.contains e1.who.grp = true → traps (.barr f)) ∧
      (at_ (.bsync f) → b.arr.contains e1.who.grp = true → traps (.bsync f)) ∧
      (at_ (.bwait f) → AMap.find e1.gr.lp n = none → traps (.bwait f)))) ∧
  (∀ (s s1 : State) (e e1 : Env) (f : XF) (i : Instr),
     i = .bini f ∨ i = .barr f ∨ i = .bwait f ∨ i = .bsync f ∨ i = .btest f → Passes s e i s1 e1 →
     (e1.splits ≠ [] →
       exec i s = .next (((s1.begun e1).chargeIssue e1 i).takeTrap e1 (e1.trapOf (.instr .meldSplit))
         e1.fr.pos e1.after).tick) ∧
     (e1.splits = [] → e1.tm.desc.bars ≤ f.bar.toNat →
       exec i s = .next (((s1.begun e1).chargeIssue e1 i).takeTrap e1 (e1.trapOf (.view .barState))
         e1.fr.pos e1.after).tick)) ∧
  (∀ (s : State) (w : Sel) (n : Nat) (t : Team) (g : Group) (b : Bar),
     AMap.find s.teams w.tid = some t → AMap.find t.groups w.grp = some g → AMap.find t.bars n = some b →
     ∃ t' g' b', AMap.find (s.arrive w n).teams w.tid = some t' ∧ AMap.find t'.groups w.grp = some g' ∧
       AMap.find t'.bars n = some b' ∧ AMap.find g'.lp n = some b.ph ∧
       (b.arr.length + 1 = b.grp → b.earr = b.eng →
         b' = { b with arr := b.arr ++ [w.grp] }.through ∧
         ∀ k h j fr, AMap.find t.groups k = some h → AMap.find h.frags j = some fr → fr.stall = some (.bar n) →
           ∃ h' fr', AMap.find t'.groups k = some h' ∧ AMap.find h'.frags j = some fr' ∧
             fr'.stall = some (.freed n)) ∧
       (b.arr.length + 1 ≠ b.grp ∨ b.earr ≠ b.eng → b' = { b with arr := b.arr ++ [w.grp] }))

/-- `crv`, `grant` and `revk` (R43, R291, R311). -/
def Obligations.CarveAndGrant : Prop :=
  ∀ (s : State) (e : Env) (f : XF),
    let s0 := s.begun e
    (Issues s e (.crv f) →
      let r := e.g f.gp.toNat
      let d := (f.mode.extractLsb' 0 3).toNat
      e.tm.desc.bars ≠ 0 → bits r 63 16 = 0 → bits r 15 8 ≤ 32 → (bits r 7 0 ≤ 64 ∨ bits r 7 0 = 0xFF) →
      exec (.crv f) s = .next (((s0.modTeam e.who.tid (fun t =>
        { t with carve := some { regs := bits r 15 8, scr := if bits r 7 0 = 0xFF then none else some (bits r 7 0) } })).modGrp
          e.who (fun g => { g.setGp d false with carveGp := some d })).issued s e (.crv f))) ∧
    (Issues s e (.grant f) →
      let p := f.gp.toNat
      let n := (f.mode.extractLsb' 8 2).toNat
      let o := (e.g p).toNat
      let len := (e.g (p + 1)).toNat
      let part := e.tm.scrPart e.gr.core
      let slot := e.tm.slotOn e.gr.core
      p ≤ 62 → AMap.find e.tm.grants n = none → o % 128 = 0 → len % 128 = 0 → len ≠ 0 → part.1 ≤ o →
      o + len ≤ part.1 + part.2 → (s0.drainScr e.gr.core e.who o len).workReaches e o len = false →
      exec (.grant f) s = .next (((((s0.drainScr e.gr.core e.who o len).modTeam e.who.tid (fun t =>
        { t.clearLines ((List.range (len / 128)).map (o / 128 + ·)) with
          grants := AMap.insert t.grants n { lo := o, len := len, core := e.gr.core } })).modGrp e.who
            (e.putG (f.mode.extractLsb' 0 6).toNat
              (tokenOf (AMap.get 0 (s.core e.gr.core).inst slot).toNat e.gr.core slot n))).track
            e (.grant f) [] [] none).issued s e (.grant f))) ∧
    (Issues s e (.revk f) →
      exec (.revk f) s = .next (((s0.modTeam e.who.tid (fun t =>
        t.endGrant (f.mode.extractLsb' 8 2).toNat)).track e (.revk f) [] [] none).issued s e (.revk f)))

/-! System registers and paging. -/

/-- `srd` and `swr` (R304, R305, R306, R256, R51, R185, R192): a register that the manual lists is read or written, an SV or
HC register outside a handler traps INSTR.PRIV, and a read-only register keeps its value. -/
def Obligations.SystemRegisters : Prop :=
  (∀ (s : State) (e : Env) (f : SF),
     let n := f.sys.toNat
     let sv := decide (0x18 ≤ n) && decide (n ≤ 0x20)
     let hc := decide (0x28 ≤ n) && n != 0x31
     (Issues s e (.srd f) → (sv || hc) = true → e.fr.inH = false →
       exec (.srd f) s = .next (s.trapped e (.srd f) (e.trapOf (.instr .priv)))) ∧
     (Issues s e (.srd f) → (sv || hc) = false ∨ e.fr.inH = true → n ≠ 0x10 →
       exec (.srd f) s = .next (s.wrote e (.srd f) (e.putG f.g.toNat (s.sysReg e n)))) ∧
     (Issues s e (.srd f) → n = 0x10 → Settled s e →
       exec (.srd f) s = .next (s.wrote e (.srd f) (e.putG f.g.toNat (e.gr.gstat.setWidth 64)))) ∧
     (Issues s e (.swr f) → hc = true ∨ (sv = true ∧ e.fr.inH = false) →
       exec (.swr f) s = .next (s.trapped e (.swr f) (e.trapOf (.instr .priv)))) ∧
     (Issues s e (.swr f) → hc = false → sv = false ∨ e.fr.inH = true →
       exec (.swr f) s = .next (s.wrote e (.swr f) (fun g => g.swr n (e.g f.g.toNat))))) ∧
  (∀ (s : State) (e : Env),
     (∀ l, e.fr.exec.getLsbD l = true → (∀ k, k < l → e.fr.exec.getLsbD k = false) →
       s.sysReg e 0x00 = BitVec.ofNat 64 l) ∧
     s.sysReg e 0x01 = BitVec.ofNat 64 e.tm.desc.width ∧ s.sysReg e 0x02 = BitVec.ofNat 64 e.who.grp ∧
     s.sysReg e 0x03 = BitVec.ofNat 64 e.tm.desc.team ∧
     s.sysReg e 0x0B = BitVec.ofNat 64 ((s.core e.gr.core).slice e.gr.slice).ratio ∧
     s.sysReg e 0x0C = BitVec.ofNat 64 e.tm.launch ∧ s.sysReg e 0x11 = e.gr.tarm.setWidth 64 ∧
     s.sysReg e 0x12 = e.tm.desc.ptt ∧ s.sysReg e 0x13 = BitVec.ofNat 64 e.tm.desc.ptn ∧
     s.sysReg e 0x04 = BitVec.ofNat 64 e.tm.idx ∧ s.sysReg e 0x05 = BitVec.ofNat 64 e.tm.x ∧
     s.sysReg e 0x06 = BitVec.ofNat 64 e.tm.y ∧ s.sysReg e 0x07 = BitVec.ofNat 64 e.tm.z ∧
     s.sysReg e 0x08 = BitVec.ofNat 64 e.gr.core ∧ s.sysReg e 0x09 = BitVec.ofNat 64 (e.gr.core / 48) ∧
     s.sysReg e 0x0A = BitVec.ofNat 64 e.gr.slice ∧
     s.sysReg e 0x18 = e.gr.tvec ∧ s.sysReg e 0x19 = e.gr.tcause ∧ s.sysReg e 0x1A = e.gr.tpc ∧
     s.sysReg e 0x1B = e.gr.tva ∧ s.sysReg e 0x1C = e.gr.tlanes ∧ s.sysReg e 0x1D = e.gr.tstat ∧
     s.sysReg e 0x1E = e.gr.hsa ∧ s.sysReg e 0x1F = e.gr.tnext ∧
     (e.meld.length ≤ 4 → e.floor ≤ 4 →
       bits (s.sysReg e 0x14) 63 6 = 0 ∧ bits (s.sysReg e 0x14) 5 3 = e.floor ∧
       bits (s.sysReg e 0x14) 2 0 = e.meld.length)) ∧
  (∀ (g : Group) (x : Word),
     (g.swr 0x10 x) = { g with gstat := g.gstat &&& ~~~(x.setWidth 8) } ∧
     (g.swr 0x11 x) = { g with tarm := x.setWidth 8 } ∧
     (g.swr 0x16 x) = { g with evvec := x } ∧ (g.swr 0x18 x) = { g with tvec := x } ∧
     (g.swr 0x19 x) = { g with tcause := x &&& 0x1FF } ∧ (g.swr 0x20 x) = { g with stepOn := bit x 0 } ∧
     (g.swr 0x1B x) = { g with tva := x } ∧ (g.swr 0x1D x) = { g with tstat := x } ∧
     (g.swr 0x1E x) = { g with hsa := x } ∧ (g.swr 0x1F x) = { g with tnext := x } ∧
     (g.swr 0x1A x).tpc = x ∧ (∀ h, g.hnd = some h → ∃ h', (g.swr 0x1A x).hnd = some h' ∧ h'.tpcWritten = true) ∧
     (∀ h, g.hnd = some h → (g.swr 0x1C x) = { g with tlanes := x &&& h.frag.exec }) ∧
     (g.swr 0x15 x).thr = bit x 0 ∧ (bit x 32 = true → (g.swr 0x15 x).thrp = false) ∧
     (bit x 32 = false → (g.swr 0x15 x).thrp = g.thrp) ∧
     (∀ n, n < 0x10 ∨ n = 0x12 ∨ n = 0x13 ∨ n = 0x14 ∨ (0x21 ≤ n ∧ n ≤ 0x24) ∨ n = 0x31 → g.swr n x = g))

/-- `pgtk`, `pgmap` and `ptsync` (R307, R308, R309): in a handler, the first two under hardware fault service; elsewhere
they trap INSTR.PRIV. `pgtk` takes a frame of zeros, and its two results stay pending; with an empty pool it writes 0
to both and posts a SYS.POOL_EMPTY record with the values of the trap being served. `ptsync` waits for the group's own
`pgmap`s and for walkers that hold copies it is to drop. That it waits once for the walkers, and that copies of entries
that the host or the firmware wrote go with any group's `ptsync`, is the model's reading (log 56). -/
def Obligations.PagingWords : Prop :=
  ∀ (s : State) (e : Env),
    (∀ f : SF, Issues s e (.pgtk f) → e.fr.inH = true → e.tm.fsHw = true → e.fr.stall ≠ some .post →
      let sz := (f.imm.extractLsb' 8 1).toNat
      (∀ k, s.poolKey (e.gr.core / 48) sz = some k →
        ∃ frame, frame ∈ AMap.get [] s.pool k ∧ ∃ t : State,
          exec (.pgtk f) s = .next (((t.modGrp e.who (fun g =>
            (e.putG f.g.toNat frame g).setGp (f.imm.extractLsb' 0 3).toNat true)).track e (.pgtk f) [] [] none
              (e.sbG f.g.toNat :: sbGp (f.imm.extractLsb' 0 3).toNat)).issued s e (.pgtk f)) ∧
          (∀ a, frame.toNat ≤ a → a < frame.toNat + (if sz = 0 then 2 ^ 16 else 2 ^ 21) → t.rd a = 0) ∧
          (∀ a, a < frame.toNat ∨ frame.toNat + (if sz = 0 then 2 ^ 16 else 2 ^ 21) ≤ a → t.rd a = s.rd a) ∧
          (AMap.get [] t.pool k).length + 1 = (AMap.get [] s.pool k).length) ∧
      (s.poolKey (e.gr.core / 48) sz = none →
        ∃ r : FRec,
          let t := ((s.begun e).modGrp e.who (fun g =>
            (e.putG f.g.toNat 0 g).setGp (f.imm.extractLsb' 0 3).toNat false)).post r
          (s.hold.length < 256 → s.waiting = [] → exec (.pgtk f) s = .next (t.issued s e (.pgtk f))) ∧
          (256 ≤ s.hold.length → exec (.pgtk f) s = .next (t.waits e .post).tick) ∧
          let x := r.words.getD 0 0
          bits x 8 0 = 0x183 ∧ bits x 24 16 = e.gr.tcause.toNat % 2 ^ 9 ∧ bits x 63 32 = e.tm.launch % 2 ^ 32 ∧
          r.words.length = 8 ∧ r.words.getD 1 0 = e.gr.tpc ∧ r.words.getD 2 0 = e.gr.tva ∧
          r.words.getD 3 0 = e.gr.tlanes ∧ r.words.getD 5 0 = e.gr.tstat ∧
          r.words.getD 6 0 = e.gr.gstat.setWidth 64)) ∧
    (∀ f : SF, Issues s e (.pgtk f) → e.fr.inH = true → e.tm.fsHw = true → e.fr.stall = some .post →
      let held : Prop := ∃ r, r ∈ s.waiting ∧ r.src = some e.who
      (held → exec (.pgtk f) s = .next ((s.begun e).waits e .post).tick) ∧
      (¬held → exec (.pgtk f) s = .next ((s.begun e).issued s e (.pgtk f)))) ∧
    (∀ (f : SF) (ia : Nat), Issues s e (.pgmap f) → e.fr.inH = true → e.tm.fsHw = true →
      s.windowIa e.tm (e.g f.g.toNat) = .ok ia →
      let rE := (f.imm.extractLsb' 0 6).toNat
      let x := e.g rE
      let top := BitVec.ofNat 64 (s.rdNat (s.topPa ia) 8)
      let pa := if bit x 1 then s.topPa ia else secondPa (bits top 39 8 * 2 ^ 8) ia
      let old := BitVec.ofNat 64 (s.rdNat pa 8)
      let p := ia / 2 ^ 16
      let pages := if bit x 1 then (List.range 32).map (p / 32 * 32 + ·) else [p]
      (bit x 0 = true → (leafOf (bit x 1) x).isSome = true) → (bit x 0 = false → x &&& ~~~0x2 = 0) →
      (bit x 1 = false → bit top 0 = true ∧ bit top 1 = false) →
      (f.imm.getLsbD 8 = true → bit old 0 = true →
        exec (.pgmap f) s = .next ((((s.begun e).modGrp e.who (e.putG rE old)).track e (.pgmap f) [] [] none
          [e.sbG rE]).issued s e (.pgmap f))) ∧
      (f.imm.getLsbD 8 = false ∨ bit old 0 = false →
        exec (.pgmap f) s = .next ((((((s.begun e).wrEntry pa x).goStale (s.begun e) e.who pages).modGrp e.who (e.putG rE x)).track
          e (.pgmap f) [] [] none [e.sbG rE]).issued s e (.pgmap f)) ∧
        (∀ j, j < 8 → (s.wrEntry pa x).rd (pa + j) = x.extractLsb' (8 * j) 8) ∧
        (∀ a, a < pa ∨ pa + 8 ≤ a → (s.wrEntry pa x).rd a = s.rd a))) ∧
    (∀ f : MF, Issues s e (.ptsync f) → e.fr.inH = true →
      let mapping : Prop := ∃ o, o ∈ (s.core e.gr.core).ops ∧ o.2.of e.who = true ∧ o.2.opc = 0x3C7
      let goes (x : Stale) : Prop := some (e.who.tid, e.who.grp) ∈ x.writers ∨ none ∈ x.writers
      let copies : Prop := ∃ x, x ∈ s.stale ∧ goes x.2
      (mapping ∨ (e.fr.stall ≠ some .sync ∧ copies) →
        exec (.ptsync f) s = .next ((s.begun e).waits e .sync).tick) ∧
      (¬mapping → e.fr.stall = some .sync ∨ ¬copies → ∃ st : AMap Stale,
        exec (.ptsync f) s = .next ({ s.begun e with stale := st }.issued s e (.ptsync f)) ∧
        ∀ p x, (p, x) ∈ st ↔ (p, x) ∈ s.stale ∧ ¬goes x)) ∧
    (∀ f : MF, Issues s e (.ptsync f) → e.fr.inH = false →
      exec (.ptsync f) s = .next (s.trapped e (.ptsync f) (e.trapOf (.instr .priv)))) ∧
    (∀ (f : SF) (i : Instr), i = .pgtk f ∨ i = .pgmap f → Issues s e i → e.fr.inH = false ∨ e.tm.fsHw = false →
      exec i s = .next (s.trapped e i (e.trapOf (.instr .priv))))

/-- `mark`, `sig` and `lnch` (R298, R310, R177): a trace record with the word's VA; a record for the host, which carries
the g register; and a record for a launch queue, with a predicate that says whether the queue took it. -/
def Obligations.MarksAndSignals : Prop :=
  (∀ (s : State) (e : Env) (f : SF),
     (Issues s e (.mark f) →
       exec (.mark f) s = .next (((s.begun e).emit e.gr.core [34] (some (e.trec 0x0B
         [e.g f.g.toNat, (f.imm.extractLsb' 0 16).setWidth 64, e.pc]))).issued s e (.mark f))) ∧
     (Issues s e (.sig f) → e.fr.stall ≠ some .post → s.hold.length < 256 → s.waiting = [] →
       let r := e.sigRecord (f.imm.extractLsb' 0 6).toNat (e.g f.g.toNat)
       exec (.sig f) s = .next ((((s.begun e).drainStores e.gr.core e.who).post r).issued s e (.sig f)) ∧
       r.words.getD 6 0 = e.g f.g.toNat)) ∧
  (∀ (s : State) (e : Env) (f : CF), Issues s e (.lnch f) →
     let a := e.g (f.aux.extractLsb' 0 6).toNat
     let q := (f.aux.extractLsb' 6 6).toNat
     let d := (f.aux.extractLsb' 12 3).toNat
     let u := s.queue q
     (a.toNat % 64 ≠ 0 → exec (.lnch f) s = .next (s.trapped e (.lnch f) (e.memTrap .load (.misalign, a)))) ∧
     (∀ w, a.toNat % 64 = 0 →
       s.access e.tm { n := 64, rd := true, wr := false, noIo := true, feet := s.feet e .load } a = .ok w →
       e.absent 64 w = false →
       let r := (s.begun e).load e.who e.gr.core false w 64
       let t1 := r.2.modGrp e.who (fun g => g.setGp d false)
       (u.takesDev = false ∨ recOk (wordsOf r.1) = false →
         exec (.lnch f) s = .next (t1.issued s e (.lnch f)) ∧ t1.queues = s.queues) ∧
       (u.takesDev = true → recOk (wordsOf r.1) = true →
         let t2 := ((((t1.drainStores e.gr.core e.who).iaWrite
           (u.base.toNat + 64 * (u.tail.toNat % 2 ^ u.size)) r.1).modQueue q
             (fun u => { u with tail := u.tail + 1 })).modGrp e.who (fun g => g.setGp d true))
         exec (.lnch f) s = .next (t2.issued s e (.lnch f)) ∧ t2.queue q = { u with tail := u.tail + 1 })))

/-! Memory. -/

/-- The checks of an access in the order of R122, each taken only where none before it is (R122 to R124, R126 to R128,
R134, R229, R236): canonical addresses, WRAP, MISALIGN, the lowest-numbered window, its end and its permissions, and
ENGINE_RANGE; by target SCRATCH_RANGE, VAULT_RANGE, IO_SIZE, then a port or links that are down, and FORMAT_ATOMIC; for
bytes outside the format apertures the page entries of the tables, PAGE_INVALID and PAGE_PERM; and the lowest byte that
ECC cannot correct, UNCORRECTABLE. That the die fields above 7 reach up to IA 2^49 is log 40, that a window may lie in a
hole is log 68, that every byte of an access meets the page check, one that a cache serves too, is log 42, and that a byte
which the core's L1 serves (l1Serves) is not UNCORRECTABLE is log 37 (all four the model's readings or choices). -/
def Obligations.AccessChecks : Prop :=
  (∀ a : Word, canonical a = true ↔ ∀ j, 56 ≤ j → j < 64 → a.getLsbD j = a.getLsbD 55) ∧
  (∀ (s : State) (ctx a : Nat) (w : Win), s.window ctx a = some w →
    ∃ n, n < 16 ∧ w = AMap.get {} s.ctxs (16 * ctx + n) ∧ bit w.ctl 0 = true ∧ w.va.toNat ≤ a ∧
      a < w.va.toNat + w.len.toNat ∧ ∀ m, m < n → (AMap.get {} s.ctxs (16 * ctx + m)).holds a = false) ∧
  (∀ (s : State) (t : Team) (acc : Acc) (a : Word), 0 < acc.n →
    let last := a.toNat + acc.n - 1
    let passes : Prop := (a.toNat ≤ 0x7FFFFFFFFFFFFF ∧ 0x7FFFFFFFFFFFFF < last) ∨ 0xFFFFFFFFFFFFFFFF < last
    let crooked : Prop := (acc.aligned = true ∨ acc.n = 16) ∧ a.toNat % acc.n ≠ 0
    let miss (r : MemReason) : Prop := s.access t acc a = .error (r, a)
    (canonical a = false → miss .noncanon) ∧
    (canonical a = true → passes → miss .wrap) ∧
    (canonical a = true → ¬passes → crooked → miss .misalign) ∧
    (canonical a = true → ¬passes → ¬crooked →
      (s.window t.ctx a.toNat = none → miss .windowMiss) ∧
      ∀ w, s.window t.ctx a.toNat = some w →
        let denied : Prop := (acc.rd = true ∧ bit w.ctl 1 = false) ∨ (acc.wr = true ∧ bit w.ctl 2 = false)
        let hit : Prop := ∃ f, f ∈ acc.feet ∧ f.1 < f.2 ∧ f.1 < (a.toNat : Int) + acc.n ∧ (a.toNat : Int) < f.2
        (w.va.toNat + w.len.toNat ≤ last → miss .windowCross) ∧
        (last < w.va.toNat + w.len.toNat → denied → miss .windowPerm) ∧
        (last < w.va.toNat + w.len.toNat → ¬denied → hit → miss .engineRange))) ∧
  (∀ (s : State) (t : Team) (acc : Acc) (a : Word) (w : Win), Windowed s t acc a w → bit w.ctl 3 = true →
    let o := w.ia.toNat + (a.toNat - w.va.toNat)
    (t.scrBytes < o + acc.n → s.access t acc a = .error (.scratchRange, a)) ∧
    (o + acc.n ≤ t.scrBytes → acc.rd = false ∨ acc.data = false ∨ (∀ i, i < acc.n → o + i ∉ t.bad) →
      s.access t acc a = .ok (.scr o)) ∧
    (∀ i, o + acc.n ≤ t.scrBytes → acc.rd = true → acc.data = true → i < acc.n → o + i ∈ t.bad →
      (∀ j, j < i → o + j ∉ t.bad) → s.access t acc a = .error (.uncorrectable, a + BitVec.ofNat 64 i))) ∧
  (∀ (s : State) (t : Team) (acc : Acc) (a : Word) (w : Win), Windowed s t acc a w → bit w.ctl 3 = false →
    let o := w.ia.toNat + (a.toNat - w.va.toNat)
    let miss (r : MemReason) : Prop := s.access t acc a = .error (r, a)
    let dev : Prop := o < 2 ^ 40
    let vault : Prop := 2 ^ 48 ≤ o ∧ o < 2 ^ 49
    let peer (p : Nat) : Prop := p < 16 ∧ 2 ^ 50 + 2 ^ 44 * p ≤ o ∧ o < 2 ^ 50 + 2 ^ 44 * (p + 1)
    let host : Prop := 2 ^ 51 ≤ o ∧ o < 2 ^ 52
    let ioBad : Prop := acc.noIo = true ∨ acc.n = 16 ∨ acc.atomic = true
    let traced : Prop := s.host.trcEn = true ∧ s.host.trcBuf = true ∧
      o < s.host.tbbase.toNat + s.host.tblen.toNat ∧ s.host.tbbase.toNat < o + acc.n
    let hole : Prop := traced ∨ ∃ i, i < acc.n ∧ (0xC000000 ≤ (o + i) % 2 ^ 28 ∨ 2 ^ 48 + 8 * 2 ^ 28 ≤ o + i)
    let up (p : Nat) : Prop := bit (AMap.get 0 s.peers p) 0 = true ∧ bit (AMap.get 0 s.peers p) 1 = true
    let plain : Prop := ∀ i, i < acc.n → s.aperture (o + i) = none
    let open_ (l : Leaf) : Prop := (acc.rd = true → l.r = true) ∧ (acc.wr = true → l.w = true)
    let good (i : Nat) : Prop := ∃ l, s.walk (o + i) = some l ∧ open_ l
    (¬dev → ¬vault → (∀ p, ¬peer p) → ¬host → miss .windowMiss) ∧
    (vault → hole → miss .vaultRange) ∧
    (∀ p, peer p → (ioBad → miss .ioSize) ∧ (¬ioBad → ¬up p → miss .windowMiss)) ∧
    (host → (ioBad → miss .ioSize) ∧ (¬ioBad → s.linkA = false → s.linkB = false → miss .windowMiss)) ∧
    (dev → acc.atomic = true → ¬plain → miss .formatAtomic) ∧
    (∀ i, dev → plain → i < acc.n → (∀ j, j < i → good j) →
      (s.walk (o + i) = none → s.access t acc a = .error (.pageInvalid, a + BitVec.ofNat 64 i)) ∧
      (∀ l, s.walk (o + i) = some l → ¬open_ l → s.access t acc a = .error (.pagePerm, a + BitVec.ofNat 64 i))) ∧
    (∀ key : Nat → Nat, (vault ∧ ¬hole) ∨ (∃ p, peer p ∧ ¬ioBad ∧ up p) ∨ (host ∧ ¬ioBad ∧ (s.linkA || s.linkB) = true) →
      (∀ i, key i = o + i) →
      (acc.rd = false ∨ acc.data = false ∨ (∀ i, i < acc.n → o + i ∉ s.bad ∨ s.l1Serves acc.l1 (o + i) = true) →
        s.access t acc a = .ok (.mem o ((List.range acc.n).map key))) ∧
      (∀ i, acc.rd = true → acc.data = true → i < acc.n → key i ∈ s.bad → s.l1Serves acc.l1 (o + i) = false →
        (∀ j, j < i → key j ∉ s.bad ∨ s.l1Serves acc.l1 (o + j) = true) →
        s.access t acc a = .error (.uncorrectable, a + BitVec.ofNat 64 i))) ∧
    (∀ key : Nat → Nat, dev → plain →
      (∀ i, i < acc.n → ∃ l, s.walk (o + i) = some l ∧ open_ l ∧ key i = l.pa + (o + i) % 2 ^ 16 ∧ key i < 2 ^ 60) →
      (acc.rd = false ∨ acc.data = false ∨ (∀ i, i < acc.n → key i ∉ s.bad ∨ s.l1Serves acc.l1 (o + i) = true) →
        s.access t acc a = .ok (.mem o ((List.range acc.n).map key))) ∧
      (∀ i, acc.rd = true → acc.data = true → i < acc.n → key i ∈ s.bad → s.l1Serves acc.l1 (o + i) = false →
        (∀ j, j < i → key j ∉ s.bad ∨ s.l1Serves acc.l1 (o + j) = true) →
        s.access t acc a = .error (.uncorrectable, a + BitVec.ofNat 64 i)))) ∧
  (∀ (s : State) (ia : Nat), ia < 2 ^ 40 → AMap.find s.stale (ia / 2 ^ 16) = none → (∀ c, s.ctrl c = s.ctrl 0) →
    let word (k : Nat) : Nat := s.rdNat k 8
    let e1 := word ((s.ctrl 0).ptbase.toNat % 2 ^ 40 + 8 * (ia / 2 ^ 21))
    let e2 := word (e1 / 2 ^ 8 * 2 ^ 8 + 8 * (ia / 2 ^ 16 % 32))
    let r (e : Nat) : Bool := e.testBit 2
    let w (e : Nat) : Bool := e.testBit 3
    (e1 % 2 = 0 → s.walk ia = none) ∧
    (e1 % 4 = 3 → e1 / 2 ^ 4 % 2 ^ 17 ≠ 0 ∨ 2 ^ 40 ≤ e1 → s.walk ia = none) ∧
    (e1 % 4 = 3 → e1 / 2 ^ 4 % 2 ^ 17 = 0 → e1 < 2 ^ 40 →
      s.walk ia = some { pa := e1 / 2 ^ 21 * 2 ^ 21 + ia / 2 ^ 16 % 32 * 2 ^ 16, r := r e1, w := w e1 }) ∧
    (e1 % 4 = 1 → e1 % 2 ^ 8 ≠ 1 ∨ 2 ^ 40 ≤ e1 → s.walk ia = none) ∧
    (e1 % 2 ^ 8 = 1 → e1 < 2 ^ 40 →
      (e2 % 2 = 0 ∨ e2 % 4 = 3 ∨ e2 / 2 ^ 4 % 2 ^ 12 ≠ 0 ∨ 2 ^ 40 ≤ e2 → s.walk ia = none) ∧
      (e2 % 4 = 1 → e2 / 2 ^ 4 % 2 ^ 12 = 0 → e2 < 2 ^ 40 →
        s.walk ia = some { pa := e2 / 2 ^ 16 * 2 ^ 16, r := r e2, w := w e2 })))

/-- `ld` and its melded form (R293, R59, R122, R123, R65): the active lanes take their bytes, little-endian, and nothing in
memory or in another register changes; where lanes fail, the trap has every failing lane in `%tlanes`, the cause and the
address of the lowest, and for the melded form in `%tstat` the arms that hold failing lanes, and every other lane
completes. That the word which traps is charged to the meter is the model's reading (log 11, DEDUCED). -/
def Obligations.LaneLoads : Prop :=
  (∀ (s : State) (e : Env) (f : MF) (place : Nat → Where), Issues s e (.ld f) → e.gr.stepOn = false →
     let n := f.bytes
     let d := f.data.toNat
     let m := e.active (Instr.ld f).guard
     let k := if n ≤ 4 then 1 else n / 4
     e.badBlock n d = false → e.badVo f = false → Unapplied s e.gr.core →
     Reaches s e (s.loadAcc e (readsPoc f) n) m (f.ea e f.off15) place →
     ∃ t g, exec (.ld f) s = .next t ∧ t.grp? e.who = some g ∧ SameMemory s t e.who ∧ SameScalars e.gr g ∧
       g.gstat = e.gr.gstat ∧
       ∀ r l, l < 64 → g.vReg r l =
         if m.getLsbD l = true ∧ d ≤ r ∧ r < d + k then
           BitVec.ofNat 32 (leVal (s.load e.who e.gr.core (readsPoc f) (place l) n).1 / 2 ^ (32 * (r - d)))
         else e.gr.vReg r l) ∧
  (∀ (s : State) (e : Env) (f : VMF) (place : Nat → Where), Issues s e (.ldMelded f) → e.gr.stepOn = false →
     (f.arms e).all (fun x => !e.over x.d && x.a % 2 == 0 && !e.over (x.a + 1)) = true →
     Unapplied s e.gr.core →
     (∀ x, x ∈ f.arms e → Reaches s e (s.acc e .load 4) x.m (fun l => e.gr.vReg64 x.a l) place) →
     ∃ t g, exec (.ldMelded f) s = .next t ∧ t.grp? e.who = some g ∧ SameMemory s t e.who ∧ SameScalars e.gr g ∧
       ∀ r l, l < 64 → g.vReg r l =
         match (f.arms e).find? (fun x => x.m.getLsbD l) with
         | some x =>
           if r = x.d then BitVec.ofNat 32 (leVal (s.load e.who e.gr.core false (place l) 4).1) else e.gr.vReg r l
         | none => e.gr.vReg r l) ∧
  (∀ (s : State) (e : Env) (f : MF) (low : Nat) (r : MemReason) (a : Word), Issues s e (.ld f) →
     let n := f.bytes
     let d := f.data.toNat
     let k := if n ≤ 4 then 1 else n / 4
     let m := e.active (Instr.ld f).guard
     let at_ (l : Nat) : Except Miss Where := s.access e.tm (s.loadAcc e (readsPoc f) n) (f.ea e f.off15 l)
     Unapplied s e.gr.core → e.badBlock n d = false → e.badVo f = false →
     (∀ l w, m.getLsbD l = true → at_ l = .ok w → e.absent n w = false) →
     m.getLsbD low = true → at_ low = .error (r, a) →
     (∀ l, l < low → m.getLsbD l = true → ∃ w, at_ l = .ok w) →
     ∃ (t : State) (lanes : Word) (g : Group),
       exec (.ld f) s = .next ((t.chargeIssue e (.ld f)).takeTrap e
         { cause := .mem .load r, pc := e.pc, va := a, lanes := lanes } e.fr.pos e.after).tick ∧
       (∀ l, l < 64 → lanes.getLsbD l = (m.getLsbD l && !(at_ l).isOk)) ∧
       SameMemory s t e.who ∧ t.grp? e.who = some g ∧ SameScalars e.gr g ∧ g.gstat = e.gr.gstat ∧
       ∀ q l, l < 64 → g.vReg q l =
         match m.getLsbD l, at_ l with
         | true, .ok w =>
           if d ≤ q ∧ q < d + k then
             BitVec.ofNat 32 (leVal (s.load e.who e.gr.core (readsPoc f) w n).1 / 2 ^ (32 * (q - d)))
           else e.gr.vReg q l
         | _, _ => e.gr.vReg q l) ∧
  (∀ (s : State) (e : Env) (f : VMF) (low : Nat) (x : Arm) (r : MemReason) (a : Word), Issues s e (.ldMelded f) →
     (f.arms e).all (fun x => !e.over x.d && x.a % 2 == 0 && !e.over (x.a + 1)) = true →
     let at_ (x : Arm) (l : Nat) : Except Miss Where := s.access e.tm (s.acc e .load 4) (e.gr.vReg64 x.a l)
     Unapplied s e.gr.core →
     (∀ y l w, y ∈ f.arms e → y.m.getLsbD l = true → at_ y l = .ok w → e.absent 4 w = false) →
     x ∈ f.arms e → x.m.getLsbD low = true → at_ x low = .error (r, a) →
     (∀ y l, y ∈ f.arms e → l < low → y.m.getLsbD l = true → ∃ w, at_ y l = .ok w) →
     ∃ (t : State) (lanes stat : Word) (g : Group),
       exec (.ldMelded f) s = .next ((t.chargeIssue e (.ldMelded f)).takeTrap e
         { cause := .mem .load r, pc := e.pc, va := a, lanes := lanes, stat := stat } e.fr.pos e.after).tick ∧
       (∀ l, l < 64 → (lanes.getLsbD l = true ↔ ∃ y, y ∈ f.arms e ∧ y.m.getLsbD l = true ∧ (at_ y l).isOk = false)) ∧
       (stat.getLsbD 0 = true ↔ f.ena = true ∧ lanes &&& (e.fr.exec &&& e.region) ≠ 0) ∧
       (stat.getLsbD 1 = true ↔ f.enb = true ∧ lanes &&& (e.fr.exec &&& ~~~e.region) ≠ 0) ∧
       (∀ j, 2 ≤ j → stat.getLsbD j = false) ∧
       SameMemory s t e.who ∧ t.grp? e.who = some g ∧ SameScalars e.gr g ∧ g.gstat = e.gr.gstat ∧
       ∀ q l, l < 64 → g.vReg q l =
         match (f.arms e).find? (fun y => y.m.getLsbD l) with
         | none => e.gr.vReg q l
         | some y =>
           match at_ y l with
           | .error _ => e.gr.vReg q l
           | .ok w =>
             if q = y.d then BitVec.ofNat 32 (leVal (s.load e.who e.gr.core false w 4).1) else e.gr.vReg q l)

/-- `st` and `st_melded` (R315, R59, R142): the bytes of the active lanes wait at the gate in ascending lanes, and no
byte of memory changes before the gate lets them go; a release first performs the group's earlier stores (R146). -/
def Obligations.LaneStores : Prop :=
  ∀ (s : State) (e : Env) (place : Nat → Where),
    (∀ f : MF, Issues s e (.st f) →
      let n := f.bytes
      let d := f.data.toNat
      let m := e.active (Instr.st f).guard
      e.badBlock n d = false → e.badVo f = false → Reaches s e (s.acc e .store n) m (f.ea e f.off15) place →
      exec (.st f) s = .next ((((s.begun e).releaseIf e f.ord).track e (.st f)
        ((lanesOf m).flatMap (fun l => lanePieces l (storeBytes (place l) (e.gr.storeVal d l n)))) [] none).issued s e (.st f)) ∧
      (f.ord = 0 → e.gr.stepOn = false → ∃ t, exec (.st f) s = .next t ∧ ∀ a, t.rd a = s.rd a)) ∧
    (∀ f : VMF, Issues s e (.stMelded f) →
      (f.arms e).all (fun x => !e.over x.b && x.a % 2 == 0 && !e.over (x.a + 1)) = true →
      (∀ x, x ∈ f.arms e → Reaches s e (s.acc e .store 4) x.m (fun l => e.gr.vReg64 x.a l) place) →
      exec (.stMelded f) s = .next (((s.begun e).track e (.stMelded f)
        ((List.range 64).flatMap (fun l => match (f.arms e).find? (fun x => x.m.getLsbD l) with
          | none => []
          | some x => lanePieces l (storeBytes (place l) (leBytes 4 (e.gr.vReg x.b l).toNat)))) [] none).issued s e (.stMelded f)))

/-- `gld` (R171, R287): the loaded bytes, in little-endian order, in the low bits of the destination g register and
zero in every higher bit. -/
def Obligations.GroupLoads : Prop :=
  ∀ (s : State) (e : Env) (f : MF) (w : Where), Issues s e (.gld f) →
    let n := f.bytes
    Unapplied s e.gr.core → s.access e.tm (s.loadAcc e (readsPoc f) n) (e.groupEa f f.off15) = .ok w → e.absent n w = false →
    let bs := (s.load e.who e.gr.core (readsPoc f) w n).1
    ∃ (u : State) (x : Word) (tag : Option (Nat × Nat)),
      exec (.gld f) s = .next (((u.modGrp e.who (e.putG f.data.toNat x)).track e (.gld f) [] [] tag
        [e.sbG f.data.toNat]).issued s e (.gld f)) ∧
      u.teams = (s.begun e).teams ∧ u.mem = s.mem ∧ bs.length = n ∧
      (∀ j, j < n → x.extractLsb' (8 * j) 8 = bs.getD j 0) ∧
      (∀ j, 8 * n ≤ j → x.getLsbD j = false)

/-- `gst`, `gatom` and the lane atomics (R287, R288, R261, R262): where their accesses reach, the store waits at the gate,
and each atomic replaces the old value by the one that R261 gives for its operation, old and x as n bits. A fault of a
group access is taken for every lane of `exec`, with the address of the access in `%tva`; that this holds for a page or
data fault too is the model's reading (log 69, DEDUCED). -/
def Obligations.StoresAndAtomics : Prop :=
  (∀ (s : State) (e : Env) (f : MF),
    let n := f.bytes
    let s0 := (s.begun e).releaseIf e f.ord
    let ret := f.off.getLsbD 10
    (∀ w, Issues s e (.gst f) → s.access e.tm (s.acc e .store n) (e.groupEa f f.off15) = .ok w →
      e.absent n w = false →
      exec (.gst f) s = .next ((s0.track e (.gst f) (storeBytes w (leBytes n (e.g f.data.toNat).toNat)) []
        none).issued s e (.gst f))) ∧
    (∀ w, Issues s e (.gatom f) → s.access e.tm (s.acc e .atomic n) (e.groupEa f f.off10) = .ok w →
      e.absent n w = false →
      let r := s0.atomic e w n (fun old => some (atomOp f.op.toNat (8 * n) old ((e.g f.data.toNat).toNat % 256 ^ n)))
      exec (.gatom f) s = .next (((if ret then
          r.2.modGrp e.who (e.putG f.data.toNat (BitVec.ofNat 64 r.1)) else r.2).track e (.gatom f) [] []
        none (if ret then [e.sbG f.data.toNat] else [])).issued s e (.gatom f))) ∧
    (∀ i new place, (i = .atom f ∧ new = (fun l old =>
          some (atomOp f.op.toNat (8 * n) old (e.gr.atomVal f.data.toNat l n)))) ∨
        (i = .acas f ∧ e.over (f.data.toNat + n / 2 - 1) = false ∧ new = (fun l old =>
          if old = e.gr.atomVal f.data.toNat l n then some (e.gr.atomVal (f.data.toNat + n / 4) l n, 0) else none)) →
      Issues s e i → e.badBlock n f.data.toNat = false → e.badVo f = false →
      Reaches s e (s.acc e .atomic n) (e.active i.guard) (f.ea e f.off10) place →
      exec i s = .next (((s0.atomLanes e f new ((lanesOf (e.active i.guard)).map (fun l => (l, place l)))).track e i
        [] [] none (if ret = true ∧ e.active i.guard ≠ 0 then
          block f.data.toNat (if n ≤ 4 then 1 else n / 4) else [])).issued s e i)) ∧
    (∀ i k acc a r b, (i = .gld f ∧ k = .load ∧ acc = s.loadAcc e (readsPoc f) n ∧ a = e.groupEa f f.off15) ∨
        (i = .gst f ∧ k = .store ∧ acc = s.acc e .store n ∧ a = e.groupEa f f.off15) ∨
        (i = .gatom f ∧ k = .atomic ∧ acc = s.acc e .atomic n ∧ a = e.groupEa f f.off10) →
      Issues s e i → s.access e.tm acc a = .error (r, b) →
      exec i s = .next (s.trapped e i { cause := .mem k r, pc := e.pc, va := a, lanes := e.fr.exec }))) ∧
  (∀ w, w = 32 ∨ w = 64 → ∀ a b : BitVec w,
    let new (op : Nat) : Nat × Flags := atomOp op w a.toNat b.toNat
    new 0 = ((a + b).toNat, 0) ∧ new 1 = ((a &&& b).toNat, 0) ∧ new 2 = ((a ||| b).toNat, 0) ∧
    new 3 = ((a ^^^ b).toNat, 0) ∧ new 4 = ((if b.toInt < a.toInt then b else a).toNat, 0) ∧
    new 5 = ((if a.toInt < b.toInt then b else a).toNat, 0) ∧ new 6 = ((if b < a then b else a).toNat, 0) ∧
    new 7 = ((if a < b then b else a).toNat, 0) ∧ new 8 = (b.toNat, 0)) ∧
  (∀ a b : Lane,
    let new (op : Nat) : Nat × Flags := atomOp op 32 a.toNat b.toNat
    new 9 = ((fadd .rne a b).1.toNat, (fadd .rne a b).2) ∧ new 10 = ((fmin a b).1.toNat, (fmin a b).2) ∧
    new 11 = ((fmax a b).1.toNat, (fmax a b).2))

/-- One atomic in plain memory (R262, R132), and a store as it leaves the gate (R215, R142, R144): the bytes named become
the new ones, and every other byte stays. A store that leaves the gate is performed whole, or reaches its core's L1
first, which moves no byte of memory, or is performed in part, and then each byte is its old value or its new one; in
which of these ways a step takes it is free (log 7). That the stores of sibling fragments to one location leave in the
order of their issue is the model's choice (log 71, DESIGN CHOICE). -/
def Obligations.MemoryUpdates : Prop :=
  (∀ (s : State) (e : Env) (ia n : Nat) (keys : List Nat) (new : Nat → Option (Nat × Flags)),
     keys.length = n → keys.Nodup → (∀ k, k ∈ keys → k < aperBase) → Unapplied s e.gr.core →
     (∀ o, o ∈ (s.core e.gr.core).ops → o.2.of e.who = false) →
     let r := s.atomic e (.mem ia keys) n new
     r.1 = leVal (keys.map s.rd) ∧
     (∀ x fl, new r.1 = some (x, fl) →
       (∀ j, j < n → r.2.rd (keys.getD j 0) = BitVec.ofNat 8 (x / 256 ^ j)) ∧
       (∀ k, k ∉ keys → r.2.rd k = s.rd k)) ∧
     (new r.1 = none → ∀ k, r.2.rd k = s.rd k) ∧
     (cached ia = true → AMap.find (r.2.core e.gr.core).l1 (ia / 128) = none)) ∧
  (∀ (s : State) (core id : Nat) (o : Op), AMap.sorted (s.core core).ops = true → Unapplied s core →
     AMap.find (s.core core).ops id = some o → o.gated = true →
     (∀ p, p ∈ (s.core core).ops → p.1 < id → p.2.precedes o = false) →
     exec (.egressGateRelease core id) s = .next (s.leaveGate core id).tick ∧
     (s.leaveGate core id = s.release core id ∨ s.leaveGate core id = s.applyOp core id ∨
       s.leaveGate core id = s.releasePart core id) ∧
     (∀ k, (s.release core id).rd k = ((if k < aperBase then lastByte o.bytes false k else none).getD (s.rd k))) ∧
     (∀ x, AMap.find s.teams o.who.tid = some x → ∃ y, AMap.find (s.release core id).teams o.who.tid = some y ∧
       ∀ k, y.scrRd k = (lastByte o.bytes true k).getD (x.scrRd k)) ∧
     (∀ k, (s.applyOp core id).rd k = s.rd k) ∧ (s.applyOp core id).teams = s.teams ∧
     (∀ k, (s.releasePart core id).rd k = s.rd k ∨
       lastByte o.bytes false k = some ((s.releasePart core id).rd k)))

/-- `fence`, `prf` and the cache words (R289, R313, R274): a fence performs the group's stores at the gate and those that
it has read from; a prefetch changes no register and no byte; an empty range does nothing, and a dropped range leaves the
L1. After a clean or a flush at L1 no store of the core to the range is on its way, and the point of coherence holds what
each of them wrote there; at L2 no byte at the point of coherence changes, and the L2 holds none of the range that memory
does not. -/
def Obligations.FencesAndCaches : Prop :=
  ∀ (s : State) (e : Env) (f : MF),
    let s0 := s.begun e
    (Issues s e (.fence f) →
      exec (.fence f) s = .next (((s0.drainStores e.gr.core e.who).track e (.fence f) [] [] none).issued s e (.fence f))) ∧
    (Issues s e (.prf f) → e.badVo f = false → Unapplied s e.gr.core → ∃ u : State,
      exec (.prf f) s = .next (u.issued s e (.prf f)) ∧ u.teams = s0.teams ∧ u.mem = s.mem ∧ u.l2 = s.l2) ∧
    (∀ i, i = .cclean f ∨ i = .cinval f ∨ i = .cflush f → Issues s e i →
      ((e.g f.data.toNat).toNat = 0 → exec i s = .next (s0.issued s e i)) ∧
      (0x4000000 < (e.g f.data.toNat).toNat →
        exec i s = .next (s.trapped e i (e.trapOf (.instr .reservedField)))) ∧
      ((e.g f.data.toNat).toNat ≠ 0 → (e.g f.data.toNat).toNat ≤ 0x4000000 →
        canonical (e.groupEa f f.off15) = true →
        wraps (e.groupEa f f.off15).toNat (e.g f.data.toNat).toNat = false →
        ∃ u : State, exec i s = .next ((u.track e i [] [] none).issued s e i) ∧
          (∀ g, u.grp? e.who = some g → g.v = e.gr.v ∧ SameScalars e.gr g) ∧
          (i ≠ .cclean f → f.scope ≠ 1 → ∀ q, q ∈ s.pieces e.tm.ctx (e.groupEa f f.off15).toNat
            (e.g f.data.toNat).toNat → ∀ line, q.lo ≤ 128 * line → 128 * line < q.hi →
            AMap.find (u.core e.gr.core).l1 line = none) ∧
          (i ≠ .cinval f → AMap.sorted (s.core e.gr.core).ops = true →
            let ops := (s.core e.gr.core).ops
            let within (b : StByte) : Prop := ∃ q, q ∈ s.pieces e.tm.ctx (e.groupEa f f.off15).toNat
              (e.g f.data.toNat).toNat ∧ b.scr = false ∧ q.lo ≤ b.ia ∧ b.ia < q.hi
            (f.scope ≠ 1 → ∀ o, o ∈ (u.core e.gr.core).ops → o.2.gated = true → ∀ b, b ∈ o.2.bytes → ¬within b) ∧
            (f.scope = 0 → ∀ o x k, o ∈ ops → o.2.gated = true → (∃ b, b ∈ o.2.bytes ∧ within b) → k < aperBase →
              lastByte o.2.bytes false k = some x →
              (∀ p, p ∈ ops → p.2.gated = true → p ≠ o → lastByte p.2.bytes false k = none) → u.rd k = x) ∧
            ((∀ o, o ∈ ops → o.2.gated = false) → s.aper = [] →
              (∀ k, u.rd k = s.rd k) ∧
              (f.scope ≠ 0 → ∀ q l, q ∈ s.pieces e.tm.ctx (e.groupEa f f.off15).toNat (e.g f.data.toNat).toNat →
                regionOf q.lo = .dev → s.walk q.lo = some l → ∀ j, j < q.hi - q.lo →
                AMap.find u.l2 (l.pa + q.lo % 2 ^ 16 + j) = none)))))

/-! Views. -/

/-- Opening and retiring views, and the view registers (R110, R111, R112): the group's origins move by halves; the record
with them goes to eight g registers; whether two views may meet. -/
def Obligations.ViewHolds : Prop :=
  (∀ (s : State) (e : Env) (f : XF),
     let k := f.w1.toNat
     (Issues s e (.wopen f) →
       let g (j : Nat) : Word := e.g (f.gp.toNat + j)
       let v : View := { base := g 0, ctl := g 1, ext10 := g 2, ext32 := g 3, str10 := g 4, str32 := g 5,
                         scope := f.mode.toNat }
       f.gp.toNat ≤ 56 → k < e.tm.desc.views → AMap.find e.gr.holds k = none → v.ok = true →
       (AMap.find e.tm.views k = none ∨ ∃ w, AMap.find e.tm.views k = some w ∧ w.same v = true) →
       ∃ u : State, exec (.wopen f) s = .next ((u.track e (.wopen f) [] [] none).issued s e (.wopen f)) ∧
         (∃ h, u.grp? e.who = some h ∧ AMap.find h.holds k = some (g 6, g 7) ∧ h.v = e.gr.v ∧ h.g = e.gr.g) ∧
         (∃ t w, AMap.find u.teams e.who.tid = some t ∧ AMap.find t.views k = some w ∧ w.same v = true) ∧
         u.mem = s.mem) ∧
     (∀ v o, Issues s e (.wret f) → e.held k = some (v, o) →
       (e.tm.cores.all (fun c => !(s.core c).naming e.who.tid k) && !(s.core e.gr.core).naming e.who.tid k) = true →
       ∃ u : State, exec (.wret f) s = .next ((u.track e (.wret f) [] [] none).issued s e (.wret f)) ∧
         (∃ h, u.grp? e.who = some h ∧ AMap.find h.holds k = none ∧ h.v = e.gr.v ∧ h.g = e.gr.g) ∧
         (∀ t, AMap.find u.teams e.who.tid = some t →
           (AMap.find t.views k = none ↔
             e.tm.groups.all (fun g => g.1 == e.who.grp || (AMap.find g.2.holds k).isNone) = true)))) ∧
  (∀ (s : State) (e : Env) (f : XF) (v w : View) (o q : Word × Word), e.held f.w1.toNat = some (v, o) →
     let a := f.gp.toNat
     (Issues s e (.wadv f) → a ≤ 62 → ∃ n : Word × Word,
       exec (.wadv f) s = .next (s.wrote e (.wadv f) (fun g => { g with holds := AMap.insert g.holds f.w1.toNat n })) ∧
       n.1.extractLsb' 0 32 = o.1.extractLsb' 0 32 + (e.g a).extractLsb' 0 32 ∧
       n.1.extractLsb' 32 32 = o.1.extractLsb' 32 32 + (e.g a).extractLsb' 32 32 ∧
       n.2.extractLsb' 0 32 = o.2.extractLsb' 0 32 + (e.g (a + 1)).extractLsb' 0 32 ∧
       n.2.extractLsb' 32 32 = o.2.extractLsb' 32 32 + (e.g (a + 1)).extractLsb' 32 32) ∧
     (Issues s e (.wget f) → a % 8 = 0 → ∃ G : Group → Group,
       exec (.wget f) s = .next (s.wrote e (.wget f) G) ∧
       ∀ g j, (G g).gReg e.fr.inH j =
         if a ≤ j ∧ j < a + 8 then
           [v.base, v.ctl, v.ext10, v.ext32, v.str10, v.str32, o.1, o.2].getD (j - a) 0
         else g.gReg e.fr.inH j) ∧
     (Issues s e (.wchk f) → e.held f.w2.toNat = some (w, q) →
       exec (.wchk f) s = .next (s.wrote e (.wchk f) (fun g =>
         g.setGp (f.mode.extractLsb' 0 3).toNat (mayMeet v w)))))

/-- `wld`, `wst` and their melded forms (R120, R107, R116, R59): a lane in bounds takes or stores its element, and a lane
out of bounds takes zero or stores nothing and with BP 0x00 raises OOB. -/
def Obligations.ViewAccesses : Prop :=
  (∀ (s : State) (e : Env) (i : Instr) (xs : List ViewLane) (place : Nat → Where),
     (∃ f, i = .wld f) ∨ (∃ f, i = .wldMelded f) → Issues s e i → viewLanesOf e i = some xs → e.gr.stepOn = false →
     (∀ x, x ∈ xs → (s.core e.gr.core).meets e.who x.v false = false) →
     (∀ o, o ∈ (s.core e.gr.core).ops → o.2.of e.who = false) → Unapplied s e.gr.core →
     (∀ x a, x ∈ xs → x.at_ = some a → s.access e.tm (elemAcc e.gr.core x.v.esize false) a = .ok (place x.l) ∧
       e.absent x.v.esize (place x.l) = false) →
     ∃ t g, exec i s = .next t ∧ t.grp? e.who = some g ∧ t.mem = s.mem ∧ SameScalars e.gr g ∧
       g.gstat = (if xs.any (fun x => x.at_.isNone && x.v.noisy) then e.gr.gstat ||| flOOB else e.gr.gstat) ∧
       (∀ x, x ∈ xs → x.v.esize ≤ 4 →
         (x.at_ = none → g.vReg x.r x.l = 0) ∧
         (x.at_ ≠ none →
           let n := leVal (s.load e.who e.gr.core false (place x.l) x.v.esize).1
           g.vReg x.r x.l =
             if x.v.fmt = 0x10 then (BitVec.ofNat 8 n).signExtend 32
             else if x.v.fmt = 0x12 then (BitVec.ofNat 16 n).signExtend 32 else BitVec.ofNat 32 n)) ∧
       (∀ x, x ∈ xs → x.v.esize = 8 →
         g.vReg64 x.r x.l =
           if x.at_ = none then 0
           else BitVec.ofNat 64 (leVal (s.load e.who e.gr.core false (place x.l) 8).1)) ∧
       (∀ r l, l < 64 → (∀ x, x ∈ xs → x.l = l → r ≠ x.r ∧ (x.v.esize = 8 → r ≠ x.r + 1)) →
         g.vReg r l = e.gr.vReg r l)) ∧
  (∀ (s : State) (e : Env) (i : Instr) (xs : List ViewLane) (place : Nat → Where),
     (∃ f, i = .wst f) ∨ (∃ f, i = .wstMelded f) → Issues s e i → viewLanesOf e i = some xs →
     (∀ x, x ∈ xs → (s.core e.gr.core).meets e.who x.v true = false) →
     (∀ x a, x ∈ xs → x.at_ = some a → s.access e.tm (elemAcc e.gr.core x.v.esize true) a = .ok (place x.l) ∧
       e.absent x.v.esize (place x.l) = false) →
     exec i s = .next ((((s.begun e).modGrp e.who (fun g =>
         g.raise (flIf (xs.any (fun x => x.at_.isNone && x.v.noisy)) flOOB))).track e i
       ((List.range 64).flatMap (fun l => (xs.filter (fun x => x.l == l && x.at_.isSome)).flatMap (fun x =>
         lanePieces l (storeBytes (place l) (e.gr.elemBytes x.v x.r l))))) ((xs.map (·.v)).eraseDups) none).issued s e i))

/-! Engine work, the matrix unit and the pipes. -/

/-- A command goes to the engine with what it read at issue (R159, R275, R276, R277, R278, R337, R301): with legal fields
and views, and directory entries free, the word completes and its command stands in the engine, its flag up by one,
its destination lines absent, and no byte of memory moved; a command of no lane or of no byte completes at once. The lines
of a destination view are those that its footprint reaches through an SCR window within the carve, and of `cpa` those of
the bytes that its lanes write (R135, R113, R124); a `cpm` sends each line of its region to each of its targets. -/
def Obligations.CommandsQueue : Prop :=
  (∀ (s : State) (e : Env) (f : XF) (bar : Option Nat), e.barOf f = .ok bar →
     let used := (s.core e.gr.core).entries
     let queues (i : Instr) (c : Cmd) : Prop := exec i s = .next (((s.begun e).enqueue e c).issued s e i)
     let ends (i : Instr) (c : Cmd) : Prop := exec i s = .next (((s.begun e).enqueueNone e c).issued s e i)
     let lanes : List Lane := (List.range 64).map (e.gr.vReg f.vop.toNat)
     (Issues s e (.cpa f) → f.vop = 0xFF ∨ e.over f.vop.toNat = false → used ≤ 32 →
       queues (.cpa f) { e.cmd (.cpa f) bar with
         gs := [e.g (f.mode.extractLsb' 13 6).toNat, e.g f.gp.toNat], vs := if f.vop = 0xFF then [] else lanes }) ∧
     (∀ v d, e.held f.w2.toNat = some v → e.held f.w1.toNat = some d →
       let c (i : Instr) (vs : List Lane) : Cmd := { e.cmd i bar with src := some v, dst := some d, vs := vs }
       (Issues s e (.cpw f) → v.1.rank = d.1.rank → d.1.esize * d.1.count ≤ 2 ^ 20 → used + 2 ≤ 32 →
         let n := (f.mode.extractLsb' 6 2).toNat
         (f.mode.getLsbD 5 = false → v.1.esize = d.1.esize → queues (.cpw f) (c (.cpw f) [])) ∧
         (∀ tab, f.mode.getLsbD 5 = true → v.1.esize = 1 → d.1.esize = 2 →
           (s.core e.gr.core).loadsTable n (fun _ => true) = false →
           AMap.find (s.core e.gr.core).cvt n = some (e.who.tid, tab) → queues (.cpw f) (c (.cpw f) []))) ∧
       (∀ i x, (i = .cpg f ∧ x = d.1.ext 0) ∨ (i = .cpx f ∧ x = v.1.ext 0) → Issues s e i →
         e.over f.vop.toNat = false → v.1.esize = d.1.esize → 2 ≤ v.1.rank → 2 ≤ d.1.rank → x * d.1.esize ≤ 4096 →
         (e.active i.guard = 0 → ends i (c i lanes)) ∧
         (e.active i.guard ≠ 0 → used + 2 ≤ 32 → queues i (c i lanes)))) ∧
     (∀ v off len, Issues s e (.cpm f) → e.held f.w2.toNat = some v →
       let n := (f.mode.extractLsb' 0 3).toNat + 1
       let tokens := (List.range n).map (fun j => e.g (f.gp.toNat + j))
       let c : Cmd := { e.cmd (.cpm f) bar with src := some v, gs := tokens }
       f.gp.toNat + n ≤ 64 → s.scrSpan e.tm v.1 = some (off, len) →
       (∀ x, x ∈ tokens → tokenOk (e.gr.core / 48) x = true) →
       (len = 0 → ends (.cpm f) c) ∧
       (len ≠ 0 → used + 1 ≤ 32 →
         exec (.cpm f) s = .next ((((s.begun e).enqueue e c).sendLines
           (e.castLines s.fresh v.1 tokens off len)).issued s e (.cpm f))))) ∧
  (∀ (s : State) (e : Env) (f : XF) (v : View × Word × Word), e.held f.w1.toNat = some v →
     (s.core e.gr.core).entries + 1 ≤ 32 →
     (Issues s e (.xtab f) → v.1.esize = 2 →
       exec (.xtab f) s = .next (((s.begun e).enqueue e { e.cmd (.xtab f) none with src := some v }).issued
         s e (.xtab f))) ∧
     (∀ m q xs oob s1, Issues s e (.eptab f) → f.gp.toNat ≤ 62 → v.1.fmt = 0x17 →
       f32Of ((e.g (f.gp.toNat + 1)).setWidth 32) = .fin false (m + 1) q →
       (s.core e.gr.core).meets e.who v.1 false = false →
       State.loopElems e.tm e.gr.core e.who v ((List.range 64).map (fun n => ix2 (n : Nat) 0))
         ((s.begun e).drainMeet e.gr.core e.who v.1) = .ok (xs, oob, s1) →
       exec (.eptab f) s = .next (((s1.modGrp e.who (fun g => g.raise (flIf oob flOOB))).enqueue e
         { e.cmd (.eptab f) none with src := some v
                                      gs := ((e.g f.gp.toNat).setWidth 32).setWidth 64 ::
                                        ((e.g (f.gp.toNat + 1)).setWidth 32).setWidth 64 ::
                                        xs.map (BitVec.ofNat 64) }).issued s e (.eptab f)) ∧ xs.length = 64)) ∧
  (∀ (s : State) (e : Env) (c : Cmd) (t : Team) (g : Group), AMap.find s.teams e.who.tid = some t →
     AMap.find t.groups e.who.grp = some g →
     let u := s.enqueue e c
     AMap.find (u.core e.gr.core).cmds s.fresh =
       some { c with lines := s.dstLines e.tm c, seq := (s.core e.gr.core).cmdseq } ∧
     (∀ id, id ≠ s.fresh → AMap.find (u.core e.gr.core).cmds id = AMap.find (s.core e.gr.core).cmds id) ∧
     (∃ g', u.grp? e.who = some g' ∧ (∀ k, g'.flag k = if c.flag = some k then g.flag k + 1 else g.flag k) ∧
       g'.v = g.v ∧ g'.gstat = g.gstat ∧ SameScalars g g') ∧
     (∃ t', AMap.find u.teams e.who.tid = some t' ∧ t'.scr = t.scr ∧
       ∀ l, AMap.get false t'.absent l = (decide (l ∈ s.dstLines e.tm c) || AMap.get false t.absent l)) ∧
     (∀ w, w.tid ≠ e.who.tid ∨ w.grp ≠ e.who.grp → u.grp? w = s.grp? w) ∧
     (s.host.trcEn = false → u.mem = s.mem ∧ u.l2 = s.l2)) ∧
  (∀ (s : State) (t : Team) (c : Cmd) (line : Nat),
     (∀ v lo hi, c.dst = some v → v.1.foot = some (lo, hi) →
       (line ∈ s.dstLines t c ↔ ∃ (a : Nat) (w : Win), lo ≤ a ∧ (a : Int) < hi ∧ s.window t.ctx a = some w ∧
         bit w.ctl 3 = true ∧ w.ia.toNat + (a - w.va.toNat) < t.scrBytes ∧
         line = (w.ia.toNat + (a - w.va.toNat)) / 128)) ∧
     (∀ v, c.dst = some v → v.1.foot = none → s.dstLines t c = []) ∧
     (∀ f, c.instr = .cpa f → c.dst = none →
       let n : Nat := 4 * 2 ^ (f.mode.extractLsb' 11 2).toNat
       (line ∈ s.dstLines t c ↔ ∃ l o k, c.exec.getLsbD l = true ∧ k < n ∧ line = (o + k) / 128 ∧
         s.access t (cmdAcc c n true) (c.gs.getD 1 0 + BitVec.ofInt 64 (if f.vop = 0xFF then 0
           else extOff (f.mode.getLsbD 10) (c.vs.getD l 0) * (n : Int))) = .ok (.scr o)))) ∧
  (∀ (s : State) (e : Env) (n off len : Nat) (v : View) (tokens : List Word) (l : McLine),
     (l ∈ e.castLines n v tokens off len ↔ ∃ x j, x ∈ tokens ∧ j < len / 128 ∧
       l = { who := e.who, core := e.gr.core, cmd := n, token := x, off := off + 128 * j
             va := BitVec.ofInt 64 (v.foot.elim 0 (·.1) + 128 * (j : Int)) }) ∧
     ∀ ls, l ∈ ls → ∃ k, (k, l) ∈ (s.sendLines ls).mcast)

/-- A command's moves and its end (R90, R98, R159, R161, R165, R275, R276, R337): the destination's bytes become the
source's, or what the table makes of them; the command leaves the engine, its flag falls and its lines are present. An
`xtab` leaves its table loaded by its team with the 256 elements of its view, or unloaded where an element faults; an
`eptab` leaves lo, h and the entries that it read in the matrix unit of its slice, marked with its team. -/
def Obligations.CommandsEnd : Prop :=
  (∀ (s : State) (tid core : Nat) (cores : List Nat) (c : Cmd) (m : Move) (ia ja : Nat) (ks ds : List Nat),
     ks.length = m.ns → ds.Nodup → (∀ k, k ∈ ks ++ ds → k < aperBase) →
     let t := s.performMoves tid core cores c [{ m := m, src := some (.mem ia ks), dst := .mem ja ds }] (fun _ => true)
     ((∀ f, c.instr = .cpw f → f.mode.getLsbD 5 = false) → ds.length = m.ns →
       (∀ j, j < m.ns → t.rd (ds.getD j 0) = s.rd (ks.getD j 0)) ∧ (∀ k, k ∉ ds → t.rd k = s.rd k)) ∧
     (∀ f who tab, c.instr = .cpw f → f.mode.getLsbD 5 = true → m.ns = 1 → ds.length = 2 →
       AMap.find (s.core core).cvt (f.mode.extractLsb' 6 2).toNat = some (who, tab) →
       (∀ j, j < 2 → t.rd (ds.getD j 0) = ((tab.getD (s.rd (ks.getD 0 0)).toNat 0).extractLsb' (8 * j) 8)) ∧
       (∀ k, k ∉ ds → t.rd k = s.rd k))) ∧
  (∀ (s : State) (core id : Nat) (c : Cmd) (t : Team) (g : Group),
     AMap.find (s.core core).cmds id = some c → AMap.find s.teams c.who.tid = some t →
     AMap.find t.groups c.who.grp = some g →
     (∀ f v, c.instr = .xtab f → c.src = some v → v.1.esize = 2 → s.cmdHeld core id c = false →
       let n := (f.mode.extractLsb' 0 2).toNat
       let s1 := s.drainFor core c
       let at_ (k : Nat) : Option Word := v.1.addr v.2 (ix2 k 0)
       (∀ place : Nat → Where,
         (∀ k a, k < 256 → at_ k = some a → s1.access t (cmdAcc c 2 false) a = .ok (place k)) →
         ∃ u g' tab, exec (.engineCommandCompletion core id) s = .next u ∧
           AMap.find (u.core core).cvt n = some (c.who.tid, tab) ∧ tab.length = 256 ∧
           (∀ k, k < 256 → tab.getD k 0 =
             if at_ k = none then 0 else BitVec.ofNat 16 (leVal (s1.peek c.who.tid (place k) 2))) ∧
           u.grp? c.who = some g' ∧
           ((∃ k, k < 256 ∧ at_ k = none) → v.1.noisy = true → g'.gstat &&& flOOB ≠ 0)) ∧
       (∀ k a m, k < 256 → at_ k = some a → s1.access t (cmdAcc c 2 false) a = .error m →
         (∀ j b, j < k → at_ j = some b → (s1.access t (cmdAcc c 2 false) b).isOk = true) →
         ∃ u g', exec (.engineCommandCompletion core id) s = .next u ∧ AMap.find (u.core core).cvt n = none ∧
           u.grp? c.who = some g' ∧ (c.exec &&& g.live ≠ 0 → ∃ d, d ∈ g'.deferred ∧ d.info.cause = .mem .engine m.1 ∧
             d.info.va = m.2 ∧ d.info.lanes = c.exec ∧ d.info.pc = c.pc ∧ d.info.stat = 0x10))) ∧
     (∀ f, c.instr = .eptab f → c.src ≠ none → s.cmdHeld core id c = false →
       ∃ u, exec (.engineCommandCompletion core id) s = .next u ∧
         ((u.core core).slice g.slice).act = some (c.who.tid, c.gs)) ∧
     (s.cmdHeld core id c = true → exec (.engineCommandCompletion core id) s = .next s.tick) ∧
     (s.cmdHeld core id c = false → exec (.engineCommandCompletion core id) s = .next (s.runCmd core id c).tick ∧
       AMap.find ((s.runCmd core id c).core core).cmds id = none) ∧
     (c.bar = none →
       ∃ t' g', AMap.find (s.endCmd core id c none).teams c.who.tid = some t' ∧
         AMap.find t'.groups c.who.grp = some g' ∧ g'.v = g.v ∧ g'.g = g.g ∧
         (∀ k, c.flag = some k → g'.flag k = g.flag k - 1) ∧
         (∀ l, l ∈ c.lines → AMap.get false t'.absent l = false)))

/-- `mmas` and `mmlp` (R83, R91 to R98): each output is the accumulator and K exact products summed and rounded once; a
loop enters the sequencer with what it read at issue, one issued again by `trret` at the step and the origins where it
stopped; its C block is pending and its flag rises, and a step is charged 15 for each lane of the width, accumulates one
product of K and advances both origins; one that would take the meter past its limit is denied; after the last step the C
block and the flag are written, or with the epilogue each element of C goes through bias, activation, requantisation and
its store, row by row. A step or an element that faults ends the loop: C is written back, the origins are kept, the flag
falls, and a deferred fault waits. That a step past the limit counts as a denial (log 48), that the loop ends in a step
of its own (log 21) and that its elements wait for no absent line (log 47) are the model's readings (DEDUCED), and the
sign of an exact zero sum, the flags of a NaN beside an invalid product, the one moment of a step's reads and which of
several faults of a step is taken its choices (logs 74, 73, 7 and 61, DESIGN CHOICE). A command of the host that waits
for the loop is served after the step (log 64, DEDUCED). -/
def Obligations.MatrixUnit : Prop :=
  (∀ (c : Lane) (as bs : List FVal), SumOnce .rne (f32Of c) (as.zip bs) (matSum c as bs)) ∧
  (∀ (tab : List Word) (x : Lane) (k : Nat) (q : Int), f32Of ((tab.getD 1 0).extractLsb' 0 32) = .fin false (k + 1) q →
     let lo := f32Of ((tab.getD 0 0).extractLsb' 0 32)
     let v := f32Of x
     let finite (y : FVal) : Prop := y ≠ .nan ∧ y.isInf = false
     let reached (n : Nat) : Prop := lo ≠ .nan ∧ (lo = .inf true ∨ v = .inf false ∨
       (finite lo ∧ finite v ∧ (lo.dy.add (Dy.mul { m := k + 1, e := q } (Dy.ofInt n))).le v.dy = true))
     (v = .nan → activate tab x = (0x7FC00000, 0)) ∧
     (v ≠ .nan → ∃ n, n < 64 ∧ (n = 0 ∨ reached n) ∧ (∀ j, n < j → j < 64 → ¬reached j) ∧
       activate tab x = ffma .rne x ((tab.getD (2 + n) 0).extractLsb' 0 32) ((tab.getD (2 + n) 0).extractLsb' 32 32))) ∧
  (∀ (s : State) (e : Env) (f : VF) (mt : MatFmt), Issues s e (.mmas f) →
     let d := f.d.toNat
     let w := e.width
     e.badC d = false → e.badIn d f.a.toNat = false → e.badIn d f.b.toNat = false → matFmt f.c.toNat = some mt →
     (s.core e.gr.core).loops.any (fun l => s.sliceOf l.2.who == e.gr.slice) = false →
     let m := e.active (Instr.mmas f).guard
     let out (i l : Nat) : Lane × Flags :=
       matSum (e.gr.vReg (d + i) l) ((List.range mt.k).map (e.gr.matElem mt f.a.toNat i))
         ((List.range mt.k).map (e.gr.matElem mt f.b.toNat l))
     let fl := (lanesOf m).foldl (fun a l => (List.range w).foldl (fun a i => a ||| (out i l).2) a) (0 : Flags)
     ∃ V : AMap Lane,
       exec (.mmas f) s = .next (s.wrote e (.mmas f) (fun g => { g with v := V, gstat := g.gstat ||| fl })) ∧
       ∀ r l, l < 64 → AMap.get 0 V (64 * r + l) =
         if m.getLsbD l = true ∧ d ≤ r ∧ r < d + w then (out (r - d) l).1 else e.gr.vReg r l) ∧
  (∀ (s : State) (e : Env) (f : XF) (a b : View × Word × Word),
     (∀ bias dst, Issues s e (.mmlp f) → f.gp.toNat ≤ 59 → e.badC f.vop.toNat = false →
       (e.width = 64 → e.over 71 = false) → e.loopFormats f (e.g (f.gp.toNat + 3)) = false → bits (e.g f.gp.toNat) 63 32 = 0 →
       e.held f.w1.toNat = some a → e.held f.w2.toNat = some b → 2 ≤ a.1.rank → 2 ≤ b.1.rank →
       s.loopWindow e a.1 = none → s.loopWindow e b.1 = none → s.unitBusy e.gr.core e.gr.slice s.fresh = false →
       (let w := e.g (f.gp.toNat + 3)
        (f.mode.getLsbD 0 = false → bias = none ∧ dst = none) ∧
        (f.mode.getLsbD 0 = true → w &&& 0xFFFFFFFF00F00FE8 = 0 ∧ dst = e.held (bits w 15 12) ∧ dst ≠ none ∧
          bias = (if bit w 0 then e.held (bits w 19 16) else none) ∧ (bit w 0 = true → bias ≠ none) ∧
          (bit w 1 = true → s.ownTable e = true))) →
       (s.core e.gr.core).entries + (2 + bias.toList.length + dst.toList.length) ≤ 32 →
       let from_ : Option Nat := e.fr.re.head?.bind (·.step)
       ∃ (u : State) (lp : Loop), exec (.mmlp f) s = .next (u.issued s e (.mmlp f)) ∧
         AMap.find (u.core e.gr.core).loops s.fresh = some lp ∧ lp.bias = bias ∧ lp.dst = dst ∧
         (from_ = none → lp.a = a ∧ lp.b = b ∧ lp.step = 0) ∧
         (∀ n, from_ = some n → lp.a = (a.1, e.gr.loopA) ∧ lp.b = (b.1, e.gr.loopB) ∧ lp.step = n) ∧
         lp.gs = (List.range 5).map (fun j => e.g (f.gp.toNat + j)) ∧
         lp.steps = (e.g f.gp.toNat).toNat ∧ lp.exec = e.fr.exec ∧
         (∀ i j, i < e.width → j < e.width → e.width ≤ 64 → AMap.get 0 lp.c (64 * i + j) = e.gr.vReg (f.vop.toNat + i) j) ∧
         ∃ g, u.grp? e.who = some g ∧ g.v = e.gr.v ∧
           (∀ r, f.vop.toNat ≤ r → r < f.vop.toNat + e.width → g.pend.any (fun p => p.reg == r) = true) ∧
           ∀ k, e.flagOf (.mmlp f) = some k → g.flag k = e.gr.flag k + 1) ∧
     (∀ core id l t ma mb as bs o1 o2 s1 s2, AMap.find (s.core core).loops id = some l →
       AMap.find s.teams l.who.tid = some t → l.queued = false → l.step < l.steps → t.desc.width ≤ 64 →
       (∀ k, k ∈ (s.core core).loops → k.1 < id → s.sliceOf k.2.who ≠ s.sliceOf l.who) →
       (s.core core).behind id l.who false l.srcs l.dsts = false →
       (∀ o, o ∈ (s.core core).ops → o.2.of l.who = false) →
       ((s.core core).past (15 * t.desc.width) = true →
         exec (.mmlpStep core id) s =
           .next (s.hostServed (s.modCore core (fun c => { c with denials := c.denials + 1 })) core).tick) ∧
       ((s.core core).past (15 * t.desc.width) = false → matFmt l.a.1.fmt = some ma → matFmt l.b.1.fmt = some mb →
       let s0 := s.chargeStep core (s.sliceOf l.who) t.desc.width
       State.loopElems t core l.who l.a ((pairs ma.k t.desc.width).map (fun x => ix2 x.1 x.2)) s0 = .ok (as, o1, s1) →
       State.loopElems t core l.who l.b ((pairs ma.k t.desc.width).map (fun x => ix2 x.2 x.1)) s1 = .ok (bs, o2, s2) →
       ∃ u l', exec (.mmlpStep core id) s = .next (s.hostServed u core).tick ∧ AMap.find (u.core core).loops id = some l' ∧
         (u.core core).sum = (s.core core).sum + 15 * t.desc.width ∧ l'.step = l.step + 1 ∧ l'.a.2.1 = addHalves l.a.2.1 (l.gs.getD 1 0) ∧
         l'.b.2.1 = addHalves l.b.2.1 (l.gs.getD 2 0) ∧
         ∀ i j, i < t.desc.width → j < t.desc.width → AMap.get 0 l'.c (64 * i + j) =
           (matSum (AMap.get 0 l.c (64 * i + j))
             (((as.drop (ma.k * i)).take ma.k).map ma.decode) (((bs.drop (ma.k * j)).take ma.k).map mb.decode)).1) ∧
       ((s.core core).past (15 * t.desc.width) = false → matFmt l.a.1.fmt = some ma → matFmt l.b.1.fmt = some mb →
       let s0 := s.chargeStep core (s.sliceOf l.who) t.desc.width
       let ai := (pairs ma.k t.desc.width).map (fun x => ix2 x.1 x.2)
       let bi := (pairs ma.k t.desc.width).map (fun x => ix2 x.2 x.1)
       (∀ m, State.loopElems t core l.who l.a ai s0 = .error m → exec (.mmlpStep core id) s =
         .next (s.hostServed (s0.faultLoop core id t.desc.width l m) core).tick) ∧
       (∀ m, State.loopElems t core l.who l.a ai s0 = .ok (as, o1, s1) → State.loopElems t core l.who l.b bi s1 = .error m →
         exec (.mmlpStep core id) s = .next (s.hostServed (s1.faultLoop core id t.desc.width l m) core).tick))) ∧
     (∀ core id l w m g, AMap.find (s.core core).loops id = some l → s.grp? l.who = some g → w ≤ 64 →
       let u := s.faultLoop core id w l m
       let d : Deferred := { cl := l.cl, info :=
         { cause := .mem .engine m.1, pc := l.pc, va := m.2, lanes := l.exec, again := l.redo,
           stat := 0x14 ||| BitVec.ofNat 64 (l.step * 2 ^ 32) } }
       AMap.find (u.core core).loops id = none ∧ ∃ g', u.grp? l.who = some g' ∧
         g'.deferred = (g.deferred ++ [d]).filter (fun d => d.info.lanes &&& g.live != 0) ∧
         g'.loopA = l.a.2 ∧ g'.loopB = l.b.2 ∧ (∀ k, l.flag = some k → g'.flag k = g.flag k - 1) ∧
         (∀ p, p ∈ g'.pend ↔ p ∈ g.pend ∧ p.op ≠ l.op) ∧
         ∀ r j, j < 64 → g'.vReg r j =
           if l.d ≤ r ∧ r < l.d + w ∧ j < w then AMap.get 0 l.c (64 * (r - l.d) + j) else g.vReg r j) ∧
     (∀ core id l t v, AMap.find (s.core core).loops id = some l → AMap.find s.teams l.who.tid = some t →
       l.queued = false → l.steps ≤ l.step → l.epi = true → l.dst = some v →
       (∀ k, k ∈ (s.core core).loops → k.1 < id → s.sliceOf k.2.who ≠ s.sliceOf l.who) →
       (s.core core).behind id l.who false l.srcs l.dsts = false →
       (∀ o, o ∈ (s.core core).ops → o.2.of l.who = false) →
       let w := t.desc.width
       let tab := (((s.core core).slice (s.sliceOf l.who)).act).elim [] (·.2)
       let answers (u : State) : Prop := exec (.mmlpStep core id) s = .next (s.hostServed u core).tick
       ∃ (n : Nat) (c : Nat → State) (res : Nat → Dy), n ≤ w * w ∧ c 0 = s ∧
         (∀ k, k < n → ∃ s1 bytes fl, CellOf t core l tab (k / w) (k % w) (c k) (res k) s1 bytes fl (res (k + 1)) ∧
           CellStored t core l v (k / w) (k % w) s1 bytes fl (c (k + 1))) ∧
         (n = w * w → answers (((c n).dropLoop core id l).completed l.who l.inH)) ∧
         (n < w * w → ∃ m s2, CellFaults t core l tab v (n / w) (n % w) (c n) (res n) m s2 ∧
           answers (s2.faultLoop core id w l m))) ∧
     (∀ core id l t g, AMap.find (s.core core).loops id = some l → AMap.find s.teams l.who.tid = some t →
       s.grp? l.who = some g → l.queued = false → l.steps ≤ l.step → l.epi = false → t.desc.width ≤ 64 →
       (∀ k, k ∈ (s.core core).loops → k.1 < id → s.sliceOf k.2.who ≠ s.sliceOf l.who) →
       (s.core core).behind id l.who false l.srcs l.dsts = false →
       (∀ o, o ∈ (s.core core).ops → o.2.of l.who = false) →
       ∃ u g', exec (.mmlpStep core id) s = .next (s.hostServed u core).tick ∧ AMap.find (u.core core).loops id = none ∧
         u.grp? l.who = some g' ∧ (∀ k, l.flag = some k → g'.flag k = g.flag k - 1) ∧
         (∀ p, p ∈ g'.pend ↔ p ∈ g.pend ∧ p.op ≠ l.op) ∧
         ∀ r j, j < 64 → g'.vReg r j =
           if l.d ≤ r ∧ r < l.d + t.desc.width ∧ j < t.desc.width then AMap.get 0 l.c (64 * (r - l.d) + j)
           else g.vReg r j))

/-- The transform pipes (R99 to R103): a job enters its pipe with its sources, its registers are pending and its flag
rises. The reply of an `xunp` writes each field, extended; that of an `xlut` the entries of its table, which are read as
the group's stores before it leave them, once no line of the table is absent; that of an `xlz` its card, after the steps
of the stream from the carry state to its end or its limit, each told by the bytes that it reads; and a bad card or
stream, a used-up capacity or a MEM fault leaves the card as it was and a deferred fault. A command of the host that waits
for the job is served after the reply (log 64, DEDUCED). That %tva of a hit on an engine's range is g[J] (log 79), and that
a byte is read before the capacity is tested (log 75), are the model's choices (DESIGN CHOICE). -/
def Obligations.PipeJobs : Prop :=
  (∀ (s : State) (e : Env),
    (∀ i (gs : List Word) (vs : List (List Lane)) (dsts : List Nat) (exec_ : Word),
      (∃ f o, i = .xlut f ∧ f.d.toNat % 2 = 0 ∧ e.over (f.d.toNat + 1) = false ∧ e.over f.a.toNat = false ∧
          s.lutTable e (e.g f.b.toNat) (e.column f.a.toNat) (e.active i.guard) = .ok o ∧ gs = [BitVec.ofNat 64 o] ∧ vs = [e.column f.a.toNat] ∧
          dsts = [f.d.toNat, f.d.toNat + 1] ∧ exec_ = e.active i.guard) ∨
        (∃ f, i = .xunp f ∧
          (let w := bits (e.g f.b.toNat) 5 0
           let n := bits (e.g f.b.toNat) 13 8
           w ≠ 0 ∧ w ≤ 32 ∧ n ≠ 0 ∧ n ≤ 8 ∧ w * n ≤ 64 ∧ bits (e.g f.b.toNat) 7 6 = 0 ∧
             bits (e.g f.b.toNat) 63 14 = 0 ∧ e.over (f.d.toNat + n - 1) = false ∧
             dsts = (List.range n).map (f.d.toNat + ·)) ∧
          f.a.toNat % 2 = 0 ∧ e.over (f.a.toNat + 1) = false ∧ gs = [e.g f.b.toNat] ∧
          vs = [e.column f.a.toNat, e.column (f.a.toNat + 1)] ∧ exec_ = e.active i.guard) ∨
        (∃ f, i = .xlz f ∧ f.gp.toNat % 8 = 0 ∧ gs = (List.range 8).map (fun j => e.g (f.gp.toNat + j)) ∧ vs = [] ∧
          dsts = (List.range 8).map (fun j => e.sbG (f.gp.toNat + j)) ∧ exec_ = e.fr.exec) →
      Issues s e i →
      ∃ (u : State) (j : Job), exec i s = .next (u.issued s e i) ∧
        AMap.get [] (u.core e.gr.core).pipes (pipeOf e.gr.slice) =
          AMap.get [] (s.core e.gr.core).pipes (pipeOf e.gr.slice) ++ [j] ∧
        j.who = e.who ∧ j.instr = i ∧ j.gs = gs ∧ j.vs = vs ∧ j.exec = exec_ ∧
        ∃ g, u.grp? e.who = some g ∧ g.v = e.gr.v ∧ g.g = e.gr.g ∧
          (∀ r, r ∈ dsts → g.pend.any (fun p => p.reg == r) = true) ∧
          ∀ k, e.flagOf i = some k → g.flag k = e.gr.flag k + 1) ∧
    (∀ core pipe (j : Job) rest f gr, AMap.get [] (s.core core).pipes pipe = j :: rest → j.instr = .xunp f →
      s.grp? j.who = some gr →
      ∃ u g, exec (.pipeJobReply core pipe) s = .next (s.hostServed u core).tick ∧ AMap.get [] (u.core core).pipes pipe = rest ∧
        u.grp? j.who = some g ∧
        let w := bits (j.gs.headD 0) 5 0
        let n := bits (j.gs.headD 0) 13 8
        let pr (l : Nat) : Nat :=
          ((j.vs.getD 1 []).getD l 0).toNat * 2 ^ 32 + ((j.vs.getD 0 []).getD l 0).toNat
        ∀ r l, l < 64 → g.vReg r l =
          if j.exec.getLsbD l = true ∧ f.d.toNat ≤ r ∧ r < f.d.toNat + n then
            (if f.c = 1 then (BitVec.ofNat w (pr l / 2 ^ (w * (r - f.d.toNat)))).signExtend 32
             else (BitVec.ofNat w (pr l / 2 ^ (w * (r - f.d.toNat)))).setWidth 32)
          else gr.vReg r l)) ∧
  (∀ (s : State) (core pipe : Nat) (j : Job) (rest : List Job) (gr : Group) (t : Team),
    AMap.get [] (s.core core).pipes pipe = j :: rest → s.grp? j.who = some gr → AMap.find s.teams j.who.tid = some t →
    let held : Prop := exec (.pipeJobReply core pipe) s = .next (s.hostServed s core).tick
    -- the job has left its pipe, its registers are final and its flag has fallen
    let replied (u : State) (g : Group) : Prop :=
      exec (.pipeJobReply core pipe) s = .next (s.hostServed u core).tick ∧
      AMap.get [] (u.core core).pipes pipe = rest ∧ u.grp? j.who = some g ∧
      (∀ p, p ∈ g.pend ↔ p ∈ gr.pend ∧ p.op ≠ j.op) ∧
      (∀ k, g.flag k = if j.flag = some k then gr.flag k - 1 else gr.flag k)
    (∀ f, j.instr = .xlut f →
      let off := (j.gs.headD 0).toNat
      let byte (k : Nat) : Byte := (AMap.find j.seen k).getD (s.scrSees j.who core k)
      let entry (l b : Nat) : BitVec 16 :=
        let k := off + 2 * (((j.vs.headD []).getD l 0).extractLsb' (8 * b) 8).toNat
        byte (k + 1) ++ byte k
      let absent : Prop := ∃ k, k < 512 ∧ AMap.get false t.absent ((off + k) / 128) = true
      (absent → held) ∧
      (¬absent → ∃ u g, replied u g ∧ g.g = gr.g ∧ ∀ r l, l < 64 → g.vReg r l =
        if j.exec.getLsbD l = true ∧ r = f.d.toNat then entry l 1 ++ entry l 0
        else if j.exec.getLsbD l = true ∧ r = f.d.toNat + 1 then entry l 3 ++ entry l 2
        else gr.vReg r l)) ∧
    (∀ f, j.instr = .xlz f →
      let c (n : Nat) : Word := j.gs.getD n 0
      let carried : Prop := c 6 = 0 ∨
        (∃ n m, 1 ≤ n ∧ n ≤ 262 ∧ 3 ≤ m ∧ m ≤ 289 ∧ c 6 = BitVec.ofNat 64 (n + m * 2 ^ 16)) ∨
        (∃ m o, 1 ≤ m ∧ m ≤ 289 ∧ 1 ≤ o ∧ o ≤ 65535 ∧ o ≤ (c 5).toNat ∧
          c 6 = BitVec.ofNat 64 (m * 2 ^ 16 + 2 ^ 31 + o * 2 ^ 32))
      let src : Int × Int := ((c 0).toNat, (c 0).toNat + (c 1).toNat)
      let dst : Int × Int := ((c 2).toNat, (c 2).toNat + (c 3).toNat)
      let legal : Prop := c 7 = 0 ∧ carried ∧ ¬(max src.1 dst.1 < min src.2 dst.2)
      let hit : Prop := ∃ k x, k ∈ t.cores ∧ x ∈ (s.core k).cmdFeet j.who.tid ∧
        (max x.1 src.1 < min x.2 src.2 ∨ max x.1 dst.1 < min x.2 dst.2)
      let fails (cause : Cause) (va : Word) (s1 : State) : Prop := ∃ u g, replied u g ∧ g.g = gr.g ∧ g.h = gr.h ∧
        g.v = gr.v ∧ g.deferred = List.filter (fun d : Deferred => d.info.lanes &&& gr.live != 0)
          (gr.deferred ++ [{ cl := j.cl, info :=
            { cause := cause, pc := j.pc, va := va, lanes := j.exec, stat := 0x10, again := j.redo } }]) ∧
        (s.host.trcEn = false → g.deferred.length = gr.deferred.length + 1 → u.mem = s1.mem)
      let ends (y : Xz) (more : Bool) : Prop := ∃ u g, replied u g ∧ g.v = gr.v ∧ g.deferred = gr.deferred ∧
        (s.host.trcEn = false → u.mem = y.s.mem) ∧
        ∀ n, g.gReg j.inH n =
          if f.gp.toNat ≤ n ∧ n < f.gp.toNat + 8 then
            [y.src, BitVec.ofNat 64 y.left, y.dst, BitVec.ofNat 64 y.cap, if more then 1 else 0, BitVec.ofNat 64 y.out,
             if more then BitVec.ofNat 64 (y.lit + y.mat * 2 ^ 16 + (if y.known then 2 ^ 31 else 0) + y.off * 2 ^ 32) else 0,
             0].getD (n - f.gp.toNat) 0
          else gr.gReg j.inH n
      f.gp.toNat % 8 = 0 →
      (¬legal → fails (.view .xlzFormat) 0 s) ∧
      (legal → hit → fails (.mem .engine .engineRange) (c 0) s) ∧
      (legal → ¬hit → ∃ (n : Nat) (x : Nat → Xz) (z : XzEnd),
        x 0 = { s := s.drainStores core j.who, src := c 0, left := (c 1).toNat, dst := c 2, cap := (c 3).toNat
                out := (c 5).toNat, lit := bits (c 6) 8 0, mat := bits (c 6) 24 16, known := bit (c 6) 31
                off := bits (c 6) 47 32, wrote := 0, start := decide (c 6 = 0) } ∧
        (∀ k, k < n → (x k).step j core = .ok (x (k + 1))) ∧ (x n).step j core = .error z ∧ (x n).wrote ≤ 4096 ∧
        (∀ y, z = .ended y → ends y false) ∧ (∀ y, z = .limit y → ends y true) ∧
        (∀ cause va s1, z = .fault cause va s1 → fails cause va s1) ∧ (z = .hold → held)))) ∧
  (∀ (j : Job) (core : Nat) (x : Xz) (t : Team), AMap.find x.s.teams j.who.tid = some t →
    let acc (wr : Bool) : Acc := { n := 1, rd := !wr, wr := wr, noIo := true, l1 := some core }
    let there (p : Where) : Bool := match p with | .scr o => !AMap.get false t.absent (o / 128) | .mem _ _ => true
    -- the byte at an address is b, and reading it leaves s1
    let reads (s : State) (a : Word) (b : Byte) (s1 : State) : Prop := ∃ p, s.access t (acc false) a = .ok p ∧
      there p = true ∧ (s.load j.who core false p 1).1 = [b] ∧ s1 = (s.load j.who core false p 1).2
    let noRead (s : State) (a : Word) (z : XzEnd) : Prop :=
      (∃ r va, s.access t (acc false) a = .error (r, va) ∧ z = .fault (.mem .engine r) va s) ∨
      (∃ p, s.access t (acc false) a = .ok p ∧ there p = false ∧ z = .hold)
    let took (y : Xz) (b : Byte) (y' : Xz) : Prop := y.left ≠ 0 ∧ ∃ s1, reads y.s y.src b s1 ∧
      y' = { y with s := s1, src := y.src + 1, left := y.left - 1, start := false }
    let noTake (y : Xz) (z : XzEnd) : Prop :=
      (y.left = 0 ∧ z = .fault (.view .xlzFormat) 0 y.s) ∨ (y.left ≠ 0 ∧ noRead y.s y.src z)
    let put (y : Xz) (b : Byte) (y' : Xz) : Prop := y.cap ≠ 0 ∧ ∃ p, y.s.access t (acc true) y.dst = .ok p ∧
      there p = true ∧ y' = { y with s := y.s.passGate j.who core (storeBytes p [b]) [], dst := y.dst + 1
                                     cap := y.cap - 1, out := y.out + 1, wrote := y.wrote + 1 }
    let noPut (y : Xz) (z : XzEnd) : Prop :=
      (y.cap = 0 ∧ z = .fault (.view .xlzCap) 0 y.s) ∨
      (y.cap ≠ 0 ∧ ((∃ r va, y.s.access t (acc true) y.dst = .error (r, va) ∧ z = .fault (.mem .engine r) va y.s) ∨
        ∃ p, y.s.access t (acc true) y.dst = .ok p ∧ there p = false ∧ z = .hold))
    let stops (z : XzEnd) : Prop := x.step j core = .error z
    -- a literal
    (0 < x.lit →
      (x.left = 0 → stops (.fault (.view .xlzFormat) 0 x.s)) ∧ (x.left ≠ 0 → 4096 ≤ x.wrote → stops (.limit x)) ∧
      (x.left ≠ 0 → x.wrote < 4096 → (∀ z, noTake x z → stops z) ∧
        ∀ b y, took x b y → (∀ z, noPut y z → stops z) ∧
          ∀ y', put y b y' → x.step j core = .ok { y' with lit := x.lit - 1 })) ∧
    -- an offset, or the end after the literals of a final token
    (x.lit = 0 → 0 < x.mat → x.known = false →
      (x.left = 0 → x.mat = 3 → stops (.ended { x with mat := 0 })) ∧
      (x.left = 0 → x.mat ≠ 3 → stops (.fault (.view .xlzFormat) 0 x.s)) ∧
      (x.left ≠ 0 → (∀ z, noTake x z → stops z) ∧
        ∀ b y, took x b y → (∀ z, noTake y z → stops z) ∧
          ∀ b' y', took y b' y' →
            let off := b.toNat + 256 * b'.toNat
            (off = 0 ∨ x.out < off → stops (.fault (.view .xlzFormat) 0 y'.s)) ∧
            (off ≠ 0 → off ≤ x.out → x.step j core = .ok { y' with known := true, off := off }))) ∧
    -- a byte of a match
    (x.lit = 0 → 0 < x.mat → x.known = true →
      (4096 ≤ x.wrote → stops (.limit x)) ∧
      (x.wrote < 4096 →
        let a := x.dst - BitVec.ofNat 64 x.off
        (∀ z, noRead x.s a z → stops z) ∧
        ∀ b s1, reads x.s a b s1 →
          let y : Xz := { x with s := s1 }
          (∀ z, noPut y z → stops z) ∧
          ∀ y', put y b y' → x.step j core = .ok (if x.mat = 1 then { y' with mat := 0, known := false, off := 0 }
            else { y' with mat := x.mat - 1 }))) ∧
    -- a token with its extensions, or the end of an empty stream
    (x.lit = 0 → x.mat = 0 →
      (x.left = 0 → x.start = true → stops (.ended x)) ∧
      (x.left = 0 → x.start = false → stops (.fault (.view .xlzFormat) 0 x.s)) ∧
      (x.left ≠ 0 → (∀ z, noTake x z → stops z) ∧
        ∀ b y, took x b y →
          let l := b.toNat / 32
          let m := b.toNat % 32
          (l = 7 → ∀ z, noTake y z → stops z) ∧
          ∀ lit y', ((l ≠ 7 ∧ lit = l ∧ y' = y) ∨ (l = 7 ∧ ∃ b', took y b' y' ∧ lit = 7 + b'.toNat)) →
            (m = 31 → ∀ z, noTake y' z → stops z) ∧
            ∀ mat w, ((m ≠ 31 ∧ mat = m + 3 ∧ w = y') ∨ (m = 31 ∧ ∃ b', took y' b' w ∧ mat = 34 + b'.toNat)) →
              x.step j core = .ok { w with lit := lit, mat := mat })))

/-! Issue, events and the outside world. -/

/-- What a word does before its own effect (R194, R244, R245, R33, R32), and what its issue leaves beside it: a false
group guard and a waiting word change no register and no memory, and a reserved field traps. Three points are the model's
choice: that a word with no fragment to issue it is a fault of the model (log 38, DESIGN CHOICE), that a reserved
encoding traps even under a false group guard (log 10, DEDUCED), and that a word which traps is charged to the meter and
one which waits is not (log 11, DEDUCED). -/
def Obligations.IssueRules : Prop :=
  (∀ (s : State) (i : Instr), (encode i).isSome = true → s.env = none → exec i s = .fault .noIssuer) ∧
  (∀ (s : State) (e : Env) (i : Instr), (encode i).isSome = true → s.env = some e →
    (e.tested = true → s.matches e i = []) → trapFence i = false ∨ e.groupGuard i.guard = false →
    (∀ c, i.check = some c → exec i s = .next (s.trapped e i (e.trapOf (.instr c)))) ∧
    (i.check = none → e.blocked (guardRegs i) = true → exec i s = .next (s.waits e .reg).tick) ∧
    (i.check = none → i.guard.lane = false → e.groupGuard i.guard = false → e.blocked (guardRegs i) = false →
      exec i s = .next ((s.begun e).issued s e i)) ∧
    (i.check = none → i.guard.lane = true ∨ e.groupGuard i.guard = true →
      e.blocked (e.regs i) = true → exec i s = .next (s.waits e .reg).tick) ∧
    (∀ k, i.check = none → i.guard.lane = true ∨ e.groupGuard i.guard = true →
      e.blocked (e.regs i) = false → e.flagOf i = some k → 63 ≤ e.gr.flag k →
      exec i s = .next (s.waits e .flag).tick)) ∧
  (∀ (u s : State) (e : Env) (i : Instr) (g : Group) (f : Frag), u.grp? e.who = some g →
    AMap.find g.frags e.who.frag = some f → e.gr.stepOn = false →
    ∃ g' f', (u.issued s e i).grp? e.who = some g' ∧ AMap.find g'.frags e.who.frag = some f' ∧
      (f.re = [] → f'.pos = e.after ∧ f'.exec = f.exec) ∧
      (∀ r rs, f.re = r :: rs → f'.pos = r.cont ∧ f'.exec = r.exec &&& g.live ∧ f'.re = rs) ∧
      g'.v = g.v ∧ g'.gstat = g.gstat ∧ g'.k = g.k ∧ SameScalars g g' ∧
      (u.issued s e i).mem = u.mem ∧
      (∀ w : Sel, w.tid ≠ e.who.tid → (u.issued s e i).grp? w = u.grp? w) ∧
      ((u.issued s e i).core e.gr.core).sum = (u.core e.gr.core).sum + e.charge i)

/-- Clauses and THROTTLE (R30, R56, R185, R204, R340): the trap of a header comes before THROTTLE; a throttle calls the
vector; a clause starts once the flags of its WAIT field read zero, a melded one only with a region open. The whole order
at a boundary, header trap, deferred fault once the WAIT is met, THROTTLE, WAIT, is the model's choice (log 26 with
log 18, DEDUCED): R204 gives only that the header's trap comes before THROTTLE. -/
def Obligations.ClauseStarts : Prop :=
  ∀ (s : State) (e : Env) (w : Word), s.env = some e → e.fr.pos.cl.left = 0 →
    (HeaderAt s e e.pc → s.fetch e e.pc = .ok w →
      let h := HF.unpack w
      let met : Prop := ∀ k, k < 12 → h.wait.getLsbD k = true → e.gr.flag k = 0
      (h.meld = true → e.depth = e.floor →
        exec .clauseStart s = .next (s.takeTrap e (e.trapOf (.instr .meldDepth)) e.fr.pos e.fr.pos).tick) ∧
      (h.meld = false ∨ e.depth ≠ e.floor →
        (met → e.due ≠ none → exec .clauseStart s = .next (s.takeDeferred e.who).tick) ∧
        (e.throttled = false → met → e.due = none →
          exec .clauseStart s = .next (s.modFrag e.who (fun f =>
            { f with stall := none, pos := { pc := e.pc + 8, cl :=
              { left := h.len.toNat, hdr := w, seta := h.seta, setb := h.setb, meld := h.meld } } })).tick) ∧
        (e.throttled = false → ¬met → exec .clauseStart s = .next s.tick) ∧
        (∀ i, i = .throttleDelivery ∨ i = .clauseStart → e.throttled = true → ¬met ∨ e.due = none →
          HeaderAt s e e.gr.evvec →
          ∃ t g f, exec i s = .next t ∧ t.grp? e.who = some g ∧ AMap.find g.frags e.who.frag = some f ∧
            f.pos = { pc := e.gr.evvec } ∧ f.exec = e.fr.exec ∧ g.thr = false ∧ g.thrp = false ∧
            (e.fr.inH = false → g.gReg false 62 = (BitVec.ofNat 3 e.gr.floor ++ e.pc.extractLsb' 0 61) ∧
              g.floor = e.gr.meld.length ∧ g.meld = e.gr.meld ∧ g.v = e.gr.v ∧
              ∀ n, n ≠ 62 → g.gReg false n = e.gr.gReg false n)))) ∧
    (e.pc.toNat % 8 ≠ 0 → exec .clauseStart s =
      .next (s.takeTrap e (e.trapOf (.instr .notHeader)) e.fr.pos e.fr.pos).tick) ∧
    (e.throttled = false → exec .throttleDelivery s = .next s.tick)

/-- The meter's window, the scheduler's promotions and the supply's timers (R182, R184, R185, R213, R216 to R218,
R221). A candidate is promoted where it is willing, not denied by the meter and not stuck; where one of the three fails,
nothing happens. That a stuck fragment, one whose word waits for a unit or a barrier, is no ready candidate is the
model's choice (log 58, DEDUCED). -/
def Obligations.MarginTimers : Prop :=
  ∀ (s : State) (core slice : Nat),
    let c := s.core core
    let sl := c.slice slice
    let only (t : State) (d : Core) : Prop :=
      t.core core = d ∧ (∀ k, k ≠ core → t.core k = s.core k) ∧ t.mem = s.mem
    let sliced (t : State) (l : Slice) : Prop :=
      (t.core core).slice slice = l ∧ (∀ n, n ≠ slice → (t.core core).slice n = c.slice n) ∧
      (∀ k, k ≠ core → t.core k = s.core k) ∧ t.teams = s.teams ∧ t.mem = s.mem
    (∃ t, exec (.meterWindowEnd core) s = .next t ∧
      only t { c with curmSum := c.sum % 2 ^ 32, curmDen := min c.denials 0xFFFF, sum := 0, denials := 0 } ∧
      ∀ tid tm n g, AMap.find s.teams tid = some tm → AMap.find tm.groups n = some g →
        t.grp? { tid := tid, grp := n, frag := 0 } =
          some (if c.denials ≠ 0 ∧ tm.onCore core = true ∧ g.thr = true then { g with thrp := true } else g)) ∧
    (∀ who e, s.envOf who = some e →
      (e.canIssue = true → e.gr.thrp = true → s.denied e = true →
        exec (.graceIssue who) s = .next (s.modFrag who (fun f => { f with grace := true })).tick) ∧
      (e.gr.thrp = false → exec (.graceIssue who) s = .next s.tick) ∧
      (s.willing e = true → s.denied e = false → e.stuck = false →
        exec (.starvationPromotion who) s = .next (s.modFrag who (fun f => { f with promoted := true })).tick) ∧
      (s.willing e = false ∨ s.denied e = true ∨ e.stuck = true → exec (.starvationPromotion who) s = .next s.tick)) ∧
    (∃ t, exec (.replayBubbleEnd core slice) s = .next t ∧ sliced t { sl with bubble := false }) ∧
    (c.quar = false → ∃ t, exec (.limpModeEnd core slice) s = .next t ∧ sliced t { sl with limp := false }) ∧
    (c.quar = true → exec (.limpModeEnd core slice) s = .next s.tick) ∧
    (∃ t, exec (.supplySettled core) s = .next t ∧ only t { c with settle := false, slew := false }) ∧
    (∃ t, exec (.quietPeriodExpiry core) s = .next t ∧
      only t (if s.mgnHw core = true ∧ c.quar = false ∧ c.ofs < c.omax then { c with ofs := c.ofs + 1, slew := true } else c)) ∧
    (AMap.sorted c.slices = true → ∃ t, exec (.teWindowEnd core) s = .next t ∧ (t.core core).win = 0 ∧
      (t.core core).stepped = false ∧ ∀ n, (t.core core).slice n = { c.slice n with teWin := 0 })

/-- A timing event (R213 to R218, R221, R222): where the victim has nothing that it could hit, nothing happens. It can hit
the word that the victim's slice would issue, and a step or a pipe job in flight, whose beat is repeated, or whose reply
is written again alone. A squashed word stands where it stood, or as the first word of the clause that its fragment was
about to start; a repeated step or access moves nothing, the bubble begins unless one access or write is repeated alone,
the counters count, a slice whose victim has been hit too often limps, an event in limp mode lowers the offset, and at
offset 0 the events of a window quarantine the core. That an issue and its squash are one event here is the model's
reading (log 27, DEDUCED). -/
def Obligations.TimingEvents : Prop :=
  ∀ (s : State) (core slice : Nat) (victim : Sel) (behind : List Sel) (e : Env), s.envOf victim = some e →
    AMap.sorted (s.core core).slices = true →
    let c := s.core core
    let sl := c.slice slice
    (s.hits core slice victim = [] → exec (.timingEvent core slice victim behind) s = .next s.tick) ∧
    (∀ x t, s.nextInstr e = some x → e.gr.core = core → e.gr.slice = slice → s.sliceCycle core slice = .next t →
      ((t.core core).slice slice).issued = some victim →
      ∃ h, h ∈ s.hits core slice victim ∧ h.va = x.1.pc ∧ h.count = x.1.count + 1 ∧ h.squash = true ∧
        h.alone = false) ∧
    (∀ j js alone, AMap.get [] c.pipes (pipeOf slice) = j :: js → j.who.tid = victim.tid → j.who.grp = victim.grp →
      e.gr.core = core → e.gr.slice = slice →
      ∃ h, h ∈ s.hits core slice victim ∧ h.va = j.pc ∧ h.count = j.replays + 1 ∧ h.squash = false ∧
        h.alone = alone) ∧
    (∀ id l, (id, l) ∈ c.loops → l.who.tid = victim.tid → l.who.grp = victim.grp → e.gr.core = core →
      e.gr.slice = slice →
      ∃ h, h ∈ s.hits core slice victim ∧ h.va = l.pc ∧ h.count = l.replays + 1 ∧ h.squash = false ∧
        (h.s.core core).sum = c.sum + 15 * e.tm.desc.width) ∧
    (∀ h, s.hit core slice victim = some h →
      ∃ t, exec (.timingEvent core slice victim behind) s = .next t ∧
        (t.core core).tecnt = c.tecnt + 1 ∧ ((t.core core).slice slice).bubble = (sl.bubble || !h.alone) ∧
        ((t.core core).slice slice).limp = (sl.limp || decide (c.replim ≤ h.count)) ∧
        (c.ofs ≠ 0 →
          (t.core core).win = c.win ∧ ((t.core core).slice slice).teWin = sl.teWin ∧
          (t.core core).ofs = (if sl.limp || c.quar then c.ofs - c.escstep else c.ofs) ∧
          (t.core core).quar = c.quar ∧
          ∃ g f, t.grp? victim = some g ∧ AMap.find g.frags victim.frag = some f ∧ g.te = e.gr.te + 1 ∧
            g.v = e.gr.v ∧ g.gstat = e.gr.gstat ∧ g.k = e.gr.k ∧ SameScalars e.gr g ∧
            (f.pos = e.fr.pos ∨ (e.fr.pos.cl.left = 0 ∧ f.pos.pc = e.pc + 8)) ∧ f.exec = e.fr.exec ∧
            (h.squash = true → (∃ a, a ∈ g.again ∧ a.frag = victim.frag ∧ a.pc = h.va ∧ a.count = h.count) ∧
              ((t.core core).slice slice).squashed.contains victim = true)) ∧
        (c.ofs = 0 →
          (t.core core).win = min (c.win + 1) 0xFFFF ∧ ((t.core core).slice slice).teWin = sl.teWin + 1 ∧
          (t.core core).ofs = 0 ∧
          (t.core core).quar = (c.quar || decide (c.qthr < min (c.win + 1) 0xFFFF))))

/-- Slice ratios, clock bins and the margin registers (R186, R187, R206, R218, R219, R237): a request waits for its
deadline, the deadline pre-empts, and the change is made once nothing is resident. Which mode of margin control holds
while a team is resident, that of the team longest on the core, is the model's reading (log 25, DEDUCED). -/
def Obligations.RatiosAndBins : Prop :=
  ∀ (s : State) (core slice die : Nat) (x : Word), s.answers = true →
    let c := s.core core
    let sl := c.slice slice
    let n := bits x 3 0
    let d : DieClk := AMap.get {} s.dies die
    let stops (t : State) (p : Team → Bool) : Prop := FramesEnough s →
      ∀ tid tm, AMap.find s.teams tid = some tm → p tm = true →
        ∃ tm', AMap.find t.teams tid = some tm' ∧ tm'.stopping = true
    (n = 0 ∨ 8 < n → exec (.sratioWrite core slice x) s = .next s.tick) ∧
    (0 < n → n ≤ 8 → ∃ t, exec (.sratioWrite core slice x) s = .next t ∧ t.teams = s.teams ∧
      (t.core core).slice slice =
        if n = sl.ratio then { sl with target := n, pend := false, due := false }
        else { sl with target := n, pend := true }) ∧
    (sl.pend = true → s.groupsOn core slice = [] → ∃ t, exec (.sliceRatioChange core slice) s = .next t ∧
      (t.core core).slice slice = { sl with ratio := sl.target, pend := false, due := false }) ∧
    (sl.pend = false ∨ s.groupsOn core slice ≠ [] → exec (.sliceRatioChange core slice) s = .next s.tick) ∧
    (sl.pend = true → ∃ t, exec (.ratioDeadline core slice) s = .next t ∧
      (t.core core).slice slice = { sl with due := true } ∧
      stops t (fun tm => tm.onCore core && tm.groups.any (fun g => g.2.core == core && g.2.slice == slice))) ∧
    (sl.pend = false → exec (.ratioDeadline core slice) s = .next s.tick) ∧
    (die < 8 → Config.binFreq n ≠ 0 → d.pend = true ∨ n ≠ d.cur →
      ∃ t, exec (.dieclkWrite die x) s = .next t ∧
        (AMap.get {} t.dies die : DieClk) = { d with req := n, pend := true }) ∧
    (8 ≤ die ∨ Config.binFreq n = 0 → exec (.dieclkWrite die x) s = .next s.tick) ∧
    (d.pend = true → ∃ t, exec (.binDeadline die) s = .next t ∧
      (AMap.get {} t.dies die : DieClk) = { d with due := true } ∧
      stops t (fun tm => tm.cores.any (fun k => k / 48 == die))) ∧
    (d.pend = true → (∀ k, 48 * die ≤ k → k < 48 * die + 48 → s.resident k = []) →
      ∃ t, exec (.binSwitch die) s = .next t ∧
        (AMap.get {} t.dies die : DieClk) = { req := d.req, cur := d.req } ∧ t.teams = s.teams ∧
        ∀ k, 48 * die ≤ k → k < 48 * die + 48 → (t.core k).ofs = 0) ∧
    (d.pend = false → exec (.binSwitch die) s = .next s.tick) ∧
    (let h := bits x 4 0
     let o := bits x 12 8
     bits x 31 24 ≠ 0 → c.quar = false → ∃ t, exec (.mgnctlWrite core x) s = .next t ∧
      (t.core core).hofs = h ∧ (t.core core).omax = o ∧ (t.core core).hw = bit x 16 ∧
      (t.core core).quiet = bits x 31 24 ∧
      (t.core core).ofs = (if s.modeWith core (bit x 16) then min c.ofs o else min h o) ∧
      ((t.core core).ofs < c.ofs → (t.core core).settle = true)) ∧
    (bits x 31 24 = 0 → ∃ t, exec (.mgnctlWrite core x) s = .next t ∧ t.core core = c) ∧
    (∃ t, exec (.qstatClear core x) s = .next t ∧
      (t.core core).qcount = (BitVec.ofNat 16 c.qcount &&& ~~~(x.extractLsb' 32 16)).toNat) ∧
    (AMap.sorted c.slices = true → bit x 0 = true → c.quar = true → ∃ t, exec (.qstatClear core x) s = .next t ∧
      (t.core core).quar = false ∧ (t.core core).win = 0 ∧
      ∀ k, (t.core core).slice k = { c.slice k with limp := false })

/-- Launches and teams from their start to their end (R174 to R181, R257, R46 to R49): a queue's record is taken or
rejected; a launch's next team starts at a place, all the teams of a concurrent launch start at once, and none starts while
a pre-empted team of the launch is away; groups start with the arguments; and what has ended leaves. Three clauses are the
model's reading: of the reasons of an error 5 comes before 1 (log 24); a team takes the trace destination and the margin
modes that its launch latched at its first team; and which team of a weakly parallel launch starts next is free (log 25). -/
def Obligations.LaunchesAndTeams : Prop :=
  (∀ (s : State) (q : Nat),
    let u := s.queue q
    let lid := lidOf q u.head
    (s.takeable q = false → exec (.launchTake q) s = .next s.tick) ∧
    (s.takeable q = true → ∃ t, exec (.launchTake q) s = .next t ∧ (t.queue q).head = u.head + 1 ∧
      (t.queue q).last = lid ∧ (∀ p, p ≠ q → t.queue p = s.queue p) ∧ t.teams = s.teams ∧
      (∀ l, s.readLaunch q u = .ok l → AMap.find t.launches lid = some l ∧ (t.queue q).err = u.err) ∧
      (∀ r, s.readLaunch q u = .error r → t.launches = s.launches ∧ (t.queue q).err = true ∧
        (t.queue q).reason = BitVec.ofNat 8 r ∧ (t.queue q).errHead = u.head)) ∧
    (∀ bs, s.iaRead (u.base.toNat + 64 * (u.head.toNat % 2 ^ u.size)) 64 = some bs →
      (s.iaBad (u.base.toNat + 64 * (u.head.toNat % 2 ^ u.size)) 64 = true → s.readLaunch q u = .error 5) ∧
      (s.iaBad (u.base.toNat + 64 * (u.head.toNat % 2 ^ u.size)) 64 = false → recOk (wordsOf bs) = false →
        s.readLaunch q u = .error 1))) ∧
  (∀ (s : State) (lid core : Nat) (l0 : Launch) (t1 : Team), AMap.find s.launches lid = some l0 → s.open = true →
    let l := s.moded l0
    s.eligible l = true → s.away lid = [] → s.heldBack lid l.prio = false → s.servedFirst lid l = false →
    s.placeable lid l0 = true → l.desc.prog ≠ 2 → s.spot l.place (s.nextTeam lid l) core = some t1 →
    ∃ t m, exec (.teamAdmission lid core) s = .next t ∧ AMap.find t.teams s.nextTid = some (l.marginModes t1) ∧
      t1.trcBuf = l.trcBuf ∧ (l0.started = 0 → l.trcBuf = s.host.trcBuf) ∧ (l0.started ≠ 0 → l = l0) ∧
      AMap.find t.launches lid = some m ∧ m.started = l.started + 1 ∧ m.trcBuf = l.trcBuf ∧ m.hwCores = l.hwCores ∧
      t.rr = l.q ∧ t.nextTid = s.nextTid + 1 ∧
      (∀ tid, tid ≠ s.nextTid → AMap.find t.teams tid = AMap.find s.teams tid)) ∧
  (∀ (s u : State) (lid core : Nat) (l0 : Launch), AMap.find s.launches lid = some l0 → s.open = true →
    let l := s.moded l0
    s.eligible l = true → s.away lid = [] → s.heldBack lid l.prio = false → s.servedFirst lid l = false →
    s.placeable lid l0 = true → l.desc.prog = 2 →
    State.startAll lid (l.total + 400) (s.spotsFrom l core) s = some u →
    let n := l.total - l.started
    ∃ t m, exec (.teamAdmission lid core) s = .next t ∧ t.rr = l.q ∧ t.nextTid = s.nextTid + n ∧
      AMap.find t.launches lid = some m ∧ m.started = l.total ∧
      (∀ k, k < n → ∃ tm, AMap.find t.teams (s.nextTid + k) = some tm ∧ tm.lid = lid ∧ tm.idx = l.started + k ∧
        tm.place ≠ none ∧ tm.trcBuf = l.trcBuf) ∧
      (∀ tid, tid < s.nextTid → AMap.find t.teams tid = AMap.find s.teams tid)) ∧
  (∀ (s : State) (lid core : Nat) (l0 : Launch), AMap.find s.launches lid = some l0 →
    s.eligible (s.moded l0) = false ∨ s.away lid ≠ [] ∨ s.heldBack lid l0.prio = true ∨
      s.servedFirst lid (s.moded l0) = true →
    exec (.teamAdmission lid core) s = .next s.tick) ∧
  (∀ (s : State) (lid core : Nat), s.open = false → exec (.teamAdmission lid core) s = .next s.tick) ∧
  (∀ (lid idx age n : Nat) (l : Launch) (dbg : Bool), l.args.length ≤ 64 →
    (n < l.desc.team ↔ ∃ g, AMap.find (teamStart lid l idx age dbg).groups n = some g) ∧
    ∀ g, AMap.find (teamStart lid l idx age dbg).groups n = some g →
      g.live = widthMask l.desc.width ∧ g.tvec = l.desc.handler ∧ (∀ r k, g.vReg r k = 0) ∧
      (∀ k, g.flag k = 0) ∧ g.meld = [] ∧ g.gstat = 0 ∧
      (∀ j, j < 64 → g.gReg false j = l.args.getD j 0) ∧
      ∃ f, g.frags = [(0, f)] ∧ f.pos.pc = l.desc.entry ∧ f.exec = widthMask l.desc.width) ∧
  (∀ (s : State) (tid : Nat) (tm : Team), AMap.find s.teams tid = some tm →
    (tm.groups.all (fun g => g.2.ended) = true → s.busyTeam tid tm = false →
      ∃ t, exec (.teamEnd tid) s = .next t ∧ AMap.find t.teams tid = none ∧
        ∀ l, AMap.find s.launches tm.lid = some l →
          AMap.find t.launches tm.lid = some { l with ended := l.ended + 1 }) ∧
    (tm.groups.all (fun g => g.2.ended) = false → exec (.teamEnd tid) s = .next s.tick)) ∧
  (∀ (s : State) (lid : Nat) (l : Launch), AMap.find s.launches lid = some l →
    (l.ended = l.total → ∃ t, exec (.launchComplete lid) s = .next t ∧ AMap.find t.launches lid = none ∧
      (∀ n, AMap.get 0 t.ectr n =
        if l.sen = true ∧ n = l.sctr then AMap.get 0 s.ectr n + l.sadd else AMap.get 0 s.ectr n)) ∧
    (l.ended ≠ l.total → exec (.launchComplete lid) s = .next s.tick))

/-- Pre-emption, resumption and a carve's effect (R205 to R209, R45, R178): a team is saved with all its state, its image
is in its frame, and it comes back with its state; a carve keeps what lies below the new ends. The bytes of the image
are laid out as log 39 says. That granted carves take effect in order, one in each step, and that one which takes nothing
from the L1 leaves it is the model's reading (log 23, DEDUCED). -/
def Obligations.TeamsMove : Prop :=
  (∀ (s : State) (tid : Nat) (tm : Team), AMap.find s.teams tid = some tm →
    let quiet : Prop := s.busyTeam tid tm = false ∧ (∀ c o, o ∈ (s.core c).ops → o.2.who.tid ≠ tid ∧ ∀ n, (tid, n) ∉ o.2.readers) ∧
      (∀ c p j, p ∈ (s.core c).pipes → j ∈ p.2 → j.who.tid ≠ tid) ∧ (∀ l, l ∈ s.mcast → l.2.who.tid ≠ tid)
    let frame := (tm.frame.filter (fun f => decide (tm.imageSize ≤ f.2))).orElse (fun _ => s.frameFor tm)
    (∀ f, tm.stopping = true → frame = some f → quiet → AMap.sorted s.teams = true →
      ∃ t u, exec (.preemptionSave tid) s = .next t ∧ AMap.find t.teams tid = some u ∧ u.place = none ∧
        u.stopping = false ∧ u.frame = some f ∧ u.groups = tm.groups ∧ u.views = tm.views ∧ u.bars = tm.bars ∧
        u.scr = tm.scr ∧ t.frames = s.frames.erase f ∧
        (∀ i b, (s.image tm)[i]? = some b → t.rd (f.1 + i) = b) ∧
        (∀ k, k < f.1 ∨ f.1 + (s.image tm).length ≤ k → t.rd k = s.rd k)) ∧
    (tm.stopping = true → quiet → frame = none → exec (.preemptionSave tid) s = .next s.tick) ∧
    (tm.stopping = false → exec (.preemptionSave tid) s = .next s.tick) ∧
    (∀ core t1, s.open = true → s.mayReturn tid tm = true →
      (∀ l, AMap.find s.launches tm.lid = some l → s.servedFirst tm.lid l = false) →
      s.spot (s.hostPlaced tm) tm core = some t1 →
      (∀ x, x ∈ tm.groups → x.2.halfLoop = none ∧ x.2.heldWake = false ∧ x.2.hostCmds = [] ∧
        ∀ f, f ∈ x.2.frags → f.2.held = none) →
      ∃ t u, exec (.teamResume tid core) s = .next t ∧ AMap.find t.teams tid = some u ∧ u.place = t1.place ∧
        t.frames = s.frames ++ tm.frame.toList ∧ u.scr = tm.scr ∧ u.views = tm.views ∧
        ∀ n g, AMap.find tm.groups n = some g → ∃ g', AMap.find u.groups n = some g' ∧ g'.v = g.v ∧ g'.k = g.k ∧
          g'.gstat = g.gstat ∧ SameScalars g g') ∧
    (∀ core, tm.place ≠ none ∨ s.open = false → exec (.teamResume tid core) s = .next s.tick) ∧
    (∀ r rest, tm.granted = r :: rest → quiet → tm.place ≠ none → s.carveRoom tid tm = true →
      ∃ t u, exec (.carveEffect tid) s = .next t ∧ AMap.find t.teams tid = some u ∧
        u.regs = (if r.regs = 0 then tm.regs else 8 * r.regs) ∧ u.scrGran = r.scr.getD tm.scrGran ∧
        u.granted = rest ∧
        (∀ o, u.scrRd o = if o < u.scrBytes ∧ o < tm.scrBytes then tm.scrRd o else 0) ∧
        (∀ c, (tm.carved r).using c ≤ tm.using c → (t.core c).l1 = (s.core c).l1) ∧
        ∀ n g, AMap.find tm.groups n = some g → ∃ g', AMap.find u.groups n = some g' ∧ g'.g = g.g ∧ g'.k = g.k ∧
          ∀ k l, l < 64 → g'.vReg k l = if k < u.regs ∧ k < tm.regs then g.vReg k l else 0) ∧
    (tm.granted = [] ∨ s.busyTeam tid tm = true → exec (.carveEffect tid) s = .next s.tick)) ∧
  (∀ s : State, (s.freeFrames = [] → exec .saveFrameFree s = .next s.tick) ∧
    (FramesEnough s → ∃ t, exec .saveFrameFree s = .next t ∧
      ∀ tid tm r, AMap.find s.teams tid = some tm → tm.stopping = false → s.mustLeave tm = some r →
        ∃ tm', AMap.find t.teams tid = some tm' ∧ tm'.stopping = true ∧ tm'.why = r))

/-- The host's registers of the queues, the fault ring, the interrupts, the trigger, the controllers, the event counters
and the launch contexts (R172, R173, R175, R230, R234). What a write of TRGCTL with another STATE than 1 does is the
model's choice (log 77, DESIGN CHOICE): 0 makes the trigger idle, and 2 and 3 leave it. -/
def Obligations.HostRegisters : Prop :=
  ∀ (s : State) (x : Word), s.answers = true →
    (∀ q, q < 64 →
      let u := s.queue q
      let tl := x.extractLsb' 0 32
      let n := bits x 12 8
      (∃ t, exec (.qtailWrite q x) s = .next t ∧ t.queue q =
        if u.dev = false ∧ (tl - u.head).toNat ≤ 2 ^ u.size then { u with tail := tl } else u) ∧
      (∃ t, exec (.qctlWrite q x) s = .next t ∧ t.queue q =
        if 4 ≤ n ∧ n ≤ 12 then { u with en := bit x 0, dev := bit x 1, qprio := bits x 6 4, size := n } else u) ∧
      (∃ t, exec (.qerrClear q x) s = .next t ∧ (t.queue q).err = (u.err && !bit x 0) ∧
        (t.queue q).head = u.head ∧ (t.queue q).tail = u.tail)) ∧
    (∃ t, exec (.hfqheadWrite x) s = .next t ∧ t.host = { s.host with hfqhead := x.extractLsb' 0 32 }) ∧
    (∃ t, exec (.intstatClear x) s = .next t ∧ t.host.intmask = s.host.intmask ∧
      ∀ n, n < 5 → t.intstat.getLsbD n = if n < 2 then s.intstat.getLsbD n
        else s.intstat.getLsbD n && !x.getLsbD n) ∧
    (∃ t, exec (.intmaskWrite x) s = .next t ∧ t.host = { s.host with intmask := x.extractLsb' 0 5 } ∧
      t.msix = s.msix ++ (List.range 5).filter (fun n =>
        s.intstat.getLsbD n && s.host.intmask.getLsbD n && !x.getLsbD n)) ∧
    (∀ r rest, s.hold = r :: rest → s.ringRoom = true → r.words.length = 8 →
      ∃ t, exec .faultRingAccept s = .next t ∧ t.host.hfqtail = s.host.hfqtail + 1 ∧
        t.hold = rest ++ s.waiting.take 1 ∧ t.waiting = s.waiting.drop 1 ∧
        ∀ j b, j < 8 → b < 8 →
          t.rd (hostKey (s.host.hfqbase.toNat + 64 * (s.host.hfqtail.toNat % 2 ^ s.host.hfqS)) + (8 * j + b)) =
            (r.words.getD j 0).extractLsb' (8 * b) 8) ∧
    (s.ringRoom = false → exec .faultRingAccept s = .next s.tick) ∧
    (∀ core, ∃ t, exec (.trgctlWrite core x) s = .next t ∧ (t.core core).trgStart = bits x 4 0 ∧
      (t.core core).trgStop = bits x 12 8 ∧ (bits x 14 13 = 1 → (t.core core).trgState = 1) ∧
      (bits x 14 13 = 0 → (t.core core).trgState = 0) ∧
      (2 ≤ bits x 14 13 → (t.core core).trgState = (s.core core).trgState)) ∧
    (s.host.fwprog = false → ∃ t, exec (.broadcastWrite 0x800 x) s = .next t ∧
      ∀ c, c < 16 → (t.ctrl c).ptbase = x ∧ (t.ctrl c).fmt = (s.ctrl c).fmt) ∧
    (s.host.fwprog = true → ∀ off, exec (.broadcastWrite off x) s = .next s.tick) ∧
    (∀ off, off % 8 = 0 → 0x10000 ≤ off → off < 0x18000 →
      ∃ t, exec (.registerWrite off x) s = .next t ∧ t.bar0 off = x ∧
        ∀ o, o % 8 = 0 → o ≠ off → 0x10000 ≤ o → o < 0x18000 → t.bar0 o = s.bar0 o) ∧
    (∀ q n k, q < 64 → n < 16 → k < 4 →
      let off := 0x50000 + 0x200 * q + 32 * n + 8 * k
      let w := s.win q n
      ∃ t, exec (.registerWrite off x) s = .next t ∧ t.bar0 off = x ∧
        t.win q n = (if k = 0 then { w with va := x } else if k = 1 then { w with len := x }
          else if k = 2 then { w with ia := x } else { w with ctl := x }) ∧
        ∀ o, o % 8 = 0 → o ≠ off → 0x50000 ≤ o → o < 0x58000 → t.bar0 o = s.bar0 o) ∧
    (∀ off, off % 8 ≠ 0 → exec (.registerWrite off x) s = .next s.tick ∧ s.bar0 off = 0)

/-- What comes back to a group (R32, R135, R136, R167, R195, R340): an operation's end, the lines of the scratchpad,
and the traps that waited. Where a deferred fault is due and taken, not at a barrier, and at a clause boundary with the
first word of the clause in `%tnext`, is the model's reading (log 18, DEDUCED). -/
def Obligations.Arrivals : Prop :=
  ((∀ (s : State) (core id k : Nat) (o : Op) (g : Group), AMap.find (s.core core).ops id = some o →
     o.gated = false → o.flag = some k → o.tag = none → s.grp? o.who = some g →
     ∃ t g', exec (.operationCompletion core id) s = .next t ∧ AMap.find (t.core core).ops id = none ∧
       t.grp? o.who = some g' ∧ g'.flag k = g.flag k - 1 ∧ (∀ j, j ≠ k → g'.flag j = g.flag j) ∧ g'.v = g.v ∧
       g'.gstat = g.gstat ∧ SameScalars g g') ∧
   (∀ (s : State) (tid line : Nat) (tm : Team), AMap.find s.teams tid = some tm →
     ((∀ c m, m ∈ (s.core c).cmds → m.2.lines.contains line = false) →
       exec (.scratchLineArrival tid line) s = .next s.tick) ∧
     (∀ core id c, tm.cores = [core] → (s.core core).cmds = [(id, c)] → c.who.tid = tid →
       c.lines.contains line = true →
       let fails (m : Move) : Prop := ∃ x, (s.drainFor core c).movePlan tm c m = .error x
       (s.cmdHeld core id c = true → exec (.scratchLineArrival tid line) s = .next s.tick) ∧
       ((∃ m, m ∈ c.moves ∧ (s.moveLines tm c m).contains line = true ∧ fails m) →
         exec (.scratchLineArrival tid line) s = .next s.tick) ∧
       ((∀ m, m ∈ c.moves → (s.moveLines tm c m).contains line = false) →
         exec (.scratchLineArrival tid line) s = .next s.tick) ∧
       (s.cmdHeld core id c = false → (∃ m, m ∈ c.moves ∧ (s.moveLines tm c m).contains line = true) →
         (∀ m, m ∈ c.moves → (s.moveLines tm c m).contains line = true → ¬fails m) →
         ∃ t tm', exec (.scratchLineArrival tid line) s = .next t ∧
         AMap.find t.teams tid = some tm' ∧ AMap.get false tm'.absent line = false))) ∧
   (∀ (s : State) (n : Nat) (l : McLine) (tm : Team), AMap.find s.mcast n = some l →
     AMap.find s.teams l.who.tid = some tm →
     (∀ o, o ∈ (s.core l.core).ops → o.2.gated = false) →
     let ready : Prop := tm.absentAt l.off 128 = false ∧ s.castBehind l = false ∧ s.castOk l = true
     (¬ready → exec (.multicastLineArrival n) s = .next s.tick) ∧
     (∀ tid r, ready → s.acceptor l.token l.off = some tid →
       AMap.find s.teams tid = some r →
       ∃ t r', exec (.multicastLineArrival n) s = .next t ∧ AMap.find t.mcast n = none ∧
         AMap.find t.teams tid = some r' ∧ AMap.get false r'.absent (l.off / 128) = false ∧
         ∀ o, r'.scrRd o = if l.off ≤ o ∧ o < l.off + 128 then tm.scrRd o else r.scrRd o) ∧
     (ready → s.acceptor l.token l.off = none →
       ∃ t, exec (.multicastLineArrival n) s = .next t ∧ AMap.find t.mcast n = none ∧
         ∀ k g, AMap.find tm.groups k = some g →
           t.grp? { tid := l.who.tid, grp := k, frag := 0 } = some { g with gstat := g.gstat ||| flXDROP })) ∧
   (∀ (s : State) (who : Sel) (e : Env), s.envOf who = some e → e.gr.hnd = none → e.gr.tvec ≠ 0 →
     e.gr.stepOn = false → Settled s e → e.gr.loops < 3 →
     (∀ d p, e.due = some d → s.nextPlace e = some p → ∃ t g f, exec (.deferredFaultTaken who) s = .next t ∧ t.grp? who = some g ∧
       g.tcause = BitVec.ofNat 64 d.info.cause.code ∧ g.tpc = d.info.pc ∧ g.tva = d.info.va ∧
       g.tlanes = d.info.lanes &&& e.gr.live ∧ g.tstat = d.info.stat ∧ g.tnext = p.pc ∧
       g.deferred = e.gr.deferred.erase d ∧ AMap.find g.frags who.frag = some f ∧ f.inH = true ∧
       f.pos = { pc := e.gr.tvec }) ∧
     (e.due = none ∨ s.nextPlace e = none → exec (.deferredFaultTaken who) s = .next s.tick) ∧
     (∀ ti word cont, e.fr.held = some (ti, word, cont) → e.tm.place ≠ none → e.tm.stopping = false →
       e.gr.ended = false → e.gr.halted = false → e.gr.stopped = false →
       ∃ t g, exec (.pendingTrapEntry who) s = .next t ∧ t.grp? who = some g ∧
         Entered e.gr g who.frag { e.fr with held := none } ti) ∧
     (e.fr.held = none → exec (.pendingTrapEntry who) s = .next s.tick))) ∧
  (∀ (s : State) (e : Env) (i : Instr) (k : Nat), s.grp? e.who = some e.gr → e.flagOf i = some k →
     (∃ g, (s.track e i [] [] none).grp? e.who = some g ∧ g.flag k = e.gr.flag k + 1 ∧
       (∀ j, j ≠ k → g.flag j = e.gr.flag j) ∧ g.v = e.gr.v ∧ g.g = e.gr.g) ∧
     (∀ core id o, AMap.find (s.core core).ops id = some o → o.gated = false → o.who = e.who → o.flag = some k →
       o.tag = none →
       ∃ g, (s.completeOp core id).grp? e.who = some g ∧ g.flag k = e.gr.flag k - 1 ∧
         (∀ j, j ≠ k → g.flag j = e.gr.flag j)))

/-- The host's debug access and wakes (R200, R223, R224, R226, R227, R231, R232, R235, R297): what the host writes of a
stopped or halted group is kept, a read shows it, and it takes effect as the group resumes; a comparator matches a word of
a group that it is bound to by the word's address, by the bytes that its lanes would access once they are translated, or
by the footprints of engine work, and the lowest set that is not for triggers only gives the stop cause; the word at which
a comparator stops its group is not tested at its next issue; a step back puts back what the newest word changed and what it left pending. Four
points are the model's reading (DEDUCED): that what the host has written and what a read shows of it waits for the resume
(log 29: R235 says only when it takes effect); that of a stopped team no other fragment's issue goes untested (log 55);
that a wake of a team which is resident elsewhere is held until it resumes (log 25); and that loads, atomics, jobs and
matrix loops complete before a step back, behind which later commands wait (log 64). -/
def Obligations.HostDebug : Prop :=
  (∀ (s : State) (core : Nat) (w : Sel) (tm : Team) (g : Group), s.answers = true →
    s.selected core = some (w, tm, g) → AMap.find s.teams w.tid = some tm →
    (g.stopped = true → g.hostCmds = [] →
      exec (.dbgcmdResume core) s = .next ((s.landHost w).modGrp w (fun g => { g with stopped := false })).tick) ∧
    (let queued (back : Bool) : Host.Outcome State Fault Refusal :=
       .next (s.modGrp w (fun g => { g with hostCmds := g.hostCmds ++ [back] })).tick
     (g.stopped = true ∨ g.halted = true → g.hostCmds ≠ [] → exec (.dbgcmdResume core) s = queued false) ∧
     (g.stopped = true → g.hostCmds ≠ [] ∨
        (∃ l, l ∈ (s.core core).loops ∧ l.2.who.tid = w.tid ∧ l.2.who.grp = w.grp) →
       exec (.dbgcmdStepBack core) s = queued true)) ∧
    (g.hostRec = [] → g.hostVec = [] → g.hostScr = [] → (∀ f, f ∈ g.frags → f.1 < g.nextKey) → s.landHost w = s) ∧
    (AMap.find tm.groups w.grp = some g → AMap.sorted g.hostVec = true → AMap.sorted g.hostScr = true →
      ∃ t g', AMap.find (s.landHost w).teams w.tid = some t ∧ AMap.find t.groups w.grp = some g' ∧
        (∀ r l, l < 64 → g'.vReg r l =
          (AMap.find g.hostVec (64 * r + l)).getD ((g.edited tm.desc.width).vReg r l)) ∧
        (∀ o, t.scrRd o = if o < tm.scrBytes then tm.hostByte g o else tm.scrRd o) ∧ g'.hostRec = [] ∧ g'.hostVec = [] ∧ g'.hostScr = []) ∧
    (g.stopped = false → g.hostCmds = [] → s.recordWaits w = true → exec (.dbgcmdResume core) s = .next s.tick) ∧
    (g.stopped = false → g.halted = false → exec (.dbgcmdResume core) s = .next s.tick) ∧
    (g.stopped = false → g.halted = true → g.hostCmds = [] → (g.edited tm.desc.width).tvec = 0 →
      exec (.dbgcmdResume core) s = .next s.tick) ∧
    (∀ ti word cont e, g.stopped = false → g.halted = true → g.hostCmds = [] → s.recordWaits w = false → g.haltRec = some (ti, word, cont) →
      g.tvec ≠ 0 → g.hnd = none → s.envOf { w with frag := g.haltKey } = some e →
      g.hostRec = [] → g.hostVec = [] → g.hostScr = [] → (∀ f, f ∈ g.frags → f.1 < g.nextKey) →
      ∃ t g', exec (.dbgcmdResume core) s = .next t ∧ t.grp? w = some g' ∧ g'.halted = false ∧
        g'.tcause = 0x184 ∧ g'.tpc = ti.pc ∧ ∃ f, AMap.find g'.frags g.haltKey = some f ∧ f.inH = true ∧
          f.pos = { pc := g.tvec }) ∧
    (g.stopped = false → exec (.dbgcmdStepBack core) s = .next s.tick) ∧
    (∀ us u, g.stopped = true → g.hostCmds = [] → tm.undo = us ++ [u] → u.grp = w.grp → u.bytes = [] →
      (∀ v, v ∈ tm.undo → v.opened = false) →
      (∀ o, o ∈ (s.core core).ops → o.2.of w = false ∧ o.2.readBy w = false) → s.flying core w = false →
      exec (.dbgcmdStepBack core) s = .next (s.modTeam w.tid (fun t =>
        { t.modGrp w.grp (fun g => (g.undo u).backAt u.frag) with
            undo := us, views := undoMap u.views u.viewsAfter t.views })).tick) ∧
    (∀ l, g.stopped = true ∨ g.halted = true → AMap.find s.launches tm.lid = some l →
      ∃ t, exec (.dbgcmdEndLaunch core) s = .next t ∧ AMap.find t.launches tm.lid = none ∧
        (t.queue l.q).err = true ∧ (t.queue l.q).reason = 6 ∧
        ∀ tid x, AMap.find s.teams tid = some x → x.lid = tm.lid → AMap.find t.teams tid = none) ∧
    (let y := (s.core core).dbgvsel
     let r := bits y 7 0
     let l := bits y 13 8
     g.stopped = true ∨ g.halted = true → r < tm.regs → l < tm.desc.width →
     (∃ t, exec (.dbgvdataAccess core none) s = .next t ∧ t.teams = s.teams ∧
       t.hostOut = s.hostOut ++ [leBytes 8 (g.hostLane r l).toNat]) ∧
     (∀ x, ∃ t g', exec (.dbgvdataAccess core (some x)) s = .next t ∧ t.grp? w = some g' ∧
       g'.v = g.v ∧ g'.hostLane r l = x.extractLsb' 0 32 ∧
       ∀ r' l', l' < 64 → (r', l') ≠ (r, l) → g'.hostLane r' l' = g.hostLane r' l')) ∧
    (let y := (s.core core).dbgsaddr
     let o := (tm.scrPart core).1 + y.toNat
     g.stopped = true ∨ g.halted = true → y.toNat + 8 ≤ (tm.scrPart core).2 →
     (∃ t, exec (.dbgsdataAccess core none) s = .next t ∧ t.teams = s.teams ∧ (t.core core).dbgsaddr = y + 8 ∧
       t.hostOut = s.hostOut ++ [(List.range 8).map (fun i => tm.hostByte g (o + i))]) ∧
     (∀ x, AMap.find tm.groups w.grp = some g → ∃ t tm' g', exec (.dbgsdataAccess core (some x)) s = .next t ∧
       AMap.find t.teams w.tid = some tm' ∧ AMap.find tm'.groups w.grp = some g' ∧ tm'.scr = tm.scr ∧
       ∀ k, tm'.hostByte g' k = if o ≤ k ∧ k < o + 8 then x.extractLsb' (8 * (k - o)) 8 else tm.hostByte g k))) ∧
  (∀ (g : Group) (width : Nat) (x : Word), (g.putRecord width 0x068 x).gstat = x.setWidth 8 ∧
    (g.putRecord width 0x070 x).tarm = x.setWidth 8 ∧ (g.putRecord width 0x080 x).evvec = x ∧
    (g.putRecord width 0x8C8 x).tvec = x ∧ (g.putRecord width 0x8D8 x).tpc = x ∧ (g.putRecord width 0x8E0 x).tva = x ∧
    (g.putRecord width 0x8F0 x).tstat = x ∧ (g.putRecord width 0x8F8 x).hsa = x ∧ (g.putRecord width 0xEC0 x).tnext = x ∧
    ∀ n, n < 64 → (g.putRecord width (0xCC0 + 8 * n) x).gReg false n = x) ∧
  (∀ (s : State) (e : Env) (i : Instr) (c : Cmpr),
    let kind := bits c.ctl 3 1
    let lo := c.lo.toNat % 2 ^ 52
    let bound : Prop := bit c.ctl 0 = true ∧ bits c.ctl 21 16 = e.slot ∧ (bit c.ctl 31 = true ∨ bits c.ctl 29 24 = e.who.grp)
    -- the byte at a VA has an IA, and that is in the range
    let inRange (a : Nat) : Prop := ∃ w, s.window e.tm.ctx a = some w ∧ bit w.ctl 3 = false ∧
      let p := w.ia.toNat + (a - w.va.toNat)
      lo ≤ p ∧ p < c.hi.toNat
    (s.cmprHits e i c = true ↔ bound ∧
      ((kind = 0 ∧ c.lo.toNat ≤ e.pc.toNat ∧ e.pc.toNat < c.hi.toNat) ∨
       (kind ≠ 0 ∧ ∃ x j, (x ∈ e.touches i ∨ x ∈ s.tableTouches e i) ∧ (x.kind = kind ∨ kind = 5) ∧ j < x.n ∧
         inRange (x.va.toNat + j)) ∨
       (kind = 4 ∧ (i.guard.lane = true ∨ e.groupGuard i.guard = true) ∧
         ∃ (y : Int × Int) (a : Nat), y ∈ e.engineFeet i ∧ y.1 ≤ a ∧ a < y.2 ∧ inRange a)))) ∧
  (∀ (e : Env) (i : Instr) (x : Touch),
    (∀ f k off, (i = .ld f ∧ k = 1 ∧ off = f.off15) ∨ (i = .st f ∧ k = 2 ∧ off = f.off15) ∨
        (i = .atom f ∧ k = 3 ∧ off = f.off10) ∨ (i = .acas f ∧ k = 3 ∧ off = f.off10) →
      (x ∈ e.touches i ↔ ∃ l, (e.active i.guard).getLsbD l = true ∧
        x = { kind := k, va := f.ea e off l, n := f.bytes })) ∧
    (∀ f k off, (i = .gld f ∧ k = 1 ∧ off = f.off15) ∨ (i = .gst f ∧ k = 2 ∧ off = f.off15) ∨
        (i = .gatom f ∧ k = 3 ∧ off = f.off10) →
      (x ∈ e.touches i ↔ e.groupGuard i.guard = true ∧ x = { kind := k, va := e.groupEa f off, n := f.bytes })) ∧
    (∀ f, i = .wld f ∨ i = .wst f →
      (x ∈ e.touches i ↔ ∃ v o l a, e.held f.w1.toNat = some (v, o) ∧ (e.active i.guard).getLsbD l = true ∧
        v.addr o (wIndex e f.ix l) = some a ∧ x = { kind := 4, va := a, n := v.esize })) ∧
    (∀ f, i = .cpa f →
      let n : Nat := 4 * 2 ^ (f.mode.extractLsb' 11 2).toNat
      let off (l : Nat) : Word := BitVec.ofInt 64 (if f.vop = 0xFF then 0
        else extOff (f.mode.getLsbD 10) (e.gr.vReg f.vop.toNat l) * (n : Int))
      (x ∈ e.touches i ↔ ∃ l, (e.active i.guard).getLsbD l = true ∧
        (x = { kind := 4, va := e.g (f.mode.extractLsb' 13 6).toNat + off l, n := n } ∨
          x = { kind := 4, va := e.g f.gp.toNat + off l, n := n }))) ∧
    ∀ (y : Int × Int) (ws : Nat → Prop),
      (∀ f, (i = .cpw f ∨ i = .cpg f ∨ i = .cpx f) → ∀ k, ws k ↔ k = f.w1.toNat ∨ k = f.w2.toNat) →
      (∀ f, i = .cpm f → ∀ k, ws k ↔ k = f.w2.toNat) →
      (∀ f, i = .mmlp f →
        let w := e.g (f.gp.toNat + 3)
        ∀ k, ws k ↔ k = f.w1.toNat ∨ k = f.w2.toNat ∨
          (f.mode.getLsbD 0 = true ∧ (k = bits w 15 12 ∨ (bit w 0 = true ∧ k = bits w 19 16)))) →
      ((∃ f, i = .cpw f ∨ i = .cpg f ∨ i = .cpx f ∨ i = .cpm f ∨ i = .mmlp f) →
        (y ∈ e.engineFeet i ↔ ∃ k v o, ws k ∧ e.held k = some (v, o) ∧ v.foot = some y))) ∧
  (∀ (ms : List (Nat × Cmpr)) (c : Cmpr) (cause : BitVec 9),
    (stopOf ms = some (c, cause) ↔ ∃ as n bs, ms = as ++ (n, c) :: bs ∧ (∀ x, x ∈ as → bit x.2.ctl 4 = true) ∧
      bit c.ctl 4 = false ∧
      cause = BitVec.ofNat 9 ((if bits c.ctl 3 1 = 0 then 0x140 else 0x150) + bits c.ctl 11 8)) ∧
    (stopOf ms = none ↔ ∀ x, x ∈ ms → bit x.2.ctl 4 = true)) ∧
  (∀ (s : State) (e : Env) (i : Instr) (go : State → State) (c : Cmpr) (cause : BitVec 9), s.envOf e.who = some e →
    e.gr.ended = false → e.tested = true → (s.core e.gr.core).cmps ≠ [] → stopOf (s.matches e i) = some (c, cause) →
    ∃ g, (s.attemptThen e i go).grp? e.who = some g ∧ g.stopped = true ∧ g.stopCause = cause ∧
      (g.againAt e.key).isSome = true) ∧
  (∀ (g : Group) (u : Undo) (k : Nat),
    let b := u.before
    let a := u.after
    AMap.find (g.undo u).v k =
      (if k ∈ u.vKeys ∨ AMap.find b.v k ≠ AMap.find a.v k then AMap.find b.v k else AMap.find g.v k) ∧
    (g.undo u).gstat.getLsbD k =
      (if b.gstat.getLsbD k = a.gstat.getLsbD k then g.gstat.getLsbD k else b.gstat.getLsbD k) ∧
    (k < 12 → (g.undo u).flag k = (if b.flag k = a.flag k then g.flag k else min (b.flag k) (g.flag k))) ∧
    (g.undo u).stepOn = (if b.stepOn = a.stepOn then g.stepOn else b.stepOn) ∧
    (b.hnd ≠ a.hnd → (g.undo u).hnd = b.hnd) ∧
    (b.hnd = a.hnd → (∀ h, g.hnd = some h → a.hnd ≠ none ∨ h.frag.key ≠ u.frag) → (g.undo u).hnd = g.hnd) ∧
    (∀ h, b.hnd = a.hnd → g.hnd = some h → a.hnd = none → h.frag.key = u.frag → (g.undo u).hnd = none) ∧
    (b.floor ≤ b.meld.length → g.floor ≤ g.meld.length → (g.undo u).floor ≤ (g.undo u).meld.length) ∧
    ∀ f h, b.splits = a.splits → b.frags.map (·.1) = a.frags.map (·.1) → AMap.find b.frags u.frag = some f →
      AMap.find g.frags u.frag = some h → ∃ h', AMap.find (g.undo u).frags u.frag = some h' ∧ h'.pos = f.pos ∧
        h'.exec = f.exec ∧ h'.re = f.re ∧ h'.inH = f.inH ∧ h'.held = f.held ∧ h'.stall = none) ∧
  (∀ (s : State) (core tid : Nat) (x : Word) (tm : Team) (g : Group), s.answers = true →
    s.teams.find? (fun t => t.2.lid == bits x 31 0 && t.2.idx == bits (s.core core).wakeid 31 0) = some (tid, tm) →
    let w : Sel := { tid := tid, grp := bits (s.core core).wakeid 37 32, frag := 0 }
    s.grp? w = some g →
    ∃ t, exec (.wake core x) s = .next t ∧ t.grp? w = some (if g.ended then g
      else if tm.onCore core then (if g.idle then { g with idle := false } else { g with wake := true })
      else { g with heldWake := true })) ∧
  (∀ (s : State) (core slice : Nat),
    (bit (s.core core).smp 0 = false → exec (.pcSample core slice) s = .next s.tick) ∧
    (bit (s.core core).smp 0 = true → s.groupsOn core slice ≠ [] → s.host.trcEn = false →
      ∃ t, exec (.pcSample core slice) s = .next t ∧ t.teams = s.teams ∧ t.mem = s.mem ∧ t.trace = s.trace ∧
        ((t.core core).slice slice).sample = nextGroup ((s.core core).slice slice).sample (s.groupsOn core slice)) ∧
    ∀ last gs, gs ≠ [] → ∃ w, w ∈ gs ∧ nextGroup last gs = some w)

/-- Start-up, attestation, alarms and provisioning (R238 to R241). These points are the model's reading: a start begins and
ends in two steps (log 8); after a failed start the phase is off, the third failed warm start begins the forced cold
start, which discards the compute state and clears the level of an alarm as any cold start does, and under an alarm of level 2 or 3 nothing but the start
and security block answers (log 28, DEDUCED); keys that a package installs serve from the next start on (log 28); SHA-512
is that of its standard (log 62, PRESUMED); what is open is free (log 6). -/
def Obligations.StartAndSecurity : Prop :=
  ∀ (s : State) (x : Word),
    let r := s.start
    let kept : Prop := r.run = none ∨ (∃ f, r.run = some (true, f)) ∨ r.warmFail < 2
    let begins (i : Instr) (cold : Bool) (n : Option Nat) : Prop :=
      ∃ t, exec i s = .next t ∧ Discarded t ∧ t.linkA = s.linkA ∧ t.linkB = s.linkB ∧
        t.start.run = some (cold, n) ∧ t.start.phase = (if cold then .cold else .warm) ∧
        t.start.alLevel = (if cold && r.keys.isSome then 0 else r.alLevel) ∧ t.start.served = none ∧
        (r.phase = .running → ∀ c, c < 384 → AMap.get 0 t.start.omax c = (s.core c).omax ∧
          AMap.get false t.start.hw c = (s.core c).hw) ∧
        (r.phase ≠ .running → t.start.omax = r.omax ∧ t.start.hw = r.hw)
    (∀ n, (r.run = none → r.phase = .off → begins (.powerOnStart n) true n) ∧
      (r.run = none → r.phase ≠ .off → exec (.powerOnStart n) s = .next s.tick) ∧
      begins (.stcmdCold n) true n ∧
      (Config.retained s.fresh = true → r.warmFail < 3 → begins (.stcmdWarm n) false n) ∧
      (Config.retained s.fresh = false ∨ 3 ≤ r.warmFail → begins (.stcmdWarm n) true n)) ∧
    (∀ cold f, r.run = some (cold, f) →
      let runs (k : Nat) : Prop := k = 1 ∨ k = 4 ∨ k = 6 ∨ k = 7 ∨ (cold = true ∧ (k = 2 ∨ k = 3 ∨ k = 5))
      let named (n : Option Nat) : Option Nat := f.orElse (fun _ => n)
      (∀ n, (∀ k, named n = some k → ¬runs k) → r.keys ≠ none → ∃ t, exec (.powerOnStart n) s = .next t ∧
        t.start.phase = .running ∧ t.start.served = r.keys ∧
        t.start.run = none ∧ t.start.warmFail = 0 ∧ t.start.coldFail = 0 ∧ t.teams = s.teams ∧
        ∀ c, c < 384 → t.core c = { s.core c with
          omax := if cold then (Config.marginSearch c).toNat else AMap.get 0 r.omax c
          hw := if cold then true else AMap.get false r.hw c }) ∧
      (∀ n k, (named n = some k ∧ runs k) ∨ ((∀ j, named n = some j → ¬runs j) ∧ r.keys = none ∧ k = 7) →
        ∃ t, exec (.powerOnStart n) s = .next t ∧ t.start.lastFail = k ∧ t.start.served = (if cold = false ∧
            2 ≤ r.warmFail then none else r.served) ∧
          (cold = true → t.start.coldFail = min (r.coldFail + 1) 3 ∧ t.start.run = none ∧
            t.start.phase = (if 3 ≤ r.coldFail + 1 then .safe else .off) ∧
            (3 ≤ r.coldFail + 1 → t.host.place = true ∧ t.host.fwprog = true ∧ t.host.fsmode = 0 ∧
              t.host.trcBuf = true ∧ ∀ c, (t.core c).ofs = 0 ∧ (t.core c).hofs = 0 ∧ (t.core c).hw = false)) ∧
          (cold = false → r.warmFail < 3 → t.start.warmFail = r.warmFail + 1 ∧
            (r.warmFail < 2 → t.start.run = none ∧ t.start.phase = .off) ∧
            (r.warmFail = 2 → t.start.run = some (true, none) ∧ t.start.phase = .cold ∧ Discarded t ∧
              t.start.alLevel = if r.keys = none then r.alLevel else 0)))) ∧
    (r.atBusy = true → exec (.atcmd x) s = .next s.tick) ∧
    (r.atBusy = false → x = 1 →
      exec (.atcmd x) s = .next { s with start := { r with atBusy := true, atDone := false } }.tick) ∧
    (r.atBusy = false → x ≠ 1 → ∃ t, exec (.atcmd x) s = .next t ∧ t.start.atBusy = false ∧
      (kept → t.start.alLevel = max r.alLevel 1 ∧ t.teams = s.teams) ∧ (¬kept → Discarded t)) ∧
    (r.atBusy = true → (∀ k, r.served = some k → ∃ t, exec .attestationDone s = .next t ∧ t.start.atBusy = false ∧
        t.start.atDone = true ∧ t.start.atOut.length = 64 + 512 ∧
        t.start.atOut = sha512 s.attested ++ Config.attestSign (Config.attestKey k) (sha512 s.attested)) ∧
      (r.served = none → ∃ t, exec .attestationDone s = .next t ∧ t.start.atBusy = false ∧
        (kept → t.start.atDone = r.atDone ∧ t.start.alLevel = max r.alLevel 1) ∧ (¬kept → Discarded t))) ∧
    (r.atBusy = false → exec .attestationDone s = .next s.tick) ∧
    (x = 1 → r.provBusy = false → r.phase = .safe ∨ r.alLevel = 3 → ∃ t, exec (.provcmd x) s = .next t ∧
      t.start = { r with provBusy := true, provDone := false, provFail := false }) ∧
    (x ≠ 1 ∨ r.provBusy = true ∨ (r.phase ≠ .safe ∧ r.alLevel ≠ 3) → exec (.provcmd x) s = .next s.tick) ∧
    (Config.provSerial r.package % 2 ^ 64 ≤ r.serial → r.provCheck ≠ 0) ∧
    (r.provBusy = true → ∃ t, exec .provisionDone s = .next t ∧ t.start.provBusy = false ∧
      (r.provCheck = 0 → t.start.provDone = true ∧ t.start.provReason = 0 ∧
        t.start.keys = some r.package ∧ t.start.served = r.served ∧ r.serial < t.start.serial ∧
        t.start.serial = Config.provSerial r.package % 2 ^ 64) ∧
      (r.provCheck ≠ 0 → t.start.provFail = true ∧ t.start.provReason = r.provCheck ∧ t.start.keys = r.keys)) ∧
    (r.provBusy = false → exec .provisionDone s = .next s.tick) ∧
    (∀ n, let stopped (t : State) (level : Nat) : Prop :=
        t.start.alSource = n % 256 ∧ t.intstat.getLsbD 2 = true ∧ t.open = false ∧
        (kept ∨ 3 ≤ level → t.start.alLevel = max r.alLevel level ∧ t.answers = false) ∧
        (∀ f, r.run = some (false, f) → 2 ≤ r.warmFail → t.start.run = some (true, none)) ∧
        (∀ f, r.run = some (true, f) → t.start.run = none ∧ t.start.coldFail = min (r.coldFail + 1) 3) ∧
        (¬kept → t.teams = [] ∧ t.launches = [] ∧ t.queues = []) ∧
        ∃ c : BitVec 9, (0x140 ≤ c ∧ c ≤ 0x15E ∨ c = 0x160 ∨ c = 0x170) ∧ (kept → ∀ tid tm k g, AMap.find s.teams tid = some tm → tm.place ≠ none → AMap.find tm.groups k = some g →
          t.grp? { tid := tid, grp := k, frag := 0 } =
            some (if g.ended then g else { g with stopped := true, stopCause := c }))
      (∃ t, exec (.alarmLevel3 n) s = .next t ∧ stopped t 3 ∧ t.start.keys = none) ∧
      (∃ t, exec (.alarmLevel2 n) s = .next t ∧ stopped t (if 2 ≤ r.alLevel then 3 else 2) ∧
        t.start.keys = if 2 ≤ r.alLevel then none else r.keys))

/-- What reaches memory from outside (R129, R157, R233, R236), and the format apertures (R86 to R88). At the switch of a
page move the frame takes every byte as the page then holds it, so that nothing written after the copy is lost, a store
still in flight to the page goes to the frame, and no byte beside the frame and the entry changes. A byte of an aperture
is that of the line which its home slice holds, or else of the element that its packed byte and its scale byte stand for,
rounded once; a write-back encodes each block of 32 elements under the smallest sufficient scale, with the residual passed
from element to element, and counts a block that saturates. That a held line gives the old values and a fill the new ones
is the model's choice (log 41, DESIGN CHOICE). -/
def Obligations.HostMemory : Prop :=
  (∀ (s : State) (a : Nat),
    (∀ y, AMap.find s.aper (a / 128) = some y → s.rdKey (aperBase + a) = y.data.extractLsb' (8 * (a % 128)) 8) ∧
    (∀ (f : FmtWin) (b : B8), AMap.find s.aper (a / 128) = none → s.aperture a = some f →
      b8OfCode (bits f.ctl 15 8) = some b →
      let wf := if f.wide then f32 else e8m7
      let size := if f.wide then 4 else 2
      let o := a - f.apb.toNat
      let scale := (s.rdIa (f.scb.toNat + o / size / 32)).toNat
      let v := b.decode (s.rdIa (f.pkb.toNat + o / size)).toNat
      ∃ (code : Nat) (fl : Flags), s.rdKey (aperBase + a) = BitVec.ofNat 8 (code / 256 ^ (o % size)) ∧
        (scale = 255 ∨ v = .nan → code = if f.wide then 0x7FC00000 else 0x7FC0) ∧
        (∀ n, scale ≠ 255 → v = .inf n → wf.decode code = .inf n) ∧
        (∀ n m q, scale ≠ 255 → v = .fin n m q →
          (m = 0 → ∃ z, wf.decode code = .fin n 0 z) ∧
          (m ≠ 0 → RoundsTo wf false .rne ((FVal.fin n m q).dy.scale (scale - 127)) (code, fl))))) ∧
  (∀ (s : State) (line : Nat) (y : AperLine) (b : B8), AMap.find s.aper line = some y → y.dirty = true →
    b8OfCode (bits y.win.ctl 15 8) = some b →
    let f := y.win
    let size := if f.wide then 4 else 2
    let first := (128 * line - f.apb.toNat) / size
    let put (u : State) (a : Nat) (v : Byte) : State := match u.devKey a with | some k => u.wrStack k v | none => u
    ∃ c : Nat → Nat → State,
      c 0 0 = { s with aper := AMap.insert s.aper line { y with dirty := false } } ∧
      exec (.apertureWriteback line) s = .next (c (4 / size) 0).tick ∧
      ∀ k, k < 4 / size →
        let e0 := first + 32 * k
        let val (j : Nat) : FVal :=
          (if f.wide then f32 else e8m7).decode (y.data.extractLsb' (8 * size * (32 * k + j)) (8 * size)).toNat
        let top := (b.decode ((if b.uns then 0xFE else 0x7F) - (if b.inf then 1 else 0))).dy
        let within (z : Int) : Prop := ∀ j n m q, j < 32 → val j = .fin n m q →
          Dy.le { m := m, e := q } (top.scale z) = true
        ∃ (z : Int) (res : Nat → Dy),
          -127 ≤ z ∧ z ≤ 127 ∧ (∀ w, -127 ≤ w → w < z → ¬within w) ∧ (z = 127 ∨ within z) ∧ res 0 = Dy.zero ∧
          (∀ j, j < 32 →
            let r := narrowOne b true true z (res j) (val j)
            c k (j + 1) = put (c k j) (f.pkb.toNat + e0 + j) (BitVec.ofNat 8 r.1.code) ∧ res (j + 1) = r.2) ∧
          let u := put (c k 32) (f.scb.toNat + e0 / 32) (BitVec.ofInt 8 (z + 127))
          let h := homeCtrl ((f.apb.toNat + e0 * size) / 128)
          let full : Prop := ∃ j, j < 32 ∧ (narrowOne b true true z (res j) (val j)).1.fl &&& flSAT ≠ 0
          (¬full → c (k + 1) 0 = u) ∧
          (full → c (k + 1) 0 = { u with ctrls := AMap.set {} u.ctrls h { u.ctrl h with
            satc := if (u.ctrl h).satc = BitVec.allOnes 64 then (u.ctrl h).satc else (u.ctrl h).satc + 1 } })) ∧
  (∀ (s : State) (k : Nat) (x : Byte), (s.wrStack k x).teams = s.teams ∧
    ∀ j, (s.wrStack k x).rd j = if j = k then x else s.rd j) ∧
  ∀ (s : State) (linkB : Bool) (ia n : Nat) (x : Byte),
    (s.answers = true → s.linkUp linkB = true → n ≠ 0 → ia + n ≤ 2 ^ 40 →
      (∀ bs, s.iaRead ia n = some bs → s.iaBad ia n = false → ∃ t, exec (.hostBar2Read linkB ia n) s = .next t ∧
        t.hostOut = s.hostOut ++ [bs] ∧ t.poison = s.poison ∧ t.mem = s.mem ∧ t.teams = s.teams) ∧
      (∀ bs, s.iaRead ia n = some bs → s.iaBad ia n = true → ia % 128 + n ≤ 128 →
        ∃ t, exec (.hostBar2Read linkB ia n) s = .next t ∧ t.poison = s.poison ++ [s.hostOut.length] ∧
          t.intstat.getLsbD 4 = true ∧ t.mem = s.mem) ∧
      (s.iaRead ia n = none → ia % 128 + n ≤ 128 → ∃ t, exec (.hostBar2Read linkB ia n) s = .next t ∧
        t.hostOut = s.hostOut ++ [List.replicate n 0xFF] ∧ t.intstat.getLsbD 4 = true ∧ t.mem = s.mem)) ∧
    (s.answers = true → s.linkUp linkB = true → ia + 1 ≤ 2 ^ 40 →
      (∀ k, s.iaKey true ia = some k → k < aperBase → ∃ t, exec (.hostBar2Write linkB ia [x]) s = .next t ∧
        ∀ j, t.rd j = if j = k then x else s.rd j) ∧
      (s.iaKey true ia = none → ∃ t, exec (.hostBar2Write linkB ia [x]) s = .next t ∧ t.mem = s.mem ∧
        t.intstat.getLsbD 4 = true)) ∧
    (s.answers = true → s.linkUp linkB = true → ia + n ≤ 2 ^ 31 →
      (s.bad = [] → ∃ t, exec (.hostBar4Access linkB ia n none) s = .next t ∧ t.mem = s.mem ∧
        t.hostOut = s.hostOut ++ [(List.range n).map (fun i =>
          if vaultAt (ia + i) then s.rd (2 ^ 48 + ia + i) else 0)]) ∧
      (n = 1 → ∃ t, exec (.hostBar4Access linkB ia n (some [x])) s = .next t ∧
        ∀ j, t.rd j = if vaultAt ia = true ∧ j = 2 ^ 48 + ia then x else s.rd j)) ∧
    (s.answers = false ∨ s.linkUp linkB = false → exec (.hostBar2Read linkB ia n) s = .next s.tick ∧
      exec (.hostBar2Write linkB ia [x]) s = .next s.tick ∧
      ∀ d, exec (.hostBar4Access linkB ia n d) s = .next s.tick) ∧
    (∀ up, ∃ t, exec (.linkStateChange linkB up) s = .next t ∧ t.linkUp linkB = up ∧
      t.linkUp (!linkB) = s.linkUp (!linkB)) ∧
    (∀ port, let p := AMap.get 0 s.peers port
      (s.portUp port = true → n = 1 ∨ n = 2 ∨ n = 4 ∨ n = 8 → ia + n ≤ 2 ^ 40 →
        (∀ bs, s.iaRead ia n = some bs → exec (.peerAccessArrival port ia n none) s = .next (s.toHost bs).tick) ∧
        (∀ bs, exec (.peerAccessArrival port ia n (some bs)) s = .next (s.iaWrite ia (bs.take n)).tick)) ∧
      (s.portUp port = false → ∀ d, exec (.peerAccessArrival port ia n d) s = .next s.tick) ∧
      (port < 16 → bit p 0 = true → ∃ t, exec (.peerPortStateChange port true) s = .next t ∧ t.portUp port = true) ∧
      (port < 16 → ∃ t, exec (.peerPortStateChange port false) s = .next t ∧ t.portUp port = false) ∧
      (bit p 0 = false → exec (.peerPortStateChange port true) s = .next s.tick)) ∧
    (∀ (frame e : Word) (ea pa m : Nat), s.move = none → s.leafAt ia = some (ea, e, pa, m) →
      frame.toNat % m = 0 → frame.toNat < 2 ^ 40 → frame.toNat ≠ pa →
      ∃ t, exec (.pageMoveCopy ia frame) s = .next t ∧ t.move = some { ia := ia, frame := frame } ∧
        (∀ o, o < m → t.rd (frame.toNat + o) = s.rd (pa + o)) ∧
        ∀ j, j < frame.toNat ∨ frame.toNat + m ≤ j → t.rd j = s.rd j) ∧
    (s.move = none → exec .pageMoveSwitch s = .next s.tick) ∧
    (∀ (mv : PageMove) (e : Word) (ea pa m : Nat), s.move = some mv → s.leafAt mv.ia = some (ea, e, pa, m) →
      let frame := mv.frame.toNat
      ∃ t, exec .pageMoveSwitch s = .next t ∧ t.move = none ∧
        (∀ j, j < 8 → t.rd (ea + j) =
          ((e &&& ~~~0xFFFFFF0000#64) ||| (mv.frame &&& 0xFFFFFF0000#64)).extractLsb' (8 * j) 8) ∧
        (∀ j, j < ea ∨ ea + 8 ≤ j →
          (∀ o, o < m → j = frame + o → t.rd j = s.rd (pa + o)) ∧ (j < frame ∨ frame + m ≤ j → t.rd j = s.rd j)) ∧
        (∀ c id o, AMap.find (s.core c).ops id = some o → ∃ o', AMap.find (t.core c).ops id = some o' ∧
          o'.gated = o.gated ∧ o'.bytes = o.bytes.map (fun b =>
            if b.scr = false ∧ b.ia / m = mv.ia / m ∧ pa ≤ b.key ∧ b.key < pa + m then
              { b with key := frame + (b.key - pa) }
            else b))) ∧
    (∀ line, (∀ y, AMap.find s.aper line = some y → y.dirty = true → ∃ t, exec (.apertureWriteback line) s = .next t ∧
        AMap.find t.aper line = some { y with dirty := false } ∧ ∀ k, k ≠ line → AMap.find t.aper k = AMap.find s.aper k) ∧
      (∀ y, AMap.find s.aper line = some y → y.dirty = false → exec (.apertureWriteback line) s = .next s.tick))

/-! Encoding, fetching, and the state at reset. -/

/-- Words written out from the encodings of R246 to R254 decode to the instructions that they stand for (R245). -/
def Obligations.DecodedWords : Prop :=
  decode false 0x21000C0030002000 = .instr (.vbc
    { guard := 0, d := 3, a := 0, b := 12, c := 0, ty := 0, bg := true, cg := false, mod := 0, sat := false,
      fs := false, sub := 0 }) ∧
  decode true 0x303010040814040C = .instr (.vaddMelded
    { ena := true, enb := true, ty2 := 0, da := 4, aa := 1, ba := 2, db := 5, ab := 1, bb := 3, cx := 0 }) ∧
  decode false 0x70001418450B0010 = .instr (.ld
    { guard := 0, data := 5, vo := 6, gb := 4, size := 2, scale := 2, sg := false, ord := 1, scope := 3, fs := false,
      off := 16 }) ∧
  decode false 0x2040304000000002 = .instr (.gplog
    { guard := 0, d := 3, a := 1, sub := 0, i := false, w := false, b := 2 }) ∧
  decode false 0x03C3FFFFFE000009 = .instr (.mrep { guard := 0, off := -2, aux := 9 }) ∧
  decode false 0x9200C80000000000 = .instr (.cpw
    { guard := 0, w1 := 3, w2 := 2, bar := 0, gp := 0, vop := 0, fs := false, sub := 0, mode := 0 }) ∧
  decode false 0xF10008B000000000 = .instr (.srd { guard := 0, sys := 2, g := 11, imm := 0 }) ∧
  decode false 0 = .bad .illegalOpc ∧ decode false 0xA34003FC00000000 = .bad .headerPos ∧
  decode true 0x20C0024400000000 = .bad .meldOp ∧ decode false 0x20C0024400000010 = .bad .reservedField

/-- Every well-formed word is decoded as what it encodes, with every operand, in a clause of its own kind
(R243 to R254). -/
def Obligations.DecodeEncode : Prop :=
  ∀ (i : Instr) (w : Word), i.WellFormed → encode i = some w →
    decode i.melded w = .instr i ∧ isHeader w = false ∧ (opcOf w).toNat = i.opc ∧
    (i.melded = false → decodeTableWord 64 w.toNat = some i)

/-- A step runs the decoded instruction (R30, R182, R194): the first candidate of a slice, inside a clause, issues the
word at its program counter, which is read at the point of coherence (log 76, DESIGN CHOICE). -/
def Obligations.StepRuns : Prop :=
  ∀ (s t : State) (core slice : Nat) (rest : List Turn) (w : Sel) (ws : List Sel) (e : Env) (x : Word) (i : Instr),
    s.agenda = .issue core slice :: rest →
    let s1 := { s with agenda := rest }
    let c := s1.cycle core slice
    s1.issues core slice = true → s1.entering core slice = none → s1.candidates core slice = w :: ws →
    c.envOf w = some e → e.due = none → e.fr.pos.cl.left ≠ 0 → c.fetch e e.pc = .ok x →
    decode e.fr.pos.cl.meld x = .instr i →
    exec i { c with cur := some w } = .next t → stillWaits c t w = false →
    step s = .next (t.unsquash c core slice w)

/-- The memory's canonical form, and what it is worth: equal reads are equal memories (log 1). -/
def Obligations.MemoryForm : Prop :=
  (∀ s t : State, Memory.wf s.mem = true → step s = .next t → Memory.wf t.mem = true) ∧
  (∀ s t : State, Memory.wf s.mem = true → Memory.wf t.mem = true → (∀ k, s.rd k = t.rd k) → s.mem = t.mem)

/-- The machine at reset (R234, R235, R184, R186, R216): no team, no launch, no queue enabled, and the registers named
below at the values of their tables. The other clauses are the model's choice: that the phase of the start block is off
(log 2, DESIGN CHOICE), and that memory lists nothing, so that every byte of it reads 0 (log 1, DESIGN CHOICE). -/
def Obligations.ResetState : Prop :=
  Memory.wf State.reset.mem = true ∧ State.reset.teams = [] ∧ State.reset.launches = [] ∧
  State.reset.start.phase = .off ∧ State.reset.host.intmask = 0x1F ∧
  (∀ q, (State.reset.queue q).en = false ∧ (State.reset.queue q).head = 0 ∧ (State.reset.queue q).tail = 0) ∧
  (∀ c, (State.reset.core c).replim = 3 ∧ (State.reset.core c).cursoft = 0xFFFFFFFF ∧
    ∀ n, ((State.reset.core c).slice n).ratio = 8) ∧
  (∀ k, State.reset.rd k = 0)
end

