-- ==== Sys2Proof/Laws/AMap.lean ====
section
/-! SUPPORT. Reading after writing, and the canonical form, of sorted association lists. -/

namespace Sys2Proof.Machine

variable {α : Type}

@[simp] theorem AMap.find_nil (k : Nat) : AMap.find ([] : AMap α) k = none := rfl

theorem AMap.find_insert (m : AMap α) (k : Nat) (x : α) (j : Nat) :
    AMap.find (AMap.insert m k x) j = if j = k then some x else AMap.find m j := by
  induction m with
  | nil => simp [AMap.insert, AMap.find, eq_comm]
  | cons e m ih =>
    obtain ⟨i, y⟩ := e
    simp only [AMap.insert]
    split
    · simp only [AMap.find, eq_comm]
    · split
      · subst i
        simp only [AMap.find, eq_comm]
        split <;> simp_all
      · simp only [AMap.find, ih]
        by_cases h : i = j
        · simp_all
        · simp_all

theorem AMap.find_erase (m : AMap α) (k j : Nat) :
    AMap.find (AMap.erase m k) j = if j = k then none else AMap.find m j := by
  induction m with
  | nil => simp [AMap.erase, AMap.find]
  | cons e m ih =>
    obtain ⟨i, y⟩ := e
    simp only [AMap.erase]
    split
    · subst i
      simp only [ih, AMap.find]
      split
      · rfl
      · simp_all [eq_comm]
    · simp only [AMap.find, ih]
      by_cases h : i = j
      · simp_all
      · simp_all

theorem AMap.find_modify (m : AMap α) (k : Nat) (f : α → α) (j : Nat) :
    AMap.find (AMap.modify m k f) j = if j = k then (AMap.find m j).map f else AMap.find m j := by
  induction m with
  | nil => simp [AMap.modify, AMap.find]
  | cons e m ih =>
    obtain ⟨i, y⟩ := e
    simp only [AMap.modify]
    split
    · subst i
      simp only [AMap.find, eq_comm]
      split <;> simp_all
    · simp only [AMap.find, ih]
      by_cases h : i = j
      · simp_all
      · simp_all

/-- Reading after writing, with a default. -/
theorem AMap.get_set [DecidableEq α] (d : α) (m : AMap α) (k : Nat) (x : α) (j : Nat) :
    AMap.get d (AMap.set d m k x) j = if j = k then x else AMap.get d m j := by
  unfold AMap.set AMap.get
  split
  · rw [AMap.find_erase]; split <;> simp_all
  · rw [AMap.find_insert]; split <;> simp_all

theorem AMap.modify_congr (m : AMap α) (k : Nat) (f g : α → α)
    (h : ∀ x, AMap.find m k = some x → f x = g x) : AMap.modify m k f = AMap.modify m k g := by
  induction m with
  | nil => rfl
  | cons e m ih =>
    obtain ⟨i, y⟩ := e
    simp only [AMap.modify]
    by_cases hi : i = k
    · simp only [hi, if_true]
      rw [h y (by simp [AMap.find, hi])]
    · simp only [hi, if_false]
      rw [ih (fun x hx => h x (by simpa [AMap.find, hi] using hx))]

theorem AMap.modify_modify (m : AMap α) (k : Nat) (f g : α → α) :
    AMap.modify (AMap.modify m k f) k g = AMap.modify m k (fun x => g (f x)) := by
  induction m with
  | nil => rfl
  | cons e m ih =>
    obtain ⟨i, y⟩ := e
    simp only [AMap.modify]
    by_cases hi : i = k
    · simp [hi, AMap.modify]
    · simp [hi, AMap.modify, ih]

/-! The canonical form. -/

theorem AMap.mem_insert {m : AMap α} {k : Nat} {x : α} {e : Nat × α} (h : e ∈ AMap.insert m k x) :
    e = (k, x) ∨ e ∈ m := by
  induction m with
  | nil => simpa [AMap.insert] using h
  | cons c m ih =>
    obtain ⟨i, y⟩ := c
    simp only [AMap.insert] at h
    split at h
    · simpa using h
    · split at h
      · rcases List.mem_cons.mp h with h | h
        · exact .inl h
        · exact .inr (List.mem_cons_of_mem _ h)
      · rcases List.mem_cons.mp h with h | h
        · exact .inr (h ▸ List.mem_cons_self ..)
        · rcases ih h with h | h
          · exact .inl h
          · exact .inr (List.mem_cons_of_mem _ h)

theorem AMap.mem_erase {m : AMap α} {k : Nat} {e : Nat × α} (h : e ∈ AMap.erase m k) : e ∈ m := by
  induction m with
  | nil => simp [AMap.erase] at h
  | cons c m ih =>
    obtain ⟨i, y⟩ := c
    simp only [AMap.erase] at h
    split at h
    · exact List.mem_cons_of_mem _ (ih h)
    · rcases List.mem_cons.mp h with h | h
      · exact h ▸ List.mem_cons_self ..
      · exact List.mem_cons_of_mem _ (ih h)

theorem AMap.sorted_insert {m : AMap α} (k : Nat) (x : α) (h : AMap.sorted m = true) :
    AMap.sorted (AMap.insert m k x) = true := by
  induction m with
  | nil => rfl
  | cons c m ih =>
    obtain ⟨i, y⟩ := c
    simp only [AMap.sorted, Bool.and_eq_true, List.all_eq_true, decide_eq_true_eq] at h
    simp only [AMap.insert]
    split
    · rename_i hk
      simp only [AMap.sorted, Bool.and_eq_true, List.all_eq_true, decide_eq_true_eq]
      refine ⟨?_, h.1, h.2⟩
      intro e he
      rcases List.mem_cons.mp he with he | he
      · simpa [he] using hk
      · exact Nat.lt_trans hk (h.1 e he)
    · split
      · rename_i hk
        subst hk
        simp only [AMap.sorted, Bool.and_eq_true, List.all_eq_true, decide_eq_true_eq]
        exact ⟨h.1, h.2⟩
      · simp only [AMap.sorted, Bool.and_eq_true, List.all_eq_true, decide_eq_true_eq]
        refine ⟨?_, ih h.2⟩
        intro e he
        rcases AMap.mem_insert he with he | he
        · subst he; simp only; omega
        · exact h.1 e he

theorem AMap.sorted_erase {m : AMap α} (k : Nat) (h : AMap.sorted m = true) :
    AMap.sorted (AMap.erase m k) = true := by
  induction m with
  | nil => rfl
  | cons c m ih =>
    obtain ⟨i, y⟩ := c
    simp only [AMap.sorted, Bool.and_eq_true, List.all_eq_true, decide_eq_true_eq] at h
    simp only [AMap.erase]
    split
    · exact ih h.2
    · simp only [AMap.sorted, Bool.and_eq_true, List.all_eq_true, decide_eq_true_eq]
      exact ⟨fun e he => h.1 e (AMap.mem_erase he), ih h.2⟩

theorem AMap.sorted_set [DecidableEq α] {d : α} {m : AMap α} (k : Nat) (x : α) (h : AMap.sorted m = true) :
    AMap.sorted (AMap.set d m k x) = true := by
  unfold AMap.set; split
  · exact AMap.sorted_erase k h
  · exact AMap.sorted_insert k x h

theorem AMap.noDefault_set [DecidableEq α] {d : α} {m : AMap α} (k : Nat) (x : α)
    (h : AMap.noDefault d m = true) : AMap.noDefault d (AMap.set d m k x) = true := by
  simp only [AMap.noDefault, List.all_eq_true, decide_eq_true_eq] at h ⊢
  intro e he
  unfold AMap.set at he
  split at he
  · exact h e (AMap.mem_erase he)
  · rcases AMap.mem_insert he with he | he
    · subst he; assumption
    · exact h e he

theorem AMap.sorted_filter {m : AMap α} (p : Nat × α → Bool) (h : AMap.sorted m = true) :
    AMap.sorted (m.filter p) = true := by
  induction m with
  | nil => rfl
  | cons c m ih =>
    obtain ⟨i, y⟩ := c
    simp only [AMap.sorted, Bool.and_eq_true, List.all_eq_true, decide_eq_true_eq] at h
    simp only [List.filter_cons]
    split
    · simp only [AMap.sorted, Bool.and_eq_true, List.all_eq_true, decide_eq_true_eq]
      exact ⟨fun e he => h.1 e (List.mem_filter.mp he).1, ih h.2⟩
    · exact ih h.2

theorem AMap.noDefault_filter [DecidableEq α] {d : α} {m : AMap α} (p : Nat × α → Bool)
    (h : AMap.noDefault d m = true) : AMap.noDefault d (m.filter p) = true := by
  simp only [AMap.noDefault, List.all_eq_true, decide_eq_true_eq] at h ⊢
  exact fun e he => h e (List.mem_filter.mp he).1

end Sys2Proof.Machine
end

