-- ==== Sys2Proof/Laws/State.lean ====
section
/-! SUPPORT. One lemma per field per update, so that no proof unfolds a record update: what an access path leaves
as it was. -/

namespace Sys2Proof.Machine

/-! The machine. -/

@[simp] theorem State.modCore_mem (s : State) (c : Nat) (f : Core → Core) : (s.modCore c f).mem = s.mem := rfl
@[simp] theorem State.modCore_l2 (s : State) (c : Nat) (f : Core → Core) : (s.modCore c f).l2 = s.l2 := rfl
@[simp] theorem State.modCore_bad (s : State) (c : Nat) (f : Core → Core) : (s.modCore c f).bad = s.bad := rfl
@[simp] theorem State.modCore_aper (s : State) (c : Nat) (f : Core → Core) : (s.modCore c f).aper = s.aper := rfl
@[simp] theorem State.modCore_teams (s : State) (c : Nat) (f : Core → Core) : (s.modCore c f).teams = s.teams := rfl
@[simp] theorem State.modCore_launches (s : State) (c : Nat) (f : Core → Core) : (s.modCore c f).launches = s.launches := rfl
@[simp] theorem State.modCore_queues (s : State) (c : Nat) (f : Core → Core) : (s.modCore c f).queues = s.queues := rfl
@[simp] theorem State.modCore_rr (s : State) (c : Nat) (f : Core → Core) : (s.modCore c f).rr = s.rr := rfl
@[simp] theorem State.modCore_ectr (s : State) (c : Nat) (f : Core → Core) : (s.modCore c f).ectr = s.ectr := rfl
@[simp] theorem State.modCore_ctxs (s : State) (c : Nat) (f : Core → Core) : (s.modCore c f).ctxs = s.ctxs := rfl
@[simp] theorem State.modCore_ctrls (s : State) (c : Nat) (f : Core → Core) : (s.modCore c f).ctrls = s.ctrls := rfl
@[simp] theorem State.modCore_stale (s : State) (c : Nat) (f : Core → Core) : (s.modCore c f).stale = s.stale := rfl
@[simp] theorem State.modCore_pool (s : State) (c : Nat) (f : Core → Core) : (s.modCore c f).pool = s.pool := rfl
@[simp] theorem State.modCore_frames (s : State) (c : Nat) (f : Core → Core) : (s.modCore c f).frames = s.frames := rfl
@[simp] theorem State.modCore_move (s : State) (c : Nat) (f : Core → Core) : (s.modCore c f).move = s.move := rfl
@[simp] theorem State.modCore_mcast (s : State) (c : Nat) (f : Core → Core) : (s.modCore c f).mcast = s.mcast := rfl
@[simp] theorem State.modCore_host (s : State) (c : Nat) (f : Core → Core) : (s.modCore c f).host = s.host := rfl
@[simp] theorem State.modCore_start (s : State) (c : Nat) (f : Core → Core) : (s.modCore c f).start = s.start := rfl
@[simp] theorem State.modCore_hold (s : State) (c : Nat) (f : Core → Core) : (s.modCore c f).hold = s.hold := rfl
@[simp] theorem State.modCore_waiting (s : State) (c : Nat) (f : Core → Core) : (s.modCore c f).waiting = s.waiting := rfl
@[simp] theorem State.modCore_trace (s : State) (c : Nat) (f : Core → Core) : (s.modCore c f).trace = s.trace := rfl
@[simp] theorem State.modCore_dies (s : State) (c : Nat) (f : Core → Core) : (s.modCore c f).dies = s.dies := rfl
@[simp] theorem State.modCore_peers (s : State) (c : Nat) (f : Core → Core) : (s.modCore c f).peers = s.peers := rfl
@[simp] theorem State.modCore_linkA (s : State) (c : Nat) (f : Core → Core) : (s.modCore c f).linkA = s.linkA := rfl
@[simp] theorem State.modCore_linkB (s : State) (c : Nat) (f : Core → Core) : (s.modCore c f).linkB = s.linkB := rfl
@[simp] theorem State.modCore_msix (s : State) (c : Nat) (f : Core → Core) : (s.modCore c f).msix = s.msix := rfl
@[simp] theorem State.modCore_hostOut (s : State) (c : Nat) (f : Core → Core) : (s.modCore c f).hostOut = s.hostOut := rfl
@[simp] theorem State.modCore_poison (s : State) (c : Nat) (f : Core → Core) : (s.modCore c f).poison = s.poison := rfl
@[simp] theorem State.modCore_agenda (s : State) (c : Nat) (f : Core → Core) : (s.modCore c f).agenda = s.agenda := rfl
@[simp] theorem State.modCore_cur (s : State) (c : Nat) (f : Core → Core) : (s.modCore c f).cur = s.cur := rfl
@[simp] theorem State.modCore_fresh (s : State) (c : Nat) (f : Core → Core) : (s.modCore c f).fresh = s.fresh := rfl
@[simp] theorem State.modCore_nextTid (s : State) (c : Nat) (f : Core → Core) : (s.modCore c f).nextTid = s.nextTid := rfl
@[simp] theorem State.modSlice_mem (s : State) (c n : Nat) (f : Slice → Slice) : (s.modSlice c n f).mem = s.mem := rfl
@[simp] theorem State.modSlice_l2 (s : State) (c n : Nat) (f : Slice → Slice) : (s.modSlice c n f).l2 = s.l2 := rfl
@[simp] theorem State.modSlice_bad (s : State) (c n : Nat) (f : Slice → Slice) : (s.modSlice c n f).bad = s.bad := rfl
@[simp] theorem State.modSlice_aper (s : State) (c n : Nat) (f : Slice → Slice) : (s.modSlice c n f).aper = s.aper := rfl
@[simp] theorem State.modSlice_teams (s : State) (c n : Nat) (f : Slice → Slice) : (s.modSlice c n f).teams = s.teams := rfl
@[simp] theorem State.modSlice_launches (s : State) (c n : Nat) (f : Slice → Slice) : (s.modSlice c n f).launches = s.launches := rfl
@[simp] theorem State.modSlice_queues (s : State) (c n : Nat) (f : Slice → Slice) : (s.modSlice c n f).queues = s.queues := rfl
@[simp] theorem State.modSlice_rr (s : State) (c n : Nat) (f : Slice → Slice) : (s.modSlice c n f).rr = s.rr := rfl
@[simp] theorem State.modSlice_ectr (s : State) (c n : Nat) (f : Slice → Slice) : (s.modSlice c n f).ectr = s.ectr := rfl
@[simp] theorem State.modSlice_ctxs (s : State) (c n : Nat) (f : Slice → Slice) : (s.modSlice c n f).ctxs = s.ctxs := rfl
@[simp] theorem State.modSlice_ctrls (s : State) (c n : Nat) (f : Slice → Slice) : (s.modSlice c n f).ctrls = s.ctrls := rfl
@[simp] theorem State.modSlice_stale (s : State) (c n : Nat) (f : Slice → Slice) : (s.modSlice c n f).stale = s.stale := rfl
@[simp] theorem State.modSlice_pool (s : State) (c n : Nat) (f : Slice → Slice) : (s.modSlice c n f).pool = s.pool := rfl
@[simp] theorem State.modSlice_frames (s : State) (c n : Nat) (f : Slice → Slice) : (s.modSlice c n f).frames = s.frames := rfl
@[simp] theorem State.modSlice_move (s : State) (c n : Nat) (f : Slice → Slice) : (s.modSlice c n f).move = s.move := rfl
@[simp] theorem State.modSlice_mcast (s : State) (c n : Nat) (f : Slice → Slice) : (s.modSlice c n f).mcast = s.mcast := rfl
@[simp] theorem State.modSlice_host (s : State) (c n : Nat) (f : Slice → Slice) : (s.modSlice c n f).host = s.host := rfl
@[simp] theorem State.modSlice_start (s : State) (c n : Nat) (f : Slice → Slice) : (s.modSlice c n f).start = s.start := rfl
@[simp] theorem State.modSlice_hold (s : State) (c n : Nat) (f : Slice → Slice) : (s.modSlice c n f).hold = s.hold := rfl
@[simp] theorem State.modSlice_waiting (s : State) (c n : Nat) (f : Slice → Slice) : (s.modSlice c n f).waiting = s.waiting := rfl
@[simp] theorem State.modSlice_trace (s : State) (c n : Nat) (f : Slice → Slice) : (s.modSlice c n f).trace = s.trace := rfl
@[simp] theorem State.modSlice_dies (s : State) (c n : Nat) (f : Slice → Slice) : (s.modSlice c n f).dies = s.dies := rfl
@[simp] theorem State.modSlice_peers (s : State) (c n : Nat) (f : Slice → Slice) : (s.modSlice c n f).peers = s.peers := rfl
@[simp] theorem State.modSlice_linkA (s : State) (c n : Nat) (f : Slice → Slice) : (s.modSlice c n f).linkA = s.linkA := rfl
@[simp] theorem State.modSlice_linkB (s : State) (c n : Nat) (f : Slice → Slice) : (s.modSlice c n f).linkB = s.linkB := rfl
@[simp] theorem State.modSlice_msix (s : State) (c n : Nat) (f : Slice → Slice) : (s.modSlice c n f).msix = s.msix := rfl
@[simp] theorem State.modSlice_hostOut (s : State) (c n : Nat) (f : Slice → Slice) : (s.modSlice c n f).hostOut = s.hostOut := rfl
@[simp] theorem State.modSlice_poison (s : State) (c n : Nat) (f : Slice → Slice) : (s.modSlice c n f).poison = s.poison := rfl
@[simp] theorem State.modSlice_agenda (s : State) (c n : Nat) (f : Slice → Slice) : (s.modSlice c n f).agenda = s.agenda := rfl
@[simp] theorem State.modSlice_cur (s : State) (c n : Nat) (f : Slice → Slice) : (s.modSlice c n f).cur = s.cur := rfl
@[simp] theorem State.modSlice_fresh (s : State) (c n : Nat) (f : Slice → Slice) : (s.modSlice c n f).fresh = s.fresh := rfl
@[simp] theorem State.modSlice_nextTid (s : State) (c n : Nat) (f : Slice → Slice) : (s.modSlice c n f).nextTid = s.nextTid := rfl
@[simp] theorem State.modTeam_mem (s : State) (tid : Nat) (f : Team → Team) : (s.modTeam tid f).mem = s.mem := rfl
@[simp] theorem State.modTeam_l2 (s : State) (tid : Nat) (f : Team → Team) : (s.modTeam tid f).l2 = s.l2 := rfl
@[simp] theorem State.modTeam_bad (s : State) (tid : Nat) (f : Team → Team) : (s.modTeam tid f).bad = s.bad := rfl
@[simp] theorem State.modTeam_aper (s : State) (tid : Nat) (f : Team → Team) : (s.modTeam tid f).aper = s.aper := rfl
@[simp] theorem State.modTeam_cores (s : State) (tid : Nat) (f : Team → Team) : (s.modTeam tid f).cores = s.cores := rfl
@[simp] theorem State.modTeam_launches (s : State) (tid : Nat) (f : Team → Team) : (s.modTeam tid f).launches = s.launches := rfl
@[simp] theorem State.modTeam_queues (s : State) (tid : Nat) (f : Team → Team) : (s.modTeam tid f).queues = s.queues := rfl
@[simp] theorem State.modTeam_rr (s : State) (tid : Nat) (f : Team → Team) : (s.modTeam tid f).rr = s.rr := rfl
@[simp] theorem State.modTeam_ectr (s : State) (tid : Nat) (f : Team → Team) : (s.modTeam tid f).ectr = s.ectr := rfl
@[simp] theorem State.modTeam_ctxs (s : State) (tid : Nat) (f : Team → Team) : (s.modTeam tid f).ctxs = s.ctxs := rfl
@[simp] theorem State.modTeam_ctrls (s : State) (tid : Nat) (f : Team → Team) : (s.modTeam tid f).ctrls = s.ctrls := rfl
@[simp] theorem State.modTeam_stale (s : State) (tid : Nat) (f : Team → Team) : (s.modTeam tid f).stale = s.stale := rfl
@[simp] theorem State.modTeam_pool (s : State) (tid : Nat) (f : Team → Team) : (s.modTeam tid f).pool = s.pool := rfl
@[simp] theorem State.modTeam_frames (s : State) (tid : Nat) (f : Team → Team) : (s.modTeam tid f).frames = s.frames := rfl
@[simp] theorem State.modTeam_move (s : State) (tid : Nat) (f : Team → Team) : (s.modTeam tid f).move = s.move := rfl
@[simp] theorem State.modTeam_mcast (s : State) (tid : Nat) (f : Team → Team) : (s.modTeam tid f).mcast = s.mcast := rfl
@[simp] theorem State.modTeam_host (s : State) (tid : Nat) (f : Team → Team) : (s.modTeam tid f).host = s.host := rfl
@[simp] theorem State.modTeam_start (s : State) (tid : Nat) (f : Team → Team) : (s.modTeam tid f).start = s.start := rfl
@[simp] theorem State.modTeam_hold (s : State) (tid : Nat) (f : Team → Team) : (s.modTeam tid f).hold = s.hold := rfl
@[simp] theorem State.modTeam_waiting (s : State) (tid : Nat) (f : Team → Team) : (s.modTeam tid f).waiting = s.waiting := rfl
@[simp] theorem State.modTeam_trace (s : State) (tid : Nat) (f : Team → Team) : (s.modTeam tid f).trace = s.trace := rfl
@[simp] theorem State.modTeam_dies (s : State) (tid : Nat) (f : Team → Team) : (s.modTeam tid f).dies = s.dies := rfl
@[simp] theorem State.modTeam_peers (s : State) (tid : Nat) (f : Team → Team) : (s.modTeam tid f).peers = s.peers := rfl
@[simp] theorem State.modTeam_linkA (s : State) (tid : Nat) (f : Team → Team) : (s.modTeam tid f).linkA = s.linkA := rfl
@[simp] theorem State.modTeam_linkB (s : State) (tid : Nat) (f : Team → Team) : (s.modTeam tid f).linkB = s.linkB := rfl
@[simp] theorem State.modTeam_msix (s : State) (tid : Nat) (f : Team → Team) : (s.modTeam tid f).msix = s.msix := rfl
@[simp] theorem State.modTeam_hostOut (s : State) (tid : Nat) (f : Team → Team) : (s.modTeam tid f).hostOut = s.hostOut := rfl
@[simp] theorem State.modTeam_poison (s : State) (tid : Nat) (f : Team → Team) : (s.modTeam tid f).poison = s.poison := rfl
@[simp] theorem State.modTeam_agenda (s : State) (tid : Nat) (f : Team → Team) : (s.modTeam tid f).agenda = s.agenda := rfl
@[simp] theorem State.modTeam_cur (s : State) (tid : Nat) (f : Team → Team) : (s.modTeam tid f).cur = s.cur := rfl
@[simp] theorem State.modTeam_fresh (s : State) (tid : Nat) (f : Team → Team) : (s.modTeam tid f).fresh = s.fresh := rfl
@[simp] theorem State.modTeam_nextTid (s : State) (tid : Nat) (f : Team → Team) : (s.modTeam tid f).nextTid = s.nextTid := rfl
@[simp] theorem State.modGrp_mem (s : State) (w : Sel) (f : Group → Group) : (s.modGrp w f).mem = s.mem := rfl
@[simp] theorem State.modGrp_l2 (s : State) (w : Sel) (f : Group → Group) : (s.modGrp w f).l2 = s.l2 := rfl
@[simp] theorem State.modGrp_bad (s : State) (w : Sel) (f : Group → Group) : (s.modGrp w f).bad = s.bad := rfl
@[simp] theorem State.modGrp_aper (s : State) (w : Sel) (f : Group → Group) : (s.modGrp w f).aper = s.aper := rfl
@[simp] theorem State.modGrp_cores (s : State) (w : Sel) (f : Group → Group) : (s.modGrp w f).cores = s.cores := rfl
@[simp] theorem State.modGrp_launches (s : State) (w : Sel) (f : Group → Group) : (s.modGrp w f).launches = s.launches := rfl
@[simp] theorem State.modGrp_queues (s : State) (w : Sel) (f : Group → Group) : (s.modGrp w f).queues = s.queues := rfl
@[simp] theorem State.modGrp_rr (s : State) (w : Sel) (f : Group → Group) : (s.modGrp w f).rr = s.rr := rfl
@[simp] theorem State.modGrp_ectr (s : State) (w : Sel) (f : Group → Group) : (s.modGrp w f).ectr = s.ectr := rfl
@[simp] theorem State.modGrp_ctxs (s : State) (w : Sel) (f : Group → Group) : (s.modGrp w f).ctxs = s.ctxs := rfl
@[simp] theorem State.modGrp_ctrls (s : State) (w : Sel) (f : Group → Group) : (s.modGrp w f).ctrls = s.ctrls := rfl
@[simp] theorem State.modGrp_stale (s : State) (w : Sel) (f : Group → Group) : (s.modGrp w f).stale = s.stale := rfl
@[simp] theorem State.modGrp_pool (s : State) (w : Sel) (f : Group → Group) : (s.modGrp w f).pool = s.pool := rfl
@[simp] theorem State.modGrp_frames (s : State) (w : Sel) (f : Group → Group) : (s.modGrp w f).frames = s.frames := rfl
@[simp] theorem State.modGrp_move (s : State) (w : Sel) (f : Group → Group) : (s.modGrp w f).move = s.move := rfl
@[simp] theorem State.modGrp_mcast (s : State) (w : Sel) (f : Group → Group) : (s.modGrp w f).mcast = s.mcast := rfl
@[simp] theorem State.modGrp_host (s : State) (w : Sel) (f : Group → Group) : (s.modGrp w f).host = s.host := rfl
@[simp] theorem State.modGrp_start (s : State) (w : Sel) (f : Group → Group) : (s.modGrp w f).start = s.start := rfl
@[simp] theorem State.modGrp_hold (s : State) (w : Sel) (f : Group → Group) : (s.modGrp w f).hold = s.hold := rfl
@[simp] theorem State.modGrp_waiting (s : State) (w : Sel) (f : Group → Group) : (s.modGrp w f).waiting = s.waiting := rfl
@[simp] theorem State.modGrp_trace (s : State) (w : Sel) (f : Group → Group) : (s.modGrp w f).trace = s.trace := rfl
@[simp] theorem State.modGrp_dies (s : State) (w : Sel) (f : Group → Group) : (s.modGrp w f).dies = s.dies := rfl
@[simp] theorem State.modGrp_peers (s : State) (w : Sel) (f : Group → Group) : (s.modGrp w f).peers = s.peers := rfl
@[simp] theorem State.modGrp_linkA (s : State) (w : Sel) (f : Group → Group) : (s.modGrp w f).linkA = s.linkA := rfl
@[simp] theorem State.modGrp_linkB (s : State) (w : Sel) (f : Group → Group) : (s.modGrp w f).linkB = s.linkB := rfl
@[simp] theorem State.modGrp_msix (s : State) (w : Sel) (f : Group → Group) : (s.modGrp w f).msix = s.msix := rfl
@[simp] theorem State.modGrp_hostOut (s : State) (w : Sel) (f : Group → Group) : (s.modGrp w f).hostOut = s.hostOut := rfl
@[simp] theorem State.modGrp_poison (s : State) (w : Sel) (f : Group → Group) : (s.modGrp w f).poison = s.poison := rfl
@[simp] theorem State.modGrp_agenda (s : State) (w : Sel) (f : Group → Group) : (s.modGrp w f).agenda = s.agenda := rfl
@[simp] theorem State.modGrp_cur (s : State) (w : Sel) (f : Group → Group) : (s.modGrp w f).cur = s.cur := rfl
@[simp] theorem State.modGrp_fresh (s : State) (w : Sel) (f : Group → Group) : (s.modGrp w f).fresh = s.fresh := rfl
@[simp] theorem State.modGrp_nextTid (s : State) (w : Sel) (f : Group → Group) : (s.modGrp w f).nextTid = s.nextTid := rfl
@[simp] theorem State.modFrag_mem (s : State) (w : Sel) (f : Frag → Frag) : (s.modFrag w f).mem = s.mem := rfl
@[simp] theorem State.modFrag_l2 (s : State) (w : Sel) (f : Frag → Frag) : (s.modFrag w f).l2 = s.l2 := rfl
@[simp] theorem State.modFrag_bad (s : State) (w : Sel) (f : Frag → Frag) : (s.modFrag w f).bad = s.bad := rfl
@[simp] theorem State.modFrag_aper (s : State) (w : Sel) (f : Frag → Frag) : (s.modFrag w f).aper = s.aper := rfl
@[simp] theorem State.modFrag_cores (s : State) (w : Sel) (f : Frag → Frag) : (s.modFrag w f).cores = s.cores := rfl
@[simp] theorem State.modFrag_launches (s : State) (w : Sel) (f : Frag → Frag) : (s.modFrag w f).launches = s.launches := rfl
@[simp] theorem State.modFrag_queues (s : State) (w : Sel) (f : Frag → Frag) : (s.modFrag w f).queues = s.queues := rfl
@[simp] theorem State.modFrag_rr (s : State) (w : Sel) (f : Frag → Frag) : (s.modFrag w f).rr = s.rr := rfl
@[simp] theorem State.modFrag_ectr (s : State) (w : Sel) (f : Frag → Frag) : (s.modFrag w f).ectr = s.ectr := rfl
@[simp] theorem State.modFrag_ctxs (s : State) (w : Sel) (f : Frag → Frag) : (s.modFrag w f).ctxs = s.ctxs := rfl
@[simp] theorem State.modFrag_ctrls (s : State) (w : Sel) (f : Frag → Frag) : (s.modFrag w f).ctrls = s.ctrls := rfl
@[simp] theorem State.modFrag_stale (s : State) (w : Sel) (f : Frag → Frag) : (s.modFrag w f).stale = s.stale := rfl
@[simp] theorem State.modFrag_pool (s : State) (w : Sel) (f : Frag → Frag) : (s.modFrag w f).pool = s.pool := rfl
@[simp] theorem State.modFrag_frames (s : State) (w : Sel) (f : Frag → Frag) : (s.modFrag w f).frames = s.frames := rfl
@[simp] theorem State.modFrag_move (s : State) (w : Sel) (f : Frag → Frag) : (s.modFrag w f).move = s.move := rfl
@[simp] theorem State.modFrag_mcast (s : State) (w : Sel) (f : Frag → Frag) : (s.modFrag w f).mcast = s.mcast := rfl
@[simp] theorem State.modFrag_host (s : State) (w : Sel) (f : Frag → Frag) : (s.modFrag w f).host = s.host := rfl
@[simp] theorem State.modFrag_start (s : State) (w : Sel) (f : Frag → Frag) : (s.modFrag w f).start = s.start := rfl
@[simp] theorem State.modFrag_hold (s : State) (w : Sel) (f : Frag → Frag) : (s.modFrag w f).hold = s.hold := rfl
@[simp] theorem State.modFrag_waiting (s : State) (w : Sel) (f : Frag → Frag) : (s.modFrag w f).waiting = s.waiting := rfl
@[simp] theorem State.modFrag_trace (s : State) (w : Sel) (f : Frag → Frag) : (s.modFrag w f).trace = s.trace := rfl
@[simp] theorem State.modFrag_dies (s : State) (w : Sel) (f : Frag → Frag) : (s.modFrag w f).dies = s.dies := rfl
@[simp] theorem State.modFrag_peers (s : State) (w : Sel) (f : Frag → Frag) : (s.modFrag w f).peers = s.peers := rfl
@[simp] theorem State.modFrag_linkA (s : State) (w : Sel) (f : Frag → Frag) : (s.modFrag w f).linkA = s.linkA := rfl
@[simp] theorem State.modFrag_linkB (s : State) (w : Sel) (f : Frag → Frag) : (s.modFrag w f).linkB = s.linkB := rfl
@[simp] theorem State.modFrag_msix (s : State) (w : Sel) (f : Frag → Frag) : (s.modFrag w f).msix = s.msix := rfl
@[simp] theorem State.modFrag_hostOut (s : State) (w : Sel) (f : Frag → Frag) : (s.modFrag w f).hostOut = s.hostOut := rfl
@[simp] theorem State.modFrag_poison (s : State) (w : Sel) (f : Frag → Frag) : (s.modFrag w f).poison = s.poison := rfl
@[simp] theorem State.modFrag_agenda (s : State) (w : Sel) (f : Frag → Frag) : (s.modFrag w f).agenda = s.agenda := rfl
@[simp] theorem State.modFrag_cur (s : State) (w : Sel) (f : Frag → Frag) : (s.modFrag w f).cur = s.cur := rfl
@[simp] theorem State.modFrag_fresh (s : State) (w : Sel) (f : Frag → Frag) : (s.modFrag w f).fresh = s.fresh := rfl
@[simp] theorem State.modFrag_nextTid (s : State) (w : Sel) (f : Frag → Frag) : (s.modFrag w f).nextTid = s.nextTid := rfl
@[simp] theorem State.modQueue_mem (s : State) (q : Nat) (f : Queue → Queue) : (s.modQueue q f).mem = s.mem := rfl
@[simp] theorem State.modQueue_l2 (s : State) (q : Nat) (f : Queue → Queue) : (s.modQueue q f).l2 = s.l2 := rfl
@[simp] theorem State.modQueue_bad (s : State) (q : Nat) (f : Queue → Queue) : (s.modQueue q f).bad = s.bad := rfl
@[simp] theorem State.modQueue_aper (s : State) (q : Nat) (f : Queue → Queue) : (s.modQueue q f).aper = s.aper := rfl
@[simp] theorem State.modQueue_teams (s : State) (q : Nat) (f : Queue → Queue) : (s.modQueue q f).teams = s.teams := rfl
@[simp] theorem State.modQueue_cores (s : State) (q : Nat) (f : Queue → Queue) : (s.modQueue q f).cores = s.cores := rfl
@[simp] theorem State.modQueue_launches (s : State) (q : Nat) (f : Queue → Queue) : (s.modQueue q f).launches = s.launches := rfl
@[simp] theorem State.modQueue_rr (s : State) (q : Nat) (f : Queue → Queue) : (s.modQueue q f).rr = s.rr := rfl
@[simp] theorem State.modQueue_ectr (s : State) (q : Nat) (f : Queue → Queue) : (s.modQueue q f).ectr = s.ectr := rfl
@[simp] theorem State.modQueue_ctxs (s : State) (q : Nat) (f : Queue → Queue) : (s.modQueue q f).ctxs = s.ctxs := rfl
@[simp] theorem State.modQueue_ctrls (s : State) (q : Nat) (f : Queue → Queue) : (s.modQueue q f).ctrls = s.ctrls := rfl
@[simp] theorem State.modQueue_stale (s : State) (q : Nat) (f : Queue → Queue) : (s.modQueue q f).stale = s.stale := rfl
@[simp] theorem State.modQueue_pool (s : State) (q : Nat) (f : Queue → Queue) : (s.modQueue q f).pool = s.pool := rfl
@[simp] theorem State.modQueue_frames (s : State) (q : Nat) (f : Queue → Queue) : (s.modQueue q f).frames = s.frames := rfl
@[simp] theorem State.modQueue_move (s : State) (q : Nat) (f : Queue → Queue) : (s.modQueue q f).move = s.move := rfl
@[simp] theorem State.modQueue_mcast (s : State) (q : Nat) (f : Queue → Queue) : (s.modQueue q f).mcast = s.mcast := rfl
@[simp] theorem State.modQueue_host (s : State) (q : Nat) (f : Queue → Queue) : (s.modQueue q f).host = s.host := rfl
@[simp] theorem State.modQueue_start (s : State) (q : Nat) (f : Queue → Queue) : (s.modQueue q f).start = s.start := rfl
@[simp] theorem State.modQueue_hold (s : State) (q : Nat) (f : Queue → Queue) : (s.modQueue q f).hold = s.hold := rfl
@[simp] theorem State.modQueue_waiting (s : State) (q : Nat) (f : Queue → Queue) : (s.modQueue q f).waiting = s.waiting := rfl
@[simp] theorem State.modQueue_trace (s : State) (q : Nat) (f : Queue → Queue) : (s.modQueue q f).trace = s.trace := rfl
@[simp] theorem State.modQueue_dies (s : State) (q : Nat) (f : Queue → Queue) : (s.modQueue q f).dies = s.dies := rfl
@[simp] theorem State.modQueue_peers (s : State) (q : Nat) (f : Queue → Queue) : (s.modQueue q f).peers = s.peers := rfl
@[simp] theorem State.modQueue_linkA (s : State) (q : Nat) (f : Queue → Queue) : (s.modQueue q f).linkA = s.linkA := rfl
@[simp] theorem State.modQueue_linkB (s : State) (q : Nat) (f : Queue → Queue) : (s.modQueue q f).linkB = s.linkB := rfl
@[simp] theorem State.modQueue_msix (s : State) (q : Nat) (f : Queue → Queue) : (s.modQueue q f).msix = s.msix := rfl
@[simp] theorem State.modQueue_hostOut (s : State) (q : Nat) (f : Queue → Queue) : (s.modQueue q f).hostOut = s.hostOut := rfl
@[simp] theorem State.modQueue_poison (s : State) (q : Nat) (f : Queue → Queue) : (s.modQueue q f).poison = s.poison := rfl
@[simp] theorem State.modQueue_agenda (s : State) (q : Nat) (f : Queue → Queue) : (s.modQueue q f).agenda = s.agenda := rfl
@[simp] theorem State.modQueue_cur (s : State) (q : Nat) (f : Queue → Queue) : (s.modQueue q f).cur = s.cur := rfl
@[simp] theorem State.modQueue_fresh (s : State) (q : Nat) (f : Queue → Queue) : (s.modQueue q f).fresh = s.fresh := rfl
@[simp] theorem State.modQueue_nextTid (s : State) (q : Nat) (f : Queue → Queue) : (s.modQueue q f).nextTid = s.nextTid := rfl
@[simp] theorem State.modCtrl_mem (s : State) (c : Nat) (f : Ctrl → Ctrl) : (s.modCtrl c f).mem = s.mem := rfl
@[simp] theorem State.modCtrl_l2 (s : State) (c : Nat) (f : Ctrl → Ctrl) : (s.modCtrl c f).l2 = s.l2 := rfl
@[simp] theorem State.modCtrl_bad (s : State) (c : Nat) (f : Ctrl → Ctrl) : (s.modCtrl c f).bad = s.bad := rfl
@[simp] theorem State.modCtrl_aper (s : State) (c : Nat) (f : Ctrl → Ctrl) : (s.modCtrl c f).aper = s.aper := rfl
@[simp] theorem State.modCtrl_teams (s : State) (c : Nat) (f : Ctrl → Ctrl) : (s.modCtrl c f).teams = s.teams := rfl
@[simp] theorem State.modCtrl_cores (s : State) (c : Nat) (f : Ctrl → Ctrl) : (s.modCtrl c f).cores = s.cores := rfl
@[simp] theorem State.modCtrl_launches (s : State) (c : Nat) (f : Ctrl → Ctrl) : (s.modCtrl c f).launches = s.launches := rfl
@[simp] theorem State.modCtrl_queues (s : State) (c : Nat) (f : Ctrl → Ctrl) : (s.modCtrl c f).queues = s.queues := rfl
@[simp] theorem State.modCtrl_rr (s : State) (c : Nat) (f : Ctrl → Ctrl) : (s.modCtrl c f).rr = s.rr := rfl
@[simp] theorem State.modCtrl_ectr (s : State) (c : Nat) (f : Ctrl → Ctrl) : (s.modCtrl c f).ectr = s.ectr := rfl
@[simp] theorem State.modCtrl_ctxs (s : State) (c : Nat) (f : Ctrl → Ctrl) : (s.modCtrl c f).ctxs = s.ctxs := rfl
@[simp] theorem State.modCtrl_stale (s : State) (c : Nat) (f : Ctrl → Ctrl) : (s.modCtrl c f).stale = s.stale := rfl
@[simp] theorem State.modCtrl_pool (s : State) (c : Nat) (f : Ctrl → Ctrl) : (s.modCtrl c f).pool = s.pool := rfl
@[simp] theorem State.modCtrl_frames (s : State) (c : Nat) (f : Ctrl → Ctrl) : (s.modCtrl c f).frames = s.frames := rfl
@[simp] theorem State.modCtrl_move (s : State) (c : Nat) (f : Ctrl → Ctrl) : (s.modCtrl c f).move = s.move := rfl
@[simp] theorem State.modCtrl_mcast (s : State) (c : Nat) (f : Ctrl → Ctrl) : (s.modCtrl c f).mcast = s.mcast := rfl
@[simp] theorem State.modCtrl_host (s : State) (c : Nat) (f : Ctrl → Ctrl) : (s.modCtrl c f).host = s.host := rfl
@[simp] theorem State.modCtrl_start (s : State) (c : Nat) (f : Ctrl → Ctrl) : (s.modCtrl c f).start = s.start := rfl
@[simp] theorem State.modCtrl_hold (s : State) (c : Nat) (f : Ctrl → Ctrl) : (s.modCtrl c f).hold = s.hold := rfl
@[simp] theorem State.modCtrl_waiting (s : State) (c : Nat) (f : Ctrl → Ctrl) : (s.modCtrl c f).waiting = s.waiting := rfl
@[simp] theorem State.modCtrl_trace (s : State) (c : Nat) (f : Ctrl → Ctrl) : (s.modCtrl c f).trace = s.trace := rfl
@[simp] theorem State.modCtrl_dies (s : State) (c : Nat) (f : Ctrl → Ctrl) : (s.modCtrl c f).dies = s.dies := rfl
@[simp] theorem State.modCtrl_peers (s : State) (c : Nat) (f : Ctrl → Ctrl) : (s.modCtrl c f).peers = s.peers := rfl
@[simp] theorem State.modCtrl_linkA (s : State) (c : Nat) (f : Ctrl → Ctrl) : (s.modCtrl c f).linkA = s.linkA := rfl
@[simp] theorem State.modCtrl_linkB (s : State) (c : Nat) (f : Ctrl → Ctrl) : (s.modCtrl c f).linkB = s.linkB := rfl
@[simp] theorem State.modCtrl_msix (s : State) (c : Nat) (f : Ctrl → Ctrl) : (s.modCtrl c f).msix = s.msix := rfl
@[simp] theorem State.modCtrl_hostOut (s : State) (c : Nat) (f : Ctrl → Ctrl) : (s.modCtrl c f).hostOut = s.hostOut := rfl
@[simp] theorem State.modCtrl_poison (s : State) (c : Nat) (f : Ctrl → Ctrl) : (s.modCtrl c f).poison = s.poison := rfl
@[simp] theorem State.modCtrl_agenda (s : State) (c : Nat) (f : Ctrl → Ctrl) : (s.modCtrl c f).agenda = s.agenda := rfl
@[simp] theorem State.modCtrl_cur (s : State) (c : Nat) (f : Ctrl → Ctrl) : (s.modCtrl c f).cur = s.cur := rfl
@[simp] theorem State.modCtrl_fresh (s : State) (c : Nat) (f : Ctrl → Ctrl) : (s.modCtrl c f).fresh = s.fresh := rfl
@[simp] theorem State.modCtrl_nextTid (s : State) (c : Nat) (f : Ctrl → Ctrl) : (s.modCtrl c f).nextTid = s.nextTid := rfl
@[simp] theorem State.tick_mem (s : State) : s.tick.mem = s.mem := rfl
@[simp] theorem State.tick_l2 (s : State) : s.tick.l2 = s.l2 := rfl
@[simp] theorem State.tick_bad (s : State) : s.tick.bad = s.bad := rfl
@[simp] theorem State.tick_aper (s : State) : s.tick.aper = s.aper := rfl
@[simp] theorem State.tick_teams (s : State) : s.tick.teams = s.teams := rfl
@[simp] theorem State.tick_cores (s : State) : s.tick.cores = s.cores := rfl
@[simp] theorem State.tick_launches (s : State) : s.tick.launches = s.launches := rfl
@[simp] theorem State.tick_queues (s : State) : s.tick.queues = s.queues := rfl
@[simp] theorem State.tick_rr (s : State) : s.tick.rr = s.rr := rfl
@[simp] theorem State.tick_ectr (s : State) : s.tick.ectr = s.ectr := rfl
@[simp] theorem State.tick_ctxs (s : State) : s.tick.ctxs = s.ctxs := rfl
@[simp] theorem State.tick_ctrls (s : State) : s.tick.ctrls = s.ctrls := rfl
@[simp] theorem State.tick_stale (s : State) : s.tick.stale = s.stale := rfl
@[simp] theorem State.tick_pool (s : State) : s.tick.pool = s.pool := rfl
@[simp] theorem State.tick_frames (s : State) : s.tick.frames = s.frames := rfl
@[simp] theorem State.tick_move (s : State) : s.tick.move = s.move := rfl
@[simp] theorem State.tick_mcast (s : State) : s.tick.mcast = s.mcast := rfl
@[simp] theorem State.tick_host (s : State) : s.tick.host = s.host := rfl
@[simp] theorem State.tick_start (s : State) : s.tick.start = s.start := rfl
@[simp] theorem State.tick_hold (s : State) : s.tick.hold = s.hold := rfl
@[simp] theorem State.tick_waiting (s : State) : s.tick.waiting = s.waiting := rfl
@[simp] theorem State.tick_trace (s : State) : s.tick.trace = s.trace := rfl
@[simp] theorem State.tick_dies (s : State) : s.tick.dies = s.dies := rfl
@[simp] theorem State.tick_peers (s : State) : s.tick.peers = s.peers := rfl
@[simp] theorem State.tick_linkA (s : State) : s.tick.linkA = s.linkA := rfl
@[simp] theorem State.tick_linkB (s : State) : s.tick.linkB = s.linkB := rfl
@[simp] theorem State.tick_msix (s : State) : s.tick.msix = s.msix := rfl
@[simp] theorem State.tick_hostOut (s : State) : s.tick.hostOut = s.hostOut := rfl
@[simp] theorem State.tick_poison (s : State) : s.tick.poison = s.poison := rfl
@[simp] theorem State.tick_agenda (s : State) : s.tick.agenda = s.agenda := rfl
@[simp] theorem State.tick_cur (s : State) : s.tick.cur = s.cur := rfl
@[simp] theorem State.tick_nextTid (s : State) : s.tick.nextTid = s.nextTid := rfl
@[simp] theorem State.wr_bad (s : State) (k : Nat) (x : Byte) : (s.wr k x).bad = s.bad := rfl
@[simp] theorem State.wr_aper (s : State) (k : Nat) (x : Byte) : (s.wr k x).aper = s.aper := rfl
@[simp] theorem State.wr_teams (s : State) (k : Nat) (x : Byte) : (s.wr k x).teams = s.teams := rfl
@[simp] theorem State.wr_cores (s : State) (k : Nat) (x : Byte) : (s.wr k x).cores = s.cores := rfl
@[simp] theorem State.wr_launches (s : State) (k : Nat) (x : Byte) : (s.wr k x).launches = s.launches := rfl
@[simp] theorem State.wr_queues (s : State) (k : Nat) (x : Byte) : (s.wr k x).queues = s.queues := rfl
@[simp] theorem State.wr_rr (s : State) (k : Nat) (x : Byte) : (s.wr k x).rr = s.rr := rfl
@[simp] theorem State.wr_ectr (s : State) (k : Nat) (x : Byte) : (s.wr k x).ectr = s.ectr := rfl
@[simp] theorem State.wr_ctxs (s : State) (k : Nat) (x : Byte) : (s.wr k x).ctxs = s.ctxs := rfl
@[simp] theorem State.wr_ctrls (s : State) (k : Nat) (x : Byte) : (s.wr k x).ctrls = s.ctrls := rfl
@[simp] theorem State.wr_stale (s : State) (k : Nat) (x : Byte) : (s.wr k x).stale = s.stale := rfl
@[simp] theorem State.wr_pool (s : State) (k : Nat) (x : Byte) : (s.wr k x).pool = s.pool := rfl
@[simp] theorem State.wr_frames (s : State) (k : Nat) (x : Byte) : (s.wr k x).frames = s.frames := rfl
@[simp] theorem State.wr_move (s : State) (k : Nat) (x : Byte) : (s.wr k x).move = s.move := rfl
@[simp] theorem State.wr_mcast (s : State) (k : Nat) (x : Byte) : (s.wr k x).mcast = s.mcast := rfl
@[simp] theorem State.wr_host (s : State) (k : Nat) (x : Byte) : (s.wr k x).host = s.host := rfl
@[simp] theorem State.wr_start (s : State) (k : Nat) (x : Byte) : (s.wr k x).start = s.start := rfl
@[simp] theorem State.wr_hold (s : State) (k : Nat) (x : Byte) : (s.wr k x).hold = s.hold := rfl
@[simp] theorem State.wr_waiting (s : State) (k : Nat) (x : Byte) : (s.wr k x).waiting = s.waiting := rfl
@[simp] theorem State.wr_trace (s : State) (k : Nat) (x : Byte) : (s.wr k x).trace = s.trace := rfl
@[simp] theorem State.wr_dies (s : State) (k : Nat) (x : Byte) : (s.wr k x).dies = s.dies := rfl
@[simp] theorem State.wr_peers (s : State) (k : Nat) (x : Byte) : (s.wr k x).peers = s.peers := rfl
@[simp] theorem State.wr_linkA (s : State) (k : Nat) (x : Byte) : (s.wr k x).linkA = s.linkA := rfl
@[simp] theorem State.wr_linkB (s : State) (k : Nat) (x : Byte) : (s.wr k x).linkB = s.linkB := rfl
@[simp] theorem State.wr_msix (s : State) (k : Nat) (x : Byte) : (s.wr k x).msix = s.msix := rfl
@[simp] theorem State.wr_hostOut (s : State) (k : Nat) (x : Byte) : (s.wr k x).hostOut = s.hostOut := rfl
@[simp] theorem State.wr_poison (s : State) (k : Nat) (x : Byte) : (s.wr k x).poison = s.poison := rfl
@[simp] theorem State.wr_agenda (s : State) (k : Nat) (x : Byte) : (s.wr k x).agenda = s.agenda := rfl
@[simp] theorem State.wr_cur (s : State) (k : Nat) (x : Byte) : (s.wr k x).cur = s.cur := rfl
@[simp] theorem State.wr_fresh (s : State) (k : Nat) (x : Byte) : (s.wr k x).fresh = s.fresh := rfl
@[simp] theorem State.wr_nextTid (s : State) (k : Nat) (x : Byte) : (s.wr k x).nextTid = s.nextTid := rfl
@[simp] theorem State.wrAper_mem (s : State) (k : Nat) (x : Byte) : (s.wrAper k x).mem = s.mem := rfl
@[simp] theorem State.wrAper_l2 (s : State) (k : Nat) (x : Byte) : (s.wrAper k x).l2 = s.l2 := rfl
@[simp] theorem State.wrAper_bad (s : State) (k : Nat) (x : Byte) : (s.wrAper k x).bad = s.bad := rfl
@[simp] theorem State.wrAper_teams (s : State) (k : Nat) (x : Byte) : (s.wrAper k x).teams = s.teams := rfl
@[simp] theorem State.wrAper_cores (s : State) (k : Nat) (x : Byte) : (s.wrAper k x).cores = s.cores := rfl
@[simp] theorem State.wrAper_launches (s : State) (k : Nat) (x : Byte) : (s.wrAper k x).launches = s.launches := rfl
@[simp] theorem State.wrAper_queues (s : State) (k : Nat) (x : Byte) : (s.wrAper k x).queues = s.queues := rfl
@[simp] theorem State.wrAper_rr (s : State) (k : Nat) (x : Byte) : (s.wrAper k x).rr = s.rr := rfl
@[simp] theorem State.wrAper_ectr (s : State) (k : Nat) (x : Byte) : (s.wrAper k x).ectr = s.ectr := rfl
@[simp] theorem State.wrAper_ctxs (s : State) (k : Nat) (x : Byte) : (s.wrAper k x).ctxs = s.ctxs := rfl
@[simp] theorem State.wrAper_ctrls (s : State) (k : Nat) (x : Byte) : (s.wrAper k x).ctrls = s.ctrls := rfl
@[simp] theorem State.wrAper_stale (s : State) (k : Nat) (x : Byte) : (s.wrAper k x).stale = s.stale := rfl
@[simp] theorem State.wrAper_pool (s : State) (k : Nat) (x : Byte) : (s.wrAper k x).pool = s.pool := rfl
@[simp] theorem State.wrAper_frames (s : State) (k : Nat) (x : Byte) : (s.wrAper k x).frames = s.frames := rfl
@[simp] theorem State.wrAper_move (s : State) (k : Nat) (x : Byte) : (s.wrAper k x).move = s.move := rfl
@[simp] theorem State.wrAper_mcast (s : State) (k : Nat) (x : Byte) : (s.wrAper k x).mcast = s.mcast := rfl
@[simp] theorem State.wrAper_host (s : State) (k : Nat) (x : Byte) : (s.wrAper k x).host = s.host := rfl
@[simp] theorem State.wrAper_start (s : State) (k : Nat) (x : Byte) : (s.wrAper k x).start = s.start := rfl
@[simp] theorem State.wrAper_hold (s : State) (k : Nat) (x : Byte) : (s.wrAper k x).hold = s.hold := rfl
@[simp] theorem State.wrAper_waiting (s : State) (k : Nat) (x : Byte) : (s.wrAper k x).waiting = s.waiting := rfl
@[simp] theorem State.wrAper_trace (s : State) (k : Nat) (x : Byte) : (s.wrAper k x).trace = s.trace := rfl
@[simp] theorem State.wrAper_dies (s : State) (k : Nat) (x : Byte) : (s.wrAper k x).dies = s.dies := rfl
@[simp] theorem State.wrAper_peers (s : State) (k : Nat) (x : Byte) : (s.wrAper k x).peers = s.peers := rfl
@[simp] theorem State.wrAper_linkA (s : State) (k : Nat) (x : Byte) : (s.wrAper k x).linkA = s.linkA := rfl
@[simp] theorem State.wrAper_linkB (s : State) (k : Nat) (x : Byte) : (s.wrAper k x).linkB = s.linkB := rfl
@[simp] theorem State.wrAper_msix (s : State) (k : Nat) (x : Byte) : (s.wrAper k x).msix = s.msix := rfl
@[simp] theorem State.wrAper_hostOut (s : State) (k : Nat) (x : Byte) : (s.wrAper k x).hostOut = s.hostOut := rfl
@[simp] theorem State.wrAper_poison (s : State) (k : Nat) (x : Byte) : (s.wrAper k x).poison = s.poison := rfl
@[simp] theorem State.wrAper_agenda (s : State) (k : Nat) (x : Byte) : (s.wrAper k x).agenda = s.agenda := rfl
@[simp] theorem State.wrAper_cur (s : State) (k : Nat) (x : Byte) : (s.wrAper k x).cur = s.cur := rfl
@[simp] theorem State.wrAper_fresh (s : State) (k : Nat) (x : Byte) : (s.wrAper k x).fresh = s.fresh := rfl
@[simp] theorem State.wrAper_nextTid (s : State) (k : Nat) (x : Byte) : (s.wrAper k x).nextTid = s.nextTid := rfl
@[simp] theorem State.toHost_mem (s : State) (bs : List Byte) : (s.toHost bs).mem = s.mem := rfl
@[simp] theorem State.toHost_l2 (s : State) (bs : List Byte) : (s.toHost bs).l2 = s.l2 := rfl
@[simp] theorem State.toHost_bad (s : State) (bs : List Byte) : (s.toHost bs).bad = s.bad := rfl
@[simp] theorem State.toHost_aper (s : State) (bs : List Byte) : (s.toHost bs).aper = s.aper := rfl
@[simp] theorem State.toHost_teams (s : State) (bs : List Byte) : (s.toHost bs).teams = s.teams := rfl
@[simp] theorem State.toHost_cores (s : State) (bs : List Byte) : (s.toHost bs).cores = s.cores := rfl
@[simp] theorem State.toHost_launches (s : State) (bs : List Byte) : (s.toHost bs).launches = s.launches := rfl
@[simp] theorem State.toHost_queues (s : State) (bs : List Byte) : (s.toHost bs).queues = s.queues := rfl
@[simp] theorem State.toHost_rr (s : State) (bs : List Byte) : (s.toHost bs).rr = s.rr := rfl
@[simp] theorem State.toHost_ectr (s : State) (bs : List Byte) : (s.toHost bs).ectr = s.ectr := rfl
@[simp] theorem State.toHost_ctxs (s : State) (bs : List Byte) : (s.toHost bs).ctxs = s.ctxs := rfl
@[simp] theorem State.toHost_ctrls (s : State) (bs : List Byte) : (s.toHost bs).ctrls = s.ctrls := rfl
@[simp] theorem State.toHost_stale (s : State) (bs : List Byte) : (s.toHost bs).stale = s.stale := rfl
@[simp] theorem State.toHost_pool (s : State) (bs : List Byte) : (s.toHost bs).pool = s.pool := rfl
@[simp] theorem State.toHost_frames (s : State) (bs : List Byte) : (s.toHost bs).frames = s.frames := rfl
@[simp] theorem State.toHost_move (s : State) (bs : List Byte) : (s.toHost bs).move = s.move := rfl
@[simp] theorem State.toHost_mcast (s : State) (bs : List Byte) : (s.toHost bs).mcast = s.mcast := rfl
@[simp] theorem State.toHost_host (s : State) (bs : List Byte) : (s.toHost bs).host = s.host := rfl
@[simp] theorem State.toHost_start (s : State) (bs : List Byte) : (s.toHost bs).start = s.start := rfl
@[simp] theorem State.toHost_hold (s : State) (bs : List Byte) : (s.toHost bs).hold = s.hold := rfl
@[simp] theorem State.toHost_waiting (s : State) (bs : List Byte) : (s.toHost bs).waiting = s.waiting := rfl
@[simp] theorem State.toHost_trace (s : State) (bs : List Byte) : (s.toHost bs).trace = s.trace := rfl
@[simp] theorem State.toHost_dies (s : State) (bs : List Byte) : (s.toHost bs).dies = s.dies := rfl
@[simp] theorem State.toHost_peers (s : State) (bs : List Byte) : (s.toHost bs).peers = s.peers := rfl
@[simp] theorem State.toHost_linkA (s : State) (bs : List Byte) : (s.toHost bs).linkA = s.linkA := rfl
@[simp] theorem State.toHost_linkB (s : State) (bs : List Byte) : (s.toHost bs).linkB = s.linkB := rfl
@[simp] theorem State.toHost_msix (s : State) (bs : List Byte) : (s.toHost bs).msix = s.msix := rfl
@[simp] theorem State.toHost_poison (s : State) (bs : List Byte) : (s.toHost bs).poison = s.poison := rfl
@[simp] theorem State.toHost_agenda (s : State) (bs : List Byte) : (s.toHost bs).agenda = s.agenda := rfl
@[simp] theorem State.toHost_cur (s : State) (bs : List Byte) : (s.toHost bs).cur = s.cur := rfl
@[simp] theorem State.toHost_fresh (s : State) (bs : List Byte) : (s.toHost bs).fresh = s.fresh := rfl
@[simp] theorem State.toHost_nextTid (s : State) (bs : List Byte) : (s.toHost bs).nextTid = s.nextTid := rfl

/-! A core and a team. -/

@[simp] theorem Core.modSlice_cursoft (c : Core) (n : Nat) (f : Slice → Slice) : (c.modSlice n f).cursoft = c.cursoft := rfl
@[simp] theorem Core.modSlice_curhard (c : Core) (n : Nat) (f : Slice → Slice) : (c.modSlice n f).curhard = c.curhard := rfl
@[simp] theorem Core.modSlice_sum (c : Core) (n : Nat) (f : Slice → Slice) : (c.modSlice n f).sum = c.sum := rfl
@[simp] theorem Core.modSlice_denials (c : Core) (n : Nat) (f : Slice → Slice) : (c.modSlice n f).denials = c.denials := rfl
@[simp] theorem Core.modSlice_curmSum (c : Core) (n : Nat) (f : Slice → Slice) : (c.modSlice n f).curmSum = c.curmSum := rfl
@[simp] theorem Core.modSlice_curmDen (c : Core) (n : Nat) (f : Slice → Slice) : (c.modSlice n f).curmDen = c.curmDen := rfl
@[simp] theorem Core.modSlice_hofs (c : Core) (n : Nat) (f : Slice → Slice) : (c.modSlice n f).hofs = c.hofs := rfl
@[simp] theorem Core.modSlice_omax (c : Core) (n : Nat) (f : Slice → Slice) : (c.modSlice n f).omax = c.omax := rfl
@[simp] theorem Core.modSlice_hw (c : Core) (n : Nat) (f : Slice → Slice) : (c.modSlice n f).hw = c.hw := rfl
@[simp] theorem Core.modSlice_quiet (c : Core) (n : Nat) (f : Slice → Slice) : (c.modSlice n f).quiet = c.quiet := rfl
@[simp] theorem Core.modSlice_ofs (c : Core) (n : Nat) (f : Slice → Slice) : (c.modSlice n f).ofs = c.ofs := rfl
@[simp] theorem Core.modSlice_settle (c : Core) (n : Nat) (f : Slice → Slice) : (c.modSlice n f).settle = c.settle := rfl
@[simp] theorem Core.modSlice_slew (c : Core) (n : Nat) (f : Slice → Slice) : (c.modSlice n f).slew = c.slew := rfl
@[simp] theorem Core.modSlice_quar (c : Core) (n : Nat) (f : Slice → Slice) : (c.modSlice n f).quar = c.quar := rfl
@[simp] theorem Core.modSlice_escal (c : Core) (n : Nat) (f : Slice → Slice) : (c.modSlice n f).escal = c.escal := rfl
@[simp] theorem Core.modSlice_tecnt (c : Core) (n : Nat) (f : Slice → Slice) : (c.modSlice n f).tecnt = c.tecnt := rfl
@[simp] theorem Core.modSlice_win (c : Core) (n : Nat) (f : Slice → Slice) : (c.modSlice n f).win = c.win := rfl
@[simp] theorem Core.modSlice_stepped (c : Core) (n : Nat) (f : Slice → Slice) : (c.modSlice n f).stepped = c.stepped := rfl
@[simp] theorem Core.modSlice_replim (c : Core) (n : Nat) (f : Slice → Slice) : (c.modSlice n f).replim = c.replim := rfl
@[simp] theorem Core.modSlice_limpcyc (c : Core) (n : Nat) (f : Slice → Slice) : (c.modSlice n f).limpcyc = c.limpcyc := rfl
@[simp] theorem Core.modSlice_escstep (c : Core) (n : Nat) (f : Slice → Slice) : (c.modSlice n f).escstep = c.escstep := rfl
@[simp] theorem Core.modSlice_qthr (c : Core) (n : Nat) (f : Slice → Slice) : (c.modSlice n f).qthr = c.qthr := rfl
@[simp] theorem Core.modSlice_qcount (c : Core) (n : Nat) (f : Slice → Slice) : (c.modSlice n f).qcount = c.qcount := rfl
@[simp] theorem Core.modSlice_qposted (c : Core) (n : Nat) (f : Slice → Slice) : (c.modSlice n f).qposted = c.qposted := rfl
@[simp] theorem Core.modSlice_cmps (c : Core) (n : Nat) (f : Slice → Slice) : (c.modSlice n f).cmps = c.cmps := rfl
@[simp] theorem Core.modSlice_smp (c : Core) (n : Nat) (f : Slice → Slice) : (c.modSlice n f).smp = c.smp := rfl
@[simp] theorem Core.modSlice_tagctl (c : Core) (n : Nat) (f : Slice → Slice) : (c.modSlice n f).tagctl = c.tagctl := rfl
@[simp] theorem Core.modSlice_tagcnt (c : Core) (n : Nat) (f : Slice → Slice) : (c.modSlice n f).tagcnt = c.tagcnt := rfl
@[simp] theorem Core.modSlice_trcmask (c : Core) (n : Nat) (f : Slice → Slice) : (c.modSlice n f).trcmask = c.trcmask := rfl
@[simp] theorem Core.modSlice_trgStart (c : Core) (n : Nat) (f : Slice → Slice) : (c.modSlice n f).trgStart = c.trgStart := rfl
@[simp] theorem Core.modSlice_trgStop (c : Core) (n : Nat) (f : Slice → Slice) : (c.modSlice n f).trgStop = c.trgStop := rfl
@[simp] theorem Core.modSlice_trgState (c : Core) (n : Nat) (f : Slice → Slice) : (c.modSlice n f).trgState = c.trgState := rfl
@[simp] theorem Core.modSlice_trgLast (c : Core) (n : Nat) (f : Slice → Slice) : (c.modSlice n f).trgLast = c.trgLast := rfl
@[simp] theorem Core.modSlice_lost (c : Core) (n : Nat) (f : Slice → Slice) : (c.modSlice n f).lost = c.lost := rfl
@[simp] theorem Core.modSlice_cmdseq (c : Core) (n : Nat) (f : Slice → Slice) : (c.modSlice n f).cmdseq = c.cmdseq := rfl
@[simp] theorem Core.modSlice_l1 (c : Core) (n : Nat) (f : Slice → Slice) : (c.modSlice n f).l1 = c.l1 := rfl
@[simp] theorem Core.modSlice_cvt (c : Core) (n : Nat) (f : Slice → Slice) : (c.modSlice n f).cvt = c.cvt := rfl
@[simp] theorem Core.modSlice_ops (c : Core) (n : Nat) (f : Slice → Slice) : (c.modSlice n f).ops = c.ops := rfl
@[simp] theorem Core.modSlice_cmds (c : Core) (n : Nat) (f : Slice → Slice) : (c.modSlice n f).cmds = c.cmds := rfl
@[simp] theorem Core.modSlice_loops (c : Core) (n : Nat) (f : Slice → Slice) : (c.modSlice n f).loops = c.loops := rfl
@[simp] theorem Core.modSlice_pipes (c : Core) (n : Nat) (f : Slice → Slice) : (c.modSlice n f).pipes = c.pipes := rfl
@[simp] theorem Core.modSlice_inst (c : Core) (n : Nat) (f : Slice → Slice) : (c.modSlice n f).inst = c.inst := rfl
@[simp] theorem Core.modSlice_wakeid (c : Core) (n : Nat) (f : Slice → Slice) : (c.modSlice n f).wakeid = c.wakeid := rfl
@[simp] theorem Core.modSlice_dbgsel (c : Core) (n : Nat) (f : Slice → Slice) : (c.modSlice n f).dbgsel = c.dbgsel := rfl
@[simp] theorem Core.modSlice_dbgvsel (c : Core) (n : Nat) (f : Slice → Slice) : (c.modSlice n f).dbgvsel = c.dbgvsel := rfl
@[simp] theorem Core.modSlice_dbgsaddr (c : Core) (n : Nat) (f : Slice → Slice) : (c.modSlice n f).dbgsaddr = c.dbgsaddr := rfl
@[simp] theorem Core.l1Shrink_slices (c : Core) (n m : Nat) : (c.l1Shrink n m).slices = c.slices := rfl
@[simp] theorem Core.l1Shrink_cursoft (c : Core) (n m : Nat) : (c.l1Shrink n m).cursoft = c.cursoft := rfl
@[simp] theorem Core.l1Shrink_curhard (c : Core) (n m : Nat) : (c.l1Shrink n m).curhard = c.curhard := rfl
@[simp] theorem Core.l1Shrink_sum (c : Core) (n m : Nat) : (c.l1Shrink n m).sum = c.sum := rfl
@[simp] theorem Core.l1Shrink_denials (c : Core) (n m : Nat) : (c.l1Shrink n m).denials = c.denials := rfl
@[simp] theorem Core.l1Shrink_curmSum (c : Core) (n m : Nat) : (c.l1Shrink n m).curmSum = c.curmSum := rfl
@[simp] theorem Core.l1Shrink_curmDen (c : Core) (n m : Nat) : (c.l1Shrink n m).curmDen = c.curmDen := rfl
@[simp] theorem Core.l1Shrink_hofs (c : Core) (n m : Nat) : (c.l1Shrink n m).hofs = c.hofs := rfl
@[simp] theorem Core.l1Shrink_omax (c : Core) (n m : Nat) : (c.l1Shrink n m).omax = c.omax := rfl
@[simp] theorem Core.l1Shrink_hw (c : Core) (n m : Nat) : (c.l1Shrink n m).hw = c.hw := rfl
@[simp] theorem Core.l1Shrink_quiet (c : Core) (n m : Nat) : (c.l1Shrink n m).quiet = c.quiet := rfl
@[simp] theorem Core.l1Shrink_ofs (c : Core) (n m : Nat) : (c.l1Shrink n m).ofs = c.ofs := rfl
@[simp] theorem Core.l1Shrink_settle (c : Core) (n m : Nat) : (c.l1Shrink n m).settle = c.settle := rfl
@[simp] theorem Core.l1Shrink_slew (c : Core) (n m : Nat) : (c.l1Shrink n m).slew = c.slew := rfl
@[simp] theorem Core.l1Shrink_quar (c : Core) (n m : Nat) : (c.l1Shrink n m).quar = c.quar := rfl
@[simp] theorem Core.l1Shrink_escal (c : Core) (n m : Nat) : (c.l1Shrink n m).escal = c.escal := rfl
@[simp] theorem Core.l1Shrink_tecnt (c : Core) (n m : Nat) : (c.l1Shrink n m).tecnt = c.tecnt := rfl
@[simp] theorem Core.l1Shrink_win (c : Core) (n m : Nat) : (c.l1Shrink n m).win = c.win := rfl
@[simp] theorem Core.l1Shrink_stepped (c : Core) (n m : Nat) : (c.l1Shrink n m).stepped = c.stepped := rfl
@[simp] theorem Core.l1Shrink_replim (c : Core) (n m : Nat) : (c.l1Shrink n m).replim = c.replim := rfl
@[simp] theorem Core.l1Shrink_limpcyc (c : Core) (n m : Nat) : (c.l1Shrink n m).limpcyc = c.limpcyc := rfl
@[simp] theorem Core.l1Shrink_escstep (c : Core) (n m : Nat) : (c.l1Shrink n m).escstep = c.escstep := rfl
@[simp] theorem Core.l1Shrink_qthr (c : Core) (n m : Nat) : (c.l1Shrink n m).qthr = c.qthr := rfl
@[simp] theorem Core.l1Shrink_qcount (c : Core) (n m : Nat) : (c.l1Shrink n m).qcount = c.qcount := rfl
@[simp] theorem Core.l1Shrink_qposted (c : Core) (n m : Nat) : (c.l1Shrink n m).qposted = c.qposted := rfl
@[simp] theorem Core.l1Shrink_cmps (c : Core) (n m : Nat) : (c.l1Shrink n m).cmps = c.cmps := rfl
@[simp] theorem Core.l1Shrink_smp (c : Core) (n m : Nat) : (c.l1Shrink n m).smp = c.smp := rfl
@[simp] theorem Core.l1Shrink_tagctl (c : Core) (n m : Nat) : (c.l1Shrink n m).tagctl = c.tagctl := rfl
@[simp] theorem Core.l1Shrink_tagcnt (c : Core) (n m : Nat) : (c.l1Shrink n m).tagcnt = c.tagcnt := rfl
@[simp] theorem Core.l1Shrink_trcmask (c : Core) (n m : Nat) : (c.l1Shrink n m).trcmask = c.trcmask := rfl
@[simp] theorem Core.l1Shrink_trgStart (c : Core) (n m : Nat) : (c.l1Shrink n m).trgStart = c.trgStart := rfl
@[simp] theorem Core.l1Shrink_trgStop (c : Core) (n m : Nat) : (c.l1Shrink n m).trgStop = c.trgStop := rfl
@[simp] theorem Core.l1Shrink_trgState (c : Core) (n m : Nat) : (c.l1Shrink n m).trgState = c.trgState := rfl
@[simp] theorem Core.l1Shrink_trgLast (c : Core) (n m : Nat) : (c.l1Shrink n m).trgLast = c.trgLast := rfl
@[simp] theorem Core.l1Shrink_lost (c : Core) (n m : Nat) : (c.l1Shrink n m).lost = c.lost := rfl
@[simp] theorem Core.l1Shrink_cmdseq (c : Core) (n m : Nat) : (c.l1Shrink n m).cmdseq = c.cmdseq := rfl
@[simp] theorem Core.l1Shrink_cvt (c : Core) (n m : Nat) : (c.l1Shrink n m).cvt = c.cvt := rfl
@[simp] theorem Core.l1Shrink_ops (c : Core) (n m : Nat) : (c.l1Shrink n m).ops = c.ops := rfl
@[simp] theorem Core.l1Shrink_cmds (c : Core) (n m : Nat) : (c.l1Shrink n m).cmds = c.cmds := rfl
@[simp] theorem Core.l1Shrink_loops (c : Core) (n m : Nat) : (c.l1Shrink n m).loops = c.loops := rfl
@[simp] theorem Core.l1Shrink_pipes (c : Core) (n m : Nat) : (c.l1Shrink n m).pipes = c.pipes := rfl
@[simp] theorem Core.l1Shrink_inst (c : Core) (n m : Nat) : (c.l1Shrink n m).inst = c.inst := rfl
@[simp] theorem Core.l1Shrink_wakeid (c : Core) (n m : Nat) : (c.l1Shrink n m).wakeid = c.wakeid := rfl
@[simp] theorem Core.l1Shrink_dbgsel (c : Core) (n m : Nat) : (c.l1Shrink n m).dbgsel = c.dbgsel := rfl
@[simp] theorem Core.l1Shrink_dbgvsel (c : Core) (n m : Nat) : (c.l1Shrink n m).dbgvsel = c.dbgvsel := rfl
@[simp] theorem Core.l1Shrink_dbgsaddr (c : Core) (n m : Nat) : (c.l1Shrink n m).dbgsaddr = c.dbgsaddr := rfl
@[simp] theorem Team.modGrp_lid (t : Team) (n : Nat) (f : Group → Group) : (t.modGrp n f).lid = t.lid := rfl
@[simp] theorem Team.modGrp_desc (t : Team) (n : Nat) (f : Group → Group) : (t.modGrp n f).desc = t.desc := rfl
@[simp] theorem Team.modGrp_ctx (t : Team) (n : Nat) (f : Group → Group) : (t.modGrp n f).ctx = t.ctx := rfl
@[simp] theorem Team.modGrp_prio (t : Team) (n : Nat) (f : Group → Group) : (t.modGrp n f).prio = t.prio := rfl
@[simp] theorem Team.modGrp_idx (t : Team) (n : Nat) (f : Group → Group) : (t.modGrp n f).idx = t.idx := rfl
@[simp] theorem Team.modGrp_x (t : Team) (n : Nat) (f : Group → Group) : (t.modGrp n f).x = t.x := rfl
@[simp] theorem Team.modGrp_y (t : Team) (n : Nat) (f : Group → Group) : (t.modGrp n f).y = t.y := rfl
@[simp] theorem Team.modGrp_z (t : Team) (n : Nat) (f : Group → Group) : (t.modGrp n f).z = t.z := rfl
@[simp] theorem Team.modGrp_age (t : Team) (n : Nat) (f : Group → Group) : (t.modGrp n f).age = t.age := rfl
@[simp] theorem Team.modGrp_place (t : Team) (n : Nat) (f : Group → Group) : (t.modGrp n f).place = t.place := rfl
@[simp] theorem Team.modGrp_lastCore (t : Team) (n : Nat) (f : Group → Group) : (t.modGrp n f).lastCore = t.lastCore := rfl
@[simp] theorem Team.modGrp_regs (t : Team) (n : Nat) (f : Group → Group) : (t.modGrp n f).regs = t.regs := rfl
@[simp] theorem Team.modGrp_scrGran (t : Team) (n : Nat) (f : Group → Group) : (t.modGrp n f).scrGran = t.scrGran := rfl
@[simp] theorem Team.modGrp_views (t : Team) (n : Nat) (f : Group → Group) : (t.modGrp n f).views = t.views := rfl
@[simp] theorem Team.modGrp_bars (t : Team) (n : Nat) (f : Group → Group) : (t.modGrp n f).bars = t.bars := rfl
@[simp] theorem Team.modGrp_grants (t : Team) (n : Nat) (f : Group → Group) : (t.modGrp n f).grants = t.grants := rfl
@[simp] theorem Team.modGrp_scr (t : Team) (n : Nat) (f : Group → Group) : (t.modGrp n f).scr = t.scr := rfl
@[simp] theorem Team.modGrp_bad (t : Team) (n : Nat) (f : Group → Group) : (t.modGrp n f).bad = t.bad := rfl
@[simp] theorem Team.modGrp_absent (t : Team) (n : Nat) (f : Group → Group) : (t.modGrp n f).absent = t.absent := rfl
@[simp] theorem Team.modGrp_carve (t : Team) (n : Nat) (f : Group → Group) : (t.modGrp n f).carve = t.carve := rfl
@[simp] theorem Team.modGrp_granted (t : Team) (n : Nat) (f : Group → Group) : (t.modGrp n f).granted = t.granted := rfl
@[simp] theorem Team.modGrp_dbgBit (t : Team) (n : Nat) (f : Group → Group) : (t.modGrp n f).dbgBit = t.dbgBit := rfl
@[simp] theorem Team.modGrp_undo (t : Team) (n : Nat) (f : Group → Group) : (t.modGrp n f).undo = t.undo := rfl
@[simp] theorem Team.modGrp_stopping (t : Team) (n : Nat) (f : Group → Group) : (t.modGrp n f).stopping = t.stopping := rfl
@[simp] theorem Team.modGrp_why (t : Team) (n : Nat) (f : Group → Group) : (t.modGrp n f).why = t.why := rfl
@[simp] theorem Team.modGrp_fsHw (t : Team) (n : Nat) (f : Group → Group) : (t.modGrp n f).fsHw = t.fsHw := rfl
@[simp] theorem Team.modGrp_mgnHw (t : Team) (n : Nat) (f : Group → Group) : (t.modGrp n f).mgnHw = t.mgnHw := rfl
@[simp] theorem Team.modGrp_trcBuf (t : Team) (n : Nat) (f : Group → Group) : (t.modGrp n f).trcBuf = t.trcBuf := rfl
@[simp] theorem Team.modGrp_frame (t : Team) (n : Nat) (f : Group → Group) : (t.modGrp n f).frame = t.frame := rfl
@[simp] theorem Team.scrWr_lid (t : Team) (o : Nat) (x : Byte) : (t.scrWr o x).lid = t.lid := rfl
@[simp] theorem Team.scrWr_desc (t : Team) (o : Nat) (x : Byte) : (t.scrWr o x).desc = t.desc := rfl
@[simp] theorem Team.scrWr_ctx (t : Team) (o : Nat) (x : Byte) : (t.scrWr o x).ctx = t.ctx := rfl
@[simp] theorem Team.scrWr_prio (t : Team) (o : Nat) (x : Byte) : (t.scrWr o x).prio = t.prio := rfl
@[simp] theorem Team.scrWr_idx (t : Team) (o : Nat) (x : Byte) : (t.scrWr o x).idx = t.idx := rfl
@[simp] theorem Team.scrWr_x (t : Team) (o : Nat) (x : Byte) : (t.scrWr o x).x = t.x := rfl
@[simp] theorem Team.scrWr_y (t : Team) (o : Nat) (x : Byte) : (t.scrWr o x).y = t.y := rfl
@[simp] theorem Team.scrWr_z (t : Team) (o : Nat) (x : Byte) : (t.scrWr o x).z = t.z := rfl
@[simp] theorem Team.scrWr_age (t : Team) (o : Nat) (x : Byte) : (t.scrWr o x).age = t.age := rfl
@[simp] theorem Team.scrWr_place (t : Team) (o : Nat) (x : Byte) : (t.scrWr o x).place = t.place := rfl
@[simp] theorem Team.scrWr_lastCore (t : Team) (o : Nat) (x : Byte) : (t.scrWr o x).lastCore = t.lastCore := rfl
@[simp] theorem Team.scrWr_groups (t : Team) (o : Nat) (x : Byte) : (t.scrWr o x).groups = t.groups := rfl
@[simp] theorem Team.scrWr_regs (t : Team) (o : Nat) (x : Byte) : (t.scrWr o x).regs = t.regs := rfl
@[simp] theorem Team.scrWr_scrGran (t : Team) (o : Nat) (x : Byte) : (t.scrWr o x).scrGran = t.scrGran := rfl
@[simp] theorem Team.scrWr_views (t : Team) (o : Nat) (x : Byte) : (t.scrWr o x).views = t.views := rfl
@[simp] theorem Team.scrWr_bars (t : Team) (o : Nat) (x : Byte) : (t.scrWr o x).bars = t.bars := rfl
@[simp] theorem Team.scrWr_grants (t : Team) (o : Nat) (x : Byte) : (t.scrWr o x).grants = t.grants := rfl
@[simp] theorem Team.scrWr_bad (t : Team) (o : Nat) (x : Byte) : (t.scrWr o x).bad = t.bad := rfl
@[simp] theorem Team.scrWr_absent (t : Team) (o : Nat) (x : Byte) : (t.scrWr o x).absent = t.absent := rfl
@[simp] theorem Team.scrWr_carve (t : Team) (o : Nat) (x : Byte) : (t.scrWr o x).carve = t.carve := rfl
@[simp] theorem Team.scrWr_granted (t : Team) (o : Nat) (x : Byte) : (t.scrWr o x).granted = t.granted := rfl
@[simp] theorem Team.scrWr_dbgBit (t : Team) (o : Nat) (x : Byte) : (t.scrWr o x).dbgBit = t.dbgBit := rfl
@[simp] theorem Team.scrWr_undo (t : Team) (o : Nat) (x : Byte) : (t.scrWr o x).undo = t.undo := rfl
@[simp] theorem Team.scrWr_stopping (t : Team) (o : Nat) (x : Byte) : (t.scrWr o x).stopping = t.stopping := rfl
@[simp] theorem Team.scrWr_why (t : Team) (o : Nat) (x : Byte) : (t.scrWr o x).why = t.why := rfl
@[simp] theorem Team.scrWr_fsHw (t : Team) (o : Nat) (x : Byte) : (t.scrWr o x).fsHw = t.fsHw := rfl
@[simp] theorem Team.scrWr_mgnHw (t : Team) (o : Nat) (x : Byte) : (t.scrWr o x).mgnHw = t.mgnHw := rfl
@[simp] theorem Team.scrWr_trcBuf (t : Team) (o : Nat) (x : Byte) : (t.scrWr o x).trcBuf = t.trcBuf := rfl
@[simp] theorem Team.scrWr_frame (t : Team) (o : Nat) (x : Byte) : (t.scrWr o x).frame = t.frame := rfl
@[simp] theorem Team.present_lid (t : Team) (ls : List Nat) : (t.present ls).lid = t.lid := rfl
@[simp] theorem Team.present_desc (t : Team) (ls : List Nat) : (t.present ls).desc = t.desc := rfl
@[simp] theorem Team.present_ctx (t : Team) (ls : List Nat) : (t.present ls).ctx = t.ctx := rfl
@[simp] theorem Team.present_prio (t : Team) (ls : List Nat) : (t.present ls).prio = t.prio := rfl
@[simp] theorem Team.present_idx (t : Team) (ls : List Nat) : (t.present ls).idx = t.idx := rfl
@[simp] theorem Team.present_x (t : Team) (ls : List Nat) : (t.present ls).x = t.x := rfl
@[simp] theorem Team.present_y (t : Team) (ls : List Nat) : (t.present ls).y = t.y := rfl
@[simp] theorem Team.present_z (t : Team) (ls : List Nat) : (t.present ls).z = t.z := rfl
@[simp] theorem Team.present_age (t : Team) (ls : List Nat) : (t.present ls).age = t.age := rfl
@[simp] theorem Team.present_place (t : Team) (ls : List Nat) : (t.present ls).place = t.place := rfl
@[simp] theorem Team.present_lastCore (t : Team) (ls : List Nat) : (t.present ls).lastCore = t.lastCore := rfl
@[simp] theorem Team.present_groups (t : Team) (ls : List Nat) : (t.present ls).groups = t.groups := rfl
@[simp] theorem Team.present_regs (t : Team) (ls : List Nat) : (t.present ls).regs = t.regs := rfl
@[simp] theorem Team.present_scrGran (t : Team) (ls : List Nat) : (t.present ls).scrGran = t.scrGran := rfl
@[simp] theorem Team.present_views (t : Team) (ls : List Nat) : (t.present ls).views = t.views := rfl
@[simp] theorem Team.present_bars (t : Team) (ls : List Nat) : (t.present ls).bars = t.bars := rfl
@[simp] theorem Team.present_grants (t : Team) (ls : List Nat) : (t.present ls).grants = t.grants := rfl
@[simp] theorem Team.present_scr (t : Team) (ls : List Nat) : (t.present ls).scr = t.scr := rfl
@[simp] theorem Team.present_bad (t : Team) (ls : List Nat) : (t.present ls).bad = t.bad := rfl
@[simp] theorem Team.present_carve (t : Team) (ls : List Nat) : (t.present ls).carve = t.carve := rfl
@[simp] theorem Team.present_granted (t : Team) (ls : List Nat) : (t.present ls).granted = t.granted := rfl
@[simp] theorem Team.present_dbgBit (t : Team) (ls : List Nat) : (t.present ls).dbgBit = t.dbgBit := rfl
@[simp] theorem Team.present_undo (t : Team) (ls : List Nat) : (t.present ls).undo = t.undo := rfl
@[simp] theorem Team.present_stopping (t : Team) (ls : List Nat) : (t.present ls).stopping = t.stopping := rfl
@[simp] theorem Team.present_why (t : Team) (ls : List Nat) : (t.present ls).why = t.why := rfl
@[simp] theorem Team.present_fsHw (t : Team) (ls : List Nat) : (t.present ls).fsHw = t.fsHw := rfl
@[simp] theorem Team.present_mgnHw (t : Team) (ls : List Nat) : (t.present ls).mgnHw = t.mgnHw := rfl
@[simp] theorem Team.present_trcBuf (t : Team) (ls : List Nat) : (t.present ls).trcBuf = t.trcBuf := rfl
@[simp] theorem Team.present_frame (t : Team) (ls : List Nat) : (t.present ls).frame = t.frame := rfl
@[simp] theorem Team.clearLines_lid (t : Team) (ls : List Nat) : (t.clearLines ls).lid = t.lid := rfl
@[simp] theorem Team.clearLines_desc (t : Team) (ls : List Nat) : (t.clearLines ls).desc = t.desc := rfl
@[simp] theorem Team.clearLines_ctx (t : Team) (ls : List Nat) : (t.clearLines ls).ctx = t.ctx := rfl
@[simp] theorem Team.clearLines_prio (t : Team) (ls : List Nat) : (t.clearLines ls).prio = t.prio := rfl
@[simp] theorem Team.clearLines_idx (t : Team) (ls : List Nat) : (t.clearLines ls).idx = t.idx := rfl
@[simp] theorem Team.clearLines_x (t : Team) (ls : List Nat) : (t.clearLines ls).x = t.x := rfl
@[simp] theorem Team.clearLines_y (t : Team) (ls : List Nat) : (t.clearLines ls).y = t.y := rfl
@[simp] theorem Team.clearLines_z (t : Team) (ls : List Nat) : (t.clearLines ls).z = t.z := rfl
@[simp] theorem Team.clearLines_age (t : Team) (ls : List Nat) : (t.clearLines ls).age = t.age := rfl
@[simp] theorem Team.clearLines_place (t : Team) (ls : List Nat) : (t.clearLines ls).place = t.place := rfl
@[simp] theorem Team.clearLines_lastCore (t : Team) (ls : List Nat) : (t.clearLines ls).lastCore = t.lastCore := rfl
@[simp] theorem Team.clearLines_groups (t : Team) (ls : List Nat) : (t.clearLines ls).groups = t.groups := rfl
@[simp] theorem Team.clearLines_regs (t : Team) (ls : List Nat) : (t.clearLines ls).regs = t.regs := rfl
@[simp] theorem Team.clearLines_scrGran (t : Team) (ls : List Nat) : (t.clearLines ls).scrGran = t.scrGran := rfl
@[simp] theorem Team.clearLines_views (t : Team) (ls : List Nat) : (t.clearLines ls).views = t.views := rfl
@[simp] theorem Team.clearLines_bars (t : Team) (ls : List Nat) : (t.clearLines ls).bars = t.bars := rfl
@[simp] theorem Team.clearLines_grants (t : Team) (ls : List Nat) : (t.clearLines ls).grants = t.grants := rfl
@[simp] theorem Team.clearLines_scr (t : Team) (ls : List Nat) : (t.clearLines ls).scr = t.scr := rfl
@[simp] theorem Team.clearLines_bad (t : Team) (ls : List Nat) : (t.clearLines ls).bad = t.bad := rfl
@[simp] theorem Team.clearLines_carve (t : Team) (ls : List Nat) : (t.clearLines ls).carve = t.carve := rfl
@[simp] theorem Team.clearLines_granted (t : Team) (ls : List Nat) : (t.clearLines ls).granted = t.granted := rfl
@[simp] theorem Team.clearLines_dbgBit (t : Team) (ls : List Nat) : (t.clearLines ls).dbgBit = t.dbgBit := rfl
@[simp] theorem Team.clearLines_undo (t : Team) (ls : List Nat) : (t.clearLines ls).undo = t.undo := rfl
@[simp] theorem Team.clearLines_stopping (t : Team) (ls : List Nat) : (t.clearLines ls).stopping = t.stopping := rfl
@[simp] theorem Team.clearLines_why (t : Team) (ls : List Nat) : (t.clearLines ls).why = t.why := rfl
@[simp] theorem Team.clearLines_fsHw (t : Team) (ls : List Nat) : (t.clearLines ls).fsHw = t.fsHw := rfl
@[simp] theorem Team.clearLines_mgnHw (t : Team) (ls : List Nat) : (t.clearLines ls).mgnHw = t.mgnHw := rfl
@[simp] theorem Team.clearLines_trcBuf (t : Team) (ls : List Nat) : (t.clearLines ls).trcBuf = t.trcBuf := rfl
@[simp] theorem Team.clearLines_frame (t : Team) (ls : List Nat) : (t.clearLines ls).frame = t.frame := rfl

/-! A group. -/

@[simp] theorem Group.setV_ended (g : Group) (r l : Nat) (x : Lane) : (g.setV r l x).ended = g.ended := rfl
@[simp] theorem Group.setV_core (g : Group) (r l : Nat) (x : Lane) : (g.setV r l x).core = g.core := rfl
@[simp] theorem Group.setV_slice (g : Group) (r l : Nat) (x : Lane) : (g.setV r l x).slice = g.slice := rfl
@[simp] theorem Group.setV_p (g : Group) (r l : Nat) (x : Lane) : (g.setV r l x).p = g.p := rfl
@[simp] theorem Group.setV_g (g : Group) (r l : Nat) (x : Lane) : (g.setV r l x).g = g.g := rfl
@[simp] theorem Group.setV_gp (g : Group) (r l : Nat) (x : Lane) : (g.setV r l x).gp = g.gp := rfl
@[simp] theorem Group.setV_k (g : Group) (r l : Nat) (x : Lane) : (g.setV r l x).k = g.k := rfl
@[simp] theorem Group.setV_h (g : Group) (r l : Nat) (x : Lane) : (g.setV r l x).h = g.h := rfl
@[simp] theorem Group.setV_live (g : Group) (r l : Nat) (x : Lane) : (g.setV r l x).live = g.live := rfl
@[simp] theorem Group.setV_frags (g : Group) (r l : Nat) (x : Lane) : (g.setV r l x).frags = g.frags := rfl
@[simp] theorem Group.setV_splits (g : Group) (r l : Nat) (x : Lane) : (g.setV r l x).splits = g.splits := rfl
@[simp] theorem Group.setV_meld (g : Group) (r l : Nat) (x : Lane) : (g.setV r l x).meld = g.meld := rfl
@[simp] theorem Group.setV_hmeld (g : Group) (r l : Nat) (x : Lane) : (g.setV r l x).hmeld = g.hmeld := rfl
@[simp] theorem Group.setV_floor (g : Group) (r l : Nat) (x : Lane) : (g.setV r l x).floor = g.floor := rfl
@[simp] theorem Group.setV_hfloor (g : Group) (r l : Nat) (x : Lane) : (g.setV r l x).hfloor = g.hfloor := rfl
@[simp] theorem Group.setV_gstat (g : Group) (r l : Nat) (x : Lane) : (g.setV r l x).gstat = g.gstat := rfl
@[simp] theorem Group.setV_tarm (g : Group) (r l : Nat) (x : Lane) : (g.setV r l x).tarm = g.tarm := rfl
@[simp] theorem Group.setV_thr (g : Group) (r l : Nat) (x : Lane) : (g.setV r l x).thr = g.thr := rfl
@[simp] theorem Group.setV_thrp (g : Group) (r l : Nat) (x : Lane) : (g.setV r l x).thrp = g.thrp := rfl
@[simp] theorem Group.setV_evvec (g : Group) (r l : Nat) (x : Lane) : (g.setV r l x).evvec = g.evvec := rfl
@[simp] theorem Group.setV_tvec (g : Group) (r l : Nat) (x : Lane) : (g.setV r l x).tvec = g.tvec := rfl
@[simp] theorem Group.setV_tcause (g : Group) (r l : Nat) (x : Lane) : (g.setV r l x).tcause = g.tcause := rfl
@[simp] theorem Group.setV_tpc (g : Group) (r l : Nat) (x : Lane) : (g.setV r l x).tpc = g.tpc := rfl
@[simp] theorem Group.setV_tva (g : Group) (r l : Nat) (x : Lane) : (g.setV r l x).tva = g.tva := rfl
@[simp] theorem Group.setV_tlanes (g : Group) (r l : Nat) (x : Lane) : (g.setV r l x).tlanes = g.tlanes := rfl
@[simp] theorem Group.setV_tstat (g : Group) (r l : Nat) (x : Lane) : (g.setV r l x).tstat = g.tstat := rfl
@[simp] theorem Group.setV_hsa (g : Group) (r l : Nat) (x : Lane) : (g.setV r l x).hsa = g.hsa := rfl
@[simp] theorem Group.setV_tnext (g : Group) (r l : Nat) (x : Lane) : (g.setV r l x).tnext = g.tnext := rfl
@[simp] theorem Group.setV_te (g : Group) (r l : Nat) (x : Lane) : (g.setV r l x).te = g.te := rfl
@[simp] theorem Group.setV_stepOn (g : Group) (r l : Nat) (x : Lane) : (g.setV r l x).stepOn = g.stepOn := rfl
@[simp] theorem Group.setV_stopped (g : Group) (r l : Nat) (x : Lane) : (g.setV r l x).stopped = g.stopped := rfl
@[simp] theorem Group.setV_stopCause (g : Group) (r l : Nat) (x : Lane) : (g.setV r l x).stopCause = g.stopCause := rfl
@[simp] theorem Group.setV_hzn (g : Group) (r l : Nat) (x : Lane) : (g.setV r l x).hzn = g.hzn := rfl
@[simp] theorem Group.setV_lp (g : Group) (r l : Nat) (x : Lane) : (g.setV r l x).lp = g.lp := rfl
@[simp] theorem Group.setV_holds (g : Group) (r l : Nat) (x : Lane) : (g.setV r l x).holds = g.holds := rfl
@[simp] theorem Group.setV_hnd (g : Group) (r l : Nat) (x : Lane) : (g.setV r l x).hnd = g.hnd := rfl
@[simp] theorem Group.setV_halted (g : Group) (r l : Nat) (x : Lane) : (g.setV r l x).halted = g.halted := rfl
@[simp] theorem Group.setV_haltRec (g : Group) (r l : Nat) (x : Lane) : (g.setV r l x).haltRec = g.haltRec := rfl
@[simp] theorem Group.setV_haltKey (g : Group) (r l : Nat) (x : Lane) : (g.setV r l x).haltKey = g.haltKey := rfl
@[simp] theorem Group.setV_idle (g : Group) (r l : Nat) (x : Lane) : (g.setV r l x).idle = g.idle := rfl
@[simp] theorem Group.setV_wake (g : Group) (r l : Nat) (x : Lane) : (g.setV r l x).wake = g.wake := rfl
@[simp] theorem Group.setV_heldWake (g : Group) (r l : Nat) (x : Lane) : (g.setV r l x).heldWake = g.heldWake := rfl
@[simp] theorem Group.setV_loops (g : Group) (r l : Nat) (x : Lane) : (g.setV r l x).loops = g.loops := rfl
@[simp] theorem Group.setV_lastTrap (g : Group) (r l : Nat) (x : Lane) : (g.setV r l x).lastTrap = g.lastTrap := rfl
@[simp] theorem Group.setV_deferred (g : Group) (r l : Nat) (x : Lane) : (g.setV r l x).deferred = g.deferred := rfl
@[simp] theorem Group.setV_pend (g : Group) (r l : Nat) (x : Lane) : (g.setV r l x).pend = g.pend := rfl
@[simp] theorem Group.setV_carveGp (g : Group) (r l : Nat) (x : Lane) : (g.setV r l x).carveGp = g.carveGp := rfl
@[simp] theorem Group.setV_atCarve (g : Group) (r l : Nat) (x : Lane) : (g.setV r l x).atCarve = g.atCarve := rfl
@[simp] theorem Group.setV_loopA (g : Group) (r l : Nat) (x : Lane) : (g.setV r l x).loopA = g.loopA := rfl
@[simp] theorem Group.setV_loopB (g : Group) (r l : Nat) (x : Lane) : (g.setV r l x).loopB = g.loopB := rfl
@[simp] theorem Group.setV_halfLoop (g : Group) (r l : Nat) (x : Lane) : (g.setV r l x).halfLoop = g.halfLoop := rfl
@[simp] theorem Group.setV_nextKey (g : Group) (r l : Nat) (x : Lane) : (g.setV r l x).nextKey = g.nextKey := rfl
@[simp] theorem Group.setV_nextRec (g : Group) (r l : Nat) (x : Lane) : (g.setV r l x).nextRec = g.nextRec := rfl
@[simp] theorem Group.setV_hostRec (g : Group) (r l : Nat) (x : Lane) : (g.setV r l x).hostRec = g.hostRec := rfl
@[simp] theorem Group.setV_hostVec (g : Group) (r l : Nat) (x : Lane) : (g.setV r l x).hostVec = g.hostVec := rfl
@[simp] theorem Group.setV_hostScr (g : Group) (r l : Nat) (x : Lane) : (g.setV r l x).hostScr = g.hostScr := rfl
@[simp] theorem Group.setV_hostCmds (g : Group) (r l : Nat) (x : Lane) : (g.setV r l x).hostCmds = g.hostCmds := rfl
@[simp] theorem Group.setV64_ended (g : Group) (r l : Nat) (x : Word) : (g.setV64 r l x).ended = g.ended := rfl
@[simp] theorem Group.setV64_core (g : Group) (r l : Nat) (x : Word) : (g.setV64 r l x).core = g.core := rfl
@[simp] theorem Group.setV64_slice (g : Group) (r l : Nat) (x : Word) : (g.setV64 r l x).slice = g.slice := rfl
@[simp] theorem Group.setV64_p (g : Group) (r l : Nat) (x : Word) : (g.setV64 r l x).p = g.p := rfl
@[simp] theorem Group.setV64_g (g : Group) (r l : Nat) (x : Word) : (g.setV64 r l x).g = g.g := rfl
@[simp] theorem Group.setV64_gp (g : Group) (r l : Nat) (x : Word) : (g.setV64 r l x).gp = g.gp := rfl
@[simp] theorem Group.setV64_k (g : Group) (r l : Nat) (x : Word) : (g.setV64 r l x).k = g.k := rfl
@[simp] theorem Group.setV64_h (g : Group) (r l : Nat) (x : Word) : (g.setV64 r l x).h = g.h := rfl
@[simp] theorem Group.setV64_live (g : Group) (r l : Nat) (x : Word) : (g.setV64 r l x).live = g.live := rfl
@[simp] theorem Group.setV64_frags (g : Group) (r l : Nat) (x : Word) : (g.setV64 r l x).frags = g.frags := rfl
@[simp] theorem Group.setV64_splits (g : Group) (r l : Nat) (x : Word) : (g.setV64 r l x).splits = g.splits := rfl
@[simp] theorem Group.setV64_meld (g : Group) (r l : Nat) (x : Word) : (g.setV64 r l x).meld = g.meld := rfl
@[simp] theorem Group.setV64_hmeld (g : Group) (r l : Nat) (x : Word) : (g.setV64 r l x).hmeld = g.hmeld := rfl
@[simp] theorem Group.setV64_floor (g : Group) (r l : Nat) (x : Word) : (g.setV64 r l x).floor = g.floor := rfl
@[simp] theorem Group.setV64_hfloor (g : Group) (r l : Nat) (x : Word) : (g.setV64 r l x).hfloor = g.hfloor := rfl
@[simp] theorem Group.setV64_gstat (g : Group) (r l : Nat) (x : Word) : (g.setV64 r l x).gstat = g.gstat := rfl
@[simp] theorem Group.setV64_tarm (g : Group) (r l : Nat) (x : Word) : (g.setV64 r l x).tarm = g.tarm := rfl
@[simp] theorem Group.setV64_thr (g : Group) (r l : Nat) (x : Word) : (g.setV64 r l x).thr = g.thr := rfl
@[simp] theorem Group.setV64_thrp (g : Group) (r l : Nat) (x : Word) : (g.setV64 r l x).thrp = g.thrp := rfl
@[simp] theorem Group.setV64_evvec (g : Group) (r l : Nat) (x : Word) : (g.setV64 r l x).evvec = g.evvec := rfl
@[simp] theorem Group.setV64_tvec (g : Group) (r l : Nat) (x : Word) : (g.setV64 r l x).tvec = g.tvec := rfl
@[simp] theorem Group.setV64_tcause (g : Group) (r l : Nat) (x : Word) : (g.setV64 r l x).tcause = g.tcause := rfl
@[simp] theorem Group.setV64_tpc (g : Group) (r l : Nat) (x : Word) : (g.setV64 r l x).tpc = g.tpc := rfl
@[simp] theorem Group.setV64_tva (g : Group) (r l : Nat) (x : Word) : (g.setV64 r l x).tva = g.tva := rfl
@[simp] theorem Group.setV64_tlanes (g : Group) (r l : Nat) (x : Word) : (g.setV64 r l x).tlanes = g.tlanes := rfl
@[simp] theorem Group.setV64_tstat (g : Group) (r l : Nat) (x : Word) : (g.setV64 r l x).tstat = g.tstat := rfl
@[simp] theorem Group.setV64_hsa (g : Group) (r l : Nat) (x : Word) : (g.setV64 r l x).hsa = g.hsa := rfl
@[simp] theorem Group.setV64_tnext (g : Group) (r l : Nat) (x : Word) : (g.setV64 r l x).tnext = g.tnext := rfl
@[simp] theorem Group.setV64_te (g : Group) (r l : Nat) (x : Word) : (g.setV64 r l x).te = g.te := rfl
@[simp] theorem Group.setV64_stepOn (g : Group) (r l : Nat) (x : Word) : (g.setV64 r l x).stepOn = g.stepOn := rfl
@[simp] theorem Group.setV64_stopped (g : Group) (r l : Nat) (x : Word) : (g.setV64 r l x).stopped = g.stopped := rfl
@[simp] theorem Group.setV64_stopCause (g : Group) (r l : Nat) (x : Word) : (g.setV64 r l x).stopCause = g.stopCause := rfl
@[simp] theorem Group.setV64_hzn (g : Group) (r l : Nat) (x : Word) : (g.setV64 r l x).hzn = g.hzn := rfl
@[simp] theorem Group.setV64_lp (g : Group) (r l : Nat) (x : Word) : (g.setV64 r l x).lp = g.lp := rfl
@[simp] theorem Group.setV64_holds (g : Group) (r l : Nat) (x : Word) : (g.setV64 r l x).holds = g.holds := rfl
@[simp] theorem Group.setV64_hnd (g : Group) (r l : Nat) (x : Word) : (g.setV64 r l x).hnd = g.hnd := rfl
@[simp] theorem Group.setV64_halted (g : Group) (r l : Nat) (x : Word) : (g.setV64 r l x).halted = g.halted := rfl
@[simp] theorem Group.setV64_haltRec (g : Group) (r l : Nat) (x : Word) : (g.setV64 r l x).haltRec = g.haltRec := rfl
@[simp] theorem Group.setV64_haltKey (g : Group) (r l : Nat) (x : Word) : (g.setV64 r l x).haltKey = g.haltKey := rfl
@[simp] theorem Group.setV64_idle (g : Group) (r l : Nat) (x : Word) : (g.setV64 r l x).idle = g.idle := rfl
@[simp] theorem Group.setV64_wake (g : Group) (r l : Nat) (x : Word) : (g.setV64 r l x).wake = g.wake := rfl
@[simp] theorem Group.setV64_heldWake (g : Group) (r l : Nat) (x : Word) : (g.setV64 r l x).heldWake = g.heldWake := rfl
@[simp] theorem Group.setV64_loops (g : Group) (r l : Nat) (x : Word) : (g.setV64 r l x).loops = g.loops := rfl
@[simp] theorem Group.setV64_lastTrap (g : Group) (r l : Nat) (x : Word) : (g.setV64 r l x).lastTrap = g.lastTrap := rfl
@[simp] theorem Group.setV64_deferred (g : Group) (r l : Nat) (x : Word) : (g.setV64 r l x).deferred = g.deferred := rfl
@[simp] theorem Group.setV64_pend (g : Group) (r l : Nat) (x : Word) : (g.setV64 r l x).pend = g.pend := rfl
@[simp] theorem Group.setV64_carveGp (g : Group) (r l : Nat) (x : Word) : (g.setV64 r l x).carveGp = g.carveGp := rfl
@[simp] theorem Group.setV64_atCarve (g : Group) (r l : Nat) (x : Word) : (g.setV64 r l x).atCarve = g.atCarve := rfl
@[simp] theorem Group.setV64_loopA (g : Group) (r l : Nat) (x : Word) : (g.setV64 r l x).loopA = g.loopA := rfl
@[simp] theorem Group.setV64_loopB (g : Group) (r l : Nat) (x : Word) : (g.setV64 r l x).loopB = g.loopB := rfl
@[simp] theorem Group.setV64_halfLoop (g : Group) (r l : Nat) (x : Word) : (g.setV64 r l x).halfLoop = g.halfLoop := rfl
@[simp] theorem Group.setV64_nextKey (g : Group) (r l : Nat) (x : Word) : (g.setV64 r l x).nextKey = g.nextKey := rfl
@[simp] theorem Group.setV64_nextRec (g : Group) (r l : Nat) (x : Word) : (g.setV64 r l x).nextRec = g.nextRec := rfl
@[simp] theorem Group.setV64_hostRec (g : Group) (r l : Nat) (x : Word) : (g.setV64 r l x).hostRec = g.hostRec := rfl
@[simp] theorem Group.setV64_hostVec (g : Group) (r l : Nat) (x : Word) : (g.setV64 r l x).hostVec = g.hostVec := rfl
@[simp] theorem Group.setV64_hostScr (g : Group) (r l : Nat) (x : Word) : (g.setV64 r l x).hostScr = g.hostScr := rfl
@[simp] theorem Group.setV64_hostCmds (g : Group) (r l : Nat) (x : Word) : (g.setV64 r l x).hostCmds = g.hostCmds := rfl
@[simp] theorem Group.raise_ended (g : Group) (f : Flags) : (g.raise f).ended = g.ended := rfl
@[simp] theorem Group.raise_core (g : Group) (f : Flags) : (g.raise f).core = g.core := rfl
@[simp] theorem Group.raise_slice (g : Group) (f : Flags) : (g.raise f).slice = g.slice := rfl
@[simp] theorem Group.raise_v (g : Group) (f : Flags) : (g.raise f).v = g.v := rfl
@[simp] theorem Group.raise_p (g : Group) (f : Flags) : (g.raise f).p = g.p := rfl
@[simp] theorem Group.raise_g (g : Group) (f : Flags) : (g.raise f).g = g.g := rfl
@[simp] theorem Group.raise_gp (g : Group) (f : Flags) : (g.raise f).gp = g.gp := rfl
@[simp] theorem Group.raise_k (g : Group) (f : Flags) : (g.raise f).k = g.k := rfl
@[simp] theorem Group.raise_h (g : Group) (f : Flags) : (g.raise f).h = g.h := rfl
@[simp] theorem Group.raise_live (g : Group) (f : Flags) : (g.raise f).live = g.live := rfl
@[simp] theorem Group.raise_frags (g : Group) (f : Flags) : (g.raise f).frags = g.frags := rfl
@[simp] theorem Group.raise_splits (g : Group) (f : Flags) : (g.raise f).splits = g.splits := rfl
@[simp] theorem Group.raise_meld (g : Group) (f : Flags) : (g.raise f).meld = g.meld := rfl
@[simp] theorem Group.raise_hmeld (g : Group) (f : Flags) : (g.raise f).hmeld = g.hmeld := rfl
@[simp] theorem Group.raise_floor (g : Group) (f : Flags) : (g.raise f).floor = g.floor := rfl
@[simp] theorem Group.raise_hfloor (g : Group) (f : Flags) : (g.raise f).hfloor = g.hfloor := rfl
@[simp] theorem Group.raise_tarm (g : Group) (f : Flags) : (g.raise f).tarm = g.tarm := rfl
@[simp] theorem Group.raise_thr (g : Group) (f : Flags) : (g.raise f).thr = g.thr := rfl
@[simp] theorem Group.raise_thrp (g : Group) (f : Flags) : (g.raise f).thrp = g.thrp := rfl
@[simp] theorem Group.raise_evvec (g : Group) (f : Flags) : (g.raise f).evvec = g.evvec := rfl
@[simp] theorem Group.raise_tvec (g : Group) (f : Flags) : (g.raise f).tvec = g.tvec := rfl
@[simp] theorem Group.raise_tcause (g : Group) (f : Flags) : (g.raise f).tcause = g.tcause := rfl
@[simp] theorem Group.raise_tpc (g : Group) (f : Flags) : (g.raise f).tpc = g.tpc := rfl
@[simp] theorem Group.raise_tva (g : Group) (f : Flags) : (g.raise f).tva = g.tva := rfl
@[simp] theorem Group.raise_tlanes (g : Group) (f : Flags) : (g.raise f).tlanes = g.tlanes := rfl
@[simp] theorem Group.raise_tstat (g : Group) (f : Flags) : (g.raise f).tstat = g.tstat := rfl
@[simp] theorem Group.raise_hsa (g : Group) (f : Flags) : (g.raise f).hsa = g.hsa := rfl
@[simp] theorem Group.raise_tnext (g : Group) (f : Flags) : (g.raise f).tnext = g.tnext := rfl
@[simp] theorem Group.raise_te (g : Group) (f : Flags) : (g.raise f).te = g.te := rfl
@[simp] theorem Group.raise_stepOn (g : Group) (f : Flags) : (g.raise f).stepOn = g.stepOn := rfl
@[simp] theorem Group.raise_stopped (g : Group) (f : Flags) : (g.raise f).stopped = g.stopped := rfl
@[simp] theorem Group.raise_stopCause (g : Group) (f : Flags) : (g.raise f).stopCause = g.stopCause := rfl
@[simp] theorem Group.raise_hzn (g : Group) (f : Flags) : (g.raise f).hzn = g.hzn := rfl
@[simp] theorem Group.raise_lp (g : Group) (f : Flags) : (g.raise f).lp = g.lp := rfl
@[simp] theorem Group.raise_holds (g : Group) (f : Flags) : (g.raise f).holds = g.holds := rfl
@[simp] theorem Group.raise_hnd (g : Group) (f : Flags) : (g.raise f).hnd = g.hnd := rfl
@[simp] theorem Group.raise_halted (g : Group) (f : Flags) : (g.raise f).halted = g.halted := rfl
@[simp] theorem Group.raise_haltRec (g : Group) (f : Flags) : (g.raise f).haltRec = g.haltRec := rfl
@[simp] theorem Group.raise_haltKey (g : Group) (f : Flags) : (g.raise f).haltKey = g.haltKey := rfl
@[simp] theorem Group.raise_idle (g : Group) (f : Flags) : (g.raise f).idle = g.idle := rfl
@[simp] theorem Group.raise_wake (g : Group) (f : Flags) : (g.raise f).wake = g.wake := rfl
@[simp] theorem Group.raise_heldWake (g : Group) (f : Flags) : (g.raise f).heldWake = g.heldWake := rfl
@[simp] theorem Group.raise_loops (g : Group) (f : Flags) : (g.raise f).loops = g.loops := rfl
@[simp] theorem Group.raise_lastTrap (g : Group) (f : Flags) : (g.raise f).lastTrap = g.lastTrap := rfl
@[simp] theorem Group.raise_deferred (g : Group) (f : Flags) : (g.raise f).deferred = g.deferred := rfl
@[simp] theorem Group.raise_pend (g : Group) (f : Flags) : (g.raise f).pend = g.pend := rfl
@[simp] theorem Group.raise_carveGp (g : Group) (f : Flags) : (g.raise f).carveGp = g.carveGp := rfl
@[simp] theorem Group.raise_atCarve (g : Group) (f : Flags) : (g.raise f).atCarve = g.atCarve := rfl
@[simp] theorem Group.raise_loopA (g : Group) (f : Flags) : (g.raise f).loopA = g.loopA := rfl
@[simp] theorem Group.raise_loopB (g : Group) (f : Flags) : (g.raise f).loopB = g.loopB := rfl
@[simp] theorem Group.raise_halfLoop (g : Group) (f : Flags) : (g.raise f).halfLoop = g.halfLoop := rfl
@[simp] theorem Group.raise_nextKey (g : Group) (f : Flags) : (g.raise f).nextKey = g.nextKey := rfl
@[simp] theorem Group.raise_nextRec (g : Group) (f : Flags) : (g.raise f).nextRec = g.nextRec := rfl
@[simp] theorem Group.raise_hostRec (g : Group) (f : Flags) : (g.raise f).hostRec = g.hostRec := rfl
@[simp] theorem Group.raise_hostVec (g : Group) (f : Flags) : (g.raise f).hostVec = g.hostVec := rfl
@[simp] theorem Group.raise_hostScr (g : Group) (f : Flags) : (g.raise f).hostScr = g.hostScr := rfl
@[simp] theorem Group.raise_hostCmds (g : Group) (f : Flags) : (g.raise f).hostCmds = g.hostCmds := rfl
@[simp] theorem Group.modFrag_ended (g : Group) (k : Nat) (f : Frag → Frag) : (g.modFrag k f).ended = g.ended := rfl
@[simp] theorem Group.modFrag_core (g : Group) (k : Nat) (f : Frag → Frag) : (g.modFrag k f).core = g.core := rfl
@[simp] theorem Group.modFrag_slice (g : Group) (k : Nat) (f : Frag → Frag) : (g.modFrag k f).slice = g.slice := rfl
@[simp] theorem Group.modFrag_v (g : Group) (k : Nat) (f : Frag → Frag) : (g.modFrag k f).v = g.v := rfl
@[simp] theorem Group.modFrag_p (g : Group) (k : Nat) (f : Frag → Frag) : (g.modFrag k f).p = g.p := rfl
@[simp] theorem Group.modFrag_g (g : Group) (k : Nat) (f : Frag → Frag) : (g.modFrag k f).g = g.g := rfl
@[simp] theorem Group.modFrag_gp (g : Group) (k : Nat) (f : Frag → Frag) : (g.modFrag k f).gp = g.gp := rfl
@[simp] theorem Group.modFrag_k (g : Group) (k : Nat) (f : Frag → Frag) : (g.modFrag k f).k = g.k := rfl
@[simp] theorem Group.modFrag_h (g : Group) (k : Nat) (f : Frag → Frag) : (g.modFrag k f).h = g.h := rfl
@[simp] theorem Group.modFrag_live (g : Group) (k : Nat) (f : Frag → Frag) : (g.modFrag k f).live = g.live := rfl
@[simp] theorem Group.modFrag_splits (g : Group) (k : Nat) (f : Frag → Frag) : (g.modFrag k f).splits = g.splits := rfl
@[simp] theorem Group.modFrag_meld (g : Group) (k : Nat) (f : Frag → Frag) : (g.modFrag k f).meld = g.meld := rfl
@[simp] theorem Group.modFrag_hmeld (g : Group) (k : Nat) (f : Frag → Frag) : (g.modFrag k f).hmeld = g.hmeld := rfl
@[simp] theorem Group.modFrag_floor (g : Group) (k : Nat) (f : Frag → Frag) : (g.modFrag k f).floor = g.floor := rfl
@[simp] theorem Group.modFrag_hfloor (g : Group) (k : Nat) (f : Frag → Frag) : (g.modFrag k f).hfloor = g.hfloor := rfl
@[simp] theorem Group.modFrag_gstat (g : Group) (k : Nat) (f : Frag → Frag) : (g.modFrag k f).gstat = g.gstat := rfl
@[simp] theorem Group.modFrag_tarm (g : Group) (k : Nat) (f : Frag → Frag) : (g.modFrag k f).tarm = g.tarm := rfl
@[simp] theorem Group.modFrag_thr (g : Group) (k : Nat) (f : Frag → Frag) : (g.modFrag k f).thr = g.thr := rfl
@[simp] theorem Group.modFrag_thrp (g : Group) (k : Nat) (f : Frag → Frag) : (g.modFrag k f).thrp = g.thrp := rfl
@[simp] theorem Group.modFrag_evvec (g : Group) (k : Nat) (f : Frag → Frag) : (g.modFrag k f).evvec = g.evvec := rfl
@[simp] theorem Group.modFrag_tvec (g : Group) (k : Nat) (f : Frag → Frag) : (g.modFrag k f).tvec = g.tvec := rfl
@[simp] theorem Group.modFrag_tcause (g : Group) (k : Nat) (f : Frag → Frag) : (g.modFrag k f).tcause = g.tcause := rfl
@[simp] theorem Group.modFrag_tpc (g : Group) (k : Nat) (f : Frag → Frag) : (g.modFrag k f).tpc = g.tpc := rfl
@[simp] theorem Group.modFrag_tva (g : Group) (k : Nat) (f : Frag → Frag) : (g.modFrag k f).tva = g.tva := rfl
@[simp] theorem Group.modFrag_tlanes (g : Group) (k : Nat) (f : Frag → Frag) : (g.modFrag k f).tlanes = g.tlanes := rfl
@[simp] theorem Group.modFrag_tstat (g : Group) (k : Nat) (f : Frag → Frag) : (g.modFrag k f).tstat = g.tstat := rfl
@[simp] theorem Group.modFrag_hsa (g : Group) (k : Nat) (f : Frag → Frag) : (g.modFrag k f).hsa = g.hsa := rfl
@[simp] theorem Group.modFrag_tnext (g : Group) (k : Nat) (f : Frag → Frag) : (g.modFrag k f).tnext = g.tnext := rfl
@[simp] theorem Group.modFrag_te (g : Group) (k : Nat) (f : Frag → Frag) : (g.modFrag k f).te = g.te := rfl
@[simp] theorem Group.modFrag_stepOn (g : Group) (k : Nat) (f : Frag → Frag) : (g.modFrag k f).stepOn = g.stepOn := rfl
@[simp] theorem Group.modFrag_stopped (g : Group) (k : Nat) (f : Frag → Frag) : (g.modFrag k f).stopped = g.stopped := rfl
@[simp] theorem Group.modFrag_stopCause (g : Group) (k : Nat) (f : Frag → Frag) : (g.modFrag k f).stopCause = g.stopCause := rfl
@[simp] theorem Group.modFrag_hzn (g : Group) (k : Nat) (f : Frag → Frag) : (g.modFrag k f).hzn = g.hzn := rfl
@[simp] theorem Group.modFrag_lp (g : Group) (k : Nat) (f : Frag → Frag) : (g.modFrag k f).lp = g.lp := rfl
@[simp] theorem Group.modFrag_holds (g : Group) (k : Nat) (f : Frag → Frag) : (g.modFrag k f).holds = g.holds := rfl
@[simp] theorem Group.modFrag_hnd (g : Group) (k : Nat) (f : Frag → Frag) : (g.modFrag k f).hnd = g.hnd := rfl
@[simp] theorem Group.modFrag_halted (g : Group) (k : Nat) (f : Frag → Frag) : (g.modFrag k f).halted = g.halted := rfl
@[simp] theorem Group.modFrag_haltRec (g : Group) (k : Nat) (f : Frag → Frag) : (g.modFrag k f).haltRec = g.haltRec := rfl
@[simp] theorem Group.modFrag_haltKey (g : Group) (k : Nat) (f : Frag → Frag) : (g.modFrag k f).haltKey = g.haltKey := rfl
@[simp] theorem Group.modFrag_idle (g : Group) (k : Nat) (f : Frag → Frag) : (g.modFrag k f).idle = g.idle := rfl
@[simp] theorem Group.modFrag_wake (g : Group) (k : Nat) (f : Frag → Frag) : (g.modFrag k f).wake = g.wake := rfl
@[simp] theorem Group.modFrag_heldWake (g : Group) (k : Nat) (f : Frag → Frag) : (g.modFrag k f).heldWake = g.heldWake := rfl
@[simp] theorem Group.modFrag_loops (g : Group) (k : Nat) (f : Frag → Frag) : (g.modFrag k f).loops = g.loops := rfl
@[simp] theorem Group.modFrag_lastTrap (g : Group) (k : Nat) (f : Frag → Frag) : (g.modFrag k f).lastTrap = g.lastTrap := rfl
@[simp] theorem Group.modFrag_deferred (g : Group) (k : Nat) (f : Frag → Frag) : (g.modFrag k f).deferred = g.deferred := rfl
@[simp] theorem Group.modFrag_pend (g : Group) (k : Nat) (f : Frag → Frag) : (g.modFrag k f).pend = g.pend := rfl
@[simp] theorem Group.modFrag_carveGp (g : Group) (k : Nat) (f : Frag → Frag) : (g.modFrag k f).carveGp = g.carveGp := rfl
@[simp] theorem Group.modFrag_atCarve (g : Group) (k : Nat) (f : Frag → Frag) : (g.modFrag k f).atCarve = g.atCarve := rfl
@[simp] theorem Group.modFrag_loopA (g : Group) (k : Nat) (f : Frag → Frag) : (g.modFrag k f).loopA = g.loopA := rfl
@[simp] theorem Group.modFrag_loopB (g : Group) (k : Nat) (f : Frag → Frag) : (g.modFrag k f).loopB = g.loopB := rfl
@[simp] theorem Group.modFrag_halfLoop (g : Group) (k : Nat) (f : Frag → Frag) : (g.modFrag k f).halfLoop = g.halfLoop := rfl
@[simp] theorem Group.modFrag_nextKey (g : Group) (k : Nat) (f : Frag → Frag) : (g.modFrag k f).nextKey = g.nextKey := rfl
@[simp] theorem Group.modFrag_nextRec (g : Group) (k : Nat) (f : Frag → Frag) : (g.modFrag k f).nextRec = g.nextRec := rfl
@[simp] theorem Group.modFrag_hostRec (g : Group) (k : Nat) (f : Frag → Frag) : (g.modFrag k f).hostRec = g.hostRec := rfl
@[simp] theorem Group.modFrag_hostVec (g : Group) (k : Nat) (f : Frag → Frag) : (g.modFrag k f).hostVec = g.hostVec := rfl
@[simp] theorem Group.modFrag_hostScr (g : Group) (k : Nat) (f : Frag → Frag) : (g.modFrag k f).hostScr = g.hostScr := rfl
@[simp] theorem Group.modFrag_hostCmds (g : Group) (k : Nat) (f : Frag → Frag) : (g.modFrag k f).hostCmds = g.hostCmds := rfl
@[simp] theorem Group.setTrap_ended (g : Group) (c : Cause) (ti : TrapInfo) : (g.setTrap c ti).ended = g.ended := rfl
@[simp] theorem Group.setTrap_core (g : Group) (c : Cause) (ti : TrapInfo) : (g.setTrap c ti).core = g.core := rfl
@[simp] theorem Group.setTrap_slice (g : Group) (c : Cause) (ti : TrapInfo) : (g.setTrap c ti).slice = g.slice := rfl
@[simp] theorem Group.setTrap_v (g : Group) (c : Cause) (ti : TrapInfo) : (g.setTrap c ti).v = g.v := rfl
@[simp] theorem Group.setTrap_p (g : Group) (c : Cause) (ti : TrapInfo) : (g.setTrap c ti).p = g.p := rfl
@[simp] theorem Group.setTrap_g (g : Group) (c : Cause) (ti : TrapInfo) : (g.setTrap c ti).g = g.g := rfl
@[simp] theorem Group.setTrap_gp (g : Group) (c : Cause) (ti : TrapInfo) : (g.setTrap c ti).gp = g.gp := rfl
@[simp] theorem Group.setTrap_k (g : Group) (c : Cause) (ti : TrapInfo) : (g.setTrap c ti).k = g.k := rfl
@[simp] theorem Group.setTrap_h (g : Group) (c : Cause) (ti : TrapInfo) : (g.setTrap c ti).h = g.h := rfl
@[simp] theorem Group.setTrap_live (g : Group) (c : Cause) (ti : TrapInfo) : (g.setTrap c ti).live = g.live := rfl
@[simp] theorem Group.setTrap_frags (g : Group) (c : Cause) (ti : TrapInfo) : (g.setTrap c ti).frags = g.frags := rfl
@[simp] theorem Group.setTrap_splits (g : Group) (c : Cause) (ti : TrapInfo) : (g.setTrap c ti).splits = g.splits := rfl
@[simp] theorem Group.setTrap_meld (g : Group) (c : Cause) (ti : TrapInfo) : (g.setTrap c ti).meld = g.meld := rfl
@[simp] theorem Group.setTrap_hmeld (g : Group) (c : Cause) (ti : TrapInfo) : (g.setTrap c ti).hmeld = g.hmeld := rfl
@[simp] theorem Group.setTrap_floor (g : Group) (c : Cause) (ti : TrapInfo) : (g.setTrap c ti).floor = g.floor := rfl
@[simp] theorem Group.setTrap_hfloor (g : Group) (c : Cause) (ti : TrapInfo) : (g.setTrap c ti).hfloor = g.hfloor := rfl
@[simp] theorem Group.setTrap_gstat (g : Group) (c : Cause) (ti : TrapInfo) : (g.setTrap c ti).gstat = g.gstat := rfl
@[simp] theorem Group.setTrap_tarm (g : Group) (c : Cause) (ti : TrapInfo) : (g.setTrap c ti).tarm = g.tarm := rfl
@[simp] theorem Group.setTrap_thr (g : Group) (c : Cause) (ti : TrapInfo) : (g.setTrap c ti).thr = g.thr := rfl
@[simp] theorem Group.setTrap_thrp (g : Group) (c : Cause) (ti : TrapInfo) : (g.setTrap c ti).thrp = g.thrp := rfl
@[simp] theorem Group.setTrap_evvec (g : Group) (c : Cause) (ti : TrapInfo) : (g.setTrap c ti).evvec = g.evvec := rfl
@[simp] theorem Group.setTrap_tvec (g : Group) (c : Cause) (ti : TrapInfo) : (g.setTrap c ti).tvec = g.tvec := rfl
@[simp] theorem Group.setTrap_hsa (g : Group) (c : Cause) (ti : TrapInfo) : (g.setTrap c ti).hsa = g.hsa := rfl
@[simp] theorem Group.setTrap_te (g : Group) (c : Cause) (ti : TrapInfo) : (g.setTrap c ti).te = g.te := rfl
@[simp] theorem Group.setTrap_stepOn (g : Group) (c : Cause) (ti : TrapInfo) : (g.setTrap c ti).stepOn = g.stepOn := rfl
@[simp] theorem Group.setTrap_stopped (g : Group) (c : Cause) (ti : TrapInfo) : (g.setTrap c ti).stopped = g.stopped := rfl
@[simp] theorem Group.setTrap_stopCause (g : Group) (c : Cause) (ti : TrapInfo) : (g.setTrap c ti).stopCause = g.stopCause := rfl
@[simp] theorem Group.setTrap_hzn (g : Group) (c : Cause) (ti : TrapInfo) : (g.setTrap c ti).hzn = g.hzn := rfl
@[simp] theorem Group.setTrap_lp (g : Group) (c : Cause) (ti : TrapInfo) : (g.setTrap c ti).lp = g.lp := rfl
@[simp] theorem Group.setTrap_holds (g : Group) (c : Cause) (ti : TrapInfo) : (g.setTrap c ti).holds = g.holds := rfl
@[simp] theorem Group.setTrap_hnd (g : Group) (c : Cause) (ti : TrapInfo) : (g.setTrap c ti).hnd = g.hnd := rfl
@[simp] theorem Group.setTrap_halted (g : Group) (c : Cause) (ti : TrapInfo) : (g.setTrap c ti).halted = g.halted := rfl
@[simp] theorem Group.setTrap_haltRec (g : Group) (c : Cause) (ti : TrapInfo) : (g.setTrap c ti).haltRec = g.haltRec := rfl
@[simp] theorem Group.setTrap_haltKey (g : Group) (c : Cause) (ti : TrapInfo) : (g.setTrap c ti).haltKey = g.haltKey := rfl
@[simp] theorem Group.setTrap_idle (g : Group) (c : Cause) (ti : TrapInfo) : (g.setTrap c ti).idle = g.idle := rfl
@[simp] theorem Group.setTrap_wake (g : Group) (c : Cause) (ti : TrapInfo) : (g.setTrap c ti).wake = g.wake := rfl
@[simp] theorem Group.setTrap_heldWake (g : Group) (c : Cause) (ti : TrapInfo) : (g.setTrap c ti).heldWake = g.heldWake := rfl
@[simp] theorem Group.setTrap_loops (g : Group) (c : Cause) (ti : TrapInfo) : (g.setTrap c ti).loops = g.loops := rfl
@[simp] theorem Group.setTrap_lastTrap (g : Group) (c : Cause) (ti : TrapInfo) : (g.setTrap c ti).lastTrap = g.lastTrap := rfl
@[simp] theorem Group.setTrap_deferred (g : Group) (c : Cause) (ti : TrapInfo) : (g.setTrap c ti).deferred = g.deferred := rfl
@[simp] theorem Group.setTrap_pend (g : Group) (c : Cause) (ti : TrapInfo) : (g.setTrap c ti).pend = g.pend := rfl
@[simp] theorem Group.setTrap_carveGp (g : Group) (c : Cause) (ti : TrapInfo) : (g.setTrap c ti).carveGp = g.carveGp := rfl
@[simp] theorem Group.setTrap_atCarve (g : Group) (c : Cause) (ti : TrapInfo) : (g.setTrap c ti).atCarve = g.atCarve := rfl
@[simp] theorem Group.setTrap_loopA (g : Group) (c : Cause) (ti : TrapInfo) : (g.setTrap c ti).loopA = g.loopA := rfl
@[simp] theorem Group.setTrap_loopB (g : Group) (c : Cause) (ti : TrapInfo) : (g.setTrap c ti).loopB = g.loopB := rfl
@[simp] theorem Group.setTrap_halfLoop (g : Group) (c : Cause) (ti : TrapInfo) : (g.setTrap c ti).halfLoop = g.halfLoop := rfl
@[simp] theorem Group.setTrap_nextKey (g : Group) (c : Cause) (ti : TrapInfo) : (g.setTrap c ti).nextKey = g.nextKey := rfl
@[simp] theorem Group.setTrap_nextRec (g : Group) (c : Cause) (ti : TrapInfo) : (g.setTrap c ti).nextRec = g.nextRec := rfl
@[simp] theorem Group.setTrap_hostRec (g : Group) (c : Cause) (ti : TrapInfo) : (g.setTrap c ti).hostRec = g.hostRec := rfl
@[simp] theorem Group.setTrap_hostVec (g : Group) (c : Cause) (ti : TrapInfo) : (g.setTrap c ti).hostVec = g.hostVec := rfl
@[simp] theorem Group.setTrap_hostScr (g : Group) (c : Cause) (ti : TrapInfo) : (g.setTrap c ti).hostScr = g.hostScr := rfl
@[simp] theorem Group.setTrap_hostCmds (g : Group) (c : Cause) (ti : TrapInfo) : (g.setTrap c ti).hostCmds = g.hostCmds := rfl
@[simp] theorem Group.setP_ended (g : Group) (n : Nat) (m x : Word) : (g.setP n m x).ended = g.ended := by unfold Group.setP; split <;> rfl
@[simp] theorem Group.setP_core (g : Group) (n : Nat) (m x : Word) : (g.setP n m x).core = g.core := by unfold Group.setP; split <;> rfl
@[simp] theorem Group.setP_slice (g : Group) (n : Nat) (m x : Word) : (g.setP n m x).slice = g.slice := by unfold Group.setP; split <;> rfl
@[simp] theorem Group.setP_v (g : Group) (n : Nat) (m x : Word) : (g.setP n m x).v = g.v := by unfold Group.setP; split <;> rfl
@[simp] theorem Group.setP_g (g : Group) (n : Nat) (m x : Word) : (g.setP n m x).g = g.g := by unfold Group.setP; split <;> rfl
@[simp] theorem Group.setP_gp (g : Group) (n : Nat) (m x : Word) : (g.setP n m x).gp = g.gp := by unfold Group.setP; split <;> rfl
@[simp] theorem Group.setP_k (g : Group) (n : Nat) (m x : Word) : (g.setP n m x).k = g.k := by unfold Group.setP; split <;> rfl
@[simp] theorem Group.setP_h (g : Group) (n : Nat) (m x : Word) : (g.setP n m x).h = g.h := by unfold Group.setP; split <;> rfl
@[simp] theorem Group.setP_live (g : Group) (n : Nat) (m x : Word) : (g.setP n m x).live = g.live := by unfold Group.setP; split <;> rfl
@[simp] theorem Group.setP_frags (g : Group) (n : Nat) (m x : Word) : (g.setP n m x).frags = g.frags := by unfold Group.setP; split <;> rfl
@[simp] theorem Group.setP_splits (g : Group) (n : Nat) (m x : Word) : (g.setP n m x).splits = g.splits := by unfold Group.setP; split <;> rfl
@[simp] theorem Group.setP_meld (g : Group) (n : Nat) (m x : Word) : (g.setP n m x).meld = g.meld := by unfold Group.setP; split <;> rfl
@[simp] theorem Group.setP_hmeld (g : Group) (n : Nat) (m x : Word) : (g.setP n m x).hmeld = g.hmeld := by unfold Group.setP; split <;> rfl
@[simp] theorem Group.setP_floor (g : Group) (n : Nat) (m x : Word) : (g.setP n m x).floor = g.floor := by unfold Group.setP; split <;> rfl
@[simp] theorem Group.setP_hfloor (g : Group) (n : Nat) (m x : Word) : (g.setP n m x).hfloor = g.hfloor := by unfold Group.setP; split <;> rfl
@[simp] theorem Group.setP_gstat (g : Group) (n : Nat) (m x : Word) : (g.setP n m x).gstat = g.gstat := by unfold Group.setP; split <;> rfl
@[simp] theorem Group.setP_tarm (g : Group) (n : Nat) (m x : Word) : (g.setP n m x).tarm = g.tarm := by unfold Group.setP; split <;> rfl
@[simp] theorem Group.setP_thr (g : Group) (n : Nat) (m x : Word) : (g.setP n m x).thr = g.thr := by unfold Group.setP; split <;> rfl
@[simp] theorem Group.setP_thrp (g : Group) (n : Nat) (m x : Word) : (g.setP n m x).thrp = g.thrp := by unfold Group.setP; split <;> rfl
@[simp] theorem Group.setP_evvec (g : Group) (n : Nat) (m x : Word) : (g.setP n m x).evvec = g.evvec := by unfold Group.setP; split <;> rfl
@[simp] theorem Group.setP_tvec (g : Group) (n : Nat) (m x : Word) : (g.setP n m x).tvec = g.tvec := by unfold Group.setP; split <;> rfl
@[simp] theorem Group.setP_tcause (g : Group) (n : Nat) (m x : Word) : (g.setP n m x).tcause = g.tcause := by unfold Group.setP; split <;> rfl
@[simp] theorem Group.setP_tpc (g : Group) (n : Nat) (m x : Word) : (g.setP n m x).tpc = g.tpc := by unfold Group.setP; split <;> rfl
@[simp] theorem Group.setP_tva (g : Group) (n : Nat) (m x : Word) : (g.setP n m x).tva = g.tva := by unfold Group.setP; split <;> rfl
@[simp] theorem Group.setP_tlanes (g : Group) (n : Nat) (m x : Word) : (g.setP n m x).tlanes = g.tlanes := by unfold Group.setP; split <;> rfl
@[simp] theorem Group.setP_tstat (g : Group) (n : Nat) (m x : Word) : (g.setP n m x).tstat = g.tstat := by unfold Group.setP; split <;> rfl
@[simp] theorem Group.setP_hsa (g : Group) (n : Nat) (m x : Word) : (g.setP n m x).hsa = g.hsa := by unfold Group.setP; split <;> rfl
@[simp] theorem Group.setP_tnext (g : Group) (n : Nat) (m x : Word) : (g.setP n m x).tnext = g.tnext := by unfold Group.setP; split <;> rfl
@[simp] theorem Group.setP_te (g : Group) (n : Nat) (m x : Word) : (g.setP n m x).te = g.te := by unfold Group.setP; split <;> rfl
@[simp] theorem Group.setP_stepOn (g : Group) (n : Nat) (m x : Word) : (g.setP n m x).stepOn = g.stepOn := by unfold Group.setP; split <;> rfl
@[simp] theorem Group.setP_stopped (g : Group) (n : Nat) (m x : Word) : (g.setP n m x).stopped = g.stopped := by unfold Group.setP; split <;> rfl
@[simp] theorem Group.setP_stopCause (g : Group) (n : Nat) (m x : Word) : (g.setP n m x).stopCause = g.stopCause := by unfold Group.setP; split <;> rfl
@[simp] theorem Group.setP_hzn (g : Group) (n : Nat) (m x : Word) : (g.setP n m x).hzn = g.hzn := by unfold Group.setP; split <;> rfl
@[simp] theorem Group.setP_lp (g : Group) (n : Nat) (m x : Word) : (g.setP n m x).lp = g.lp := by unfold Group.setP; split <;> rfl
@[simp] theorem Group.setP_holds (g : Group) (n : Nat) (m x : Word) : (g.setP n m x).holds = g.holds := by unfold Group.setP; split <;> rfl
@[simp] theorem Group.setP_hnd (g : Group) (n : Nat) (m x : Word) : (g.setP n m x).hnd = g.hnd := by unfold Group.setP; split <;> rfl
@[simp] theorem Group.setP_halted (g : Group) (n : Nat) (m x : Word) : (g.setP n m x).halted = g.halted := by unfold Group.setP; split <;> rfl
@[simp] theorem Group.setP_haltRec (g : Group) (n : Nat) (m x : Word) : (g.setP n m x).haltRec = g.haltRec := by unfold Group.setP; split <;> rfl
@[simp] theorem Group.setP_haltKey (g : Group) (n : Nat) (m x : Word) : (g.setP n m x).haltKey = g.haltKey := by unfold Group.setP; split <;> rfl
@[simp] theorem Group.setP_idle (g : Group) (n : Nat) (m x : Word) : (g.setP n m x).idle = g.idle := by unfold Group.setP; split <;> rfl
@[simp] theorem Group.setP_wake (g : Group) (n : Nat) (m x : Word) : (g.setP n m x).wake = g.wake := by unfold Group.setP; split <;> rfl
@[simp] theorem Group.setP_heldWake (g : Group) (n : Nat) (m x : Word) : (g.setP n m x).heldWake = g.heldWake := by unfold Group.setP; split <;> rfl
@[simp] theorem Group.setP_loops (g : Group) (n : Nat) (m x : Word) : (g.setP n m x).loops = g.loops := by unfold Group.setP; split <;> rfl
@[simp] theorem Group.setP_lastTrap (g : Group) (n : Nat) (m x : Word) : (g.setP n m x).lastTrap = g.lastTrap := by unfold Group.setP; split <;> rfl
@[simp] theorem Group.setP_deferred (g : Group) (n : Nat) (m x : Word) : (g.setP n m x).deferred = g.deferred := by unfold Group.setP; split <;> rfl
@[simp] theorem Group.setP_pend (g : Group) (n : Nat) (m x : Word) : (g.setP n m x).pend = g.pend := by unfold Group.setP; split <;> rfl
@[simp] theorem Group.setP_carveGp (g : Group) (n : Nat) (m x : Word) : (g.setP n m x).carveGp = g.carveGp := by unfold Group.setP; split <;> rfl
@[simp] theorem Group.setP_atCarve (g : Group) (n : Nat) (m x : Word) : (g.setP n m x).atCarve = g.atCarve := by unfold Group.setP; split <;> rfl
@[simp] theorem Group.setP_loopA (g : Group) (n : Nat) (m x : Word) : (g.setP n m x).loopA = g.loopA := by unfold Group.setP; split <;> rfl
@[simp] theorem Group.setP_loopB (g : Group) (n : Nat) (m x : Word) : (g.setP n m x).loopB = g.loopB := by unfold Group.setP; split <;> rfl
@[simp] theorem Group.setP_halfLoop (g : Group) (n : Nat) (m x : Word) : (g.setP n m x).halfLoop = g.halfLoop := by unfold Group.setP; split <;> rfl
@[simp] theorem Group.setP_nextKey (g : Group) (n : Nat) (m x : Word) : (g.setP n m x).nextKey = g.nextKey := by unfold Group.setP; split <;> rfl
@[simp] theorem Group.setP_nextRec (g : Group) (n : Nat) (m x : Word) : (g.setP n m x).nextRec = g.nextRec := by unfold Group.setP; split <;> rfl
@[simp] theorem Group.setP_hostRec (g : Group) (n : Nat) (m x : Word) : (g.setP n m x).hostRec = g.hostRec := by unfold Group.setP; split <;> rfl
@[simp] theorem Group.setP_hostVec (g : Group) (n : Nat) (m x : Word) : (g.setP n m x).hostVec = g.hostVec := by unfold Group.setP; split <;> rfl
@[simp] theorem Group.setP_hostScr (g : Group) (n : Nat) (m x : Word) : (g.setP n m x).hostScr = g.hostScr := by unfold Group.setP; split <;> rfl
@[simp] theorem Group.setP_hostCmds (g : Group) (n : Nat) (m x : Word) : (g.setP n m x).hostCmds = g.hostCmds := by unfold Group.setP; split <;> rfl
@[simp] theorem Group.setGp_ended (g : Group) (n : Nat) (b : Bool) : (g.setGp n b).ended = g.ended := by unfold Group.setGp; split <;> rfl
@[simp] theorem Group.setGp_core (g : Group) (n : Nat) (b : Bool) : (g.setGp n b).core = g.core := by unfold Group.setGp; split <;> rfl
@[simp] theorem Group.setGp_slice (g : Group) (n : Nat) (b : Bool) : (g.setGp n b).slice = g.slice := by unfold Group.setGp; split <;> rfl
@[simp] theorem Group.setGp_v (g : Group) (n : Nat) (b : Bool) : (g.setGp n b).v = g.v := by unfold Group.setGp; split <;> rfl
@[simp] theorem Group.setGp_p (g : Group) (n : Nat) (b : Bool) : (g.setGp n b).p = g.p := by unfold Group.setGp; split <;> rfl
@[simp] theorem Group.setGp_g (g : Group) (n : Nat) (b : Bool) : (g.setGp n b).g = g.g := by unfold Group.setGp; split <;> rfl
@[simp] theorem Group.setGp_k (g : Group) (n : Nat) (b : Bool) : (g.setGp n b).k = g.k := by unfold Group.setGp; split <;> rfl
@[simp] theorem Group.setGp_h (g : Group) (n : Nat) (b : Bool) : (g.setGp n b).h = g.h := by unfold Group.setGp; split <;> rfl
@[simp] theorem Group.setGp_live (g : Group) (n : Nat) (b : Bool) : (g.setGp n b).live = g.live := by unfold Group.setGp; split <;> rfl
@[simp] theorem Group.setGp_frags (g : Group) (n : Nat) (b : Bool) : (g.setGp n b).frags = g.frags := by unfold Group.setGp; split <;> rfl
@[simp] theorem Group.setGp_splits (g : Group) (n : Nat) (b : Bool) : (g.setGp n b).splits = g.splits := by unfold Group.setGp; split <;> rfl
@[simp] theorem Group.setGp_meld (g : Group) (n : Nat) (b : Bool) : (g.setGp n b).meld = g.meld := by unfold Group.setGp; split <;> rfl
@[simp] theorem Group.setGp_hmeld (g : Group) (n : Nat) (b : Bool) : (g.setGp n b).hmeld = g.hmeld := by unfold Group.setGp; split <;> rfl
@[simp] theorem Group.setGp_floor (g : Group) (n : Nat) (b : Bool) : (g.setGp n b).floor = g.floor := by unfold Group.setGp; split <;> rfl
@[simp] theorem Group.setGp_hfloor (g : Group) (n : Nat) (b : Bool) : (g.setGp n b).hfloor = g.hfloor := by unfold Group.setGp; split <;> rfl
@[simp] theorem Group.setGp_gstat (g : Group) (n : Nat) (b : Bool) : (g.setGp n b).gstat = g.gstat := by unfold Group.setGp; split <;> rfl
@[simp] theorem Group.setGp_tarm (g : Group) (n : Nat) (b : Bool) : (g.setGp n b).tarm = g.tarm := by unfold Group.setGp; split <;> rfl
@[simp] theorem Group.setGp_thr (g : Group) (n : Nat) (b : Bool) : (g.setGp n b).thr = g.thr := by unfold Group.setGp; split <;> rfl
@[simp] theorem Group.setGp_thrp (g : Group) (n : Nat) (b : Bool) : (g.setGp n b).thrp = g.thrp := by unfold Group.setGp; split <;> rfl
@[simp] theorem Group.setGp_evvec (g : Group) (n : Nat) (b : Bool) : (g.setGp n b).evvec = g.evvec := by unfold Group.setGp; split <;> rfl
@[simp] theorem Group.setGp_tvec (g : Group) (n : Nat) (b : Bool) : (g.setGp n b).tvec = g.tvec := by unfold Group.setGp; split <;> rfl
@[simp] theorem Group.setGp_tcause (g : Group) (n : Nat) (b : Bool) : (g.setGp n b).tcause = g.tcause := by unfold Group.setGp; split <;> rfl
@[simp] theorem Group.setGp_tpc (g : Group) (n : Nat) (b : Bool) : (g.setGp n b).tpc = g.tpc := by unfold Group.setGp; split <;> rfl
@[simp] theorem Group.setGp_tva (g : Group) (n : Nat) (b : Bool) : (g.setGp n b).tva = g.tva := by unfold Group.setGp; split <;> rfl
@[simp] theorem Group.setGp_tlanes (g : Group) (n : Nat) (b : Bool) : (g.setGp n b).tlanes = g.tlanes := by unfold Group.setGp; split <;> rfl
@[simp] theorem Group.setGp_tstat (g : Group) (n : Nat) (b : Bool) : (g.setGp n b).tstat = g.tstat := by unfold Group.setGp; split <;> rfl
@[simp] theorem Group.setGp_hsa (g : Group) (n : Nat) (b : Bool) : (g.setGp n b).hsa = g.hsa := by unfold Group.setGp; split <;> rfl
@[simp] theorem Group.setGp_tnext (g : Group) (n : Nat) (b : Bool) : (g.setGp n b).tnext = g.tnext := by unfold Group.setGp; split <;> rfl
@[simp] theorem Group.setGp_te (g : Group) (n : Nat) (b : Bool) : (g.setGp n b).te = g.te := by unfold Group.setGp; split <;> rfl
@[simp] theorem Group.setGp_stepOn (g : Group) (n : Nat) (b : Bool) : (g.setGp n b).stepOn = g.stepOn := by unfold Group.setGp; split <;> rfl
@[simp] theorem Group.setGp_stopped (g : Group) (n : Nat) (b : Bool) : (g.setGp n b).stopped = g.stopped := by unfold Group.setGp; split <;> rfl
@[simp] theorem Group.setGp_stopCause (g : Group) (n : Nat) (b : Bool) : (g.setGp n b).stopCause = g.stopCause := by unfold Group.setGp; split <;> rfl
@[simp] theorem Group.setGp_hzn (g : Group) (n : Nat) (b : Bool) : (g.setGp n b).hzn = g.hzn := by unfold Group.setGp; split <;> rfl
@[simp] theorem Group.setGp_lp (g : Group) (n : Nat) (b : Bool) : (g.setGp n b).lp = g.lp := by unfold Group.setGp; split <;> rfl
@[simp] theorem Group.setGp_holds (g : Group) (n : Nat) (b : Bool) : (g.setGp n b).holds = g.holds := by unfold Group.setGp; split <;> rfl
@[simp] theorem Group.setGp_hnd (g : Group) (n : Nat) (b : Bool) : (g.setGp n b).hnd = g.hnd := by unfold Group.setGp; split <;> rfl
@[simp] theorem Group.setGp_halted (g : Group) (n : Nat) (b : Bool) : (g.setGp n b).halted = g.halted := by unfold Group.setGp; split <;> rfl
@[simp] theorem Group.setGp_haltRec (g : Group) (n : Nat) (b : Bool) : (g.setGp n b).haltRec = g.haltRec := by unfold Group.setGp; split <;> rfl
@[simp] theorem Group.setGp_haltKey (g : Group) (n : Nat) (b : Bool) : (g.setGp n b).haltKey = g.haltKey := by unfold Group.setGp; split <;> rfl
@[simp] theorem Group.setGp_idle (g : Group) (n : Nat) (b : Bool) : (g.setGp n b).idle = g.idle := by unfold Group.setGp; split <;> rfl
@[simp] theorem Group.setGp_wake (g : Group) (n : Nat) (b : Bool) : (g.setGp n b).wake = g.wake := by unfold Group.setGp; split <;> rfl
@[simp] theorem Group.setGp_heldWake (g : Group) (n : Nat) (b : Bool) : (g.setGp n b).heldWake = g.heldWake := by unfold Group.setGp; split <;> rfl
@[simp] theorem Group.setGp_loops (g : Group) (n : Nat) (b : Bool) : (g.setGp n b).loops = g.loops := by unfold Group.setGp; split <;> rfl
@[simp] theorem Group.setGp_lastTrap (g : Group) (n : Nat) (b : Bool) : (g.setGp n b).lastTrap = g.lastTrap := by unfold Group.setGp; split <;> rfl
@[simp] theorem Group.setGp_deferred (g : Group) (n : Nat) (b : Bool) : (g.setGp n b).deferred = g.deferred := by unfold Group.setGp; split <;> rfl
@[simp] theorem Group.setGp_pend (g : Group) (n : Nat) (b : Bool) : (g.setGp n b).pend = g.pend := by unfold Group.setGp; split <;> rfl
@[simp] theorem Group.setGp_carveGp (g : Group) (n : Nat) (b : Bool) : (g.setGp n b).carveGp = g.carveGp := by unfold Group.setGp; split <;> rfl
@[simp] theorem Group.setGp_atCarve (g : Group) (n : Nat) (b : Bool) : (g.setGp n b).atCarve = g.atCarve := by unfold Group.setGp; split <;> rfl
@[simp] theorem Group.setGp_loopA (g : Group) (n : Nat) (b : Bool) : (g.setGp n b).loopA = g.loopA := by unfold Group.setGp; split <;> rfl
@[simp] theorem Group.setGp_loopB (g : Group) (n : Nat) (b : Bool) : (g.setGp n b).loopB = g.loopB := by unfold Group.setGp; split <;> rfl
@[simp] theorem Group.setGp_halfLoop (g : Group) (n : Nat) (b : Bool) : (g.setGp n b).halfLoop = g.halfLoop := by unfold Group.setGp; split <;> rfl
@[simp] theorem Group.setGp_nextKey (g : Group) (n : Nat) (b : Bool) : (g.setGp n b).nextKey = g.nextKey := by unfold Group.setGp; split <;> rfl
@[simp] theorem Group.setGp_nextRec (g : Group) (n : Nat) (b : Bool) : (g.setGp n b).nextRec = g.nextRec := by unfold Group.setGp; split <;> rfl
@[simp] theorem Group.setGp_hostRec (g : Group) (n : Nat) (b : Bool) : (g.setGp n b).hostRec = g.hostRec := by unfold Group.setGp; split <;> rfl
@[simp] theorem Group.setGp_hostVec (g : Group) (n : Nat) (b : Bool) : (g.setGp n b).hostVec = g.hostVec := by unfold Group.setGp; split <;> rfl
@[simp] theorem Group.setGp_hostScr (g : Group) (n : Nat) (b : Bool) : (g.setGp n b).hostScr = g.hostScr := by unfold Group.setGp; split <;> rfl
@[simp] theorem Group.setGp_hostCmds (g : Group) (n : Nat) (b : Bool) : (g.setGp n b).hostCmds = g.hostCmds := by unfold Group.setGp; split <;> rfl
@[simp] theorem Group.setG_ended (g : Group) (b : Bool) (n : Nat) (x : Word) : (g.setG b n x).ended = g.ended := by unfold Group.setG; split <;> rfl
@[simp] theorem Group.setG_core (g : Group) (b : Bool) (n : Nat) (x : Word) : (g.setG b n x).core = g.core := by unfold Group.setG; split <;> rfl
@[simp] theorem Group.setG_slice (g : Group) (b : Bool) (n : Nat) (x : Word) : (g.setG b n x).slice = g.slice := by unfold Group.setG; split <;> rfl
@[simp] theorem Group.setG_v (g : Group) (b : Bool) (n : Nat) (x : Word) : (g.setG b n x).v = g.v := by unfold Group.setG; split <;> rfl
@[simp] theorem Group.setG_p (g : Group) (b : Bool) (n : Nat) (x : Word) : (g.setG b n x).p = g.p := by unfold Group.setG; split <;> rfl
@[simp] theorem Group.setG_gp (g : Group) (b : Bool) (n : Nat) (x : Word) : (g.setG b n x).gp = g.gp := by unfold Group.setG; split <;> rfl
@[simp] theorem Group.setG_k (g : Group) (b : Bool) (n : Nat) (x : Word) : (g.setG b n x).k = g.k := by unfold Group.setG; split <;> rfl
@[simp] theorem Group.setG_live (g : Group) (b : Bool) (n : Nat) (x : Word) : (g.setG b n x).live = g.live := by unfold Group.setG; split <;> rfl
@[simp] theorem Group.setG_frags (g : Group) (b : Bool) (n : Nat) (x : Word) : (g.setG b n x).frags = g.frags := by unfold Group.setG; split <;> rfl
@[simp] theorem Group.setG_splits (g : Group) (b : Bool) (n : Nat) (x : Word) : (g.setG b n x).splits = g.splits := by unfold Group.setG; split <;> rfl
@[simp] theorem Group.setG_meld (g : Group) (b : Bool) (n : Nat) (x : Word) : (g.setG b n x).meld = g.meld := by unfold Group.setG; split <;> rfl
@[simp] theorem Group.setG_hmeld (g : Group) (b : Bool) (n : Nat) (x : Word) : (g.setG b n x).hmeld = g.hmeld := by unfold Group.setG; split <;> rfl
@[simp] theorem Group.setG_floor (g : Group) (b : Bool) (n : Nat) (x : Word) : (g.setG b n x).floor = g.floor := by unfold Group.setG; split <;> rfl
@[simp] theorem Group.setG_hfloor (g : Group) (b : Bool) (n : Nat) (x : Word) : (g.setG b n x).hfloor = g.hfloor := by unfold Group.setG; split <;> rfl
@[simp] theorem Group.setG_gstat (g : Group) (b : Bool) (n : Nat) (x : Word) : (g.setG b n x).gstat = g.gstat := by unfold Group.setG; split <;> rfl
@[simp] theorem Group.setG_tarm (g : Group) (b : Bool) (n : Nat) (x : Word) : (g.setG b n x).tarm = g.tarm := by unfold Group.setG; split <;> rfl
@[simp] theorem Group.setG_thr (g : Group) (b : Bool) (n : Nat) (x : Word) : (g.setG b n x).thr = g.thr := by unfold Group.setG; split <;> rfl
@[simp] theorem Group.setG_thrp (g : Group) (b : Bool) (n : Nat) (x : Word) : (g.setG b n x).thrp = g.thrp := by unfold Group.setG; split <;> rfl
@[simp] theorem Group.setG_evvec (g : Group) (b : Bool) (n : Nat) (x : Word) : (g.setG b n x).evvec = g.evvec := by unfold Group.setG; split <;> rfl
@[simp] theorem Group.setG_tvec (g : Group) (b : Bool) (n : Nat) (x : Word) : (g.setG b n x).tvec = g.tvec := by unfold Group.setG; split <;> rfl
@[simp] theorem Group.setG_tcause (g : Group) (b : Bool) (n : Nat) (x : Word) : (g.setG b n x).tcause = g.tcause := by unfold Group.setG; split <;> rfl
@[simp] theorem Group.setG_tpc (g : Group) (b : Bool) (n : Nat) (x : Word) : (g.setG b n x).tpc = g.tpc := by unfold Group.setG; split <;> rfl
@[simp] theorem Group.setG_tva (g : Group) (b : Bool) (n : Nat) (x : Word) : (g.setG b n x).tva = g.tva := by unfold Group.setG; split <;> rfl
@[simp] theorem Group.setG_tlanes (g : Group) (b : Bool) (n : Nat) (x : Word) : (g.setG b n x).tlanes = g.tlanes := by unfold Group.setG; split <;> rfl
@[simp] theorem Group.setG_tstat (g : Group) (b : Bool) (n : Nat) (x : Word) : (g.setG b n x).tstat = g.tstat := by unfold Group.setG; split <;> rfl
@[simp] theorem Group.setG_hsa (g : Group) (b : Bool) (n : Nat) (x : Word) : (g.setG b n x).hsa = g.hsa := by unfold Group.setG; split <;> rfl
@[simp] theorem Group.setG_tnext (g : Group) (b : Bool) (n : Nat) (x : Word) : (g.setG b n x).tnext = g.tnext := by unfold Group.setG; split <;> rfl
@[simp] theorem Group.setG_te (g : Group) (b : Bool) (n : Nat) (x : Word) : (g.setG b n x).te = g.te := by unfold Group.setG; split <;> rfl
@[simp] theorem Group.setG_stepOn (g : Group) (b : Bool) (n : Nat) (x : Word) : (g.setG b n x).stepOn = g.stepOn := by unfold Group.setG; split <;> rfl
@[simp] theorem Group.setG_stopped (g : Group) (b : Bool) (n : Nat) (x : Word) : (g.setG b n x).stopped = g.stopped := by unfold Group.setG; split <;> rfl
@[simp] theorem Group.setG_stopCause (g : Group) (b : Bool) (n : Nat) (x : Word) : (g.setG b n x).stopCause = g.stopCause := by unfold Group.setG; split <;> rfl
@[simp] theorem Group.setG_hzn (g : Group) (b : Bool) (n : Nat) (x : Word) : (g.setG b n x).hzn = g.hzn := by unfold Group.setG; split <;> rfl
@[simp] theorem Group.setG_lp (g : Group) (b : Bool) (n : Nat) (x : Word) : (g.setG b n x).lp = g.lp := by unfold Group.setG; split <;> rfl
@[simp] theorem Group.setG_holds (g : Group) (b : Bool) (n : Nat) (x : Word) : (g.setG b n x).holds = g.holds := by unfold Group.setG; split <;> rfl
@[simp] theorem Group.setG_hnd (g : Group) (b : Bool) (n : Nat) (x : Word) : (g.setG b n x).hnd = g.hnd := by unfold Group.setG; split <;> rfl
@[simp] theorem Group.setG_halted (g : Group) (b : Bool) (n : Nat) (x : Word) : (g.setG b n x).halted = g.halted := by unfold Group.setG; split <;> rfl
@[simp] theorem Group.setG_haltRec (g : Group) (b : Bool) (n : Nat) (x : Word) : (g.setG b n x).haltRec = g.haltRec := by unfold Group.setG; split <;> rfl
@[simp] theorem Group.setG_haltKey (g : Group) (b : Bool) (n : Nat) (x : Word) : (g.setG b n x).haltKey = g.haltKey := by unfold Group.setG; split <;> rfl
@[simp] theorem Group.setG_idle (g : Group) (b : Bool) (n : Nat) (x : Word) : (g.setG b n x).idle = g.idle := by unfold Group.setG; split <;> rfl
@[simp] theorem Group.setG_wake (g : Group) (b : Bool) (n : Nat) (x : Word) : (g.setG b n x).wake = g.wake := by unfold Group.setG; split <;> rfl
@[simp] theorem Group.setG_heldWake (g : Group) (b : Bool) (n : Nat) (x : Word) : (g.setG b n x).heldWake = g.heldWake := by unfold Group.setG; split <;> rfl
@[simp] theorem Group.setG_loops (g : Group) (b : Bool) (n : Nat) (x : Word) : (g.setG b n x).loops = g.loops := by unfold Group.setG; split <;> rfl
@[simp] theorem Group.setG_lastTrap (g : Group) (b : Bool) (n : Nat) (x : Word) : (g.setG b n x).lastTrap = g.lastTrap := by unfold Group.setG; split <;> rfl
@[simp] theorem Group.setG_deferred (g : Group) (b : Bool) (n : Nat) (x : Word) : (g.setG b n x).deferred = g.deferred := by unfold Group.setG; split <;> rfl
@[simp] theorem Group.setG_pend (g : Group) (b : Bool) (n : Nat) (x : Word) : (g.setG b n x).pend = g.pend := by unfold Group.setG; split <;> rfl
@[simp] theorem Group.setG_carveGp (g : Group) (b : Bool) (n : Nat) (x : Word) : (g.setG b n x).carveGp = g.carveGp := by unfold Group.setG; split <;> rfl
@[simp] theorem Group.setG_atCarve (g : Group) (b : Bool) (n : Nat) (x : Word) : (g.setG b n x).atCarve = g.atCarve := by unfold Group.setG; split <;> rfl
@[simp] theorem Group.setG_loopA (g : Group) (b : Bool) (n : Nat) (x : Word) : (g.setG b n x).loopA = g.loopA := by unfold Group.setG; split <;> rfl
@[simp] theorem Group.setG_loopB (g : Group) (b : Bool) (n : Nat) (x : Word) : (g.setG b n x).loopB = g.loopB := by unfold Group.setG; split <;> rfl
@[simp] theorem Group.setG_halfLoop (g : Group) (b : Bool) (n : Nat) (x : Word) : (g.setG b n x).halfLoop = g.halfLoop := by unfold Group.setG; split <;> rfl
@[simp] theorem Group.setG_nextKey (g : Group) (b : Bool) (n : Nat) (x : Word) : (g.setG b n x).nextKey = g.nextKey := by unfold Group.setG; split <;> rfl
@[simp] theorem Group.setG_nextRec (g : Group) (b : Bool) (n : Nat) (x : Word) : (g.setG b n x).nextRec = g.nextRec := by unfold Group.setG; split <;> rfl
@[simp] theorem Group.setG_hostRec (g : Group) (b : Bool) (n : Nat) (x : Word) : (g.setG b n x).hostRec = g.hostRec := by unfold Group.setG; split <;> rfl
@[simp] theorem Group.setG_hostVec (g : Group) (b : Bool) (n : Nat) (x : Word) : (g.setG b n x).hostVec = g.hostVec := by unfold Group.setG; split <;> rfl
@[simp] theorem Group.setG_hostScr (g : Group) (b : Bool) (n : Nat) (x : Word) : (g.setG b n x).hostScr = g.hostScr := by unfold Group.setG; split <;> rfl
@[simp] theorem Group.setG_hostCmds (g : Group) (b : Bool) (n : Nat) (x : Word) : (g.setG b n x).hostCmds = g.hostCmds := by unfold Group.setG; split <;> rfl
@[simp] theorem Group.flagUp_ended (g : Group) (k : Option Nat) : (g.flagUp k).ended = g.ended := by cases k <;> rfl
@[simp] theorem Group.flagUp_core (g : Group) (k : Option Nat) : (g.flagUp k).core = g.core := by cases k <;> rfl
@[simp] theorem Group.flagUp_slice (g : Group) (k : Option Nat) : (g.flagUp k).slice = g.slice := by cases k <;> rfl
@[simp] theorem Group.flagUp_v (g : Group) (k : Option Nat) : (g.flagUp k).v = g.v := by cases k <;> rfl
@[simp] theorem Group.flagUp_p (g : Group) (k : Option Nat) : (g.flagUp k).p = g.p := by cases k <;> rfl
@[simp] theorem Group.flagUp_g (g : Group) (k : Option Nat) : (g.flagUp k).g = g.g := by cases k <;> rfl
@[simp] theorem Group.flagUp_gp (g : Group) (k : Option Nat) : (g.flagUp k).gp = g.gp := by cases k <;> rfl
@[simp] theorem Group.flagUp_h (g : Group) (k : Option Nat) : (g.flagUp k).h = g.h := by cases k <;> rfl
@[simp] theorem Group.flagUp_live (g : Group) (k : Option Nat) : (g.flagUp k).live = g.live := by cases k <;> rfl
@[simp] theorem Group.flagUp_frags (g : Group) (k : Option Nat) : (g.flagUp k).frags = g.frags := by cases k <;> rfl
@[simp] theorem Group.flagUp_splits (g : Group) (k : Option Nat) : (g.flagUp k).splits = g.splits := by cases k <;> rfl
@[simp] theorem Group.flagUp_meld (g : Group) (k : Option Nat) : (g.flagUp k).meld = g.meld := by cases k <;> rfl
@[simp] theorem Group.flagUp_hmeld (g : Group) (k : Option Nat) : (g.flagUp k).hmeld = g.hmeld := by cases k <;> rfl
@[simp] theorem Group.flagUp_floor (g : Group) (k : Option Nat) : (g.flagUp k).floor = g.floor := by cases k <;> rfl
@[simp] theorem Group.flagUp_hfloor (g : Group) (k : Option Nat) : (g.flagUp k).hfloor = g.hfloor := by cases k <;> rfl
@[simp] theorem Group.flagUp_gstat (g : Group) (k : Option Nat) : (g.flagUp k).gstat = g.gstat := by cases k <;> rfl
@[simp] theorem Group.flagUp_tarm (g : Group) (k : Option Nat) : (g.flagUp k).tarm = g.tarm := by cases k <;> rfl
@[simp] theorem Group.flagUp_thr (g : Group) (k : Option Nat) : (g.flagUp k).thr = g.thr := by cases k <;> rfl
@[simp] theorem Group.flagUp_thrp (g : Group) (k : Option Nat) : (g.flagUp k).thrp = g.thrp := by cases k <;> rfl
@[simp] theorem Group.flagUp_evvec (g : Group) (k : Option Nat) : (g.flagUp k).evvec = g.evvec := by cases k <;> rfl
@[simp] theorem Group.flagUp_tvec (g : Group) (k : Option Nat) : (g.flagUp k).tvec = g.tvec := by cases k <;> rfl
@[simp] theorem Group.flagUp_tcause (g : Group) (k : Option Nat) : (g.flagUp k).tcause = g.tcause := by cases k <;> rfl
@[simp] theorem Group.flagUp_tpc (g : Group) (k : Option Nat) : (g.flagUp k).tpc = g.tpc := by cases k <;> rfl
@[simp] theorem Group.flagUp_tva (g : Group) (k : Option Nat) : (g.flagUp k).tva = g.tva := by cases k <;> rfl
@[simp] theorem Group.flagUp_tlanes (g : Group) (k : Option Nat) : (g.flagUp k).tlanes = g.tlanes := by cases k <;> rfl
@[simp] theorem Group.flagUp_tstat (g : Group) (k : Option Nat) : (g.flagUp k).tstat = g.tstat := by cases k <;> rfl
@[simp] theorem Group.flagUp_hsa (g : Group) (k : Option Nat) : (g.flagUp k).hsa = g.hsa := by cases k <;> rfl
@[simp] theorem Group.flagUp_tnext (g : Group) (k : Option Nat) : (g.flagUp k).tnext = g.tnext := by cases k <;> rfl
@[simp] theorem Group.flagUp_te (g : Group) (k : Option Nat) : (g.flagUp k).te = g.te := by cases k <;> rfl
@[simp] theorem Group.flagUp_stepOn (g : Group) (k : Option Nat) : (g.flagUp k).stepOn = g.stepOn := by cases k <;> rfl
@[simp] theorem Group.flagUp_stopped (g : Group) (k : Option Nat) : (g.flagUp k).stopped = g.stopped := by cases k <;> rfl
@[simp] theorem Group.flagUp_stopCause (g : Group) (k : Option Nat) : (g.flagUp k).stopCause = g.stopCause := by cases k <;> rfl
@[simp] theorem Group.flagUp_hzn (g : Group) (k : Option Nat) : (g.flagUp k).hzn = g.hzn := by cases k <;> rfl
@[simp] theorem Group.flagUp_lp (g : Group) (k : Option Nat) : (g.flagUp k).lp = g.lp := by cases k <;> rfl
@[simp] theorem Group.flagUp_holds (g : Group) (k : Option Nat) : (g.flagUp k).holds = g.holds := by cases k <;> rfl
@[simp] theorem Group.flagUp_hnd (g : Group) (k : Option Nat) : (g.flagUp k).hnd = g.hnd := by cases k <;> rfl
@[simp] theorem Group.flagUp_halted (g : Group) (k : Option Nat) : (g.flagUp k).halted = g.halted := by cases k <;> rfl
@[simp] theorem Group.flagUp_haltRec (g : Group) (k : Option Nat) : (g.flagUp k).haltRec = g.haltRec := by cases k <;> rfl
@[simp] theorem Group.flagUp_haltKey (g : Group) (k : Option Nat) : (g.flagUp k).haltKey = g.haltKey := by cases k <;> rfl
@[simp] theorem Group.flagUp_idle (g : Group) (k : Option Nat) : (g.flagUp k).idle = g.idle := by cases k <;> rfl
@[simp] theorem Group.flagUp_wake (g : Group) (k : Option Nat) : (g.flagUp k).wake = g.wake := by cases k <;> rfl
@[simp] theorem Group.flagUp_heldWake (g : Group) (k : Option Nat) : (g.flagUp k).heldWake = g.heldWake := by cases k <;> rfl
@[simp] theorem Group.flagUp_loops (g : Group) (k : Option Nat) : (g.flagUp k).loops = g.loops := by cases k <;> rfl
@[simp] theorem Group.flagUp_lastTrap (g : Group) (k : Option Nat) : (g.flagUp k).lastTrap = g.lastTrap := by cases k <;> rfl
@[simp] theorem Group.flagUp_deferred (g : Group) (k : Option Nat) : (g.flagUp k).deferred = g.deferred := by cases k <;> rfl
@[simp] theorem Group.flagUp_pend (g : Group) (k : Option Nat) : (g.flagUp k).pend = g.pend := by cases k <;> rfl
@[simp] theorem Group.flagUp_carveGp (g : Group) (k : Option Nat) : (g.flagUp k).carveGp = g.carveGp := by cases k <;> rfl
@[simp] theorem Group.flagUp_atCarve (g : Group) (k : Option Nat) : (g.flagUp k).atCarve = g.atCarve := by cases k <;> rfl
@[simp] theorem Group.flagUp_loopA (g : Group) (k : Option Nat) : (g.flagUp k).loopA = g.loopA := by cases k <;> rfl
@[simp] theorem Group.flagUp_loopB (g : Group) (k : Option Nat) : (g.flagUp k).loopB = g.loopB := by cases k <;> rfl
@[simp] theorem Group.flagUp_halfLoop (g : Group) (k : Option Nat) : (g.flagUp k).halfLoop = g.halfLoop := by cases k <;> rfl
@[simp] theorem Group.flagUp_nextKey (g : Group) (k : Option Nat) : (g.flagUp k).nextKey = g.nextKey := by cases k <;> rfl
@[simp] theorem Group.flagUp_nextRec (g : Group) (k : Option Nat) : (g.flagUp k).nextRec = g.nextRec := by cases k <;> rfl
@[simp] theorem Group.flagUp_hostRec (g : Group) (k : Option Nat) : (g.flagUp k).hostRec = g.hostRec := by cases k <;> rfl
@[simp] theorem Group.flagUp_hostVec (g : Group) (k : Option Nat) : (g.flagUp k).hostVec = g.hostVec := by cases k <;> rfl
@[simp] theorem Group.flagUp_hostScr (g : Group) (k : Option Nat) : (g.flagUp k).hostScr = g.hostScr := by cases k <;> rfl
@[simp] theorem Group.flagUp_hostCmds (g : Group) (k : Option Nat) : (g.flagUp k).hostCmds = g.hostCmds := by cases k <;> rfl
@[simp] theorem Group.flagDown_ended (g : Group) (k : Option Nat) : (g.flagDown k).ended = g.ended := by cases k <;> rfl
@[simp] theorem Group.flagDown_core (g : Group) (k : Option Nat) : (g.flagDown k).core = g.core := by cases k <;> rfl
@[simp] theorem Group.flagDown_slice (g : Group) (k : Option Nat) : (g.flagDown k).slice = g.slice := by cases k <;> rfl
@[simp] theorem Group.flagDown_v (g : Group) (k : Option Nat) : (g.flagDown k).v = g.v := by cases k <;> rfl
@[simp] theorem Group.flagDown_p (g : Group) (k : Option Nat) : (g.flagDown k).p = g.p := by cases k <;> rfl
@[simp] theorem Group.flagDown_g (g : Group) (k : Option Nat) : (g.flagDown k).g = g.g := by cases k <;> rfl
@[simp] theorem Group.flagDown_gp (g : Group) (k : Option Nat) : (g.flagDown k).gp = g.gp := by cases k <;> rfl
@[simp] theorem Group.flagDown_h (g : Group) (k : Option Nat) : (g.flagDown k).h = g.h := by cases k <;> rfl
@[simp] theorem Group.flagDown_live (g : Group) (k : Option Nat) : (g.flagDown k).live = g.live := by cases k <;> rfl
@[simp] theorem Group.flagDown_frags (g : Group) (k : Option Nat) : (g.flagDown k).frags = g.frags := by cases k <;> rfl
@[simp] theorem Group.flagDown_splits (g : Group) (k : Option Nat) : (g.flagDown k).splits = g.splits := by cases k <;> rfl
@[simp] theorem Group.flagDown_meld (g : Group) (k : Option Nat) : (g.flagDown k).meld = g.meld := by cases k <;> rfl
@[simp] theorem Group.flagDown_hmeld (g : Group) (k : Option Nat) : (g.flagDown k).hmeld = g.hmeld := by cases k <;> rfl
@[simp] theorem Group.flagDown_floor (g : Group) (k : Option Nat) : (g.flagDown k).floor = g.floor := by cases k <;> rfl
@[simp] theorem Group.flagDown_hfloor (g : Group) (k : Option Nat) : (g.flagDown k).hfloor = g.hfloor := by cases k <;> rfl
@[simp] theorem Group.flagDown_gstat (g : Group) (k : Option Nat) : (g.flagDown k).gstat = g.gstat := by cases k <;> rfl
@[simp] theorem Group.flagDown_tarm (g : Group) (k : Option Nat) : (g.flagDown k).tarm = g.tarm := by cases k <;> rfl
@[simp] theorem Group.flagDown_thr (g : Group) (k : Option Nat) : (g.flagDown k).thr = g.thr := by cases k <;> rfl
@[simp] theorem Group.flagDown_thrp (g : Group) (k : Option Nat) : (g.flagDown k).thrp = g.thrp := by cases k <;> rfl
@[simp] theorem Group.flagDown_evvec (g : Group) (k : Option Nat) : (g.flagDown k).evvec = g.evvec := by cases k <;> rfl
@[simp] theorem Group.flagDown_tvec (g : Group) (k : Option Nat) : (g.flagDown k).tvec = g.tvec := by cases k <;> rfl
@[simp] theorem Group.flagDown_tcause (g : Group) (k : Option Nat) : (g.flagDown k).tcause = g.tcause := by cases k <;> rfl
@[simp] theorem Group.flagDown_tpc (g : Group) (k : Option Nat) : (g.flagDown k).tpc = g.tpc := by cases k <;> rfl
@[simp] theorem Group.flagDown_tva (g : Group) (k : Option Nat) : (g.flagDown k).tva = g.tva := by cases k <;> rfl
@[simp] theorem Group.flagDown_tlanes (g : Group) (k : Option Nat) : (g.flagDown k).tlanes = g.tlanes := by cases k <;> rfl
@[simp] theorem Group.flagDown_tstat (g : Group) (k : Option Nat) : (g.flagDown k).tstat = g.tstat := by cases k <;> rfl
@[simp] theorem Group.flagDown_hsa (g : Group) (k : Option Nat) : (g.flagDown k).hsa = g.hsa := by cases k <;> rfl
@[simp] theorem Group.flagDown_tnext (g : Group) (k : Option Nat) : (g.flagDown k).tnext = g.tnext := by cases k <;> rfl
@[simp] theorem Group.flagDown_te (g : Group) (k : Option Nat) : (g.flagDown k).te = g.te := by cases k <;> rfl
@[simp] theorem Group.flagDown_stepOn (g : Group) (k : Option Nat) : (g.flagDown k).stepOn = g.stepOn := by cases k <;> rfl
@[simp] theorem Group.flagDown_stopped (g : Group) (k : Option Nat) : (g.flagDown k).stopped = g.stopped := by cases k <;> rfl
@[simp] theorem Group.flagDown_stopCause (g : Group) (k : Option Nat) : (g.flagDown k).stopCause = g.stopCause := by cases k <;> rfl
@[simp] theorem Group.flagDown_hzn (g : Group) (k : Option Nat) : (g.flagDown k).hzn = g.hzn := by cases k <;> rfl
@[simp] theorem Group.flagDown_lp (g : Group) (k : Option Nat) : (g.flagDown k).lp = g.lp := by cases k <;> rfl
@[simp] theorem Group.flagDown_holds (g : Group) (k : Option Nat) : (g.flagDown k).holds = g.holds := by cases k <;> rfl
@[simp] theorem Group.flagDown_hnd (g : Group) (k : Option Nat) : (g.flagDown k).hnd = g.hnd := by cases k <;> rfl
@[simp] theorem Group.flagDown_halted (g : Group) (k : Option Nat) : (g.flagDown k).halted = g.halted := by cases k <;> rfl
@[simp] theorem Group.flagDown_haltRec (g : Group) (k : Option Nat) : (g.flagDown k).haltRec = g.haltRec := by cases k <;> rfl
@[simp] theorem Group.flagDown_haltKey (g : Group) (k : Option Nat) : (g.flagDown k).haltKey = g.haltKey := by cases k <;> rfl
@[simp] theorem Group.flagDown_idle (g : Group) (k : Option Nat) : (g.flagDown k).idle = g.idle := by cases k <;> rfl
@[simp] theorem Group.flagDown_wake (g : Group) (k : Option Nat) : (g.flagDown k).wake = g.wake := by cases k <;> rfl
@[simp] theorem Group.flagDown_heldWake (g : Group) (k : Option Nat) : (g.flagDown k).heldWake = g.heldWake := by cases k <;> rfl
@[simp] theorem Group.flagDown_loops (g : Group) (k : Option Nat) : (g.flagDown k).loops = g.loops := by cases k <;> rfl
@[simp] theorem Group.flagDown_lastTrap (g : Group) (k : Option Nat) : (g.flagDown k).lastTrap = g.lastTrap := by cases k <;> rfl
@[simp] theorem Group.flagDown_deferred (g : Group) (k : Option Nat) : (g.flagDown k).deferred = g.deferred := by cases k <;> rfl
@[simp] theorem Group.flagDown_pend (g : Group) (k : Option Nat) : (g.flagDown k).pend = g.pend := by cases k <;> rfl
@[simp] theorem Group.flagDown_carveGp (g : Group) (k : Option Nat) : (g.flagDown k).carveGp = g.carveGp := by cases k <;> rfl
@[simp] theorem Group.flagDown_atCarve (g : Group) (k : Option Nat) : (g.flagDown k).atCarve = g.atCarve := by cases k <;> rfl
@[simp] theorem Group.flagDown_loopA (g : Group) (k : Option Nat) : (g.flagDown k).loopA = g.loopA := by cases k <;> rfl
@[simp] theorem Group.flagDown_loopB (g : Group) (k : Option Nat) : (g.flagDown k).loopB = g.loopB := by cases k <;> rfl
@[simp] theorem Group.flagDown_halfLoop (g : Group) (k : Option Nat) : (g.flagDown k).halfLoop = g.halfLoop := by cases k <;> rfl
@[simp] theorem Group.flagDown_nextKey (g : Group) (k : Option Nat) : (g.flagDown k).nextKey = g.nextKey := by cases k <;> rfl
@[simp] theorem Group.flagDown_nextRec (g : Group) (k : Option Nat) : (g.flagDown k).nextRec = g.nextRec := by cases k <;> rfl
@[simp] theorem Group.flagDown_hostRec (g : Group) (k : Option Nat) : (g.flagDown k).hostRec = g.hostRec := by cases k <;> rfl
@[simp] theorem Group.flagDown_hostVec (g : Group) (k : Option Nat) : (g.flagDown k).hostVec = g.hostVec := by cases k <;> rfl
@[simp] theorem Group.flagDown_hostScr (g : Group) (k : Option Nat) : (g.flagDown k).hostScr = g.hostScr := by cases k <;> rfl
@[simp] theorem Group.flagDown_hostCmds (g : Group) (k : Option Nat) : (g.flagDown k).hostCmds = g.hostCmds := by cases k <;> rfl

end Sys2Proof.Machine
end

