-- ==== Sys2Proof/Laws/Frame.lean ====
section
/-! SUPPORT. What the access paths read after one of them has been changed, and what the operations that every
word shares leave as it was: trace records, stores performed, the end of a word. -/

namespace Sys2Proof.Machine

/-! The access paths. -/

theorem State.core_modCore (s : State) (c k : Nat) (f : Core → Core) :
    (s.modCore c f).core k = if k = c then f (s.core c) else s.core k := by
  simp only [State.core, State.modCore, AMap.get_set]

theorem State.queue_modQueue (s : State) (q k : Nat) (f : Queue → Queue) :
    (s.modQueue q f).queue k = if k = q then f (s.queue q) else s.queue k := by
  simp only [State.queue, State.modQueue, AMap.get_set]

theorem Core.slice_modSlice (c : Core) (n k : Nat) (f : Slice → Slice) :
    (c.modSlice n f).slice k = if k = n then f (c.slice n) else c.slice k := by
  simp only [Core.slice, Core.modSlice, AMap.get_set]

theorem State.find_modTeam (s : State) (t k : Nat) (f : Team → Team) :
    AMap.find (s.modTeam t f).teams k = if k = t then (AMap.find s.teams k).map f else AMap.find s.teams k := by
  simp only [State.modTeam, AMap.find_modify]

theorem Team.find_modGrp (t : Team) (n k : Nat) (f : Group → Group) :
    AMap.find (t.modGrp n f).groups k = if k = n then (AMap.find t.groups k).map f else AMap.find t.groups k := by
  simp only [Team.modGrp, AMap.find_modify]

theorem State.grp?_modGrp (s : State) (w v : Sel) (f : Group → Group) :
    (s.modGrp w f).grp? v = if v.tid = w.tid ∧ v.grp = w.grp then (s.grp? v).map f else s.grp? v := by
  simp only [State.grp?, State.modGrp, State.find_modTeam]
  by_cases h : v.tid = w.tid
  · rw [h]; simp only [if_true, true_and]
    cases AMap.find s.teams w.tid with
    | none => simp
    | some t => simp only [Option.map_some, Team.find_modGrp]
  · simp [h]

theorem State.grp?_modFrag (s : State) (w v : Sel) (f : Frag → Frag) :
    (s.modFrag w f).grp? v =
      if v.tid = w.tid ∧ v.grp = w.grp then (s.grp? v).map (fun g => g.modFrag w.frag f) else s.grp? v :=
  State.grp?_modGrp s w v _

theorem Group.find_modFrag (g : Group) (n k : Nat) (f : Frag → Frag) :
    AMap.find (g.modFrag n f).frags k = if k = n then (AMap.find g.frags k).map f else AMap.find g.frags k := by
  simp only [Group.modFrag, AMap.find_modify]

@[simp] theorem State.grp?_modCore (s : State) (c : Nat) (f : Core → Core) (w : Sel) :
    (s.modCore c f).grp? w = s.grp? w := rfl

@[simp] theorem State.grp?_tick (s : State) (w : Sel) : s.tick.grp? w = s.grp? w := rfl

theorem State.envOf_some {s : State} {w : Sel} {e : Env} (h : s.envOf w = some e) :
    e.who = w ∧ AMap.find s.teams w.tid = some e.tm ∧ AMap.find e.tm.groups w.grp = some e.gr ∧
      AMap.find e.gr.frags w.frag = some e.fr := by
  unfold State.envOf at h
  split at h
  · cases h
  · split at h
    · cases h
    · split at h
      · cases h
      · cases h; exact ⟨rfl, ‹_›, ‹_›, ‹_›⟩

theorem State.envOf_grp {s : State} {w : Sel} {e : Env} (h : s.envOf w = some e) : s.grp? w = some e.gr := by
  obtain ⟨-, h1, h2, -⟩ := State.envOf_some h
  simp [State.grp?, h1, h2]

theorem State.env_some {s : State} {e : Env} (h : s.env = some e) : s.envOf e.who = some e ∧ e.canIssue = true := by
  unfold State.env at h
  split at h
  · cases h
  · split at h
    · cases h
    · rename_i w _ e' he
      split at h
      · cases h; exact ⟨by rw [(State.envOf_some he).1]; exact he, ‹_›⟩
      · cases h

/-! Bytes and trace records. -/

/-- `t` is `s` but for bytes behind keys: memory, what stands beneath the L2, aperture lines, and the translations that a
walker may still hold. -/
def OnlyBytes (s t : State) : Prop :=
  ∃ m l a z, t = { s with mem := m, l2 := l, aper := a, stale := z }

theorem OnlyBytes.refl (s : State) : OnlyBytes s s := ⟨_, _, _, _, rfl⟩

theorem OnlyBytes.trans {s t u : State} (h : OnlyBytes s t) (k : OnlyBytes t u) : OnlyBytes s u := by
  obtain ⟨_, _, _, _, rfl⟩ := h
  obtain ⟨_, _, _, _, rfl⟩ := k
  exact ⟨_, _, _, _, rfl⟩

theorem onlyBytes_wr (s : State) (k : Nat) (x : Byte) : OnlyBytes s (s.wr k x) := ⟨_, _, _, _, rfl⟩

theorem onlyBytes_wrKey (s : State) (k : Nat) (x : Byte) : OnlyBytes s (s.wrKey k x) := by
  unfold State.wrKey
  split <;> exact ⟨_, _, _, _, rfl⟩

theorem onlyBytes_foldl {α : Type} (f : State → α → State) (h : ∀ s a, OnlyBytes s (f s a)) (xs : List α) (s : State) :
    OnlyBytes s (xs.foldl f s) := by
  induction xs generalizing s with
  | nil => exact .refl s
  | cons x xs ih => exact (h s x).trans (ih _)

theorem onlyBytes_recall (s : State) (w : Option (Nat × Nat)) (ks : List Nat) : OnlyBytes s (s.recall w ks) :=
  ⟨_, _, _, _, rfl⟩

theorem onlyBytes_wrBytes (s : State) (k : Nat) (bs : List Byte) : OnlyBytes s (s.wrBytes k bs) :=
  (onlyBytes_recall s none _).trans
    (onlyBytes_foldl (fun s (bi : Byte × Nat) => s.wrKey (k + bi.2) bi.1) (fun s _ => onlyBytes_wrKey s _ _) _ _)

/-- `t` is `s` but for what leaves the module and the trace unit of its cores; with the trace off, no byte
differs. -/
def Quiet (s t : State) : Prop :=
  ∃ m l a z h tr ms cs,
    t = { s with mem := m, l2 := l, aper := a, stale := z, host := h, trace := tr, msix := ms, cores := cs } ∧
    h.trcEn = s.host.trcEn ∧ (s.host.trcEn = false → m = s.mem ∧ l = s.l2 ∧ a = s.aper ∧ tr = s.trace) ∧
    ∀ k, ∃ x st tl, t.core k = { s.core k with lost := x, trgState := st, trgLast := tl }

theorem Quiet.refl (s : State) : Quiet s s :=
  ⟨_, _, _, _, _, _, _, _, rfl, rfl, fun _ => ⟨rfl, rfl, rfl, rfl⟩, fun _ => ⟨_, _, _, rfl⟩⟩

theorem Quiet.trans {s t u : State} (h : Quiet s t) (k : Quiet t u) : Quiet s u := by
  obtain ⟨m, l, a, z, ho, tr, ms, cs, rfl, h1, h2, h3⟩ := h
  obtain ⟨m', l', a', z', ho', tr', ms', cs', rfl, k1, k2, k3⟩ := k
  refine ⟨m', l', a', z', ho', tr', ms', cs', rfl, k1.trans h1, fun hf => ?_, fun c => ?_⟩
  · obtain ⟨b1, b2, b3, b4⟩ := k2 (h1.trans hf)
    obtain ⟨c1, c2, c3, c4⟩ := h2 hf
    exact ⟨b1.trans c1, b2.trans c2, b3.trans c3, b4.trans c4⟩
  · obtain ⟨x, st, tl, e1⟩ := k3 c
    obtain ⟨y, st', tl', e2⟩ := h3 c
    exact ⟨x, st, tl, by rw [e1, e2]⟩

theorem quiet_modCore (s : State) (c : Nat) (f : Core → Core)
    (h : ∃ x st tl, f (s.core c) = { s.core c with lost := x, trgState := st, trgLast := tl }) : Quiet s (s.modCore c f) := by
  refine ⟨_, _, _, _, _, _, _, _, rfl, rfl, fun _ => ⟨rfl, rfl, rfl, rfl⟩, fun k => ?_⟩
  rw [State.core_modCore]
  split
  · rename_i hk; subst hk; exact h
  · exact ⟨_, _, _, rfl⟩

/-- What sending a record changes, with the trace on. -/
theorem send_quiet (s : State) (buf : Bool) (r : TRec) (hs : s.host.trcEn = true) :
    Quiet s (s.send buf r).1 ∧ (s.send buf r).1.host.trcEn = true := by
  have off : ∀ {p : Prop}, s.host.trcEn = false → p := fun h => by rw [hs] at h; cases h
  unfold State.send
  simp only
  split
  · exact ⟨⟨_, _, _, _, _, _, _, _, rfl, rfl, fun h => off h, fun _ => ⟨_, _, _, rfl⟩⟩, hs⟩
  · split
    · split
      · exact ⟨.refl s, hs⟩
      · exact ⟨⟨_, _, _, _, _, _, _, _, rfl, rfl, fun h => off h, fun _ => ⟨_, _, _, rfl⟩⟩, hs⟩
    · split
      · exact ⟨.refl s, hs⟩
      · obtain ⟨m, l, a, z, e⟩ := onlyBytes_wrBytes s (s.host.tbbase.toNat + if decide (s.host.tblen.toNat < s.host.tbptr.toNat + 32) = true then 0 else s.host.tbptr.toNat)
          ((([{ r with time := Config.timestamp s.fresh }.head, Config.timestamp s.fresh, Config.freeWord s.fresh 100,
            Config.freeWord s.fresh 101] : List Word).map (fun w => leBytes 8 w.toNat)).flatten)
        rw [e]
        exact ⟨⟨_, _, _, _, _, _, _, _, rfl, rfl, fun h => off h, fun _ => ⟨_, _, _, rfl⟩⟩, hs⟩

theorem sendCounted_quiet (s : State) (r : TRec) (hs : s.host.trcEn = true) : Quiet s (s.sendCounted r) := by
  have lost : ∀ t : State, Quiet t (t.modCore r.core (fun c => { c with lost := c.lost + 1 })) := fun t =>
    quiet_modCore t _ _ ⟨_, _, _, rfl⟩
  have zero : ∀ t : State, Quiet t (t.modCore r.core (fun c => { c with lost := 0 })) := fun t =>
    quiet_modCore t _ _ ⟨_, _, _, rfl⟩
  unfold State.sendCounted
  simp only
  generalize h1 : (if (s.core r.core).lost = 0 then (s, true) else
    s.send (s.traceBuf r) { kind := 0x0C, core := r.core, payload := [BitVec.ofNat 64 (s.core r.core).lost] }) = p
  have hp : Quiet s p.1 ∧ p.1.host.trcEn = true := by
    subst h1; split
    · exact ⟨.refl s, hs⟩
    · exact send_quiet s _ _ hs
  split
  · have h2 := send_quiet (p.1.modCore r.core (fun c => { c with lost := 0 })) (s.traceBuf r) r hp.2
    split
    · exact hp.1.trans ((zero _).trans h2.1)
    · exact hp.1.trans ((zero _).trans (h2.1.trans (lost _)))
  · exact hp.1.trans (lost _)

theorem emit_quiet (s : State) (core : Nat) (srcs : List Nat) (r : Option TRec) : Quiet s (s.emit core srcs r) := by
  unfold State.emit
  simp only
  generalize h1 : (if (trigger (s.core core).trgState (s.core core).trgStart (s.core core).trgStop srcs).1 =
    (s.core core).trgState then s else s.modCore core _) = t
  have ht : Quiet s t := by
    subst h1; split
    · exact .refl s
    · exact quiet_modCore s _ _ ⟨_, _, _, rfl⟩
  cases r with
  | none => exact ht
  | some x =>
    show Quiet s (ite _ _ _)
    by_cases hc : t.host.trcEn = true
    · refine iteInduction (fun _ => ht.trans (sendCounted_quiet t x hc)) (fun _ => ht)
    · rw [if_neg (by simp [hc])]; exact ht

theorem Quiet.grp? {s t : State} (h : Quiet s t) (w : Sel) : t.grp? w = s.grp? w := by
  obtain ⟨_, _, _, _, _, _, _, _, rfl, _⟩ := h; rfl

theorem Quiet.teams {s t : State} (h : Quiet s t) : t.teams = s.teams := by
  obtain ⟨_, _, _, _, _, _, _, _, rfl, _⟩ := h; rfl

theorem Quiet.mem {s t : State} (h : Quiet s t) (hs : s.host.trcEn = false) : t.mem = s.mem := by
  obtain ⟨_, _, _, _, _, _, _, _, rfl, _, h2, _⟩ := h; exact (h2 hs).1

theorem emit_core (s : State) (core : Nat) (srcs : List Nat) (r : Option TRec) (k : Nat) :
    ∃ x st tl, (s.emit core srcs r).core k = { s.core k with lost := x, trgState := st, trgLast := tl } := by
  obtain ⟨_, _, _, _, _, _, _, _, h, _, _, hc⟩ := emit_quiet s core srcs r
  exact hc k

theorem emit_ops (s : State) (core : Nat) (srcs : List Nat) (r : Option TRec) (k : Nat) :
    ((s.emit core srcs r).core k).ops = (s.core k).ops := by
  obtain ⟨x, st, tl, h⟩ := emit_core s core srcs r k
  rw [h]

end Sys2Proof.Machine
end

