-- ==== Sys2Proof/Laws/Gate.lean ====
section
/-! SUPPORT. What performing the stores at the gate can do, and what an operation in flight changes in its group. -/

namespace Sys2Proof.Machine

/-- `t` is `s` but for bytes of memory and of scratchpads, and for the L1 and the operations in flight of cores. -/
structure Settles (s t : State) : Prop where
  rest : ∃ m l a z tm cs, t = { s with mem := m, l2 := l, aper := a, stale := z, teams := tm, cores := cs }
  team : ∀ tid, ∃ sc : Team → List Host.Cell,
    AMap.find t.teams tid = (AMap.find s.teams tid).map (fun x => { x with scr := sc x })
  core : ∀ k, ∃ l1 ops, t.core k = { s.core k with l1 := l1, ops := ops }

theorem Settles.refl (s : State) : Settles s s :=
  ⟨⟨_, _, _, _, _, _, rfl⟩, fun _ => ⟨fun x => x.scr, by simp⟩, fun _ => ⟨_, _, rfl⟩⟩

theorem Settles.trans {s t u : State} (h : Settles s t) (k : Settles t u) : Settles s u where
  rest := by
    obtain ⟨_, _, _, _, _, _, rfl⟩ := h.rest
    obtain ⟨_, _, _, _, _, _, rfl⟩ := k.rest
    exact ⟨_, _, _, _, _, _, rfl⟩
  team := fun tid => by
    obtain ⟨f, h1⟩ := h.team tid
    obtain ⟨g, h2⟩ := k.team tid
    refine ⟨fun x => g { x with scr := f x }, ?_⟩
    rw [h2, h1, Option.map_map]; rfl
  core := fun c => by
    obtain ⟨l, o, h1⟩ := h.core c
    obtain ⟨l', o', h2⟩ := k.core c
    exact ⟨l', o', by rw [h2, h1]⟩

theorem Settles.grp? {s t : State} (h : Settles s t) (w : Sel) : t.grp? w = s.grp? w := by
  obtain ⟨f, h1⟩ := h.team w.tid
  unfold State.grp?
  rw [h1]
  cases AMap.find s.teams w.tid <;> rfl

theorem settles_bytes {s t : State} (h : OnlyBytes s t) : Settles s t := by
  obtain ⟨m, l, a, z, rfl⟩ := h
  exact ⟨⟨_, _, _, _, _, _, rfl⟩, fun _ => ⟨fun x => x.scr, by simp⟩, fun _ => ⟨_, _, rfl⟩⟩

theorem settles_modCore (s : State) (c : Nat) (f : Core → Core)
    (h : ∃ l1 ops, f (s.core c) = { s.core c with l1 := l1, ops := ops }) : Settles s (s.modCore c f) := by
  refine ⟨⟨_, _, _, _, _, _, rfl⟩, fun _ => ⟨fun x => x.scr, by simp⟩, fun k => ?_⟩
  rw [State.core_modCore]
  split
  · rename_i hk; subst hk; exact h
  · exact ⟨_, _, rfl⟩

theorem settles_scr (s : State) (tid o : Nat) (x : Byte) : Settles s (s.modTeam tid (fun t => t.scrWr o x)) := by
  refine ⟨⟨_, _, _, _, _, _, rfl⟩, fun k => ?_, fun _ => ⟨_, _, rfl⟩⟩
  rw [State.find_modTeam]
  split
  · exact ⟨fun t => (t.scrWr o x).scr, rfl⟩
  · exact ⟨fun t => t.scr, by simp⟩

theorem settles_foldl {α : Type} (f : State → α → State) (h : ∀ s a, Settles s (f s a)) (xs : List α) (s : State) :
    Settles s (xs.foldl f s) := by
  induction xs generalizing s with
  | nil => exact .refl s
  | cons x xs ih => exact (h s x).trans (ih _)

theorem settles_perform1 (s : State) (tid core : Nat) (b : StByte) : Settles s (s.perform1 tid core b) := by
  unfold State.perform1
  split
  · exact settles_scr s _ _ _
  · have h := settles_bytes (onlyBytes_wrKey s b.key b.val)
    simp only
    split
    · refine h.trans (settles_modCore _ _ _ ?_)
      unfold Core.l1Store
      split <;> exact ⟨_, _, rfl⟩
    · exact h

theorem settles_perform (s : State) (who : Sel) (core : Nat) (bs : List StByte) : Settles s (s.perform who core bs) :=
  (settles_bytes (onlyBytes_recall s _ _)).trans (settles_foldl _ (fun s b => settles_perform1 s who.tid core b) bs _)

theorem settles_performRaw (s : State) (core id : Nat) : Settles s (s.performRaw core id) := by
  unfold State.performRaw
  split
  · exact .refl s
  · split
    · refine (settles_perform s _ _ _).trans (settles_modCore _ _ _ ?_)
      split <;> exact ⟨_, _, rfl⟩
    · exact .refl s

theorem settles_settleBytes (s : State) (core : Nat) (here : StByte → Bool) : Settles s (s.settleBytes core here) :=
  settles_foldl _ (fun s (o : Nat × Op) => settles_performRaw s core o.1) _ s

theorem settles_performOp (s : State) (core id : Nat) : Settles s (s.performOp core id) := by
  unfold State.performOp
  split
  · exact .refl s
  · exact (settles_settleBytes s core _).trans (settles_performRaw _ core id)

theorem settles_releaseWhere (s : State) (core : Nat) (want : Nat × Op → Bool) :
    Settles s (s.releaseWhere core want) :=
  settles_foldl _ (fun s (o : Nat × Op) => settles_performOp s core o.1) _ s

theorem settles_release (s : State) (core id : Nat) : Settles s (s.release core id) := settles_releaseWhere s core _

theorem settles_drainStores (s : State) (core : Nat) (w : Sel) : Settles s (s.drainStores core w) :=
  settles_releaseWhere s core _

theorem settles_drainView (s : State) (core tid : Nat) (v : View) : Settles s (s.drainView core tid v) :=
  settles_releaseWhere s core _

theorem settles_drainMeet (s : State) (core : Nat) (w : Sel) (v : View) : Settles s (s.drainMeet core w v) :=
  settles_releaseWhere s core _

theorem settles_settleLine (s : State) (core ia : Nat) : Settles s (s.settleLine core ia) :=
  settles_settleBytes s core _

theorem settles_releaseIf (s : State) (e : Env) (o : BitVec 3) : Settles s (s.releaseIf e o) := by
  unfold State.releaseIf
  split
  · exact settles_drainStores s _ _
  · exact .refl s

/-- What a release performs is at the gate, and something of it is wanted (R140, R143). -/
theorem gateNeeds_none {want : Nat × Op → Bool} {ops : AMap Op} (h : ∀ o, o ∈ ops → want o = false) :
    gateNeeds want ops = [] := by
  induction ops with
  | nil => rfl
  | cons o os ih =>
    have := ih (fun p hp => h p (List.mem_cons_of_mem _ hp))
    show (if o.2.gated && (want o || (gateNeeds want os).any _) then _ else _) = _
    rw [this, h o List.mem_cons_self]; simpa [gateNeeds] using this

theorem releaseWhere_none {s : State} {core : Nat} {want : Nat × Op → Bool}
    (h : ∀ o, o ∈ (s.core core).ops → want o = false) : s.releaseWhere core want = s := by
  unfold State.releaseWhere
  rw [gateNeeds_none h]; rfl

/-- No store at the gate is the group's, or one that it has read from: draining it changes nothing. -/
theorem drainStores_none {s : State} {core : Nat} {w : Sel}
    (h : ∀ o, o ∈ (s.core core).ops → o.2.of w = false ∧ o.2.readBy w = false) : s.drainStores core w = s :=
  releaseWhere_none (fun o ho => by simp [h o ho])

theorem completeOps_none {s : State} {core : Nat} {w : Sel} (h : ∀ o, o ∈ (s.core core).ops → o.2.of w = false) :
    s.completeOps core w = s := by
  unfold State.completeOps
  rw [List.filter_eq_nil_iff.mpr]; · rfl
  intro o ho; simp [h o ho]

/-- With nothing of the group in flight, a trap waits for nothing (R195). -/
theorem complete_settled {s : State} {e : Env} (h : Settled s e) : s.complete e.gr.core e.gr.slice e.who = s := by
  unfold State.complete
  have hp : ∀ n, State.drainPipe e.who e.gr.core (pipeOf e.gr.slice) n s = s := by
    intro n
    cases n with
    | zero => rfl
    | succ n =>
      unfold State.drainPipe
      have := h.1
      unfold State.piped at this
      simp only [this, Bool.false_eq_true, if_false]
  simp only [hp]
  exact completeOps_none h.2

/-- An operation that ends (R32): its group's flag falls, and no other register of a group changes. -/
theorem completeOp_grp? {s : State} {core id : Nat} {o : Op} (h : AMap.find (s.core core).ops id = some o) (w : Sel) :
    (s.completeOp core id).grp? w =
      if w.tid = o.who.tid ∧ w.grp = o.who.grp then (s.grp? w).map (fun g => (g.settled id).flagDown o.flag) else s.grp? w := by
  unfold State.completeOp
  simp only [h]
  have key : ∀ u : State, u.grp? w = s.grp? w →
      (u.modGrp o.who (fun g => (g.settled id).flagDown o.flag)).grp? w =
        if w.tid = o.who.tid ∧ w.grp = o.who.grp then (s.grp? w).map (fun g => (g.settled id).flagDown o.flag) else s.grp? w := by
    intro u hu; rw [State.grp?_modGrp, hu]
  have h1 := key ((s.release core id).modCore core (fun c => { c with ops := AMap.erase c.ops id }))
    ((settles_release s core id).grp? w)
  split
  · rw [(emit_quiet _ _ _ _).grp?]; exact h1
  · exact h1

theorem completeOp_gone {s : State} {core id : Nat} {o : Op} (h : AMap.find (s.core core).ops id = some o) :
    AMap.find ((s.completeOp core id).core core).ops id = none := by
  unfold State.completeOp
  simp only [h]
  have h1 : AMap.find (((((s.release core id).modCore core (fun c => { c with ops := AMap.erase c.ops id })).modGrp o.who
      (fun g => (g.settled id).flagDown o.flag))).core core).ops id = none := by
    show AMap.find (((s.release core id).modCore core (fun c => { c with ops := AMap.erase c.ops id })).core core).ops id
      = none
    rw [State.core_modCore, if_pos rfl, AMap.find_erase, if_pos rfl]
  split
  · rw [emit_ops]; exact h1
  · exact h1

end Sys2Proof.Machine
end

