-- ==== Sys2Proof/Laws/Issue.lean ====
section
/-! SUPPORT. What an issue does once its conditions hold, so that no proof about an instruction unfolds
`State.issue`. -/

namespace Sys2Proof.Machine

theorem stopOf_nil : stopOf [] = none := rfl

theorem attempt_of_quiet {s : State} {e : Env} {i : Instr} {body : Env → State → Res}
    (h : e.tested = true → s.matches e i = []) : s.attempt e i body = s.fenced e i body := by
  unfold State.attempt State.attemptThen
  split
  · rename_i hc
    simp only [Bool.and_eq_true] at hc
    simp [h hc.1, stopOf_nil]
  · rfl

/-- A pending register is among those given (R33). -/
theorem blocked_iff (e : Env) (rs : List Nat) : e.blocked rs = e.gr.pend.any (fun p => rs.contains p.reg) := by
  unfold Env.blocked
  cases e.gr.pend <;> simp [bne]

/-- A list of registers blocks where one of its parts does (R33). -/
theorem blocked_append (e : Env) (xs ys : List Nat) : e.blocked (xs ++ ys) = (e.blocked xs || e.blocked ys) := by
  rw [Bool.eq_iff_iff]
  simp [blocked_iff, and_or_left, exists_or]

theorem guard_free {e : Env} {i : Instr} (h : e.blocked (e.regs i) = false) : e.blocked (guardRegs i) = false := by
  rw [Env.regs, blocked_append, Bool.or_eq_false_iff] at h
  exact h.2

theorem carryOut_of_issues {s : State} {e : Env} {i : Instr} {body : Env → State → Res}
    (h : Issues s e i) : s.carryOut e i body = s.finish e i (body e (s.begun e)) := by
  unfold State.carryOut
  simp only [h.form]
  have hg : (!i.guard.lane && !e.groupGuard i.guard) = false := by
    rcases h.guard with h | h <;> simp [h]
  simp only [hg, h.ready, guard_free h.ready, Bool.false_eq_true, if_false]
  split
  · rename_i k hk
    have := h.room k hk
    simp only [Nat.not_le.mpr this, if_false]; rfl
  · rfl

/-- A word that is no trap fence, once it issues. -/
theorem issue_of_issues {s : State} {e : Env} {i : Instr} {body : Env → State → Res}
    (h : Issues s e i) (hf : trapFence i = false) :
    s.issue i body = .next (s.finish e i (body e (s.begun e))).tick := by
  unfold State.issue
  simp only [h.env, attempt_of_quiet h.quiet]
  unfold State.fenced State.fencedThen
  simp only [hf, Bool.false_and, Bool.false_eq_true, if_false, carryOut_of_issues h]

theorem issue_done {s t : State} {e : Env} {i : Instr} {body : Env → State → Res}
    (h : Issues s e i) (hf : trapFence i = false) (hb : body e (s.begun e) = .done t) :
    s.issue i body = .next (t.issued s e i) := by
  rw [issue_of_issues h hf, hb]; rfl

theorem issue_go {s t : State} {e : Env} {i : Instr} {body : Env → State → Res} {pc : Word}
    (h : Issues s e i) (hf : trapFence i = false) (hb : body e (s.begun e) = .go t pc) :
    s.issue i body = .next (t.jumped s e i pc) := by
  rw [issue_of_issues h hf, hb]; rfl

end Sys2Proof.Machine
end

