-- ==== Sys2Proof/Laws/Lanes.lean ====
section
/-! SUPPORT. What a write to the lanes of a register does: every reading of a vector register after it, and
that nothing else of the group changes. -/

namespace Sys2Proof.Machine

/-- A lane's result is written: a pair, or one register. -/
def Group.putWord (g : Group) (pair : Bool) (d l : Nat) (x : Word) : Group :=
  if pair then g.setV64 d l x else g.setV d l (x.extractLsb' 0 32)

theorem Group.vReg_setV (g : Group) (r l : Nat) (x : Lane) (r' l' : Nat) (hl : l < 64) (hl' : l' < 64) :
    (g.setV r l x).vReg r' l' = if r' = r ∧ l' = l then x else g.vReg r' l' := by
  unfold Group.setV Group.vReg
  rw [AMap.get_set]
  by_cases h : 64 * r' + l' = 64 * r + l
  · have : r' = r ∧ l' = l := by omega
    simp [this]
  · have : ¬(r' = r ∧ l' = l) := by omega
    simp [h, this]

/-- A change of the vector registers and the sticky flags alone. -/
def Group.withV (g : Group) (v : AMap Lane) (f : Flags) : Group := { g with v := v, gstat := f }

theorem Group.putWord_withV (g : Group) (pair : Bool) (d l : Nat) (x : Word) :
    g.putWord pair d l x = g.withV (g.putWord pair d l x).v g.gstat := by
  unfold Group.putWord Group.setV64 Group.setV Group.withV
  split <;> rfl

theorem Group.vReg_putWord (g : Group) (pair : Bool) (d l : Nat) (x : Word) (r l' : Nat) (hl : l < 64)
    (hl' : l' < 64) :
    (g.putWord pair d l x).vReg r l' =
      if l' = l then
        if r = d then x.extractLsb' 0 32
        else if pair && r == d + 1 then x.extractLsb' 32 32 else g.vReg r l'
      else g.vReg r l' := by
  unfold Group.putWord
  cases pair
  · simp only [Bool.false_eq_true, if_false, Bool.false_and]
    rw [Group.vReg_setV _ _ _ _ _ _ hl hl']
    by_cases h1 : r = d <;> by_cases h2 : l' = l <;> simp [h1, h2]
  · simp only [if_true, Bool.true_and]
    unfold Group.setV64
    rw [Group.vReg_setV _ _ _ _ _ _ hl hl', Group.vReg_setV _ _ _ _ _ _ hl hl']
    by_cases h2 : l' = l
    · by_cases h1 : r = d
      · subst h1; simp [h2]
      · by_cases h3 : r = d + 1 <;> simp [h1, h2, h3]
    · simp [h2]

/-- One lane of a word: its result and its flags. -/
def laneStep (pair : Bool) (d : Nat) (x : Nat → Word) (fl : Nat → Flags) (l : Nat) (g : Group) : Group :=
  (g.putWord pair d l (x l)).raise (fl l)

theorem laneStep_withV (pair : Bool) (d : Nat) (x : Nat → Word) (fl : Nat → Flags) (l : Nat) (g : Group) :
    laneStep pair d x fl l g = g.withV (laneStep pair d x fl l g).v (g.gstat ||| fl l) := by
  unfold laneStep Group.raise
  rw [Group.putWord_withV]; rfl

theorem Group.withV_withV (g : Group) (v v' : AMap Lane) (f f' : Flags) :
    (g.withV v f).withV v' f' = g.withV v' f' := rfl

theorem foldl_laneStep (pair : Bool) (d : Nat) (x : Nat → Word) (fl : Nat → Flags) (ls : List Nat) (g : Group) :
    ls.foldl (fun g l => laneStep pair d x fl l g) g =
      g.withV (ls.foldl (fun g l => laneStep pair d x fl l g) g).v (ls.foldl (fun f l => f ||| fl l) g.gstat) := by
  induction ls generalizing g with
  | nil => rfl
  | cons l ls ih =>
    simp only [List.foldl_cons]
    rw [ih]
    conv => lhs; rw [laneStep_withV pair d x fl l g]
    rw [Group.withV_withV]
    congr 1
    rw [laneStep_withV pair d x fl l g]; rfl

theorem vReg_foldl_laneStep (pair : Bool) (d : Nat) (x : Nat → Word) (fl : Nat → Flags) (ls : List Nat)
    (hls : ∀ l ∈ ls, l < 64) (g : Group) (r l' : Nat) (hl' : l' < 64) :
    (ls.foldl (fun g l => laneStep pair d x fl l g) g).vReg r l' =
      if l' ∈ ls then
        if r = d then (x l').extractLsb' 0 32
        else if pair && r == d + 1 then (x l').extractLsb' 32 32 else g.vReg r l'
      else g.vReg r l' := by
  induction ls generalizing g with
  | nil => simp
  | cons l ls ih =>
    simp only [List.foldl_cons]
    rw [ih (fun k hk => hls k (List.mem_cons_of_mem _ hk))]
    have hstep : (laneStep pair d x fl l g).vReg r l' = (g.putWord pair d l (x l)).vReg r l' := rfl
    rw [hstep, Group.vReg_putWord _ _ _ _ _ _ _ (hls l (List.mem_cons_self ..)) hl']
    by_cases h : l' = l
    · subst h; by_cases h2 : l' ∈ ls <;> simp [h2]
      intros; simp_all
    · by_cases h2 : l' ∈ ls <;> simp [h, h2]

theorem mem_lanesOf {m : Word} {l : Nat} : l ∈ lanesOf m ↔ l < 64 ∧ m.getLsbD l = true := by
  simp [lanesOf, List.mem_filter]

/-- The state change of the arms of a word, arm after arm, as one change of the group. -/
def armsStep (pair : Bool) (arms : List Arm) (x : Arm → Nat → Word) (fl : Arm → Nat → Flags) (g : Group) : Group :=
  arms.foldl (fun g a => (lanesOf a.m).foldl (fun g l => laneStep pair a.d (x a) (fl a) l g) g) g

theorem armsStep_withV (pair : Bool) (arms : List Arm) (x : Arm → Nat → Word) (fl : Arm → Nat → Flags) (g : Group) :
    armsStep pair arms x fl g = g.withV (armsStep pair arms x fl g).v
      (arms.foldl (fun f a => (lanesOf a.m).foldl (fun f l => f ||| fl a l) f) g.gstat) := by
  unfold armsStep
  induction arms generalizing g with
  | nil => rfl
  | cons a as ih =>
    simp only [List.foldl_cons]
    rw [ih]
    conv => lhs; rw [foldl_laneStep pair a.d (x a) (fl a) (lanesOf a.m) g]
    rw [Group.withV_withV]
    congr 1
    rw [foldl_laneStep pair a.d (x a) (fl a) (lanesOf a.m) g]; rfl

theorem foldl_or (f : Flags) (ls : List Nat) (fl : Nat → Flags) :
    ls.foldl (fun f l => f ||| fl l) f = f ||| ls.foldl (fun f l => f ||| fl l) 0 := by
  induction ls generalizing f with
  | nil => simp
  | cons l ls ih => simp only [List.foldl_cons]; rw [ih, ih (0 ||| fl l)]; simp [BitVec.or_assoc]

theorem foldl_armFlags (f : Flags) (arms : List Arm) (fl : Arm → Nat → Flags) :
    arms.foldl (fun f a => (lanesOf a.m).foldl (fun f l => f ||| fl a l) f) f = f ||| armFlags arms fl := by
  unfold armFlags
  induction arms generalizing f with
  | nil => simp
  | cons a as ih =>
    simp only [List.foldl_cons]
    rw [ih, ih ((lanesOf a.m).foldl (fun f l => f ||| fl a l) 0), foldl_or f]
    simp [BitVec.or_assoc]

/-- No lane belongs to two arms. -/
def apart (arms : List Arm) : Prop := arms.Pairwise (fun a b => a.m &&& b.m = 0)

theorem vReg_armsStep (pair : Bool) (arms : List Arm) (hd : apart arms) (x : Arm → Nat → Word)
    (fl : Arm → Nat → Flags) (g : Group) (r l : Nat) (hl : l < 64) :
    (armsStep pair arms x fl g).vReg r l = laneAfter g pair arms x r l := by
  unfold armsStep laneAfter
  induction arms generalizing g with
  | nil => rfl
  | cons a as ih =>
    simp only [List.foldl_cons]
    have hd' := List.pairwise_cons.mp hd
    rw [ih hd'.2]
    by_cases hm : a.m.getLsbD l = true
    · have hnone : as.find? (fun a => a.m.getLsbD l) = none := by
        rw [List.find?_eq_none]
        intro b hb hbl
        have := congrArg (fun w => w.getLsbD l) (hd'.1 b hb)
        simp [hm, hbl] at this
      simp only [hnone, List.find?_cons, hm]
      rw [vReg_foldl_laneStep _ _ _ _ _ (fun k hk => (mem_lanesOf.mp hk).1) _ _ _ hl]
      simp [mem_lanesOf.mpr ⟨hl, hm⟩]
    · have hx : ∀ r, ((lanesOf a.m).foldl (fun g l => laneStep pair a.d (x a) (fl a) l g) g).vReg r l = g.vReg r l := by
        intro r
        rw [vReg_foldl_laneStep _ _ _ _ _ (fun k hk => (mem_lanesOf.mp hk).1) _ _ _ hl]
        have : l ∉ lanesOf a.m := fun h => hm (mem_lanesOf.mp h).2
        simp [this]
      have hm' : a.m.getLsbD l = false := by simpa using hm
      simp only [List.find?_cons, hm', hx]

/-! From a word's meaning to its statement. -/

theorem env_grp {s : State} {e : Env} (h : s.env = some e) :
    ∃ t, AMap.find s.teams e.who.tid = some t ∧ AMap.find t.groups e.who.grp = some e.gr ∧
      AMap.find e.gr.frags e.who.frag = some e.fr ∧ e.tm = t := by
  unfold State.env at h
  split at h
  · cases h
  · rename_i w _
    split at h
    · cases h
    · rename_i e' he
      split at h
      · cases h
        unfold State.envOf at he
        split at he
        · cases he
        · rename_i t ht
          split at he
          · cases he
          · rename_i g hg
            split at he
            · cases he
            · rename_i f hf
              cases he
              exact ⟨t, ht, hg, hf, rfl⟩
      · cases h

/-- Two changes of the issuing group are one and the same when they agree on the issuing group, whatever its
fragments and its issues to come are. -/
theorem modGrp_congr {s : State} {e : Env} (h : s.env = some e) {f k : Group → Group}
    (hfk : ∀ fr ag, f { e.gr with frags := fr, again := ag } = k { e.gr with frags := fr, again := ag }) :
    (s.begun e).modGrp e.who f = (s.begun e).modGrp e.who k := by
  obtain ⟨t, ht, hg, _, _⟩ := env_grp h
  unfold State.modGrp State.modTeam
  congr 1
  apply AMap.modify_congr
  intro t' ht'
  have : t' = t.modGrp e.who.grp (·.used e.key) := by
    unfold State.begun State.modGrp State.modTeam at ht'
    simp only [AMap.find_modify, if_true, ht, Option.map_some, Option.some.injEq] at ht'
    exact ht'.symm
  subst this
  unfold Team.modGrp
  congr 1
  apply AMap.modify_congr
  intro g hg'
  simp only [AMap.find_modify, if_true, hg, Option.map_some, Option.some.injEq] at hg'
  subst hg'
  exact hfk _ _

theorem takes_of_body {s : State} {e : Env} {i : Instr} {body : Env → State → Res} {pair : Bool} {arms : List Arm}
    {x : Arm → Nat → Word} {fl : Arm → Nat → Flags} {f : Group → Group}
    (h : Issues s e i) (hf : trapFence i = false) (hx : exec i s = s.issue i body)
    (hb : body e (s.begun e) = .done ((s.begun e).modGrp e.who f)) (hd : apart arms)
    (hstep : ∀ fr ag, f { e.gr with frags := fr, again := ag } =
      armsStep pair arms x fl { e.gr with frags := fr, again := ag }) :
    TakesLanes s e i pair arms x fl := by
  refine ⟨(armsStep pair arms x fl e.gr).v, ?_, ?_⟩
  · rw [hx, issue_done h hf hb]
    unfold State.wrote
    congr 2
    apply modGrp_congr h.env
    intro fr ag
    rw [hstep, armsStep_withV, foldl_armFlags]
    have : (armsStep pair arms x fl { e.gr with frags := fr, again := ag }).v = (armsStep pair arms x fl e.gr).v := by
      have key : ∀ (g : Group) (fr ag), (armsStep pair arms x fl { g with frags := fr, again := ag }).v =
          (armsStep pair arms x fl g).v := by
        intro g fr ag
        have hl : ∀ (a : Arm) (ls : List Nat) (g g' : Group), g.v = g'.v →
            (ls.foldl (fun g l => laneStep pair a.d (x a) (fl a) l g) g).v =
            (ls.foldl (fun g l => laneStep pair a.d (x a) (fl a) l g) g').v := by
          intro a ls
          induction ls with
          | nil => intro g g' h; exact h
          | cons l ls ih =>
            intro g g' h
            simp only [List.foldl_cons]
            apply ih
            unfold laneStep Group.putWord Group.setV64 Group.setV Group.raise
            cases pair <;> simp [h]
        have ha : ∀ (as : List Arm) (g g' : Group), g.v = g'.v →
            (armsStep pair as x fl g).v = (armsStep pair as x fl g').v := by
          intro as
          induction as with
          | nil => intro g g' h; exact h
          | cons a as ih =>
            intro g g' h
            unfold armsStep at ih ⊢
            simp only [List.foldl_cons]
            exact ih _ _ (hl a _ g g' h)
        exact ha arms _ _ rfl
      exact key e.gr fr ag
    rw [this]; rfl
  · intro r l hl
    exact vReg_armsStep pair arms hd x fl e.gr r l hl

end Sys2Proof.Machine
end

