-- ==== Sys2Proof/Laws/Ints.lean ====
section
/-! SUPPORT. Lane integers: what a result of a type puts into its register, in terms of the exact integer. -/

namespace Sys2Proof.Machine

theorem intTy_cases (ty : Nat) :
    (wide ty = true ∧ (intTy ty).w = 64) ∨
    (wide ty = false ∧ ((intTy ty).w = 8 ∨ (intTy ty).w = 16 ∨ (intTy ty).w = 32)) := by
  unfold wide intTy
  split <;> simp_all

theorem tyNorm_cast_wrap (t : IntTy) (ht : t.w = 8 ∨ t.w = 16 ∨ t.w = 32 ∨ t.w = 64) (x : Int) :
    t.val (t.wrap x) = if t.signed then x.bmod (2 ^ t.w) else x % 2 ^ t.w := by
  unfold IntTy.val IntTy.wrap Int.bmod
  rcases ht with h | h | h | h <;> cases t.signed <;> simp [h] <;> omega

theorem width_cases (ty : Nat) :
    (intTy ty).w = 8 ∨ (intTy ty).w = 16 ∨ (intTy ty).w = 32 ∨ (intTy ty).w = 64 := by
  rcases intTy_cases ty with h | h
  · exact .inr (.inr (.inr h.2))
  · rcases h.2 with h | h | h <;> simp [h]

theorem val_wrap (ty : Nat) (x : Int) : (intTy ty).val ((intTy ty).wrap x) = tyNorm ty x :=
  tyNorm_cast_wrap _ (width_cases ty) x

/-- A result of a type is written as the exact integer it comes from. -/
theorem putInt_wrap (g : Group) (ty d l : Nat) (x : Int) :
    g.putInt ty d l ((intTy ty).wrap x) = g.putWord (wide ty) d l (tyBits ty x) := by
  unfold Group.putInt Group.putWord tyBits
  rcases intTy_cases ty with h | h
  · simp only [h.1, if_true]
    congr 1
    apply BitVec.eq_of_toInt_eq
    unfold IntTy.wrap
    simp only [h.2, BitVec.toInt_ofInt]
    rw [← BitVec.ofInt_natCast, BitVec.toInt_ofInt]
    simp only [Int.bmod]
    omega
  · simp only [h.1, Bool.false_eq_true, if_false]
    rw [val_wrap]
    congr 1
    ext i hi
    have h64 : i < 64 := by omega
    simp [BitVec.getElem_extractLsb', h64, BitVec.getLsbD_eq_getElem hi]

theorem wrap_of_lt (t : IntTy) (n : Nat) (h : n < 2 ^ t.w) : t.wrap n = n := by
  unfold IntTy.wrap
  have : ((n : Int) % 2 ^ t.w) = n := by
    apply Int.emod_eq_of_lt (by omega)
    exact_mod_cast h
  rw [this]; rfl

/-- A result given by its bits. -/
theorem putInt_nat (g : Group) (ty d l n : Nat) (h : n < 2 ^ (intTy ty).w) :
    g.putInt ty d l n = g.putWord (wide ty) d l (tyBits ty n) := by
  rw [← putInt_wrap, wrap_of_lt _ _ h]

theorem num_lt (o : Opnd) (ty : Nat) (g : Group) (l : Nat) : o.num ty g l < 2 ^ (intTy ty).w := by
  unfold Opnd.num
  rcases intTy_cases ty with h | h
  · simp only [h.1, if_true, h.2]; exact (o.pair g l).isLt
  · simp only [h.1, Bool.false_eq_true, if_false]
    exact Nat.mod_lt _ (Nat.two_pow_pos _)

/-- The same bits of two results with equal remainders. -/
theorem tyBits_congr (ty : Nat) (x y : Int) (h : x % 2 ^ (intTy ty).w = y % 2 ^ (intTy ty).w) :
    tyBits ty x = tyBits ty y := by
  unfold tyBits tyNorm
  rcases intTy_cases ty with hw | hw
  · simp only [hw.1, if_true]
    apply BitVec.eq_of_toInt_eq
    simp only [hw.2] at h
    simp only [BitVec.toInt_ofInt, Int.bmod]
    omega
  · simp only [hw.1, Bool.false_eq_true, if_false]
    congr 2
    cases (intTy ty).signed
    · simpa using h
    · rcases hw.2 with hw | hw | hw <;> simp only [hw] at h ⊢ <;> simp only [Int.bmod, if_true] <;> omega

theorem int_emod (o : Opnd) (ty : Nat) (g : Group) (l : Nat) :
    o.int ty g l % 2 ^ (intTy ty).w = (o.num ty g l : Int) % 2 ^ (intTy ty).w := by
  unfold Opnd.int IntTy.val
  split
  · simp
  · rfl

theorem wrap_int (o : Opnd) (ty : Nat) (g : Group) (l : Nat) :
    (intTy ty).wrap (o.int ty g l) = o.num ty g l := by
  have h := num_lt o ty g l
  unfold IntTy.wrap
  rw [int_emod, Int.emod_eq_of_lt (by omega) (by exact_mod_cast h)]
  rfl

end Sys2Proof.Machine
end

