-- ==== Sys2Proof/Laws/Mem.lean ====
section
/-! SUPPORT. The canonical form of memory: every operation that writes memory keeps it, the memory at reset has it, and
equal reads are equal memories. And what one byte reads as after one byte has been written. -/

namespace Sys2Proof.Machine

/-! One byte. -/

theorem State.rd_wr (s : State) (k j : Nat) (x : Byte) : (s.wr k x).rd j = if j = k then x else s.rd j :=
  AMap.get_set ..

theorem Team.scrRd_scrWr (t : Team) (o p : Nat) (x : Byte) :
    (t.scrWr o x).scrRd p = if p = o then x else t.scrRd p :=
  AMap.get_set ..

theorem State.rd_wrKey (s : State) (k j : Nat) (x : Byte) :
    (s.wrKey k x).rd j = if j = k ∧ k < aperBase then x else s.rd j := by
  unfold State.wrKey
  split
  · rename_i h; simp [State.rd_wr, h]
  · rename_i h; simp only [h, and_false, if_false]; rfl

/-- What an entry that the controller writes reads as (R308). -/
theorem State.rd_wrEntry (s : State) (pa : Nat) (x : Word) (j : Nat) :
    (s.wrEntry pa x).rd j =
      if pa ≤ j ∧ j < pa + 8 then x.extractLsb' (8 * (j - pa)) 8 else s.rd j := by
  have h (n : Nat) (m : List Host.Cell) :
      AMap.get 0 ((List.range n).foldl (fun m i => AMap.set 0 m (pa + i) (x.extractLsb' (8 * i) 8)) m) j =
        if pa ≤ j ∧ j < pa + n then x.extractLsb' (8 * (j - pa)) 8 else AMap.get 0 m j := by
    induction n with
    | zero => rw [if_neg (by omega)]; rfl
    | succ n ih =>
      rw [List.range_succ, List.foldl_append, List.foldl_cons, List.foldl_nil, AMap.get_set, ih]
      by_cases hj : j = pa + n
      · subst hj; rw [if_pos rfl, if_pos (by omega), Nat.add_sub_cancel_left]
      · rw [if_neg hj]
        by_cases hp : pa ≤ j ∧ j < pa + n
        · rw [if_pos hp, if_pos (by omega)]
        · rw [if_neg hp, if_neg (by omega)]
  exact h 8 s.mem

/-! The canonical form. -/

theorem Memory.wf_iff (m : List Host.Cell) :
    Memory.wf m = true ↔ AMap.sorted m = true ∧ AMap.noDefault 0 m = true := by
  simp [Memory.wf]

theorem Memory.wf_nil : Memory.wf [] = true := rfl

theorem Memory.wf_set {m : List Host.Cell} (k : Nat) (x : Byte) (h : Memory.wf m = true) :
    Memory.wf (AMap.set 0 m k x) = true := by
  rw [Memory.wf_iff] at h ⊢
  exact ⟨AMap.sorted_set k x h.1, AMap.noDefault_set k x h.2⟩

theorem Memory.wf_filter {m : List Host.Cell} (p : Host.Cell → Bool) (h : Memory.wf m = true) :
    Memory.wf (m.filter p) = true := by
  rw [Memory.wf_iff] at h ⊢
  exact ⟨AMap.sorted_filter p h.1, AMap.noDefault_filter p h.2⟩

theorem Memory.wf_foldl {α : Type} (f : List Host.Cell → α → List Host.Cell)
    (hf : ∀ m a, Memory.wf m = true → Memory.wf (f m a) = true) (xs : List α) {m : List Host.Cell}
    (h : Memory.wf m = true) : Memory.wf (xs.foldl f m) = true := by
  induction xs generalizing m with
  | nil => exact h
  | cons a xs ih => exact ih (hf m a h)

theorem State.wf_foldl {α : Type} (f : State → α → State)
    (hf : ∀ s a, Memory.wf s.mem = true → Memory.wf (f s a).mem = true) (xs : List α) {s : State}
    (h : Memory.wf s.mem = true) : Memory.wf (xs.foldl f s).mem = true := by
  induction xs generalizing s with
  | nil => exact h
  | cons a xs ih => exact ih (hf s a h)

/-- The memory at reset has the form. -/
theorem State.wf_reset : Memory.wf State.reset.mem = true := rfl

theorem State.wf_wr (s : State) (k : Nat) (x : Byte) (h : Memory.wf s.mem = true) :
    Memory.wf (s.wr k x).mem = true :=
  Memory.wf_set k x h

theorem State.wf_wrKey (s : State) (k : Nat) (x : Byte) (h : Memory.wf s.mem = true) :
    Memory.wf (s.wrKey k x).mem = true := by
  unfold State.wrKey
  split
  · exact s.wf_wr k x h
  · exact h

theorem State.wf_recall (s : State) (w : Option (Nat × Nat)) (ks : List Nat) (h : Memory.wf s.mem = true) :
    Memory.wf (s.recall w ks).mem = true := h

theorem State.wf_wrBytes (s : State) (k : Nat) (bs : List Byte) (h : Memory.wf s.mem = true) :
    Memory.wf (s.wrBytes k bs).mem = true :=
  State.wf_foldl (fun s (b : Byte × Nat) => s.wrKey (k + b.2) b.1) (fun s _ h => State.wf_wrKey s _ _ h) _
    (State.wf_recall s _ _ h)

theorem State.wf_perform1 (s : State) (tid core : Nat) (b : StByte) (h : Memory.wf s.mem = true) :
    Memory.wf (s.perform1 tid core b).mem = true := by
  unfold State.perform1
  split
  · exact h
  · simp only; split <;> exact State.wf_wrKey s _ _ h

theorem State.wf_perform (s : State) (who : Sel) (core : Nat) (bs : List StByte) (h : Memory.wf s.mem = true) :
    Memory.wf (s.perform who core bs).mem = true :=
  State.wf_foldl (fun s b => s.perform1 who.tid core b) (fun s b h => State.wf_perform1 s _ _ b h) _
    (State.wf_recall s _ _ h)

theorem State.wf_wrEntry (s : State) (pa : Nat) (x : Word) (h : Memory.wf s.mem = true) :
    Memory.wf (s.wrEntry pa x).mem = true :=
  Memory.wf_foldl _ (fun _ _ hm => Memory.wf_set _ _ hm) _ h

theorem State.wf_zeroFrame (s : State) (pa n : Nat) (h : Memory.wf s.mem = true) :
    Memory.wf (s.zeroFrame pa n).mem = true :=
  Memory.wf_filter _ h

theorem State.wf_dropL2 (s : State) (lose : Bool) (lo hi : Nat) (h : Memory.wf s.mem = true) :
    Memory.wf (s.dropL2 lose lo hi).mem = true := by
  unfold State.dropL2
  split
  · refine State.wf_foldl _ (fun s a hs => ?_) _ h
    split
    · exact hs
    · exact Memory.wf_set _ _ hs
  · exact h

theorem State.wf_wrStack (s : State) (k : Nat) (x : Byte) (h : Memory.wf s.mem = true) :
    Memory.wf (s.wrStack k x).mem = true :=
  Memory.wf_set k x h

theorem AMap.sorted_iff_pairwise {α : Type} (m : AMap α) :
    AMap.sorted m = true ↔ m.Pairwise (fun a b => a.1 < b.1) := by
  induction m with
  | nil => simp [AMap.sorted]
  | cons c m ih =>
    obtain ⟨i, x⟩ := c
    simp only [AMap.sorted, Bool.and_eq_true, List.all_eq_true, decide_eq_true_eq, List.pairwise_cons, ih]

/-- The image of a team, in its place between the bytes below and the bytes above (R205). -/
theorem State.wf_putFrame (s : State) (pa : Nat) (bs : List Byte) (h : Memory.wf s.mem = true) :
    Memory.wf (s.putFrame pa bs).mem = true := by
  obtain ⟨h1, h2⟩ := (Memory.wf_iff _).1 h
  rw [AMap.sorted_iff_pairwise] at h1
  have inside : ∀ c ∈ (((List.range bs.length).zip bs).map (fun b => (pa + b.1, b.2))).filter (fun c => c.2 != 0),
      pa ≤ c.1 ∧ c.1 < pa + bs.length := by
    intro c hc
    obtain ⟨b, hb, rfl⟩ := List.mem_map.1 (List.mem_filter.1 hc).1
    have := List.mem_range.1 (List.of_mem_zip hb).1
    exact ⟨Nat.le_add_right _ _, Nat.add_lt_add_left this _⟩
  refine (Memory.wf_iff _).2 ⟨(AMap.sorted_iff_pairwise _).2 ?_, ?_⟩
  · show List.Pairwise _ (_ ++ _ ++ _)
    rw [List.append_assoc, List.pairwise_append]
    refine ⟨h1.filter _, List.pairwise_append.2 ⟨List.Pairwise.filter _ ?_, h1.filter _, ?_⟩, ?_⟩
    · refine List.pairwise_map.2 ?_
      have : List.Pairwise (fun a b : Nat × Byte => a.1 < b.1) ((List.range bs.length).zip bs) := by
        rw [← List.pairwise_map (f := Prod.fst), List.map_fst_zip (by simp)]
        exact List.pairwise_lt_range
      exact this.imp (fun hab => Nat.add_lt_add_left hab _)
    · intro a ha b hb
      exact Nat.lt_of_lt_of_le (inside a ha).2 (of_decide_eq_true (List.mem_filter.1 hb).2)
    · intro a ha b hb
      have h3 := of_decide_eq_true (List.mem_filter.1 ha).2
      rcases List.mem_append.1 hb with hb | hb
      · exact Nat.lt_of_lt_of_le h3 (inside b hb).1
      · exact Nat.lt_of_lt_of_le h3
          (Nat.le_trans (Nat.le_add_right _ _) (of_decide_eq_true (List.mem_filter.1 hb).2))
  · have all : ∀ c ∈ s.mem, decide (c.2 ≠ 0) = true := by simpa [AMap.noDefault] using h2
    simp only [AMap.noDefault, State.putFrame, List.all_append, Bool.and_eq_true, List.all_eq_true]
    refine ⟨⟨fun c hc => all c (List.mem_filter.1 hc).1, fun c hc => ?_⟩, fun c hc => all c (List.mem_filter.1 hc).1⟩
    simpa using (List.mem_filter.1 hc).2

theorem State.wf_memoryAfter (s : State) : Memory.wf s.memoryAfter = true :=
  Memory.wf_foldl _ (fun _ _ hm => Memory.wf_set _ _ hm) _ Memory.wf_nil

theorem State.wf_restarted (s : State) : Memory.wf s.restarted.mem = true := s.wf_memoryAfter

theorem State.wf_placeWord (s : State) (w : Word) (h : Memory.wf s.mem = true) :
    Memory.wf (s.placeWord w).mem = true :=
  Memory.wf_foldl _ (fun _ _ hm => Memory.wf_set _ _ hm) _
    (Memory.wf_foldl _ (fun _ _ hm => Memory.wf_set _ _ hm) _ h)

/-! Equal contents are equal lists. -/

theorem AMap.find_eq_none_of_lt {α : Type} {m : AMap α} {k : Nat} (h : m.all (fun e => decide (k < e.1)) = true) :
    AMap.find m k = none := by
  induction m with
  | nil => rfl
  | cons c m ih =>
    obtain ⟨i, y⟩ := c
    simp only [List.all_cons, Bool.and_eq_true, decide_eq_true_eq] at h
    rw [AMap.find, if_neg (by omega)]
    exact ih h.2

/-- Sorted maps that find the same are the same. -/
theorem AMap.ext_find {α : Type} {m n : AMap α} (hm : AMap.sorted m = true) (hn : AMap.sorted n = true)
    (h : ∀ k, AMap.find m k = AMap.find n k) : m = n := by
  induction m generalizing n with
  | nil =>
    cases n with
    | nil => rfl
    | cons c n =>
      have := h c.1
      simp [AMap.find] at this
  | cons c m ih =>
    obtain ⟨i, x⟩ := c
    cases n with
    | nil =>
      have := h i
      simp [AMap.find] at this
    | cons d n =>
      obtain ⟨j, y⟩ := d
      simp only [AMap.sorted, Bool.and_eq_true] at hm hn
      have hm' : ∀ k, k ≤ i → AMap.find m k = none := fun k hk =>
        AMap.find_eq_none_of_lt (by
          simp only [List.all_eq_true, decide_eq_true_eq] at hm ⊢
          exact fun e he => Nat.lt_of_le_of_lt hk (hm.1 e he))
      have hn' : ∀ k, k ≤ j → AMap.find n k = none := fun k hk =>
        AMap.find_eq_none_of_lt (by
          simp only [List.all_eq_true, decide_eq_true_eq] at hn ⊢
          exact fun e he => Nat.lt_of_le_of_lt hk (hn.1 e he))
      have hij : i = j := by
        have h1 := h i
        have h2 := h j
        simp only [AMap.find, if_true] at h1 h2
        by_cases hlt : i < j
        · rw [if_neg (by omega), hn' i (by omega)] at h1; cases h1
        · by_cases hgt : j < i
          · rw [if_neg (by omega), hm' j (by omega)] at h2; cases h2
          · omega
      subst hij
      have hxy : x = y := by simpa [AMap.find] using h i
      subst hxy
      congr 1
      refine ih hm.2 hn.2 fun k => ?_
      by_cases hk : i = k
      · subst hk; rw [hm' i (Nat.le_refl _), hn' i (Nat.le_refl _)]
      · simpa [AMap.find, hk] using h k

theorem AMap.find_of_noDefault {α : Type} [DecidableEq α] {d : α} {m : AMap α} (h : AMap.noDefault d m = true)
    (k : Nat) : AMap.find m k = if AMap.get d m k = d then none else some (AMap.get d m k) := by
  have hne : AMap.find m k ≠ some d := by
    intro hf
    induction m with
    | nil => cases hf
    | cons c m ih =>
      obtain ⟨i, y⟩ := c
      simp only [AMap.noDefault, List.all_cons, Bool.and_eq_true, decide_eq_true_eq] at h
      simp only [AMap.find] at hf
      split at hf
      · exact h.1 (by simpa using hf)
      · exact ih h.2 hf
  unfold AMap.get
  cases hf : AMap.find m k with
  | none => simp
  | some x =>
    have : x ≠ d := fun hx => hne (by rw [hf, hx])
    simp [this]

/-- Memories in the canonical form that read the same are the same. -/
theorem Memory.ext {m n : List Host.Cell} (hm : Memory.wf m = true) (hn : Memory.wf n = true)
    (h : ∀ k, AMap.get (0 : Byte) m k = AMap.get 0 n k) : m = n := by
  rw [Memory.wf_iff] at hm hn
  refine AMap.ext_find hm.1 hn.1 fun k => ?_
  rw [AMap.find_of_noDefault hm.2, AMap.find_of_noDefault hn.2, h k]

end Sys2Proof.Machine
end

