-- ==== Sys2Proof/Laws/Secure.lean ====
section
/-! SUPPORT. What recording an alarm, the causes of its stop and the margins of a start can do. -/

namespace Sys2Proof.Machine

/-- Whichever free value is drawn, the cause is one of a debug stop. -/
theorem stopCauses_range (n : Nat) :
    let c := BitVec.ofNat 9 (stopCauses.getD (n % stopCauses.length) 0x160)
    0x140 ≤ c ∧ c ≤ 0x15E ∨ c = 0x160 ∨ c = 0x170 := by
  have h : ∀ m, m < stopCauses.length →
      (let c := BitVec.ofNat 9 (stopCauses.getD m 0x160)
       0x140 ≤ c ∧ c ≤ 0x15E ∨ c = 0x160 ∨ c = 0x170) := by decide
  exact h _ (Nat.mod_lt _ (by decide))

/-- An alarm's record: with no start under way the level and the source alone, else the start fails too. -/
theorem alarmLog_cases (s : State) (level n : Nat) :
    let r : StartRegs := { s.start with alLevel := max s.start.alLevel level, alSource := n % 256 }
    (s.start.run = none ∧ s.alarmLog level n = { s with start := r }) ∨
    (∃ cold f k, s.start.run = some (cold, f) ∧ stepRuns cold k = true ∧
      s.alarmLog level n = s.startFails r cold k) := by
  intro r
  have key : ∀ (cold : Bool) (m : Nat), stepRuns cold
      (((List.range 8).filter (stepRuns cold)).getD (m % ((List.range 8).filter (stepRuns cold)).length) 7) = true := by
    intro cold m
    have hm := Nat.mod_lt m (show 0 < ((List.range 8).filter (stepRuns cold)).length by cases cold <;> decide)
    rw [List.getD_eq_getElem?_getD, List.getElem?_eq_getElem hm]
    exact (List.mem_filter.mp (List.getElem_mem hm)).2
  rcases h : s.start.run with _ | ⟨cold, f⟩
  · exact .inl ⟨rfl, by simp only [State.alarmLog, h, r]⟩
  · exact .inr ⟨cold, f, _, rfl, key cold (Config.freeWord s.fresh 111).toNat, by simp only [State.alarmLog, h, r]⟩

/-- The margins of a start change cores alone. -/
theorem margins_frame (s : State) : s.margins.start = s.start ∧ s.margins.teams = s.teams ∧ s.margins.mem = s.mem := by
  have key : ∀ (l : List Nat) (s : State),
      let t := l.foldl (fun s c => s.modCore c (fun k =>
        { k with omax := AMap.get 0 s.start.omax c, hw := AMap.get false s.start.hw c })) s
      t.start = s.start ∧ t.teams = s.teams ∧ t.mem = s.mem := by
    intro l
    induction l with
    | nil => exact fun s => ⟨rfl, rfl, rfl⟩
    | cons x xs ih => exact fun s => ⟨(ih _).1.trans rfl, (ih _).2.1.trans rfl, (ih _).2.2.trans rfl⟩
  exact key _ s

end Sys2Proof.Machine
end

