-- ==== Sys2Proof/Laws/Sha.lean ====
section
/-! SUPPORT. A SHA-512 digest has 64 bytes. -/

namespace Sys2Proof.Machine

theorem beBytes_length (n x : Nat) : (beBytes n x).length = n := by simp [beBytes]

theorem shaRound_length (v : List Word) (kw : Word × Word) : (shaRound v kw).length = v.length := by
  unfold shaRound
  split <;> rfl

theorem shaBlock_length (h block : List Word) : (shaBlock h block).length = h.length := by
  have key : ∀ (l : List (Word × Word)) (v : List Word), (l.foldl shaRound v).length = v.length := by
    intro l
    induction l with
    | nil => exact fun _ => rfl
    | cons x xs ih => exact fun v => (ih _).trans (shaRound_length ..)
  simp [shaBlock, key]

theorem sha512_length (m : List Byte) : (sha512 m).length = 64 := by
  have key : ∀ (f : Nat → List Word) (l : List Nat) (h : List Word),
      (l.foldl (fun h i => shaBlock h (f i)) h).length = h.length := by
    intro f l
    induction l with
    | nil => exact fun _ => rfl
    | cons x xs ih => exact fun h => (ih _).trans (shaBlock_length ..)
  simp [sha512, List.length_flatMap, beBytes_length, key, shaInit]

end Sys2Proof.Machine
end

