-- ==== Sys2Proof/Laws/Words.lean ====
section
/-! SUPPORT. The words as a timing event issues them are the words of the table, so that a slice cycle of the one is a slice
cycle of the other. -/

namespace Sys2Proof.Machine

/-- A word of the table has the meaning that `exec` gives it. -/
theorem runWord_eq {i : Instr} (s : State) (h : isEvent i = false) : runWord i s = exec i s := by
  cases i <;> first | rfl | cases h

theorem ofOpc_isEvent {n : Nat} {w : Word} {i : Instr} (h : ofOpc n w = some i) : isEvent i = false := by
  unfold ofOpc at h
  split at h <;> cases h <;> rfl

theorem ofOpcMelded_isEvent {n : Nat} {w : Word} {i : Instr} (h : ofOpcMelded n w = some i) : isEvent i = false := by
  unfold ofOpcMelded at h
  split at h <;> cases h <;> rfl

theorem wordInstr_isEvent {meld : Bool} {w : Word} {i : Instr} (h : wordInstr meld w = .ok i) : isEvent i = false := by
  unfold wordInstr at h
  split at h
  · cases h
  · split at h
    · cases h
    · rename_i j hj
      split at h
      · split at h
        · cases h
        · rename_i k hk
          cases h
          exact ofOpcMelded_isEvent hk
      · cases h
        exact ofOpc_isEvent hj

theorem nextWord_isEvent {s : State} {e : Env} {i : Instr} (h : s.nextWord e = .ok (.ok i)) : isEvent i = false := by
  unfold State.nextWord at h
  split at h
  · cases h
  · exact wordInstr_isEvent (Except.ok.inj h)

theorem runWordOf_runWord (s : State) (w : Sel) : s.runWordOf runWord w = s.runWordOf exec w := by
  unfold State.runWordOf
  split
  · rfl
  · split
    · rfl
    · rfl
    · rfl
    · rename_i h
      exact runWord_eq s (nextWord_isEvent h)

theorem runFragOf_runWord (s : State) (w : Sel) : s.runFragOf runWord w = s.runFragOf exec w := by
  unfold State.runFragOf
  simp only [runWordOf_runWord]

theorem issueFirstOf_runWord (core slice : Nat) (ws : List Sel) (s : State) :
    State.issueFirstOf runWord core slice ws s = State.issueFirstOf exec core slice ws s := by
  induction ws generalizing s with
  | nil => rfl
  | cons w ws ih => simp only [State.issueFirstOf, runFragOf_runWord, ih]

/-- A slice cycle is the same with the words of `runWord` as with those of `exec`. -/
theorem sliceCycleOf_runWord (s : State) (core slice : Nat) :
    s.sliceCycleOf runWord core slice = s.sliceCycle core slice := by
  unfold State.sliceCycle State.sliceCycleOf
  simp only [issueFirstOf_runWord]

end Sys2Proof.Machine
end

