-- ==== Sys2Proof/Tests/Slice0.lean ====
section
/-! SUPPORT. Witnesses that the hypotheses of the statements can be met together, words of the spec's encodings, terms
that the checks refuse, and single steps with results worked out from the spec. -/

open Sys2Proof Sys2Proof.Machine

namespace Sys2Proof.Tests

/-! A small machine: one team of two groups on core 0, code in a vault, and a scratchpad window. -/

/-- A word issues once these tests hold, where no comparator is set. -/
def readyB (e : Env) (i : Instr) : Bool :=
  i.check.isNone && (i.guard.lane || e.groupGuard i.guard) &&
  !e.blocked (e.regs i) &&
  (match e.flagOf i with | none => true | some k => decide (e.gr.flag k < 63))

theorem issues_of_ready {s : State} {e : Env} {i : Instr} (he : s.env = some e)
    (hc : (s.core e.gr.core).cmps = []) (h : readyB e i = true) : Issues s e i := by
  simp only [readyB, Bool.and_eq_true, Option.isNone_iff_eq_none] at h
  obtain ⟨⟨⟨h1, h2⟩, h3⟩, h4⟩ := h
  refine ⟨he, fun _ => by simp [State.matches, hc], h1, by simpa using h2, by simpa using h3, fun k hk => ?_⟩
  simpa [hk] using h4

/-- Each word of the list issues, and its condition beside it is false. -/
def Meets (s : State) (e : Env) (xs : List (Instr × Bool)) : Prop :=
  ∀ x, x ∈ xs → Issues s e x.1 ∧ x.2 = false

theorem meets_of {s : State} {e : Env} {xs : List (Instr × Bool)} (he : s.env = some e)
    (hc : (s.core e.gr.core).cmps = []) (h : xs.all (fun x => readyB e x.1 && !x.2) = true) : Meets s e xs := by
  intro x hx
  have := List.all_eq_true.mp h x hx
  simp only [Bool.and_eq_true, Bool.not_eq_true'] at this
  exact ⟨issues_of_ready he hc this.1, this.2⟩

def hdr : Word := HF.pack { len := 4, wait := 0, seta := 1, setb := 2, meld := false, zero := 0 }
def cl0 : Clause := { left := 4, hdr := hdr, seta := 1, setb := 2 }
def clM : Clause := { cl0 with meld := true }
def frag : Frag := { pos := { pc := 0x10008, cl := cl0 }, exec := 0x00FF }
def fragM : Frag := { frag with pos := { pc := 0x10008, cl := clM } }

def grp0 : Group :=
  { v := [(64, 5), (65, 7), (128, 0x40490FDB), (129, 3)], p := [(1, 0x000F)]
    g := [(1, 0xFFFFFFFFFFFFFFF0), (2, 7), (3, 0x11000), (4, 0x10000), (5, 0x40), (62, 0x10000)], gp := [(1, true)]
    live := 0xFFFF, tvec := 0x10000, evvec := 0x10000 }

def grp1 : Group := { live := 0xFFFF, frags := [(0, { exec := 0xFFFF, pos := { pc := 0x10000 } })] }

/-- A view of 16 elements of s32 in the scratchpad. -/
def view0 : View := { base := 0x41000, ctl := 0x0114, ext10 := 16, str10 := 4, scope := 1 }
/-- Another, 0x1000 bytes on. -/
def view1 : View := { view0 with base := 0x42000 }
/-- Two of rank 2, 16 rows of 16 elements. -/
def view2 : View := { base := 0x41000, ctl := 0x0214, ext10 := 0x1000000010, str10 := 0x4000000004, scope := 1 }
def view3 : View := { view2 with base := 0x42000 }

def team0 : Team :=
  { desc := { entry := 0x10000, width := 16, regs := 64, team := 2, views := 4, bars := 2, scr := 0x4000
              ptt := 0x10080, ptn := 1 }
    place := some { core := 0, slot := 0 }, regs := 64, scrGran := 1
    bars := [(0, { grp := 2 }), (1, { grp := 1 })] }

/-- The bytes of words from an address on. -/
def code : Nat → List Word → List Host.Cell
  | _, [] => []
  | a, w :: ws =>
    (((List.range 8).zip (bytesOfWord w)).filter (fun x => x.2 != 0)).map (fun x => (a + x.1, x.2)) ++ code (a + 8) ws

def who0 : Sel := { tid := 1, grp := 0, frag := 0 }

def full (tm : Team) (gr : Group) (fr : Frag) : Team :=
  { tm with groups := [(0, { gr with frags := [(0, fr)] }), (1, grp1)] }

/-- At 0x10000 a header, a `nop`, a header with LEN 0, a header with a `join`; at 0x10080 a pattern table and its
pointer. -/
def base : State :=
  { mem := code (2 ^ 48) [hdr, 0x0300000000000000, 0xA000000000000000, hdr, 0x0240000000000000] ++
      code (2 ^ 48 + 0x80) [0x10088, 2, 0x10018, 0x10000, 0x10018], cur := some who0, nextTid := 2
    ctxs := [(0, { va := 0x10000, len := 0x10000, ia := 0x1000000000000, ctl := 7 }),
             (1, { va := 0x40000, len := 0x10000, ia := 0, ctl := 0xF })] }

def mk (tm : Team) (gr : Group) (fr : Frag) : State := { base with teams := [(1, full tm gr fr)] }
def en (tm : Team) (gr : Group) (fr : Frag) : Env :=
  { who := who0, tm := full tm gr fr, gr := { gr with frags := [(0, fr)] }, fr := fr }

theorem env_of {s : State} {tm : Team} {gr : Group} {fr : Frag} (hc : s.cur = some who0)
    (ht : s.teams = [(1, full tm gr fr)]) (h : (en tm gr fr).canIssue = true) : s.env = some (en tm gr fr) := by
  have he : s.envOf who0 = some (en tm gr fr) := by
    unfold State.envOf; rw [ht]; rfl
  unfold State.env
  simp only [hc, he, h, if_true]

theorem mk_meets {tm : Team} {gr : Group} {fr : Frag} {xs : List (Instr × Bool)}
    (h : ((en tm gr fr).canIssue && xs.all (fun x => readyB (en tm gr fr) x.1 && !x.2)) = true) :
    Meets (mk tm gr fr) (en tm gr fr) xs := by
  rw [Bool.and_eq_true] at h
  exact meets_of (env_of rfl rfl h.1) rfl h.2

theorem mk_issues {tm : Team} {gr : Group} {fr : Frag} {i : Instr}
    (h : ((en tm gr fr).canIssue && readyB (en tm gr fr) i) = true) : Issues (mk tm gr fr) (en tm gr fr) i := by
  rw [Bool.and_eq_true] at h
  exact issues_of_ready (env_of rfl rfl h.1) rfl h.2

def demo : State := mk team0 grp0 frag
def env0 : Env := en team0 grp0 frag
theorem demo_env : demo.env = some env0 := by decide
theorem demo_cmps : (demo.core env0.gr.core).cmps = [] := rfl

/-- The same in a MELD clause. -/
def demoM : State := mk team0 grp0 fragM
def envM : Env := en team0 grp0 fragM
theorem demoM_env : demoM.env = some envM := by decide
theorem demoM_cmps : (demoM.core envM.gr.core).cmps = [] := by decide

def V0 : VF :=
  { guard := 0, d := 4, a := 1, b := 2, c := 0, ty := 0, bg := false, cg := false, mod := 0, sat := false, fs := false,
    sub := 0 }
def I0 : VIF := { guard := 0, d := 4, a := 1, ty := 0, imm := 9 }
def M0 : VMF := { ena := true, enb := true, ty2 := 0, da := 4, aa := 1, ba := 2, db := 5, ab := 2, bb := 1, cx := 0 }
def L0 : MF :=
  { guard := 0, data := 4, vo := 0xFF, gb := 3, size := 2, scale := 0, sg := false, ord := 0, scope := 0, fs := false,
    off := 0 }
def G0 : GF := { guard := 0, d := 5, a := 1, sub := 0, i := false, w := true, b := 2 }
def C0 : CF := { guard := 0, off := 0, aux := 0 }
def X0 : XF := { guard := 0, w1 := 0, w2 := 0, bar := 0, gp := 0, vop := 0, fs := false, sub := 0, mode := 0 }
def S0 : SF := { guard := 0, sys := 0, g := 5, imm := 0 }

/-! Witnesses: each statement's hypotheses hold together somewhere, clause by clause. -/

theorem witness_GroupArithmetic :
    Meets demo env0 ([.gadd G0, .gsub G0, .gmul G0, .gmulh G0, .gmad G0, .gand G0, .gor G0, .gxor G0, .gshl G0,
      .gshr G0, .gsar G0, .gmin G0, .gmax G0, .gmov { G0 with a := 0 }, .gmovh { G0 with a := 0 }, .gsel G0,
      .gdiv G0, .grem G0].map (·, false)) ∧
    G0.nat (G0.srcB env0 false) = 7 ∧
    Meets demo env0 ([.gdiv { G0 with b := 9 }, .grem { G0 with b := 9 }].map (·, false)) ∧
    ({ G0 with b := 9 } : GF).nat (GF.srcB { G0 with b := 9 } env0 false) = 0 ∧
    Meets demo env0 ([0, 1, 2, 3, 4].map (fun n => (.gbits { G0 with a := 0, sub := n }, false))) := by
  exact ⟨meets_of demo_env demo_cmps (by decide), by decide, meets_of demo_env demo_cmps (by decide), by decide,
    meets_of demo_env demo_cmps (by decide)⟩

theorem witness_GroupPredicates :
    Meets demo env0 ([.gcmp G0, .gplog { G0 with w := false, sub := 7 }].map (·, false)) ∧ G0.d ≠ 0 ∧
    Meets demo env0 ([.emov { G0 with a := 0, b := 0, w := false }, .emov { G0 with d := 0, b := 0, w := false, sub := 1 },
      .emov { G0 with b := 0, w := false, sub := 2 }, .emov { G0 with b := 0, w := false, sub := 3 }].map (·, false)) :=
  ⟨meets_of demo_env demo_cmps (by decide), by decide, meets_of demo_env demo_cmps (by decide)⟩

def laneInts : List (Instr × Bool) :=
  let b2 := env0.badV 0 4 [.reg 1, .reg 2]
  [(.vadd V0, b2), (.vadd { V0 with sat := true }, b2), (.vsub V0, b2), (.vmul V0, b2), (.vmulh V0, b2),
   (.vmad V0, env0.badV 0 4 [.reg 1, .reg 2, .reg 0]), (.vand V0, b2), (.vor V0, b2), (.vxor V0, b2), (.vshl V0, b2),
   (.vshr V0, b2), (.vsar V0, b2), (.vmin V0, b2), (.vmax V0, b2), (.vabs { V0 with b := 0 }, env0.badV 0 4 [.reg 1])]

theorem witness_LaneIntegers : Meets demo env0 laneInts := meets_of demo_env demo_cmps (by decide)

theorem witness_IntegerForms :
    Meets demo env0 ([.vaddImm I0, .vsubImm I0, .vmulImm I0, .vmulhImm I0, .vandImm I0, .vorImm I0, .vxorImm I0,
      .vshlImm I0, .vshrImm I0, .vsarImm I0, .vminImm I0, .vmaxImm I0].map (·, env0.badV 0 4 [.reg 1])) ∧
    Meets demo env0 [(.vmovImm { I0 with a := 0 }, env0.badReg 0 4)] ∧
    Meets demoM envM ([.vaddMelded M0, .vsubMelded M0, .vmulMelded M0, .vmadMelded M0, .vmadMelded { M0 with cx := 1 },
      .vandMelded M0, .vorMelded M0, .vxorMelded M0, .vshlMelded M0, .vshrMelded M0, .vsarMelded M0, .vminMelded M0,
      .vmaxMelded M0].map (·, !(M0.arms envM).all (fun x => !envM.over x.d && !envM.over x.a && !envM.over x.b))) ∧
    Meets demoM envM [(.vmovMelded { M0 with ba := 0, bb := 0 },
      !(M0.arms envM).all (fun x => !envM.over x.d && !envM.over x.a))] :=
  ⟨meets_of demo_env demo_cmps (by decide), meets_of demo_env demo_cmps (by decide),
    meets_of demoM_env demoM_cmps (by decide), meets_of demoM_env demoM_cmps (by decide)⟩

theorem witness_LaneBits :
    Meets demo env0 ([0, 1, 2, 3, 4].map (fun n => (.vbits { V0 with ty := 2, b := 0, sub := n },
      env0.badReg 2 4 || env0.badOpnd 2 (.reg 1)))) ∧
    Meets demo env0 [(.vbfe V0, env0.badV 2 4 [.reg 1, .reg 2, .reg 0]), (.vbfi V0, env0.badV 2 4 [.reg 1, .reg 2, .reg 0]),
      (.vbfe { V0 with ty := 2 }, env0.badV 2 4 [.reg 1, .reg 2, .reg 0])] :=
  ⟨meets_of demo_env demo_cmps (by decide), meets_of demo_env demo_cmps (by decide)⟩

theorem witness_LaneMoves :
    Meets demo env0 [(.vsel { V0 with c := 1 }, env0.badV 0 4 [.reg 1, .reg 2]),
      (.vmov { V0 with b := 0 }, env0.badV 0 4 [.reg 1]), (.vmov { V0 with b := 0, a := 0, sub := 1 }, env0.badV 0 4 []),
      (.vbc { V0 with a := 0, bg := true }, env0.badReg 0 4), (.vrdl { V0 with b := 0, c := 15 }, env0.badReg 0 1),
      (.vrdl { V0 with b := 0, c := 2, cg := true }, env0.badReg 0 1)] ∧
    (15 : BitVec 8).toNat < env0.width ∧ (env0.g 2).toNat < env0.width ∧
    Meets demo env0 [(.vshfl V0, env0.badReg 0 4 || env0.badReg 0 1 || env0.over 2),
      (.vshfl { V0 with b := 0, c := 15, sub := 3 }, env0.badReg 0 4 || env0.badReg 0 1 || !decide (15 < env0.width))] :=
  ⟨meets_of demo_env demo_cmps (by decide), by decide, by decide, meets_of demo_env demo_cmps (by decide)⟩

theorem witness_LaneCompares :
    Meets demo env0 [(.vcmp { V0 with d := 0x2B }, env0.badOpnd 0 (.reg 1) || env0.badOpnd 0 (.reg 2)),
      (.vcmpImm { I0 with d := 0x2B }, env0.badOpnd 0 (.reg 1)),
      (.vfcmp { V0 with ty := 1, d := 0x33 }, env0.over 1 || env0.badOpnd 1 (.reg 2)),
      (.vfcmpImm { I0 with ty := 1, d := 0x33 }, env0.over 1)] ∧
    Meets demoM envM ([.vcmpMelded M0, .vfcmpMelded { M0 with ty2 := 1 }].map
      (·, !(M0.arms envM).all (fun x => !envM.over x.a && !envM.over x.b))) ∧
    fcompare 0x7FC00000 0 = none :=
  ⟨meets_of demo_env demo_cmps (by decide), meets_of demoM_env demoM_cmps (by decide), by decide⟩

theorem witness_LaneVotes :
    Meets demo env0 ([.plog { V0 with d := 1, sub := 7 }, .ballot { V0 with b := 0 }, .ballot { V0 with b := 0, sub := 1 },
      .ballot { V0 with b := 0, sub := 2 }].map (·, false)) ∧
    Meets demo env0 ([0, 1, 2, 3, 4, 5].map (fun n => (.vred { V0 with b := 0, sub := n }, env0.badOpnd 0 (.reg 1)))) ∧
    Meets demo env0 ([6, 7, 8].map (fun n => (.vred { V0 with b := 0, ty := 1, sub := n }, env0.badOpnd 1 (.reg 1)))) ∧
    env0.width = 2 ^ 4 :=
  ⟨meets_of demo_env demo_cmps (by decide), meets_of demo_env demo_cmps (by decide),
    meets_of demo_env demo_cmps (by decide), by decide⟩

def F0 : VF := { V0 with ty := 1 }
def F1 : VF := { F0 with b := 0 }

theorem witness_LaneFloats :
    Meets demo env0 ([.vfadd F0, .vfsub F0, .vfmul { F0 with mod := 3 }, .vfmin F0, .vfmax F0, .vfscl F0].map
      (·, env0.badV 1 4 [.reg 1, .reg 2])) ∧
    Meets demo env0 [(.vfma F0, env0.badV 1 4 [.reg 1, .reg 2, .reg 0])] ∧
    Meets demo env0 ([.vfrcp F1, .vfrsq F1, .vfsqrt F1, .vfex2 F1, .vflg2 F1, .vfsin F1, .vfcos F1, .vfcls F1].map
      (·, env0.badV 1 4 [.reg 1])) :=
  ⟨meets_of demo_env demo_cmps (by decide), meets_of demo_env demo_cmps (by decide),
    meets_of demo_env demo_cmps (by decide)⟩

def I1 : VIF := { I0 with ty := 1 }
def M1 : VMF := { M0 with ty2 := 1 }

theorem witness_FloatForms :
    Meets demo env0 ([.vfaddImm I1, .vfsubImm I1, .vfmulImm I1, .vfminImm I1, .vfmaxImm I1].map
      (·, env0.over 4 || env0.over 1)) ∧
    Meets demoM envM ([.vfaddMelded M1, .vfsubMelded M1, .vfmulMelded M1, .vfmaMelded { M1 with cx := 1 }, .vfminMelded M1,
      .vfmaxMelded M1].map (·, !(M1.arms envM).all (fun x => !envM.over x.d && !envM.over x.a && !envM.over x.b))) ∧
    Meets demo env0 [(.vfdp4 { F0 with a := 8, b := 12 }, env0.over 4 || env0.badOpnd 1 (.reg 0) || env0.over 11 ||
      env0.over 15), (.vfdp4 { F0 with ty := 9, a := 2, b := 6 }, env0.over 4 || env0.over 3 || env0.over 7),
      (.vfdp4 { F0 with ty := 10, a := 2, b := 6 }, env0.over 4 || env0.over 3 || env0.over 7)] :=
  ⟨meets_of demo_env demo_cmps (by decide), meets_of demoM_env demoM_cmps (by decide),
    meets_of demo_env demo_cmps (by decide)⟩

theorem witness_FloatRounding :
    (∀ a, a ∈ [0x3F800000, 0xBF800000, 0, 0x80000000] → ∃ n m q, f32Of a = .fin n m q) ∧
    (let one := f32Of 0x3F800000
     let zero := f32Of 0
     (one.dy.add one.dy).m ≠ 0 ∧ (one.dy.sub zero.dy).m ≠ 0 ∧ (one.dy.mul one.dy).m ≠ 0 ∧
     ((one.dy.mul one.dy).add one.dy).m ≠ 0 ∧ (one.dy.add (f32Of 0xBF800000).dy).m = 0 ∧ (one.dy.sub one.dy).m = 0 ∧
     (one.dy.mul zero.dy).m = 0 ∧ ((one.dy.mul one.dy).add (f32Of 0xBF800000).dy).m = 0) ∧
    (f32Of 0xFF800000 = .inf true ∧ f32Of 0x7F800000 = .inf (!true) ∧ (0x80000000 : Lane).setWidth 31 = 0 ∧
      (0x3F800000 : Lane).setWidth 31 ≠ 0 ∧ f32Of 0x3F800000 ≠ .nan ∧ f32Of 0x3F800000 ≠ .inf true) ∧
    (f32Of (fadd .rne 0x7F800000 0xFF800000).1 = .nan ∧ f32Of 0x7FC00001 = .nan) ∧
    ((∃ m q, f32Of 0x3F800000 = .fin false m q ∧ m ≠ 0) ∧ ∃ m q, f32Of 0x80000001 = .fin true m q ∧ m ≠ 0) ∧
    ((f32Of 0xBF800000).dy.sub (Dy.ofInt (-1))).m = 0 ∧
    (((f32Of 0x3E800000).dy.scale 2).sub (Dy.ofInt (2 * 0 + 1))).m = 0 := by
  refine ⟨fun a h => ?_, by decide, by decide, by decide, ⟨⟨_, _, rfl, by decide⟩, _, _, rfl, by decide⟩, by decide,
    by decide⟩
  simp only [List.mem_cons, List.not_mem_nil, or_false] at h
  rcases h with rfl | rfl | rfl | rfl <;> exact ⟨_, _, _, rfl⟩

theorem witness_FunctionRounding :
    let real (t : Dy) : ℝ := t.m * 2 ^ t.e
    f32Of 0x3E800000 = .fin false 8388608 (-25) ∧ real (f32Of 0x3E800000).dy = 1 / 4 ∧ (0 : ℝ) < 1 / 4 ∧
    (2 : ℝ) ^ (1 / 4 : ℝ) ≠ 0 ∧ Real.logb 2 (1 / 4) ≠ 0 ∧ Real.sin (2 * Real.pi * (1 / 4)) ≠ 0 ∧
    f32Of 0x3F000000 = .fin false 8388608 (-24) ∧ real (f32Of 0x3F000000).dy = 1 / 2 ∧
    Real.cos (2 * Real.pi * (1 / 2)) ≠ 0 := by
  have h1 : (f32Of 0x3E800000).dy = { m := 8388608, e := -25 } := by decide
  have h2 : (f32Of 0x3F000000).dy = { m := 8388608, e := -24 } := by decide
  refine ⟨by decide, ?_, by norm_num, by positivity, ?_, ?_, by decide, ?_, ?_⟩
  · rw [h1]; norm_num
  · exact Real.logb_ne_zero_of_pos_of_ne_one (by norm_num) (by norm_num) (by norm_num)
  · rw [show 2 * Real.pi * (1 / 4) = Real.pi / 2 by ring, Real.sin_pi_div_two]; norm_num
  · rw [h2]; norm_num
  · rw [show 2 * Real.pi * (1 / 2) = Real.pi by ring, Real.cos_pi]; norm_num

theorem witness_Conversions :
    Meets demo env0 [(.vcvt { V0 with b := 0, ty := 5, c := 0x14 }, env0.badReg 5 4 || env0.badOpnd 0 (.reg 1)),
      (.vcvt { V0 with b := 0, ty := 1, c := 0x14 }, env0.badReg 1 4 || env0.badOpnd 0 (.reg 1)),
      (.vcvt { V0 with b := 0, ty := 5, c := 0x22 }, env0.badReg 5 4 || env0.badOpnd 1 (.reg 1)),
      (.vcvt { V0 with b := 0, ty := 9, c := 0x22 }, env0.badReg 9 4 || env0.badOpnd 1 (.reg 1)),
      (.vcvt { V0 with b := 0, ty := 1, c := 0x22 }, env0.badReg 1 4 || env0.badOpnd 1 (.reg 1))] ∧
    intTyOfCode 0x14 = some 0 ∧ wideOfTy 5 = none ∧ wideOfTy 1 = some f32 ∧ wideOfCode 0x22 = some f32 ∧
    wideOfTy 9 = some f16 ∧ f32 ≠ f16 :=
  ⟨meets_of demo_env demo_cmps (by decide), by decide, by decide, by decide, by decide, by decide, by decide⟩

theorem witness_Conversions_values :
    (∀ f, f = f32 ∨ f = f16 ∨ f = e8m7 → (f.decode (f.infCode + 1) = .nan ∧ f.decode f.infCode = .inf false ∧
      ∃ m q, f.decode (2 ^ f.fb) = .fin false m q ∧ m ≠ 0)) ∧
    (0x3FF < 2 ^ f16.fb ∧ 0x1F < 2 ^ f16.eb ∧ 0x7F < 2 ^ e8m7.fb ∧ 0xFF < 2 ^ e8m7.eb) ∧
    (Dy.ofInt (2 * 0 + 1)).le ((f16.decode 0x3800).dy.scale 1) = true ∧
    (((f16.decode 0x3800).dy.scale 1).sub (Dy.ofInt (2 * 0 + 1))).m = 0 := by
  refine ⟨fun f h => ?_, by decide, by decide, by decide⟩
  rcases h with rfl | rfl | rfl <;> exact ⟨by decide, by decide, _, _, rfl, by decide⟩

theorem witness_BlockScale :
    Meets demo env0 [(.vscl { V0 with b := 0, c := 0x21 }, env0.over 1)] ∧ ∃ mf, maxFiniteOf 0x21 = some mf :=
  ⟨meets_of demo_env demo_cmps (by decide), _, rfl⟩

theorem witness_BlockScale_formats :
    (∃ b, b8OfCode 0xC3 = some b ∧ b.uns = true ∧ b.inf = true) ∧ b8OfCode 0x20 = none ∧ b8OfCode 0x21 = none := by
  refine ⟨⟨_, rfl, by decide, by decide⟩, by decide, by decide⟩

theorem witness_NarrowForms :
    Meets demo env0 [(.vnarw { V0 with bg := true, sub := 5 }, env0.over 4 || env0.over 1),
      (.vnarw { V0 with bg := true, mod := 4, c := 3, cg := true, sub := 5 }, env0.over 4 || env0.over 1),
      (.vwide { V0 with ty := 1, bg := true, sub := 5 }, env0.over 4 || env0.over 1),
      (.vwide { V0 with ty := 10, b := 0, c := 3, sub := 5 }, env0.over 4 || env0.over 1)] ∧
    (b8OfSub 5).isSome = true ∧ wideOfTy 10 = some e8m7 ∧
    Meets demo env0 [(.vpack { V0 with ty := 4, a := 2, b := 0 }, env0.over 4 || env0.over 3),
      (.vpack { V0 with ty := 6, a := 8, b := 0 }, env0.over 4 || env0.over 11),
      (.vunpk { V0 with ty := 4, b := 0 }, env0.over 1 || env0.over 5),
      (.vunpk { V0 with ty := 6, b := 0 }, env0.over 1 || env0.over 7)] :=
  ⟨meets_of demo_env demo_cmps (by decide), by decide, by decide, meets_of demo_env demo_cmps (by decide)⟩

def b8s : B8 := { p := 3, inf := true, uns := false }
def b8u : B8 := { p := 1, inf := false, uns := true }
/-- The multiples k of the spacing are nearest to 2^q·m in a format, as `NarrowForms` says it. -/
def nearest (b : B8) (m : Nat) (q w : Int) (k : Nat) : Bool :=
  let x : Dy := { m := m, e := q }
  let z := max w (1 - b.bias) - (b.p - 1 : Nat)
  let lo : Dy := { m := 2 * (k : Int) - 1, e := z - 1 }
  let hi : Dy := { m := 2 * k + 1, e := z - 1 }
  Dy.le { m := 1, e := w } x && x.lt { m := 1, e := w + 1 } && lo.le x && x.le hi &&
    (!(x.le lo || hi.le x) || k % 2 == 0)

theorem witness_NarrowForms_values :
    (1 ≤ b8s.p ∧ b8s.p ≤ 7 ∧ 1 ≤ b8u.p ∧ b8u.p ≤ 7) ∧
    -- the NaN, the infinity and a number, with and without a sign
    ((0 : Nat) < 2 ^ (b8s.p - 1) ∧ 0x1F * 2 ^ (b8s.p - 1) + 3 = 0x7F ∧ (0 : Nat) * 2 ^ (b8s.p - 1) + 0 + 128 = 0x80 ∧
      (0xFF : Nat) * 2 ^ (b8u.p - 1) + 0 = 0xFF) ∧
    -- in range and past it, and below zero in a format without a sign
    (nearest b8s 9 (-3) 0 4 = true ∧ Dy.le { m := 4, e := -2 } (b8s.decode 0x7E).dy = true ∧
      nearest b8s 1 40 40 4 = true ∧ (b8s.decode 0x7E).dy.lt { m := 4, e := 38 } = true ∧
      nearest b8u 1 0 0 1 = true ∧ nearest b8u 1 (-200) (-200) 0 = true) ∧
    (∃ m q, f32Of 0x3F800000 = .fin false m q ∧ m ≠ 0) := by
  refine ⟨by decide, by decide, by decide, _, _, rfl, by decide⟩

theorem at_hdr : HeaderAt demo env0 0x10000 := ⟨by decide, hdr, rfl, by decide, by decide⟩
theorem at_join : JoinAt demo env0 0x10018 :=
  ⟨⟨by decide, hdr, rfl, by decide, by decide⟩, 0x0240000000000000, rfl, by decide⟩

theorem witness_Transfers :
    Meets demo env0 ([.bra C0, .bri { C0 with aux := 4 }, .call C0, .calli { C0 with aux := 4 }, .brg { C0 with aux := 1 },
      .brg { C0 with aux := 9 }, .ret C0].map (·, false)) ∧
    HeaderAt demo env0 (env0.header + 0) ∧ HeaderAt demo env0 (env0.g 4) ∧
    HeaderAt demo env0 (((env0.g 62).extractLsb' 0 56).signExtend 64) ∧
    env0.gr.gpReg 1 = true ∧ env0.depth = env0.floor ∧ bits (env0.g 62) 63 61 ≤ env0.depth ∧
    Meets demo env0 ([.bri { C0 with aux := 2 }, .bri { C0 with aux := 5 }, .bra { C0 with off := 1 },
      .bra { C0 with off := 2 }, .brg { C0 with aux := 1, off := 1 }, .call { C0 with off := 2 }, .calli { C0 with aux := 2 },
      .yield C0].map (·, false)) ∧ (∃ ti, demo.fetch env0 (env0.g 5) = .error ti) ∧ (env0.g 5).toNat % 8 = 0 ∧
    demo.fetch env0 env0.afterClause = .ok 0 ∧ isHeader 0 = false ∧ env0.afterClause.toNat % 8 = 0 ∧
    (env0.g 2).toNat % 8 ≠ 0 ∧ demo.fetch env0 0x10008 = .ok 0x0300000000000000 ∧
    isHeader 0x0300000000000000 = false ∧ demo.fetch env0 0x10010 = .ok 0xA000000000000000 ∧
    isHeader 0xA000000000000000 = true ∧ (HF.unpack 0xA000000000000000).ok = false := by
  refine ⟨mk_meets (by decide), at_hdr, at_hdr, at_hdr, by decide, by decide, by decide, mk_meets (by decide), ⟨_, rfl⟩,
    by decide, rfl, by decide, by decide, by decide, rfl, by decide, rfl, by decide, by decide⟩

/-- g62 returns to 0x10008, which is no header, or wants two levels; and a header after the clause. -/
def grpN (x : Word) : Group := { grp0 with g := [(62, x)] }
def twoHdrs : State := { mk team0 grp0 frag with mem := code (2 ^ 48) [hdr, 0, 0, 0, 0, hdr] }

theorem witness_Transfers_returns :
    (let e := en team0 (grpN 0x10008) frag
     Issues (mk team0 (grpN 0x10008) frag) e (.ret C0) ∧ e.depth = e.floor ∧ bits (e.g 62) 63 61 ≤ e.depth ∧
     (mk team0 (grpN 0x10008) frag).fetch e (((e.g 62).extractLsb' 0 56).signExtend 64) = .ok 0x0300000000000000) ∧
    (let e := en team0 (grpN 0x4000000000010000) frag
     Issues (mk team0 (grpN 0x4000000000010000) frag) e (.ret C0) ∧ e.depth < bits (e.g 62) 63 61) ∧
    (let g : Group := { grp0 with meld := [{ region := 0x000F, saved := 0x00FF }] }
     Issues (mk team0 g frag) (en team0 g frag) (.ret C0) ∧ (en team0 g frag).depth ≠ (en team0 g frag).floor) :=
  ⟨⟨mk_issues (by decide), by decide, by decide, rfl⟩, ⟨mk_issues (by decide), by decide⟩, mk_issues (by decide),
    by decide⟩

theorem witness_PlainControl :
    Meets demo env0 ([.nop C0, .idle C0].map (·, false)) ∧ env0.gr.wake = false ∧
    Meets (mk team0 { grp0 with wake := true } frag) (en team0 { grp0 with wake := true } frag) [(.idle C0, false)] ∧
    (Meets twoHdrs env0 [(.yield C0, false)] ∧ HeaderAt twoHdrs env0 env0.afterClause) :=
  ⟨mk_meets (by decide), by decide, mk_meets (by decide), meets_of (env_of rfl rfl (by decide)) rfl (by decide),
    by decide, hdr, rfl, by decide, by decide⟩

/-- A split record open at the join at 0x10018, whose part of lanes this fragment is. -/
def rec0 : SplitRec :=
  { id := 0, parent := none, join := 0x10018, lanes := 0xFFFF, outer := 0xFFFF, serial := false, home := false, key := 0,
    inH := false }
def grpS : Group := { grp0 with splits := [rec0], nextRec := 1 }
def fragS : Frag := { frag with split := some 0, mask := 0x00FF }
/-- Four levels open, and one. -/
def level : MeldLevel := { region := 0x000F, saved := 0x00FF }
def grpD : Group := { grp0 with meld := [level, level, level, level] }
def grp1L : Group := { grp0 with meld := [level], v := [(64, 2), (65, 1)] }

theorem witness_MeldLevels_open :
    Meets (mk team0 grpS fragS) (en team0 grpS fragS) [(.mopen C0, false)] ∧ (en team0 grpS fragS).splits ≠ [] ∧
    Meets (mk team0 grpD frag) (en team0 grpD frag) [(.mopen C0, false)] ∧ (en team0 grpD frag).depth = 4 ∧
    (en team0 grpD frag).splits = [] ∧
    Meets demo env0 [(.mopen { C0 with aux := 1 }, false)] ∧ env0.splits = [] ∧ env0.depth < 4 :=
  ⟨mk_meets (by decide), by decide, mk_meets (by decide), by decide, by decide, mk_meets (by decide), by decide,
    by decide⟩

theorem witness_MeldLevels_close :
    Meets (mk team0 grpS fragS) (en team0 grpS fragS) [(.mclose C0, false)] ∧ (en team0 grpS fragS).splits ≠ [] ∧
    Meets demo env0 [(.mclose C0, false)] ∧ env0.splits = [] ∧ env0.depth = env0.floor ∧
    Meets (mk team0 grpD frag) (en team0 grpD frag) [(.mclose C0, false)] ∧ (en team0 grpD frag).splits = [] ∧
    (en team0 grpD frag).floor < (en team0 grpD frag).depth ∧
    (en team0 grpD frag).meld = level :: [level, level, level] :=
  ⟨mk_meets (by decide), by decide, mk_meets (by decide), by decide, by decide, mk_meets (by decide), by decide,
    by decide, by decide⟩

theorem witness_MeldRepeat :
    Meets (mk team0 grp1L frag) (en team0 grp1L frag) [(.mrep { C0 with aux := 1 }, (en team0 grp1L frag).over 1),
      (.mrep { C0 with aux := 1, off := 1 }, (en team0 grp1L frag).over 1),
      (.mrep { C0 with aux := 0xFF }, !(en team0 grp1L frag).over 0xFF)] ∧
    (en team0 grp1L frag).splits = [] ∧ (en team0 grp1L frag).floor < (en team0 grp1L frag).depth ∧
    HeaderAt (mk team0 grp1L frag) (en team0 grp1L frag) (en team0 grp1L frag).header ∧
    (∃ w, (mk team0 grp1L frag).fetch (en team0 grp1L frag) ((en team0 grp1L frag).header + 8) = .ok w ∧
      isHeader w = false) ∧
    (2 ≤ ((en team0 grp1L frag).gr.vReg 1 0).toNat) ∧
    Meets (mk team0 grpS fragS) (en team0 grpS fragS) [(.mrep C0, (en team0 grpS fragS).over 0)] ∧
    (en team0 grpS fragS).splits ≠ [] ∧
    Meets demo env0 [(.mrep C0, env0.over 0)] ∧ env0.splits = [] ∧ env0.depth = env0.floor :=
  ⟨mk_meets (by decide), by decide, by decide, ⟨by decide, hdr, rfl, by decide, by decide⟩, ⟨_, rfl, by decide⟩,
    by decide, mk_meets (by decide), by decide, mk_meets (by decide), by decide, by decide⟩

/-- A `brv` to the header at 0x10000 that joins at 0x10018, by p1. -/
def brv0 : CF := { guard := 0, off := 0, aux := 0x31 }
/-- A group that holds 64 entries of the carousel, by parts of its own. -/
def grpF : Group :=
  { grp0 with splits := (List.range 64).map (fun n => { rec0 with id := n + 1, home := true, inH := true }), nextRec := 65 }
def grp16 : Group := { grp0 with splits := (List.range 16).map (fun n => { rec0 with id := n }), nextRec := 16 }
/-- v1 is 0 in lane 0 and 1 elsewhere: the indices of a `briv`; or 1 everywhere. -/
def grpX : Group := { grp0 with v := (List.range 15).map (fun l => (65 + l, 1)) }
def grpY : Group := { grp0 with v := (List.range 16).map (fun l => (64 + l, 1)) }

theorem witness_Splits :
    Issues demo env0 (.brv brv0) ∧
    HeaderAt demo env0 (env0.header + BitVec.ofInt 64 (8 * brv0.off.toInt)) ∧
    JoinAt demo env0 (env0.header + BitVec.ofInt 64 (8 * (brv0.aux.extractLsb' 4 20).toInt)) ∧
    (env0.active (Instr.brv brv0).guard &&& env0.gr.pReg 1 = 0x000F) ∧ env0.splits.length < 16 ∧
    0 < demo.entriesFree env0.gr.core env0.gr.slice ∧
    Issues demo env0 (.brv { brv0 with aux := 0x30 }) ∧ Issues demo env0 (.brv { brv0 with aux := 0x38 }) ∧
    Issues (mk team0 grpF frag) (en team0 grpF frag) (.brv brv0) ∧
    (mk team0 grpF frag).entriesFree 0 0 = 0 ∧ (en team0 grpF frag).splits.length < 16 ∧
    Issues (mk team0 grp16 frag) (en team0 grp16 frag) (.brv brv0) ∧ 16 ≤ (en team0 grp16 frag).splits.length ∧
    env0.who.frag ≠ env0.gr.nextKey :=
  ⟨mk_issues (by decide), at_hdr, at_join, by decide, by decide, by decide, mk_issues (by decide), mk_issues (by decide),
    mk_issues (by decide), by decide, by decide, mk_issues (by decide), by decide, by decide⟩

/-- A team with its pattern table in the scratchpad. -/
def teamT : Team :=
  { team0 with desc := { team0.desc with ptt := 0x40080 }
               scr := code 0x80 [0x40088, 2, 0x10018, 0x10000, 0x10018] }

/-- The fragment's `briv` by v1 loads its table and the targets `tgts` of the indices `used`. -/
def BrivLoads (gr : Group) (fr : Frag) (used : List Nat) (tgts : List Word) : Prop :=
  let e := en teamT gr fr
  let s := (mk teamT gr fr).begun e
  Issues (mk teamT gr fr) e (.briv { C0 with aux := 1 }) ∧ e.over 1 = false ∧ 0 < e.tm.desc.ptn ∧
  State.loadWords e [e.tm.desc.ptt + BitVec.ofNat 64 (8 * 0)] s = .ok ([0x40088], s) ∧
  State.loadWords e [0x40088, 0x40088 + 8] s = .ok ([2, 0x10018], s) ∧
  State.loadWords e (used.map (fun k => 0x40088 + BitVec.ofNat 64 (16 + 8 * k))) s = .ok (tgts, s) ∧
  HeaderAt s e 0x10000 ∧ JoinAt s e 0x10018 ∧
  ascending 2 ((lanesOf (e.active (Instr.briv { C0 with aux := 1 }).guard)).map (fun l => (gr.vReg 1 l).toNat)) = used

theorem witness_Splits_briv :
    (BrivLoads grpX frag [0, 1] [0x10000, 0x10018] ∧
      ∃ x y, (en teamT grpX frag).brivParts 0xFF 0 (fun l => (grpX.vReg 1 l).toNat) [(0, 0x10000), (1, 0x10018)] =
        [x, y]) ∧
    (BrivLoads grpY frag [1] [0x10018] ∧
      ∃ x, (en teamT grpY frag).brivParts 0xFF 1 (fun l => (grpY.vReg 1 l).toNat) [(1, 0x10018)] = [x]) ∧
    BrivLoads grpX { frag with exec := 0 } [] [] ∧
    (BrivLoads { grpX with v := [(64, 2)] } frag [0] [0x10000] ∧ 2 ≤ (Group.vReg { grpX with v := [(64, 2)] } 1 0).toNat) ∧
    (frag.key < env0.gr.nextKey) :=
  ⟨⟨⟨mk_issues (by decide), by decide, by decide, rfl, rfl, rfl, ⟨by decide, hdr, rfl, by decide, by decide⟩,
        ⟨⟨by decide, hdr, rfl, by decide, by decide⟩, 0x0240000000000000, rfl, by decide⟩, by decide⟩, _, _, rfl⟩,
    ⟨⟨mk_issues (by decide), by decide, by decide, rfl, rfl, rfl, ⟨by decide, hdr, rfl, by decide, by decide⟩,
        ⟨⟨by decide, hdr, rfl, by decide, by decide⟩, 0x0240000000000000, rfl, by decide⟩, by decide⟩, _, rfl⟩,
    ⟨mk_issues (by decide), by decide, by decide, rfl, rfl, rfl, ⟨by decide, hdr, rfl, by decide, by decide⟩,
      ⟨⟨by decide, hdr, rfl, by decide, by decide⟩, 0x0240000000000000, rfl, by decide⟩, by decide⟩,
    ⟨⟨mk_issues (by decide), by decide, by decide, rfl, rfl, rfl, ⟨by decide, hdr, rfl, by decide, by decide⟩,
      ⟨⟨by decide, hdr, rfl, by decide, by decide⟩, 0x0240000000000000, rfl, by decide⟩, by decide⟩, by decide⟩, by decide⟩

/-- The fragment that split stands at its own join. -/
def fragJ : Frag := { fragS with pos := { pc := 0x10020, cl := cl0 } }
/-- An inner record with another join, whose outer one is `rec0`. -/
def grpJ : Group := { grp0 with splits := [rec0, { rec0 with id := 1, parent := some 0, join := 0x10040 }], nextRec := 2 }

theorem witness_Joins :
    Issues demo env0 (.join C0) ∧ env0.gr.recs env0.fr = [] ∧
    Issues (mk team0 grpS fragS) (en team0 grpS fragS) (.join C0) ∧
    (en team0 grpS fragS).gr.recs fragS = [rec0] ∧ rec0.join ≠ (en team0 grpS fragS).header ∧
    Issues (mk team0 grpS fragJ) (en team0 grpS fragJ) (.join C0) ∧ rec0.join = (en team0 grpS fragJ).header ∧
    (let fr := { fragJ with split := some 1 }
     Issues (mk team0 grpJ fr) (en team0 grpJ fr) (.join C0) ∧
     ∃ r outer, (en team0 grpJ fr).gr.recs fr = r :: outer ∧ r.join ≠ (en team0 grpJ fr).header ∧
       outer.any (fun x => x.join == (en team0 grpJ fr).header) = true) ∧
    (let g := { grpS with frags := [(0, fragJ), (1, { fragJ with st := .waiting, mask := 0xFF00 })] }
     AMap.sorted g.frags = true ∧ g.members 0 ≠ [] ∧ (∃ g', g.startWaiting 0 fragJ = some g') ∧
     g.startWaiting 1 fragJ = none) :=
  ⟨mk_issues (by decide), by decide, mk_issues (by decide), by decide, by decide, mk_issues (by decide), by decide,
    ⟨mk_issues (by decide), _, _, rfl, by decide, by decide⟩, by decide, by decide, ⟨_, rfl⟩, by decide⟩

theorem settled_mk (tm : Team) (gr : Group) (fr : Frag) : Settled (mk tm gr fr) (en tm gr fr) :=
  ⟨rfl, fun o ho => by cases ho⟩

/-- The last live lanes stand in this fragment. -/
def grpE : Group := { grp0 with live := 0x00FF }

theorem witness_Exits :
    Issues demo env0 (.exit C0) ∧ env0.active (Instr.exit C0).guard ≠ env0.gr.live ∧
    (let e := en team0 grpE frag
     let s := mk team0 grpE frag
     Issues s e (.exit C0) ∧ e.active (Instr.exit C0).guard ≠ 0 ∧
     e.active (Instr.exit C0).guard = e.gr.live ∧ s.piped e.gr.core e.gr.slice e.who = false ∧
     (∀ o, o ∈ (s.core e.gr.core).ops → o.2.of e.who = true → o.2.gated = true) ∧
     (s.core e.gr.core).loops.any (fun l => l.2.who.tid == e.who.tid && l.2.who.grp == e.who.grp) = false) ∧
    (∃ t g f, AMap.find demo.teams env0.who.tid = some t ∧ AMap.find t.groups env0.who.grp = some g ∧
      AMap.find g.frags env0.who.frag = some f ∧ g.live &&& ~~~0x00FF#64 ≠ 0 ∧ g.live &&& ~~~0xFFFF#64 = 0 ∧
      t.carve = none ∧ g.hnd = none ∧ g.deferred = [] ∧ AMap.find t.bars 0 = some { grp := 2 } ∧
      AMap.find t.bars 1 = some { grp := 1 }) ∧
    env0.fr.split = none ∧ demo.host.trcEn = false ∧ (∃ h, demo.grp? { who0 with grp := 1 } = some h) ∧
    Bar.full { grp := 2, arr := [0], fewer := 1 } = false ∧ Bar.full { grp := 1, arr := [0], fewer := 1 } = true :=
  ⟨mk_issues (by decide), by decide, ⟨mk_issues (by decide), by decide, by decide, by decide, fun _ h => (by cases h),
    by decide⟩, ⟨_, _, _, rfl, rfl, rfl, by decide, by decide, rfl, rfl, rfl, rfl, rfl⟩, rfl, rfl, ⟨_, rfl⟩, by decide,
    by decide⟩

theorem witness_Exits_memory :
    demo.host.trcEn = false ∧ (∀ d, d ∈ grp0.deferred → d.info.lanes &&& (0x00FF : Word) ≠ 0) ∧
    demo.barsLeft env0.who ≠ [] ∧ State.barsLeft { demo with teams := [] } who0 = [] ∧
    (∀ o, o ∈ (demo.core grp0.core).ops → o.2.of env0.who = false ∧ o.2.readBy env0.who = false) ∧
    (let b : Bar := { grp := 1, eng := 2, arr := [0], earr := 2, held := 5, fewer := 1 }
     b.full = true ∧ ¬(b.fewer < b.grp ∨ b.eng = 0)) :=
  ⟨rfl, fun _ h => (by cases h), by decide, rfl, fun _ h => (by cases h), by decide⟩

/-- A trap, and a group in a handler whose fragment `frag` it was. -/
def trap0 : TrapInfo := { cause := .soft 5, pc := 0x10008, lanes := 0x00FF }
def hnd0 : Handler := { frag := frag, info := trap0, entry := 0x00FF, word := frag.pos, cont := { pc := 0x10010, cl := cl0 } }
def fragH : Frag := { frag with inH := true }
def grpH : Group := { grp0 with hnd := some hnd0, tcause := 0x1C5, tpc := 0x10008, tlanes := 0x00FF }
def fragR : Frag := { frag with re := [{ exec := 0x00FF, cont := frag.pos }] }
def grpR : Group := { grp0 with lastTrap := some trap0.key, loops := 3 }

theorem witness_TrapEntry :
    (demo.envOf env0.who = some env0 ∧ env0.gr.hnd = none ∧ env0.gr.tvec ≠ 0 ∧ env0.gr.stepOn = false ∧
      Settled demo env0 ∧ env0.loopCount env0.gr trap0 < 4) ∧
    (let g := { grp0 with tvec := 0 }
     (mk team0 g frag).envOf who0 = some (en team0 g frag) ∧ (en team0 g frag).gr.tvec = 0 ∧
     Settled (mk team0 g frag) (en team0 g frag)) ∧
    ((mk team0 grpH fragH).envOf who0 = some (en team0 grpH fragH) ∧
      (en team0 grpH fragH).gr.hnd = some hnd0 ∧ fragH.inH = true) ∧
    ((mk team0 grpH frag).envOf who0 = some (en team0 grpH frag) ∧ (en team0 grpH frag).gr.hnd ≠ none ∧
      frag.inH = false) ∧
    ((mk team0 grpR fragR).envOf who0 = some (en team0 grpR fragR) ∧ (en team0 grpR fragR).gr.hnd = none ∧
      Settled (mk team0 grpR fragR) (en team0 grpR fragR) ∧ fragR.re ≠ [] ∧ trap0.stat &&& statDefer = 0 ∧
      (en team0 grpR fragR).gr.lastTrap = some trap0.key ∧ (en team0 grpR fragR).gr.loops = 3) :=
  ⟨⟨rfl, rfl, by decide, rfl, settled_mk .., by decide⟩, ⟨rfl, rfl, settled_mk ..⟩, ⟨rfl, rfl, by decide⟩,
    ⟨rfl, by decide, rfl⟩, ⟨rfl, rfl, settled_mk .., by decide, by decide, by decide, by decide⟩⟩

/-- An `xlut` of the group whose table's line is absent: its pipe holds it, and a trap of the group with it. -/
def jobHeld : Job := { who := who0, instr := .xlut { V0 with bg := true, b := 9 }, exec := 0xFF, gs := [0x1000] }
def heldPipe : State :=
  { mk { team0 with absent := [(32, true)] } grp0 frag with cores := [(0, { pipes := [(0, [jobHeld])] })] }
def envHeld : Env := en { team0 with absent := [(32, true)] } grp0 frag

theorem witness_TrapEntry_inFlight :
    (heldPipe.envOf who0 = some envHeld ∧ envHeld.gr.stepOn = false ∧ envHeld.gr.hnd = none ∧
      (heldPipe.complete envHeld.gr.core envHeld.gr.slice envHeld.who).piped envHeld.gr.core envHeld.gr.slice
        envHeld.who = true) ∧
    (let s1 := demo.complete env0.gr.core env0.gr.slice env0.who
     s1.piped env0.gr.core env0.gr.slice env0.who = false ∧
     ∃ g1 f1, s1.grp? env0.who = some g1 ∧ AMap.find g1.frags env0.who.frag = some f1 ∧ g1.tvec ≠ 0 ∧
       env0.loopCount g1 trap0 < 4) :=
  ⟨⟨rfl, rfl, rfl, by decide⟩, by decide, _, _, rfl, rfl, by decide, by decide⟩

theorem passes_mk {tm : Team} {gr : Group} {fr : Frag} {i : Instr}
    (h : ((en tm gr fr).canIssue && trapFence i && (en tm gr fr).groupGuard i.guard && !(en tm gr fr).parked &&
      ((en tm gr fr).gr.gstat &&& (en tm gr fr).gr.tarm == 0) && i.check.isNone &&
      !(en tm gr fr).blocked ((en tm gr fr).regs i)) = true) :
    Passes (mk tm gr fr) (en tm gr fr) i (mk tm gr fr) (en tm gr fr) := by
  simp only [Bool.and_eq_true, Option.isNone_iff_eq_none, Bool.not_eq_true', beq_iff_eq] at h
  obtain ⟨⟨⟨⟨⟨⟨h1, h2⟩, h3⟩, h4⟩, h5⟩, h6⟩, h7⟩ := h
  exact ⟨env_of rfl rfl h1, fun _ => by rfl, h2, h3, h4, rfl, rfl, rfl, .inl h5, h6, h3, h7⟩

theorem witness_TrapWords :
    Meets demo env0 ([.trap { S0 with g := 0, imm := 63 }, .brk { S0 with g := 0 }].map (·, false)) ∧
    Passes demo env0 (.tfence { S0 with g := 0 }) demo env0 ∧
    (let g := { grp0 with gstat := 2, tarm := 3 }
     let s := mk team0 g frag
     let e := en team0 g frag
     s.env = some e ∧ e.groupGuard (Instr.tfence { S0 with g := 0 }).guard = true ∧ e.parked = false ∧
     s = s.complete e.gr.core e.gr.slice e.who ∧ s.piped e.gr.core e.gr.slice e.who = false ∧
     s.envOf e.who = some e ∧ e.fr.inH = false ∧ e.gr.gstat &&& e.gr.tarm ≠ 0) ∧
    ((0xA1 : Flags).extractLsb' 0 6 ≠ 0 ∧ (0xC0 : Flags).extractLsb' 0 6 = 0 ∧ (0xC0 : Flags).getLsbD 6 = true ∧
      (0x80 : Flags).extractLsb' 0 6 = 0 ∧ (0x80 : Flags).getLsbD 6 = false) :=
  ⟨mk_meets (by decide), passes_mk (by decide),
    ⟨env_of rfl rfl (by decide), by decide, by decide, rfl, rfl, rfl, rfl, by decide⟩, by decide⟩

theorem witness_TrapReturn :
    Issues demo env0 (.trret { S0 with g := 0 }) ∧ env0.fr.inH = false ∧
    (let e := en team0 grpH fragH
     Issues (mk team0 grpH fragH) e (.trret { S0 with g := 0 }) ∧ e.fr.inH = true ∧ e.gr.hnd = some hnd0 ∧
     (mk team0 grpH fragH).badTstat e = false ∧ e.depth = 0 ∧ e.splits = [] ∧ hnd0.tpcWritten = false ∧
     hnd0.word.cl.left ≠ 0) ∧
    (let g := { grpH with hnd := some { hnd0 with tpcWritten := true }, tpc := 0x10000 }
     let e := en team0 g fragH
     Issues (mk team0 g fragH) e (.trret { S0 with g := 0 }) ∧ (mk team0 g fragH).badTstat e = false ∧
     (mk team0 g fragH).wordAt e e.gr.tpc = some hdr ∧ isHeader hdr = true ∧ e.gr.tpc.toNat % 8 = 0) ∧
    (let g := { grpH with hnd := some { hnd0 with tpcWritten := true }, tpc := 0x10008 }
     let e := en team0 g fragH
     Issues (mk team0 g fragH) e (.trret { S0 with g := 0 }) ∧ (mk team0 g fragH).badTstat e = false ∧
     ∀ w, (mk team0 g fragH).wordAt e e.gr.tpc = some w → isHeader w = false) ∧
    (let g := { grpH with hnd := some { hnd0 with tpcWritten := true }, tpc := 0x10004 }
     let e := en team0 g fragH
     Issues (mk team0 g fragH) e (.trret { S0 with g := 0 }) ∧ (mk team0 g fragH).badTstat e = false ∧
     e.gr.tpc.toNat % 8 ≠ 0) ∧
    (let g := { grpH with hnd := some { hnd0 with word := { pc := 0x10000 } } }
     let e := en team0 g fragH
     Issues (mk team0 g fragH) e (.trret { S0 with g := 0 }) ∧ (mk team0 g fragH).badTstat e = false) := by
  refine ⟨mk_issues (by decide), rfl, ⟨mk_issues (by decide), rfl, rfl, by decide, by decide, by decide, by decide,
      by decide⟩, ⟨mk_issues (by decide), by decide, by decide, by decide, by decide⟩,
    ⟨mk_issues (by decide), by decide, fun w h => ?_⟩, ⟨mk_issues (by decide), by decide, by decide⟩,
    mk_issues (by decide), by decide⟩
  rw [show State.wordAt _ _ _ = some 0x0300000000000000#64 by decide] at h
  cases h; decide

theorem witness_TrapReturn_doubles :
    (let e := en team0 { grpH with tstat := 0x20 } fragH
     Issues (mk team0 { grpH with tstat := 0x20 } fragH) e (.trret { S0 with g := 0 }) ∧ e.fr.inH = true ∧
     e.gr.hnd = some hnd0 ∧ (mk team0 { grpH with tstat := 0x20 } fragH).badTstat e = true) ∧
    (let g := { grpH with hmeld := [{ region := 0xF, saved := 0xFF }] }
     let e := en team0 g fragH
     Issues (mk team0 g fragH) e (.trret { S0 with g := 0 }) ∧ (mk team0 g fragH).badTstat e = false ∧ e.depth ≠ 0) ∧
    (let g := { grpH with splits := [{ rec0 with inH := true }], nextRec := 1 }
     let e := en team0 g fragH
     Issues (mk team0 g fragH) e (.trret { S0 with g := 0 }) ∧ (mk team0 g fragH).badTstat e = false ∧ e.depth = 0 ∧
     e.splits ≠ []) :=
  ⟨⟨mk_issues (by decide), rfl, rfl, by decide⟩, ⟨mk_issues (by decide), by decide, by decide⟩,
    mk_issues (by decide), by decide, by decide, by decide⟩

/-- The fragment has arrived at barrier 0, whose phase has passed, and waits; or the phase has not. -/
def grpB : Group := { grp0 with lp := [(0, false)] }
def teamB : Team := { team0 with bars := [(0, { grp := 2, ph := true }), (1, { grp := 1 })] }
def fragP : Frag := { frag with stall := some (.bar 0) }

theorem witness_BarrierWords :
    (let g := { grp0 with g := [(6, 0x102)] }
     let e := en team0 g frag
     Passes (mk team0 g frag) e (.bini { X0 with gp := 6 }) (mk team0 g frag) e ∧ e.splits = [] ∧
     0 < e.tm.desc.bars ∧ AMap.find e.tm.bars 0 = some { grp := 2 } ∧ bits (e.g 6) 63 20 = 0 ∧ bits (e.g 6) 7 0 ≠ 0 ∧
     bits (e.g 6) 7 0 ≤ (e.tm.groups.filter (fun g => !g.2.ended)).length ∧
     (mk team0 g frag).barBusy e.tm e.who.tid 0 = false) ∧
    (Passes demo env0 (.barr X0) demo env0 ∧ (Bar.arr { grp := 2 }).contains env0.who.grp = false) ∧
    (Passes (mk teamB grpB frag) (en teamB grpB frag) (.bwait X0) (mk teamB grpB frag) (en teamB grpB frag) ∧
      (AMap.find (en teamB grpB frag).gr.lp 0).isSome = true ∧ (en teamB grpB frag).barPassed 0 = true) ∧
    (Passes (mk team0 grpB frag) (en team0 grpB frag) (.bwait X0) (mk team0 grpB frag) (en team0 grpB frag) ∧
      (en team0 grpB frag).barPassed 0 = false) ∧
    Passes demo env0 (.bsync X0) demo env0 ∧
    (Issues (mk teamB grpB fragP) (en teamB grpB fragP) (.bsync X0) ∧ (en teamB grpB fragP).parked = true ∧
      (en teamB grpB fragP).barPassed 0 = true) ∧
    Passes demo env0 (.btest X0) demo env0 ∧
    (Passes (mk team0 grpS fragS) (en team0 grpS fragS) (.barr X0) (mk team0 grpS fragS) (en team0 grpS fragS) ∧
      (en team0 grpS fragS).splits ≠ []) ∧
    (Passes demo env0 (.barr { X0 with bar := 2 }) demo env0 ∧ env0.tm.desc.bars ≤ 2) :=
  ⟨⟨passes_mk (by decide), by decide, by decide, by decide, by decide, by decide, by decide, by decide⟩,
    ⟨passes_mk (by decide), by decide⟩, ⟨passes_mk (by decide), by decide, by decide⟩, ⟨passes_mk (by decide), by decide⟩,
    passes_mk (by decide), ⟨mk_issues (by decide), by decide, by decide⟩, passes_mk (by decide),
    ⟨passes_mk (by decide), by decide⟩, passes_mk (by decide), by decide⟩

/-- The group has arrived at barrier 0, which another is to reach. -/
def teamR : Team := { team0 with bars := [(0, { grp := 2, arr := [0] }), (1, { grp := 1 })] }

theorem witness_BarrierWords_traps :
    (∀ x, x ∈ [(0 : Word), 4, 0x100002] →
      let e := en team0 { grp0 with g := [(6, x)] } frag
      Passes (mk team0 { grp0 with g := [(6, x)] } frag) e (.bini { X0 with gp := 6 })
        (mk team0 { grp0 with g := [(6, x)] } frag) e ∧
      (bits (e.g 6) 63 20 ≠ 0 ∨ bits (e.g 6) 7 0 = 0 ∨
        (e.tm.groups.filter (fun g => !g.2.ended)).length < bits (e.g 6) 7 0)) ∧
    (let e := en teamR grp0 frag
     let s := mk teamR grp0 frag
     Passes s e (.bini X0) s e ∧ Passes s e (.barr X0) s e ∧ Passes s e (.bsync X0) s e ∧
     AMap.find e.tm.bars 0 = some { grp := 2, arr := [0] } ∧ [0].contains e.who.grp = true) ∧
    (Passes demo env0 (.bwait X0) demo env0 ∧ AMap.find env0.gr.lp 0 = none) := by
  refine ⟨fun x h => ?_, ⟨passes_mk (by decide), passes_mk (by decide), passes_mk (by decide), by decide, by decide⟩,
    passes_mk (by decide), by decide⟩
  simp only [List.mem_cons, List.not_mem_nil, or_false] at h
  rcases h with rfl | rfl | rfl <;> exact ⟨passes_mk (by decide), by decide⟩

theorem witness_BarrierWords_arrive :
    (∃ t g, AMap.find demo.teams 1 = some t ∧ AMap.find t.groups 0 = some g ∧
      AMap.find t.bars 1 = some { grp := 1 } ∧ AMap.find t.bars 0 = some { grp := 2 }) ∧
    (let b : Bar := { grp := 1 }
     b.arr.length + 1 = b.grp ∧ b.earr = b.eng) ∧
    (let b : Bar := { grp := 2 }
     b.arr.length + 1 ≠ b.grp) ∧
    (∃ t h, AMap.find (mk teamB grpB fragP).teams 1 = some t ∧ AMap.find t.groups 0 = some h ∧
      AMap.find h.frags 0 = some fragP ∧ fragP.stall = some (.bar 0)) :=
  ⟨⟨_, _, rfl, rfl, rfl, rfl⟩, by decide, by decide, _, _, rfl, rfl, rfl, rfl⟩

theorem witness_CarveAndGrant :
    (let g := { grp0 with g := [(6, 0x20FF), (8, 0), (9, 128)] }
     let e := en team0 g frag
     Meets (mk team0 g frag) e ([.crv { X0 with gp := 6, mode := 1 }, .revk X0,
       .grant { X0 with gp := 8, mode := 7 }].map (·, false)) ∧
     e.tm.desc.bars ≠ 0 ∧ bits (e.g 6) 63 16 = 0 ∧ bits (e.g 6) 15 8 ≤ 32 ∧
     bits (e.g 6) 7 0 = 0xFF ∧ AMap.find e.tm.grants 0 = none ∧ (e.g 8).toNat % 128 = 0 ∧ (e.g 9).toNat % 128 = 0 ∧
     (e.g 9).toNat ≠ 0 ∧ (e.tm.scrPart e.gr.core).1 ≤ (e.g 8).toNat ∧
     (e.g 8).toNat + (e.g 9).toNat ≤ (e.tm.scrPart e.gr.core).1 + (e.tm.scrPart e.gr.core).2 ∧
     State.workReaches (((mk team0 g frag).begun e).drainScr e.gr.core e.who 0 128) e 0 128 = false) :=
  ⟨mk_meets (by decide), by decide, by decide, by decide, by decide, by decide, by decide, by decide, by decide, by decide,
    by decide, by decide⟩

theorem witness_SystemRegisters :
    Meets demo env0 ([.srd { S0 with sys := 0x18 }, .srd { S0 with sys := 0x28 }, .srd { S0 with sys := 2 },
      .srd { S0 with sys := 0x10 }, .swr { S0 with sys := 0x28 }, .swr { S0 with sys := 0x20 },
      .swr { S0 with sys := 0x11 }].map (·, false)) ∧
    Settled demo env0 ∧ env0.fr.inH = false ∧
    Meets (mk team0 grpH fragH) (en team0 grpH fragH)
      ([.srd { S0 with sys := 0x18 }, .swr { S0 with sys := 0x18 }].map (·, false)) ∧ fragH.inH = true ∧
    (env0.fr.exec.getLsbD 0 = true) ∧ env0.meld.length ≤ 4 ∧ env0.floor ≤ 4 :=
  ⟨mk_meets (by decide), settled_mk .., rfl, mk_meets (by decide), rfl, by decide, by decide, by decide⟩

/-! States that differ in more than the team. -/

theorem issues_in {s : State} {tm : Team} {gr : Group} {fr : Frag} {i : Instr} (hc : s.cur = some who0)
    (ht : s.teams = [(1, full tm gr fr)]) (hk : (s.core gr.core).cmps = [])
    (h : ((en tm gr fr).canIssue && readyB (en tm gr fr) i) = true) : Issues s (en tm gr fr) i := by
  rw [Bool.and_eq_true] at h
  exact issues_of_ready (env_of hc ht h.1) hk h.2

/-- Vault bytes. -/
def vault (o n : Nat) : Where := .mem (2 ^ 48 + o) ((List.range n).map (fun i => 2 ^ 48 + o + i))

theorem ok_of {ε α : Type} {x : Except ε α} {a : α} (h : x.toOption = some a) : x = .ok a := by
  cases x with
  | error => cases h
  | ok b => simpa [Except.toOption] using h

/-- A page table at PA 0, whose first entry points to 0x1000, and a window on the IA 0x20000 at 0x60000. -/
def paged : State :=
  { mk team0 grpH fragH with
    mem := [(0, 0x01), (1, 0x10)] ++ base.mem
    ctxs := base.ctxs ++ [(2, { va := 0x60000, len := 0x10000, ia := 0x20000, ctl := 7 })]
    pool := [(0, [0x100000, 0x200000])] }
def grpK : Group := { grpH with g := [(6, 0x60000), (7, 0x3000D), (8, 0)] }
def pagedK : State := { paged with teams := [(1, full team0 grpK fragH)] }
def mapped : State := { pagedK with mem := [(0, 0x01), (1, 0x10), (0x1010, 0x0D), (0x1012, 0x04)] ++ base.mem }
def teamF : Team := { team0 with fsHw := false }

/-- A `pgmap` of the group that its core still tracks, and copies of entries that the group has written. -/
def mapping : State := { paged with cores := [(0, { ops := [(0, { who := who0, opc := 0x3C7 })] })] }
def copies : State := { paged with stale := [(5, { entry := 0, writers := [some (1, 0)] })] }
def fragSync : Frag := { fragH with stall := some .sync }
def fragPost : Frag := { fragH with stall := some .post }

theorem witness_PagingWords :
    (let e := en team0 grpH fragH
     Issues paged e (.pgtk { S0 with imm := 3 }) ∧ e.fr.inH = true ∧ e.tm.fsHw = true ∧ e.fr.stall ≠ some .post ∧
     paged.poolKey 0 0 = some 0 ∧
     Issues { paged with pool := [] } e (.pgtk { S0 with imm := 0x103 }) ∧
     { paged with pool := [] }.poolKey 0 1 = none ∧ paged.hold.length < 256 ∧ paged.waiting = [] ∧
     (let s := { paged with pool := [], hold := List.replicate 256 { words := [] } }
      Issues s e (.pgtk S0) ∧ 256 ≤ s.hold.length) ∧
     Issues paged e (.ptsync { L0 with data := 0, gb := 0, size := 0 }) ∧
     (∀ o, o ∈ (paged.core e.gr.core).ops → ¬(o.2.of e.who = true ∧ o.2.opc = 0x3C7)) ∧ paged.stale = [] ∧
     Issues mapping e (.ptsync { L0 with data := 0, gb := 0, size := 0 }) ∧
     (∃ o, o ∈ (mapping.core e.gr.core).ops ∧ o.2.of e.who = true ∧ o.2.opc = 0x3C7) ∧
     Issues copies e (.ptsync { L0 with data := 0, gb := 0, size := 0 }) ∧ e.fr.stall ≠ some .sync ∧
     (∃ x, x ∈ copies.stale ∧ (some (e.who.tid, e.who.grp) ∈ x.2.writers ∨ none ∈ x.2.writers))) ∧
    (Issues { copies with teams := [(1, full team0 grpH fragSync)] } (en team0 grpH fragSync)
      (.ptsync { L0 with data := 0, gb := 0, size := 0 }) ∧ fragSync.stall = some .sync) ∧
    (let e := en team0 grpH fragPost
     let s := { paged with teams := [(1, full team0 grpH fragPost)] }
     let t := { s with waiting := [{ words := [], src := some who0 }] }
     Issues s e (.pgtk S0) ∧ ¬(∃ r, r ∈ s.waiting ∧ r.src = some e.who) ∧
     Issues t e (.pgtk S0) ∧ (∃ r, r ∈ t.waiting ∧ r.src = some e.who) ∧ e.fr.stall = some .post) ∧
    (let e := en team0 grpK fragH
     Issues pagedK e (.pgmap { S0 with g := 6, imm := 0x107 }) ∧ pagedK.windowIa e.tm (e.g 6) = .ok 0x20000 ∧
     (leafOf false (e.g 7)).isSome = true ∧ bit (e.g 7) 1 = false ∧
     bit (BitVec.ofNat 64 (pagedK.rdNat (pagedK.topPa 0x20000) 8)) 0 = true ∧
     bit (BitVec.ofNat 64 (pagedK.rdNat (pagedK.topPa 0x20000) 8)) 1 = false ∧
     bit (BitVec.ofNat 64 (pagedK.rdNat (secondPa 0x1000 0x20000) 8)) 0 = false ∧
     Issues pagedK e (.pgmap { S0 with g := 6, imm := 0x008 }) ∧ e.g 8 = 0 ∧
     Issues mapped e (.pgmap { S0 with g := 6, imm := 0x107 }) ∧
     bit (BitVec.ofNat 64 (mapped.rdNat (secondPa 0x1000 0x20000) 8)) 0 = true) ∧
    (Issues demo env0 (.pgtk S0) ∧ Issues demo env0 (.pgmap S0) ∧
      Issues demo env0 (.ptsync { L0 with data := 0, gb := 0, size := 0 }) ∧ env0.fr.inH = false) ∧
    (Issues (mk teamF grpH fragH) (en teamF grpH fragH) (.pgtk S0) ∧ (en teamF grpH fragH).tm.fsHw = false) := by
  refine ⟨⟨issues_in rfl rfl rfl (by decide), rfl, rfl, by decide, by decide, issues_in rfl rfl rfl (by decide), by decide,
      by decide, rfl, ⟨issues_in rfl rfl rfl (by decide), Nat.le_of_eq List.length_replicate.symm⟩,
      issues_in rfl rfl rfl (by decide),
      fun _ h => (by cases h), rfl, issues_in rfl rfl rfl (by decide), ⟨_, .head _, rfl, rfl⟩,
      issues_in rfl rfl rfl (by decide), by decide, _, .head _, .inl (by decide)⟩,
    ⟨issues_in rfl rfl rfl (by decide), rfl⟩,
    ⟨issues_in rfl rfl rfl (by decide), fun ⟨_, h, _⟩ => (by cases h), issues_in rfl rfl rfl (by decide),
      ⟨_, .head _, rfl⟩, rfl⟩,
    ⟨issues_in rfl rfl rfl (by decide), ok_of (by decide +kernel), by decide, by decide, by decide, by decide, by decide,
      issues_in rfl rfl rfl (by decide), by decide, issues_in rfl rfl rfl (by decide), by decide⟩,
    ⟨mk_issues (by decide), mk_issues (by decide), mk_issues (by decide), rfl⟩, mk_issues (by decide), rfl⟩

/-- A launch record in the scratchpad, which g6 points to, and a launch queue that takes records from device code. -/
def grpL : Group := { grp0 with g := [(4, 0x10000), (6, 0x40100)] }
def teamL : Team := { team0 with scr := code 0x100 [0x1000000010200, 0x100000001, 1] }
def fed : State :=
  { mk teamL grpL frag with queues := [(1, { base := 0x8000000000000, en := true, dev := true, size := 4 })] }

theorem witness_MarksAndSignals :
    Meets demo env0 ([.mark { S0 with imm := 0xFFFF }, .sig { S0 with imm := 63 }].map (·, false)) ∧
    env0.fr.stall ≠ some .post ∧ demo.hold.length < 256 ∧ demo.waiting = [] ∧
    (let e := en teamL grpL frag
     let f : CF := { C0 with aux := 0x1046 }
     Issues fed e (.lnch f) ∧ (e.g 6).toNat % 64 = 0 ∧
     (∃ w, fed.access e.tm { n := 64, rd := true, wr := false, noIo := true, feet := fed.feet e .load } (e.g 6) = .ok w ∧
       e.absent 64 w = false ∧
       recOk (wordsOf ((fed.begun e).load e.who e.gr.core false w 64).1) = true) ∧
     (fed.queue 1).takesDev = true ∧ (fed.queue 2).takesDev = false ∧ Issues fed e (.lnch { C0 with aux := 0x86 }) ∧
     Issues fed e (.lnch { C0 with aux := 7 }) ∧ (e.g 7).toNat % 64 = 0) ∧
    (Issues demo env0 (.lnch { C0 with aux := 2 }) ∧ (env0.g 2).toNat % 64 ≠ 0) :=
  ⟨mk_meets (by decide), by decide, by decide, rfl,
    ⟨issues_in rfl rfl rfl (by decide), by decide,
      ⟨.scr 0x100, ok_of (by decide), rfl, by decide⟩, by decide, by decide,
      issues_in rfl rfl rfl (by decide), issues_in rfl rfl rfl (by decide), by decide⟩,
    mk_issues (by decide), by decide⟩

/-! Memory. -/

/-- v8 and v9 hold an address pair for each lane: 0x10100, or in a bad group 0 for lane 1 up. -/
def grpA : Group := { grp0 with v := (List.range 16).map (fun l => (64 * 8 + l, 0x10100)) }
def MA : VMF := { M0 with aa := 8, ab := 8, ba := 0, bb := 0 }

theorem reaches_of {s : State} {e : Env} {acc : Acc} {m : Word} {ea : Nat → Word} {place : Nat → Where}
    (h : ∀ l, l < 64 → m.getLsbD l = true →
      (s.access e.tm acc (ea l)).toOption = some (place l) ∧ e.absent acc.n (place l) = false) :
    Reaches s e acc m ea place := fun l hl =>
  have hr := h l (by
    by_cases h : l < 64
    · exact h
    · rw [BitVec.getLsbD_of_ge _ _ (by omega)] at hl; cases hl) hl
  ⟨ok_of hr.1, hr.2⟩

/-- Each clause at the edge of its range: the team's windows hold 0x10000 to 0x1FFFF and, for its 0x4000 bytes of
scratchpad, 0x40000 to 0x4FFFF. -/
theorem witness_AccessChecks :
    canonical 0x80000000000000 = false ∧
    (canonical 0x7FFFFFFFFFFFFD = true ∧ 0x7FFFFFFFFFFFFF < 0x7FFFFFFFFFFFFD + 4 - 1) ∧
    (canonical 0x10008 = true ∧ 0x10008 % 16 ≠ 0) ∧
    demo.window 0 0x20000 = none ∧
    (∃ w, demo.window 0 0x1FFFD = some w ∧ w.va.toNat + w.len.toNat ≤ 0x1FFFD + 4 - 1) ∧
    (∃ w, State.window { demo with ctxs := [(0, { va := 0x10000, len := 0x10000, ia := 0x1000000000000, ctl := 3 })] } 0
      0x1FFFC = some w ∧ 0x1FFFC + 4 - 1 < w.va.toNat + w.len.toNat ∧ bit w.ctl 2 = false ∧ bit w.ctl 1 = true) ∧
    ((0x10003 : Int) < 0x10004 ∧ (0x10003 : Int) < 0x10000 + 4 ∧ (0x10000 : Int) < 0x10004) :=
  ⟨by decide, by decide, by decide, by decide, ⟨_, rfl, by decide⟩, ⟨_, rfl, by decide⟩, by decide⟩

/-- Windows on the scratchpad, device memory, the end of a vault, a peer, the host and a hole; the pages 0x20000, and
0x30000 of which only reads are allowed; a format aperture at 0x28000; peer 0 is up and peer 1 is not. -/
def targets : State :=
  { demo with
    ctxs := [(0, { va := 0x10000, len := 0x20000, ia := 0x20000, ctl := 7 }),
             (1, { va := 0x40000, len := 0x10000, ia := 0, ctl := 0xF }),
             (2, { va := 0x50000, len := 0x10000, ia := 0x100000BFF0000, ctl := 7 }),
             (3, { va := 0x60000, len := 0x10000, ia := 0x4000000000000, ctl := 7 }),
             (4, { va := 0x70000, len := 0x10000, ia := 0x4100000000000, ctl := 7 }),
             (5, { va := 0x80000, len := 0x10000, ia := 0x8000000000000, ctl := 7 }),
             (6, { va := 0x90000, len := 0x10000, ia := 0x2000000000000, ctl := 7 }),
             (7, { va := 0xA0000, len := 0x10000, ia := 0x40000, ctl := 7 }),
             (8, { va := 0xB0000, len := 0x10000, ia := 0x100000C000000, ctl := 7 })]
    mem := [(0, 0x01), (1, 0x10), (0x1010, 0x0D), (0x1012, 0x04), (0x1018, 0x05), (0x101A, 0x05)]
    peers := [(0, 3)], bad := [0x40002, 0x100000BFF0001],
    ctrls := (List.range 16).map (fun n => (n, { fmt := [(3, { ctl := 0x10001, apb := 0x28000, len := 16 })] })) }

/-- What an access answers. -/
def answer (x : Except Miss Where) : Option Miss × Option Where :=
  match x with
  | .error m => (some m, none)
  | .ok w => (none, some w)

/-- The access meets the premise of the far clauses, or of the scratchpad's, and answers so. -/
def Answers (s : State) (acc : Acc) (a : Word) (o : Nat) (scr : Bool) (x : Option Miss × Option Where) : Prop :=
  (∃ w, Windowed s team0 acc a w ∧ bit w.ctl 3 = scr ∧ w.ia.toNat + (a.toNat - w.va.toNat) = o) ∧
  answer (s.access team0 acc a) = x

theorem answers_of {s : State} {acc : Acc} {a : Word} {o : Nat} {scr : Bool} {x : Option Miss × Option Where} {w : Win}
    (hw : s.window 0 a.toNat = some w) (hf : acc.feet = [])
    (h : 0 < acc.n ∧ canonical a = true ∧ wraps a.toNat acc.n = false ∧
      (acc.aligned = true ∨ acc.n = 16 → a.toNat % acc.n = 0) ∧ a.toNat + acc.n ≤ w.va.toNat + w.len.toNat ∧
      ((acc.rd = true → bit w.ctl 1 = true) ∧ (acc.wr = true → bit w.ctl 2 = true)) ∧ bit w.ctl 3 = scr ∧
      w.ia.toNat + (a.toNat - w.va.toNat) = o)
    (hx : answer (s.access team0 acc a) = x) : Answers s acc a o scr x :=
  ⟨⟨w, ⟨h.1, h.2.1, h.2.2.1, h.2.2.2.1, hw, h.2.2.2.2.1, h.2.2.2.2.2.1, fun f hm => by rw [hf] at hm; cases hm⟩,
    h.2.2.2.2.2.2⟩, hx⟩

def rd4 : Acc := { n := 4, rd := true, wr := false }
def wr4 : Acc := { n := 4, rd := false, wr := true }
def at4 : Acc := { n := 4, rd := true, wr := true, atomic := true, aligned := true }

theorem witness_AccessChecks_targets :
    Answers targets rd4 0x43FFD 0x3FFD true (some (.scratchRange, 0x43FFD), none) ∧
    Answers targets rd4 0x43FFC 0x3FFC true (none, some (.scr 0x3FFC)) ∧
    answer (targets.access { team0 with bad := [0x3FFE, 0x3FFF] } rd4 0x43FFC) = (some (.uncorrectable, 0x43FFE), none) ∧
    Answers targets rd4 0x90000 0x2000000000000 false (some (.windowMiss, 0x90000), none) ∧
    Answers targets rd4 0xB0000 0x100000C000000 false (some (.vaultRange, 0xB0000), none) ∧
    Answers { targets with host := { trcEn := true, trcBuf := true, tbbase := 0x100000BFF0008, tblen := 128 } } rd4 0x50008
      0x100000BFF0008 false (some (.vaultRange, 0x50008), none) ∧
    Answers targets rd4 0x50004 0x100000BFF0004 false
      (none, some (.mem 0x100000BFF0004 [0x100000BFF0004, 0x100000BFF0005, 0x100000BFF0006, 0x100000BFF0007])) ∧
    Answers targets rd4 0x50000 0x100000BFF0000 false (some (.uncorrectable, 0x50001), none) ∧
    Answers targets at4 0x60000 0x4000000000000 false (some (.ioSize, 0x60000), none) ∧
    Answers targets wr4 0x70000 0x4100000000000 false (some (.windowMiss, 0x70000), none) ∧
    Answers targets { wr4 with noIo := true } 0x80000 0x8000000000000 false (some (.ioSize, 0x80000), none) ∧
    Answers { targets with linkA := false, linkB := false } wr4 0x80000 0x8000000000000 false
      (some (.windowMiss, 0x80000), none) ∧
    Answers { targets with linkB := true } wr4 0x80000 0x8000000000000 false
      (none, some (.mem 0x8000000000000 [0x8000000000000, 0x8000000000001, 0x8000000000002, 0x8000000000003])) ∧
    Answers targets at4 0x18000 0x28000 false (some (.formatAtomic, 0x18000), none) ∧
    Answers targets rd4 0x10000 0x20000 false (some (.uncorrectable, 0x10002), none) ∧
    Answers targets wr4 0x10000 0x20000 false (none, some (.mem 0x20000 [0x40000, 0x40001, 0x40002, 0x40003])) ∧
    Answers targets rd4 0xA0000 0x40000 false (some (.pageInvalid, 0xA0000), none) ∧
    Answers targets wr4 0x1FFFE 0x2FFFE false (some (.pagePerm, 0x20000), none) :=
  ⟨answers_of rfl rfl (by decide) (by decide), answers_of rfl rfl (by decide) (by decide), by decide,
    answers_of rfl rfl (by decide) (by decide), answers_of rfl rfl (by decide) (by decide),
    answers_of rfl rfl (by decide) (by decide), answers_of rfl rfl (by decide) (by decide),
    answers_of rfl rfl (by decide) (by decide), answers_of rfl rfl (by decide) (by decide),
    answers_of rfl rfl (by decide) (by decide), answers_of rfl rfl (by decide) (by decide),
    answers_of rfl rfl (by decide) (by decide), answers_of rfl rfl (by decide) (by decide),
    answers_of rfl rfl (by decide) (by decide), answers_of rfl rfl (by decide) (by decide),
    answers_of rfl rfl (by decide) (by decide), answers_of rfl rfl (by decide) (by decide),
    answers_of rfl rfl (by decide) (by decide)⟩

/-- Entries of the tables at 0 and, for the IA below 2^21, at 0x1000, and the entry that the walk finds. -/
def walks (mem : List Host.Cell) (ia : Nat) (x : Option Leaf) (e1 e2 : Nat) : Bool :=
  let s : State := { mem := mem }
  s.rdNat (8 * (ia / 2 ^ 21)) 8 == e1 && s.rdNat (e1 / 2 ^ 8 * 2 ^ 8 + 8 * (ia / 2 ^ 16 % 32)) 8 == e2 && s.walk ia == x

theorem witness_AccessChecks_tables :
    (AMap.find demo.stale (0x20000 / 2 ^ 16) = none ∧ ∀ c, demo.ctrl c = demo.ctrl 0) ∧
    walks [] 0x20000 none 0 0 = true ∧ walks [(0, 0x13)] 0x20000 none 0x13 0 = true ∧
    walks [(0, 0x0F), (2, 0x20)] 0x20000 (some { pa := 0x220000, r := true, w := true }) 0x20000F 0 = true ∧
    walks [(0, 0x05)] 0x20000 none 5 0 = true ∧
    walks [(0, 0x01), (1, 0x10)] 0x20000 none 0x1001 0 = true ∧
    walks [(0, 0x01), (1, 0x10), (0x1010, 0x07)] 0x20000 none 0x1001 7 = true ∧
    walks [(0, 0x01), (1, 0x10), (0x1010, 0x15)] 0x20000 none 0x1001 0x15 = true ∧
    walks [(0, 0x01), (1, 0x10), (0x1010, 0x05), (0x1012, 0x04)] 0x20000
      (some { pa := 0x40000, r := true, w := false }) 0x1001 0x40005 = true :=
  ⟨⟨by decide, fun _ => rfl⟩, by decide, by decide, by decide, by decide, by decide, by decide, by decide, by decide⟩

/-- The address of lane 0 is in no window. -/
def grpA2 : Group := { grpA with v := (512, 0x40) :: grpA.v.tail }

/-- No line of the scratchpad is away. -/
theorem here {gr : Group} {fr : Frag} {n : Nat} (w : Where) : (en team0 gr fr).absent n w = false := by
  cases w
  · exact List.any_eq_false.mpr (fun _ _ => by simp [en, full, team0, AMap.get])
  · rfl

theorem witness_LaneLoads :
    (Issues demo env0 (.ld L0) ∧ env0.gr.stepOn = false ∧ env0.badBlock 4 4 = false ∧ env0.badVo L0 = false ∧
      Reaches demo env0 (demo.loadAcc env0 (readsPoc L0) 4) (env0.active (Instr.ld L0).guard) (L0.ea env0 L0.off15)
        (fun _ => vault 0x1000 4)) ∧
    Unapplied demo 0 ∧
    (let e := en team0 grpA fragM
     let s := mk team0 grpA fragM
     Issues s e (.ldMelded MA) ∧ e.gr.stepOn = false ∧
     (MA.arms e).all (fun x => !e.over x.d && x.a % 2 == 0 && !e.over (x.a + 1)) = true ∧
     ∀ x, x ∈ MA.arms e → Reaches s e (s.acc e .load 4) x.m (fun l => e.gr.vReg64 x.a l) (fun _ => vault 0x100 4)) ∧
    (let f : MF := { L0 with gb := 1 }
     Issues demo env0 (.ld f) ∧ env0.badBlock 4 4 = false ∧ env0.badVo f = false ∧
     (env0.active (Instr.ld f).guard).getLsbD 0 = true ∧
     (∀ l w, demo.access env0.tm (demo.loadAcc env0 (readsPoc f) 4) (f.ea env0 f.off15 l) = .ok w →
       env0.absent 4 w = false) ∧
     ∃ r a, demo.access env0.tm (demo.loadAcc env0 (readsPoc f) 4) (f.ea env0 f.off15 0) = .error (r, a)) ∧
    (let e := en team0 grpA2 fragM
     let s := mk team0 grpA2 fragM
     Issues s e (.ldMelded MA) ∧ (MA.arms e).all (fun x => !e.over x.d && x.a % 2 == 0 && !e.over (x.a + 1)) = true ∧
     (∀ y l w, y ∈ MA.arms e → s.access e.tm (s.acc e .load 4) (e.gr.vReg64 y.a l) = .ok w → e.absent 4 w = false) ∧
     ∃ x r a, x ∈ MA.arms e ∧ x.m.getLsbD 0 = true ∧
       s.access e.tm (s.acc e .load 4) (e.gr.vReg64 x.a 0) = .error (r, a)) := by
  refine ⟨⟨mk_issues (by decide), rfl, by decide, by decide, reaches_of (by decide)⟩, fun _ h => (by cases h),
    ⟨mk_issues (by decide), rfl, by decide, fun x hx => reaches_of ?_⟩,
    ⟨mk_issues (by decide), by decide, by decide, by decide, fun _ w _ => here w, _, _, rfl⟩,
    mk_issues (by decide), by decide, fun _ _ w _ _ => here w, _, _, _, .tail _ (.head _), by decide, rfl⟩
  revert x hx; decide

theorem witness_LaneStores :
    (Issues demo env0 (.st L0) ∧ env0.badBlock 4 4 = false ∧ env0.badVo L0 = false ∧ env0.gr.stepOn = false ∧
      Reaches demo env0 (demo.acc env0 .store 4) (env0.active (Instr.st L0).guard) (L0.ea env0 L0.off15)
        (fun _ => vault 0x1000 4)) ∧
    (let e := en team0 grpA fragM
     let s := mk team0 grpA fragM
     let f : VMF := { MA with da := 0, db := 0, ba := 2, bb := 2 }
     Issues s e (.stMelded f) ∧
     (f.arms e).all (fun x => !e.over x.b && x.a % 2 == 0 && !e.over (x.a + 1)) = true ∧
     ∀ x, x ∈ f.arms e → Reaches s e (s.acc e .store 4) x.m (fun l => e.gr.vReg64 x.a l) (fun _ => vault 0x100 4)) := by
  refine ⟨⟨mk_issues (by decide), by decide, by decide, rfl, reaches_of (by decide)⟩,
    mk_issues (by decide), by decide, fun x hx => reaches_of ?_⟩
  revert x hx; decide

theorem witness_GroupLoads :
    Issues demo env0 (.gld L0) ∧
    demo.access env0.tm (demo.loadAcc env0 (readsPoc L0) 4) (env0.groupEa L0 L0.off15) = .ok (vault 0x1000 4) ∧
    env0.absent 4 (vault 0x1000 4) = false ∧ Unapplied demo env0.gr.core :=
  ⟨mk_issues (by decide), ok_of (by decide), rfl, fun _ h => (by cases h)⟩

theorem witness_StoresAndAtomics :
    Issues demo env0 (.gst L0) ∧
    demo.access env0.tm (demo.acc env0 .store 4) (env0.groupEa L0 L0.off15) = .ok (vault 0x1000 4) ∧
    Issues demo env0 (.gatom L0) ∧
    demo.access env0.tm (demo.acc env0 .atomic 4) (env0.groupEa L0 L0.off10) = .ok (vault 0x1000 4) ∧
    Issues demo env0 (.atom L0) ∧ env0.badBlock 4 4 = false ∧ env0.badVo L0 = false ∧
    Reaches demo env0 (demo.acc env0 .atomic 4) (env0.active (Instr.atom L0).guard) (L0.ea env0 L0.off10)
      (fun _ => vault 0x1000 4) ∧
    Issues demo env0 (.acas L0) ∧ env0.over (4 + 4 / 2 - 1) = false ∧
    Reaches demo env0 (demo.acc env0 .atomic 4) (env0.active (Instr.acas L0).guard) (L0.ea env0 L0.off10)
      (fun _ => vault 0x1000 4) ∧
    (let f : MF := { L0 with gb := 1 }
     Meets demo env0 ([.gld f, .gst f, .gatom f].map (·, false)) ∧
     (∃ r b, demo.access env0.tm (demo.loadAcc env0 (readsPoc f) 4) (env0.groupEa f f.off15) = .error (r, b)) ∧
     (∃ r b, demo.access env0.tm (demo.acc env0 .store 4) (env0.groupEa f f.off15) = .error (r, b)) ∧
     ∃ r b, demo.access env0.tm (demo.acc env0 .atomic 4) (env0.groupEa f f.off10) = .error (r, b)) :=
  ⟨mk_issues (by decide), ok_of (by decide), mk_issues (by decide), ok_of (by decide), mk_issues (by decide), by decide,
    by decide, reaches_of (by decide), mk_issues (by decide), by decide, reaches_of (by decide), mk_meets (by decide),
    ⟨_, _, rfl⟩, ⟨_, _, rfl⟩, _, _, rfl⟩

/-- A store of one byte waits at the gate of core 0. -/
def op0 : Op := { who := who0, gated := true, bytes := [{ scr := false, key := 2 ^ 48 + 8, ia := 2 ^ 48 + 8, val := 7 }] }
def gated : State := { demo with cores := [(0, { ops := [(5, op0)] })] }

theorem witness_MemoryUpdates :
    (let keys := (List.range 4).map (fun i => 2 ^ 48 + i)
     keys.length = 4 ∧ keys.Nodup ∧ (∀ k, k ∈ keys → k < aperBase) ∧
     ∀ o, o ∈ (demo.core env0.gr.core).ops → o.2.of env0.who = false) ∧
    cached (2 ^ 48) = true ∧
    AMap.find (gated.core 0).ops 5 = some op0 ∧ op0.gated = true ∧
    (∀ p, p ∈ (gated.core 0).ops → p.1 < 5 → p.2.precedes op0 = false) ∧
    AMap.sorted (gated.core 0).ops = true ∧ (∀ o, o ∈ (gated.core 0).ops → o.2.applied = false) ∧
    Unapplied demo env0.gr.core ∧ lastByte op0.bytes false (2 ^ 48 + 8) = some 7 ∧
    ∃ x, AMap.find gated.teams op0.who.tid = some x :=
  ⟨⟨by decide, by decide, by decide, fun _ h => by cases h⟩, by decide, by decide, rfl, by decide, by decide, by decide,
    fun _ h => (by cases h), by decide, _, rfl⟩

/-- g7 is 0, g8 the greatest length of a range, g9 one more. -/
def grpC : Group := { grp0 with g := [(3, 0x11000), (8, 0x4000000), (9, 0x4000001)] }
def LC : MF := { L0 with data := 7, size := 0 }

theorem witness_FencesAndCaches :
    Issues demo env0 (.fence { L0 with data := 0, gb := 0, size := 0 }) ∧
    Issues demo env0 (.prf { L0 with data := 0 }) ∧ env0.badVo { L0 with data := 0 } = false ∧ Unapplied demo env0.gr.core ∧
    (let e := en team0 grpC frag
     Meets (mk team0 grpC frag) e ([.cclean LC, .cinval LC, .cflush LC, .cclean { LC with data := 9 },
       .cclean { LC with data := 8 }].map (·, false)) ∧
     (e.g 7).toNat = 0 ∧ 0x4000000 < (e.g 9).toNat ∧ (e.g 8).toNat ≠ 0 ∧ (e.g 8).toNat ≤ 0x4000000 ∧
     canonical (e.groupEa LC LC.off15) = true ∧ wraps (e.groupEa LC LC.off15).toNat (e.g 8).toNat = false) :=
  ⟨mk_issues (by decide), mk_issues (by decide), by decide, fun _ h => (by cases h),
    mk_meets (by decide), by decide, by decide, by decide, by decide, by decide, by decide⟩

/-- A store of the group to 0x11000 stands at the gate. -/
def gate0 : Op :=
  { who := who0, gated := true, bytes := [{ scr := false, key := 2 ^ 48 + 0x1000, ia := 2 ^ 48 + 0x1000, val := 5 }] }
def gatedC : State := { mk team0 grpC frag with cores := [(0, { ops := [(0, gate0)] })] }

theorem witness_FencesAndCaches_gated :
    (let e := en team0 { grpC with g := [(3, 0x11000), (8, 4)] } frag
     let s := { gatedC with teams := [(1, full team0 { grpC with g := [(3, 0x11000), (8, 4)] } frag)] }
     Meets s e ([.cclean { LC with data := 8 }, .cflush { LC with data := 8 }].map (·, false)) ∧
     AMap.sorted (s.core e.gr.core).ops = true ∧
     ∃ q b x, q ∈ s.pieces e.tm.ctx (e.groupEa { LC with data := 8 } LC.off15).toNat (e.g 8).toNat ∧
       (0, gate0) ∈ (s.core e.gr.core).ops ∧ gate0.gated = true ∧ b ∈ gate0.bytes ∧ b.scr = false ∧ q.lo ≤ b.ia ∧
       b.ia < q.hi ∧ b.key < aperBase ∧ lastByte gate0.bytes false b.key = some x ∧
       ∀ p, p ∈ (s.core e.gr.core).ops → p.2.gated = true → p ≠ (0, gate0) → lastByte p.2.bytes false b.key = none) ∧
    (let e := en team0 { grpK with g := [(3, 0x60000), (8, 4)] } fragH
     let s := { mapped with teams := [(1, full team0 { grpK with g := [(3, 0x60000), (8, 4)] } fragH)] }
     Issues s e (.cflush { LC with data := 8, scope := 1 }) ∧ (∀ o, o ∈ (s.core e.gr.core).ops → o.2.gated = false) ∧
     s.aper = [] ∧ ∃ q l, q ∈ s.pieces e.tm.ctx (e.groupEa { LC with data := 8, scope := 1 } LC.off15).toNat
       (e.g 8).toNat ∧ regionOf q.lo = .dev ∧ s.walk q.lo = some l) := by
  refine ⟨⟨meets_of (env_of rfl rfl (by decide)) rfl (by decide), by decide, _,
      ⟨false, 2 ^ 48 + 0x1000, 2 ^ 48 + 0x1000, 5, 0⟩, 5, List.mem_of_getElem? (i := 0) rfl,
      .head _, rfl, .head _, rfl, by decide, by decide, by decide, by decide, fun p hp _ hn => ?_⟩,
    issues_in rfl rfl rfl (by decide), fun _ h => (by cases h), rfl, _, _,
      List.mem_of_getElem? (i := 0) rfl, by decide, rfl⟩
  cases hp with
  | head => exact absurd rfl hn
  | tail _ h => cases h

/-! Views and engine work. -/

def viewC : View := { view0 with ctl := 0x0110 }
def viewD : View := { view1 with ctl := 0x0112 }
def viewE : View := { base := 0x41000, ctl := 0x0117, ext10 := 64, str10 := 8, scope := 1 }
/-- A view of no byte. -/
def view9 : View := { view0 with ext10 := 0 }
/-- A team with views 0 to 3 open, and two of 16 bytes and 16 halfwords. -/
def teamV : Team :=
  { team0 with
    desc := { team0.desc with views := 8 }
    views := [(0, view0), (1, view1), (2, view2), (3, view3), (4, viewC), (5, viewD), (6, viewE)] }
/-- g8 to g15 hold a record. -/
def grpV : Group :=
  { grp0 with
    g := [(2, 7), (8, 0x41000), (9, 0x0114), (10, 16), (12, 4), (16, 0x3F800000), (17, 2)]
    holds := (List.range 7).map (fun n => (n, (0, 0))) }
def demoV : State := mk teamV grpV frag
def envV : Env := en teamV grpV frag

theorem witness_ViewHolds :
    (Issues demoV envV (.wopen { X0 with w1 := 7, gp := 8 }) ∧ 7 < envV.tm.desc.views ∧
      AMap.find envV.gr.holds 7 = none ∧ AMap.find envV.tm.views 7 = none ∧
      (View.ok { base := envV.g 8, ctl := envV.g 9, ext10 := envV.g 10, ext32 := envV.g 11, str10 := envV.g 12,
                 str32 := envV.g 13, scope := 0 }) = true) ∧
    (Issues demoV envV (.wret X0) ∧ envV.held 0 = some (view0, 0, 0) ∧
      (envV.tm.cores.all (fun c => !(demoV.core c).naming who0.tid 0) && !(demoV.core envV.gr.core).naming who0.tid 0) =
        true) ∧
    Issues demoV envV (.wadv { X0 with gp := 62 }) ∧ Issues demoV envV (.wget { X0 with gp := 56 }) ∧
    Issues demoV envV (.wchk { X0 with w2 := 2, mode := 7 }) ∧ envV.held 2 = some (view2, 0, 0) :=
  ⟨⟨mk_issues (by decide), by decide, by decide, by decide, by decide⟩, ⟨mk_issues (by decide), by decide, by decide⟩,
    mk_issues (by decide), mk_issues (by decide), mk_issues (by decide), by decide⟩

def atElem (l : Nat) : Where := .scr (0x1000 + 4 * l)
/-- The whole of the views' lanes in bounds reach their elements. -/
def viewOk (s : State) (e : Env) (wr : Bool) (place : Nat → Where) (xs : List ViewLane) : Bool :=
  xs.all (fun x => !(s.core e.gr.core).meets e.who x.v wr && (match x.at_ with
    | none => true
    | some a => (s.access e.tm (elemAcc e.gr.core x.v.esize wr) a).toOption == some (place x.l) && !e.absent x.v.esize (place x.l)))

theorem viewOk_iff {s : State} {e : Env} {wr : Bool} {place : Nat → Where} {xs : List ViewLane}
    (h : viewOk s e wr place xs = true) :
    (∀ x, x ∈ xs → (s.core e.gr.core).meets e.who x.v wr = false) ∧
    (∀ x a, x ∈ xs → x.at_ = some a → s.access e.tm (elemAcc e.gr.core x.v.esize wr) a = .ok (place x.l) ∧
      e.absent x.v.esize (place x.l) = false) := by
  unfold viewOk at h
  rw [List.all_eq_true] at h
  refine ⟨fun x hx => ?_, fun x a hx ha => ?_⟩
  · have := h x hx
    rw [Bool.and_eq_true] at this
    simpa using this.1
  · have := h x hx
    rw [ha] at this
    simp only [Bool.and_eq_true, beq_iff_eq, Bool.not_eq_true'] at this
    exact ⟨ok_of this.2.1, this.2.2⟩

/-- The lanes of a view word, in bounds and out, meet the hypotheses of its statement. -/
def ViewMeets (s : State) (e : Env) (wr : Bool) (i : Instr) : Prop :=
  Issues s e i ∧ ∃ xs, viewLanesOf e i = some xs ∧
    (∀ x, x ∈ xs → (s.core e.gr.core).meets e.who x.v wr = false) ∧
    (∀ x a, x ∈ xs → x.at_ = some a → s.access e.tm (elemAcc e.gr.core x.v.esize wr) a = .ok (atElem x.l) ∧
      e.absent x.v.esize (atElem x.l) = false)

theorem viewMeets_of {tm : Team} {gr : Group} {fr : Frag} {wr : Bool} {i : Instr}
    (hi : ((en tm gr fr).canIssue && readyB (en tm gr fr) i) = true)
    (h : (match viewLanesOf (en tm gr fr) i with
      | none => false
      | some xs => viewOk (mk tm gr fr) (en tm gr fr) wr atElem xs) = true) :
    ViewMeets (mk tm gr fr) (en tm gr fr) wr i := by
  refine ⟨mk_issues hi, ?_⟩
  split at h
  · cases h
  · exact ⟨_, ‹_›, viewOk_iff h⟩

def demoVM : State := mk teamV grpV fragM
def envVM : Env := en teamV grpV fragM
def MV : VMF := { M0 with aa := 0, ab := 0, ba := 0, bb := 0 }

theorem witness_ViewAccesses :
    ViewMeets demoV envV false (.wld { X0 with vop := 4, mode := 0xFF }) ∧ envV.gr.stepOn = false ∧
    ViewMeets demoVM envVM false (.wldMelded MV) ∧ envVM.gr.stepOn = false ∧
    ViewMeets demoV envV true (.wst { X0 with vop := 4, mode := 0xFF }) ∧
    ViewMeets demoVM envVM true (.wstMelded { MV with da := 0, db := 0, ba := 4, bb := 4 }) ∧
    (∀ o, o ∈ (demoV.core envV.gr.core).ops → o.2.of envV.who = false) ∧ Unapplied demoV envV.gr.core :=
  ⟨viewMeets_of (by decide) (by decide), rfl, viewMeets_of (by decide) (by decide), rfl,
    viewMeets_of (by decide) (by decide), viewMeets_of (by decide) (by decide), fun _ h => (by cases h),
    fun _ h => (by cases h)⟩

/-- What `demoV` queues for a word, with what it read. -/
def cmdV (i : Instr) (src dst : Option (View × Word × Word)) (gs : List Word) (vs : List Lane) : Cmd :=
  { who := who0, instr := i, flag := envV.flagOf i, pc := envV.pc, cl := envV.fr.pos.cl,
    exec := if i.guard.lane then envV.active i.guard else envV.fr.exec, src := src, dst := dst, gs := gs, vs := vs }

theorem witness_CommandsQueue :
    Meets demoV envV ([.cpa { X0 with vop := 0xFF, gp := 2 }, .cpa { X0 with vop := 4, gp := 2 }, .cpw { X0 with w1 := 1 },
      .cpw { X0 with w1 := 5, w2 := 4, mode := 0x20 }, .cpg { X0 with w1 := 3, w2 := 2, vop := 4 },
      .cpx { X0 with w1 := 3, w2 := 2, vop := 4 }, .xtab { X0 with w1 := 5 }, .cpm { X0 with w2 := 2, mode := 7 },
      .eptab { X0 with w1 := 6, gp := 16 }].map (·, false)) ∧
    envV.over 4 = false ∧ envV.barOf X0 = .ok none ∧ (demoV.core 0).entries + 2 ≤ 32 ∧
    envV.held 0 = some (view0, 0, 0) ∧ envV.held 1 = some (view1, 0, 0) ∧ view0.rank = view1.rank ∧
    view1.esize * view1.count ≤ 2 ^ 20 ∧ view0.esize = view1.esize ∧
    envV.held 4 = some (viewC, 0, 0) ∧ envV.held 5 = some (viewD, 0, 0) ∧ viewC.esize = 1 ∧ viewD.esize = 2 ∧
    (let s : State := { demoV with cores := [(0, { cvt := [(0, (1, []))] })] }
     Issues s envV (.cpw { X0 with w1 := 5, w2 := 4, mode := 0x20 }) ∧
     AMap.find (s.core 0).cvt 0 = some (who0.tid, []) ∧ (s.core 0).loadsTable 0 (fun _ => true) = false) ∧
    envV.held 2 = some (view2, 0, 0) ∧ envV.held 3 = some (view3, 0, 0) ∧ 2 ≤ view2.rank ∧
    view3.ext 0 * view3.esize ≤ 4096 ∧ view2.ext 0 * view3.esize ≤ 4096 ∧ view2.esize = view3.esize ∧
    envV.active (Instr.cpg X0).guard ≠ 0 ∧ demoV.scrSpan envV.tm view9 = some (0, 0) ∧
    (en teamV grpV { frag with exec := 0 }).active (Instr.cpg X0).guard = 0 ∧
    Issues (mk teamV grpV { frag with exec := 0 }) (en teamV grpV { frag with exec := 0 })
      (.cpg { X0 with w1 := 3, w2 := 2, vop := 4 }) ∧
    (∃ t g, AMap.find demoV.teams who0.tid = some t ∧ AMap.find t.groups who0.grp = some g) ∧
    demoV.host.trcEn = false ∧ (demoV.core 0).loadsTable 0 (fun _ => true) = false ∧
    demoV.scrSpan envV.tm view2 = some (0x1000, 0x400) ∧ tokenOk 0 (envV.g 0) = true ∧
    envV.held 6 = some (viewE, 0, 0) ∧ viewE.fmt = 0x17 ∧ f32Of ((envV.g 16).setWidth 32) = .fin false 8388608 (-23) := by
  refine ⟨mk_meets (by decide), by decide, rfl, by decide, by decide, by decide, by decide, by decide, by decide,
    by decide, by decide, by decide, by decide, ⟨issues_in rfl rfl rfl (by decide), by decide, by decide⟩, by decide,
    by decide, by decide, by decide, by decide, by decide, by decide, by decide, by decide, mk_issues (by decide),
    ⟨_, _, rfl, rfl⟩, rfl, by decide, by decide, by decide, by decide, by decide, by decide⟩

theorem witness_CommandsQueue_eptab :
    (demoV.core 0).meets who0 viewE false = false ∧
    ∃ xs oob s1, State.loopElems envV.tm 0 who0 (viewE, 0, 0) ((List.range 64).map (fun n => ix2 (n : Nat) 0))
      ((demoV.begun envV).drainMeet 0 who0 viewE) = .ok (xs, oob, s1) :=
  ⟨by decide, _, _, _, rfl⟩

theorem witness_CommandsQueue_lines :
    (view1.foot = some (0x42000, 0x42040) ∧ view9.foot = none) ∧
    (∃ a w, (0x42000 : Int) ≤ (a : Nat) ∧ (a : Int) < 0x42040 ∧ demoV.window envV.tm.ctx a = some w ∧ bit w.ctl 3 = true ∧
      w.ia.toNat + (a - w.va.toNat) < envV.tm.scrBytes) ∧
    (let c := cmdV (.cpa { X0 with vop := 0xFF, gp := 2, mode := 1 }) none none [0x10000, 0x41000] []
     c.dst = none ∧ c.exec.getLsbD 0 = true ∧
       demoV.access envV.tm (cmdAcc c 4 true) (c.gs.getD 1 0) = .ok (.scr 0x1000)) :=
  ⟨by decide, ⟨0x42000, _, by decide, by decide, rfl, rfl, by decide⟩, rfl, by decide, ok_of (by decide)⟩

/-- A copy that the engine holds. -/
def cmd0 : Cmd := { who := who0, instr := .cpw { X0 with w1 := 1 }, flag := some 1, src := some (view0, 0, 0),
                    dst := some (view1, 0, 0), lines := [0x40] }
def copying : State := { demoV with cores := [(0, { cmds := [(3, cmd0)] })] }
/-- A second one, that the first holds back. -/
def copying2 : State := { demoV with cores := [(0, { cmds := [(3, cmd0), (4, cmd0)] })] }

theorem witness_CommandsEnd :
    (let m : Move := { ix := 0, src := some 0x10000, dst := some 0x11000, ns := 4, nd := 4, oob := false }
     let ks := (List.range 4).map (2 ^ 48 + ·)
     let ds := (List.range 4).map (2 ^ 48 + 0x1000 + ·)
     (∀ f, cmd0.instr = .cpw f → f.mode.getLsbD 5 = false) ∧ ks.length = m.ns ∧ ds.length = m.ns ∧ ds.Nodup ∧ ∀ k, k ∈ ks ++ ds → k < aperBase) ∧
    (AMap.find (copying.core 0).cmds 3 = some cmd0 ∧ copying.cmdHeld 0 3 cmd0 = false ∧
      (∃ t g, AMap.find copying.teams who0.tid = some t ∧ AMap.find t.groups who0.grp = some g) ∧
      cmd0.bar = none ∧ cmd0.redo = false) ∧
    (let c : Cmd := { cmd0 with instr := .cpw { X0 with mode := 0x20 } }
     let s : State := { copying with cores := [(0, { cvt := [(0, (1, []))] })] }
     c.instr = .cpw { X0 with mode := 0x20 } ∧ X0.mode.getLsbD 5 = false ∧ ({ X0 with mode := 0x20 } : XF).mode.getLsbD 5 = true ∧
     AMap.find (s.core 0).cvt 0 = some (1, []) ∧
     ([2 ^ 48 + 0x1000, 2 ^ 48 + 0x1001] : List Nat).length = 2 ∧
     ([2 ^ 48 + 0x1000, 2 ^ 48 + 0x1001] : List Nat).Nodup) ∧
    (AMap.find (copying2.core 0).cmds 4 = some cmd0 ∧ copying2.cmdHeld 0 4 cmd0 = true) :=
  ⟨⟨fun f h => by cases h; rfl, by decide, by decide, by decide, by decide⟩, ⟨rfl, by decide, ⟨_, _, rfl, rfl⟩, rfl, rfl⟩,
    ⟨rfl, by decide, by decide, by decide, by decide, by decide⟩, rfl, by decide⟩

/-- An engine that holds one command. -/
def engineOf (c : Cmd) : State := { demoV with cores := [(0, { cmds := [(3, c)] })] }
def cmdX : Cmd :=
  { cmd0 with instr := .xtab { X0 with w1 := 5 }, src := some (viewD, 0, 0), dst := none, lines := [], exec := 0xFF }
/-- Its view where no window holds it. -/
def cmdF : Cmd := { cmdX with src := some ({ viewD with base := 0x90000 }, 0, 0) }
def cmdT : Cmd := { cmdX with instr := .eptab { X0 with w1 := 6, gp := 16 } }
/-- Each of the 256 elements of the table is out of bounds, or it reaches its place. -/
def tableOk (s : State) (t : Team) (c : Cmd) (v : View × Word × Word) (place : Nat → Where) : Bool :=
  (List.range 256).all (fun k => match v.1.addr v.2 (ix2 k 0) with
    | none => true
    | some a => (s.access t (cmdAcc c 2 false) a).toOption == some (place k))

theorem witness_CommandsEnd_tables :
    (∀ c, c = cmdX ∨ c = cmdF ∨ c = cmdT →
      AMap.find ((engineOf c).core 0).cmds 3 = some c ∧ (engineOf c).cmdHeld 0 3 c = false ∧ c.src ≠ none ∧
      ∃ t g, AMap.find (engineOf c).teams c.who.tid = some t ∧ AMap.find t.groups c.who.grp = some g ∧
        c.exec &&& g.live ≠ 0) ∧
    viewD.esize = 2 ∧ viewD.addr (0, 0) (ix2 16 0) = none ∧
    (∀ (k : Nat) a, k < 256 → viewD.addr (0, 0) (ix2 k 0) = some a →
      ((engineOf cmdX).drainFor 0 cmdX).access envV.tm (cmdAcc cmdX 2 false) a = .ok (.scr (0x2000 + 4 * k))) ∧
    (∃ a m, View.addr { viewD with base := 0x90000 } (0, 0) (ix2 0 0) = some a ∧
      ((engineOf cmdF).drainFor 0 cmdF).access envV.tm (cmdAcc cmdF 2 false) a = .error m) := by
  refine ⟨fun c h => ?_, by decide, by decide, fun k a hk ha => ?_, _, _, rfl, rfl⟩
  · rcases h with rfl | rfl | rfl <;> exact ⟨rfl, by decide, by decide, _, _, rfl, rfl, by decide⟩
  · have h : tableOk ((engineOf cmdX).drainFor 0 cmdX) envV.tm cmdX (viewD, 0, 0) (fun k => .scr (0x2000 + 4 * k)) = true := by
      decide +kernel
    have := List.all_eq_true.mp h k (List.mem_range.mpr hk)
    rw [ha] at this
    exact ok_of (by simpa using this)

/-! The matrix unit and the pipes. -/

/-- Operand views of binary8 elements, 16 of each by 16. -/
def viewA : View := { base := 0x41000, ctl := 0x0205, ext10 := 0x1000000010, str10 := 0x1000000001, scope := 1 }
def viewB : View := { viewA with base := 0x41800 }
def teamX : Team := { team0 with desc := { team0.desc with views := 8 }, views := [(0, viewA), (1, viewB)] }
def grpX0 : Group := { grp0 with g := [(2, 1), (8, 0x41000), (9, 0x0803)], holds := [(0, (0, 0)), (1, (0, 0))] }
def mmlp0 : XF := { X0 with w2 := 1, gp := 2, vop := 0 }
def loop0 : Loop :=
  { who := who0, instr := .mmlp mmlp0, a := (viewA, 0, 0), b := (viewB, 0, 0), gs := [1, 0, 0, 0], steps := 1 }
def looping : State := { mk teamX grpX0 frag with cores := [(0, { loops := [(3, loop0)] })] }

theorem witness_MatrixUnit :
    (Issues demo env0 (.mmas { V0 with d := 0, a := 16, b := 20, c := 5 }) ∧ env0.badC 0 = false ∧
      env0.badIn 0 16 = false ∧ env0.badIn 0 20 = false ∧ (matFmt 5).isSome = true ∧
      (demo.core env0.gr.core).loops.any (fun l => demo.sliceOf l.2.who == env0.gr.slice) = false) ∧
    (let e := en teamX grpX0 frag
     let s := mk teamX grpX0 frag
     Issues s e (.mmlp mmlp0) ∧ mmlp0.gp.toNat ≤ 59 ∧ e.badC 0 = false ∧ e.width ≠ 64 ∧
     e.loopFormats mmlp0 (e.g 5) = false ∧
     bits (e.g 2) 63 32 = 0 ∧ e.held 0 = some (viewA, 0, 0) ∧ e.held 1 = some (viewB, 0, 0) ∧ 2 ≤ viewA.rank ∧
     s.loopWindow e viewA = none ∧ s.loopWindow e viewB = none ∧ s.unitBusy 0 0 s.fresh = false ∧
     (s.core 0).entries + 2 ≤ 32 ∧ e.fr.re = [] ∧ e.flagOf (.mmlp mmlp0) = some 1 ∧ e.width ≤ 64) ∧
    (AMap.find (looping.core 0).loops 3 = some loop0 ∧
      (∃ t, AMap.find looping.teams loop0.who.tid = some t ∧ t.desc.width ≤ 64) ∧ loop0.step < loop0.steps ∧
      (∀ k, k ∈ (looping.core 0).loops → k.1 < 3 → looping.sliceOf k.2.who ≠ looping.sliceOf loop0.who) ∧
      (looping.core 0).behind 3 loop0.who false loop0.srcs loop0.dsts = false ∧
      (∀ o, o ∈ (looping.core 0).ops → o.2.of loop0.who = false) ∧ (matFmt viewA.fmt).isSome = true ∧
      loop0.queued = false ∧ (looping.core 0).past (15 * 16) = false ∧
      Core.past { (looping.core 0) with cursoft := 0, curhard := 239 } (15 * 16) = true) := by
  refine ⟨⟨mk_issues (by decide), by decide, by decide, by decide, by decide, by decide⟩,
    ⟨mk_issues (by decide), by decide, by decide, by decide, by decide, by decide, by decide, by decide, by decide,
      by decide, by decide, by decide, by decide, rfl, by decide, by decide⟩,
    rfl, ⟨_, rfl, by decide⟩, by decide, by decide, by decide, fun _ h => (by cases h), by decide, rfl, by decide,
    by decide⟩

/-- The same loop with bias, table and destination, and the loop when its steps are done. -/
def viewO : View := { view2 with base := 0x42000, ctl := 0x0222 }
def teamO : Team := { teamX with views := teamX.views ++ [(2, viewO), (3, viewO)] }
def grpO : Group :=
  { grpX0 with g := [(2, 1), (5, 0x32003)], holds := (List.range 4).map (fun n => (n, (0, 0))) }
def epiS : State := { mk teamO grpO frag with cores := [(0, { slices := [(0, { act := some (1, []) })] })] }
def looped : State := { looping with cores := [(0, { loops := [(3, { loop0 with step := 1, flag := some 1 })] })] }

theorem witness_MatrixUnit_epilogue :
    (let e := en teamO grpO frag
     let f := { mmlp0 with mode := 1 }
     let w := e.g (f.gp.toNat + 3)
     Issues epiS e (.mmlp f) ∧ e.badC 0 = false ∧ e.loopFormats f w = false ∧ bits (e.g 2) 63 32 = 0 ∧
     e.held 0 = some (viewA, 0, 0) ∧ e.held 1 = some (viewB, 0, 0) ∧ epiS.loopWindow e viewA = none ∧
     epiS.loopWindow e viewB = none ∧ epiS.unitBusy 0 0 epiS.fresh = false ∧ w &&& 0xFFFFFFFF00F00FE8 = 0 ∧
     e.held (bits w 15 12) = some (viewO, 0, 0) ∧ bit w 0 = true ∧ e.held (bits w 19 16) = some (viewO, 0, 0) ∧
     bit w 1 = true ∧ epiS.ownTable e = true ∧ (epiS.core 0).entries + 4 ≤ 32) ∧
    (∃ l t g, AMap.find (looped.core 0).loops 3 = some l ∧ AMap.find looped.teams l.who.tid = some t ∧
      looped.grp? l.who = some g ∧ l.queued = false ∧ l.steps ≤ l.step ∧ l.epi = false ∧ t.desc.width ≤ 64 ∧
      (looped.core 0).behind 3 l.who false l.srcs l.dsts = false) := by
  refine ⟨⟨issues_in rfl rfl rfl (by decide), by decide, by decide, by decide, by decide, by decide, by decide, by decide,
    by decide, by decide, by decide, by decide, by decide, by decide, by decide, by decide⟩,
    _, _, _, rfl, rfl, rfl, rfl, by decide, by decide, by decide, by decide⟩

def bothRead : Bool :=
  match State.loopElems (full teamX grpX0 frag) 0 who0 (viewA, 0, 0) ((pairs 16 16).map (fun x => ix2 x.1 x.2))
      (looping.chargeStep 0 0 16) with
  | .error _ => false
  | .ok r =>
    match State.loopElems (full teamX grpX0 frag) 0 who0 (viewB, 0, 0) ((pairs 16 16).map (fun x => ix2 x.2 x.1)) r.2.2 with
    | .error _ => false
    | .ok _ => true

theorem witness_MatrixUnit_step :
    ∃ as o1 s1 bs o2 s2,
      State.loopElems (full teamX grpX0 frag) 0 who0 (viewA, 0, 0) ((pairs 16 16).map (fun x => ix2 x.1 x.2))
        (looping.chargeStep 0 0 16) =
        .ok (as, o1, s1) ∧
      State.loopElems (full teamX grpX0 frag) 0 who0 (viewB, 0, 0) ((pairs 16 16).map (fun x => ix2 x.2 x.1)) s1 =
        .ok (bs, o2, s2) := by
  have h : bothRead = true := by decide +kernel
  unfold bothRead at h
  split at h
  · cases h
  · rename_i r h1
    split at h
    · cases h
    · rename_i q h2
      exact ⟨r.1, r.2.1, r.2.2, q.1, q.2.1, q.2.2, h1, h2⟩

/-- The loop with an operand that no window holds, at A or at B; and it is over with its epilogue still to come. -/
def viewN : View := { viewA with base := 0x90000 }
def withLoop (l : Loop) : State := { mk teamO grpO frag with cores := [(0, { loops := [(3, l)] })] }
def loopEpi : Loop :=
  { loop0 with instr := .mmlp { mmlp0 with mode := 1 }, step := 1, dst := some (viewO, 0, 0), gs := [1, 0, 0, 0x2000, 0] }

def failsFrom (a b : View × Word × Word) : Option Bool :=
  let s0 := (withLoop { loop0 with a := a, b := b }).chargeStep 0 0 16
  match State.loopElems (full teamO grpO frag) 0 who0 a ((pairs 16 16).map (fun x => ix2 x.1 x.2)) s0 with
  | .error _ => some false
  | .ok r =>
    match State.loopElems (full teamO grpO frag) 0 who0 b ((pairs 16 16).map (fun x => ix2 x.2 x.1)) r.2.2 with
    | .error _ => some true
    | .ok _ => none

theorem witness_MatrixUnit_fault :
    (∃ m, State.loopElems (full teamO grpO frag) 0 who0 (viewN, 0, 0) ((pairs 16 16).map (fun x => ix2 x.1 x.2))
      ((withLoop { loop0 with a := (viewN, 0, 0) }).chargeStep 0 0 16) = .error m) ∧
    (∃ as o1 s1 m,
      State.loopElems (full teamO grpO frag) 0 who0 (viewA, 0, 0) ((pairs 16 16).map (fun x => ix2 x.1 x.2))
        ((withLoop { loop0 with b := (viewN, 0, 0) }).chargeStep 0 0 16) = .ok (as, o1, s1) ∧
      State.loopElems (full teamO grpO frag) 0 who0 (viewN, 0, 0) ((pairs 16 16).map (fun x => ix2 x.2 x.1)) s1 =
        .error m) ∧
    (∃ g, looping.grp? loop0.who = some g) := by
  have h1 : failsFrom (viewN, 0, 0) (viewB, 0, 0) = some false := by decide +kernel
  have h2 : failsFrom (viewA, 0, 0) (viewN, 0, 0) = some true := by decide +kernel
  refine ⟨?_, ?_, _, rfl⟩
  · unfold failsFrom at h1
    dsimp only at h1
    split at h1
    · exact ⟨_, ‹_›⟩
    · split at h1 <;> cases h1
  · unfold failsFrom at h2
    dsimp only at h2
    split at h2
    · cases h2
    · rename_i r hr
      split at h2
      · exact ⟨_, _, _, _, hr, ‹_›⟩
      · cases h2

theorem witness_MatrixUnit_cells :
    (let s := withLoop loopEpi
     AMap.find (s.core 0).loops 3 = some loopEpi ∧ (∃ t, AMap.find s.teams loopEpi.who.tid = some t) ∧
     loopEpi.queued = false ∧ loopEpi.steps ≤ loopEpi.step ∧ loopEpi.epi = true ∧ loopEpi.dst = some (viewO, 0, 0) ∧
     (∀ k, k ∈ (s.core 0).loops → k.1 < 3 → s.sliceOf k.2.who ≠ s.sliceOf loopEpi.who) ∧
     (s.core 0).behind 3 loopEpi.who false loopEpi.srcs loopEpi.dsts = false ∧
     ∀ o, o ∈ (s.core 0).ops → o.2.of loopEpi.who = false) ∧
    (let e := en teamX grpX0 { frag with re := [{ exec := 0xFF, cont := frag.pos, step := some 0 }] }
     Issues (mk teamX grpX0 e.fr) e (.mmlp mmlp0) ∧ e.fr.re.head?.bind (·.step) = some 0) ∧
    (let tab : List Word := [0, 0x3F800000]
     f32Of ((tab.getD 1 0).extractLsb' 0 32) = .fin false (8388607 + 1) (-23) ∧
     f32Of 0x7FC00000 = .nan ∧ f32Of 0x3F800000 ≠ .nan) := by
  refine ⟨⟨rfl, ⟨_, rfl⟩, rfl, by decide, rfl, rfl, by decide, by decide, fun _ h => (by cases h)⟩,
    ⟨mk_issues (by decide), rfl⟩, by decide, by decide, by decide⟩

def job0 : Job :=
  { who := who0, instr := .xunp { V0 with bg := true, b := 9 }, flag := some 1, exec := 0xFF, gs := [0x0803],
    vs := [[5, 6], [7, 8]] }
def piping : State := { demo with cores := [(0, { pipes := [(0, [job0])] })] }

theorem witness_PipeJobs :
    (let e := en teamX grpX0 frag
     let s := mk teamX grpX0 frag
     Issues s e (.xlut { V0 with bg := true, b := 8 }) ∧ e.over 5 = false ∧ e.over 1 = false ∧
     s.lutTable e (e.g 8) (e.column 1) (e.active (Instr.xlut { V0 with bg := true, b := 8 }).guard) = .ok 0x1000 ∧
     Issues s e (.xunp { V0 with a := 2, bg := true, b := 9 }) ∧ bits (e.g 9) 5 0 = 3 ∧ bits (e.g 9) 13 8 = 8 ∧
     bits (e.g 9) 7 6 = 0 ∧ bits (e.g 9) 63 14 = 0 ∧ e.over (4 + 8 - 1) = false ∧ e.over 3 = false ∧
     Issues s e (.xlz { X0 with gp := 56 })) ∧
    (AMap.get [] (piping.core 0).pipes 0 = [job0] ∧ ∃ g, piping.grp? job0.who = some g) :=
  ⟨⟨mk_issues (by decide), by decide, by decide, ok_of (by decide), mk_issues (by decide), by decide, by decide,
      by decide, by decide, by decide, by decide, mk_issues (by decide)⟩, rfl, _, rfl⟩

/-- An `xlz` job of 7 bytes, and one with g[J+7] set; a machine with a job; one whose engine works on the source. -/
def jobZ (g7 : Word) : Job :=
  { who := who0, instr := .xlz { X0 with gp := 56 }, exec := 0xFF, gs := [0x41000, 7, 0x42000, 0x100, 0, 0, 0, g7] }
def pipeOn (s : State) (j : Job) : State := s.modCore 0 (fun c => { c with pipes := [(0, [j])] })
def xz0 (s : State) : Xz :=
  { s := s, src := 0x41000, left := 7, dst := 0x42000, cap := 0x100, out := 0, lit := 0, mat := 0, known := false, off := 0,
    wrote := 0, start := true }
/-- The scratchpad at 0x41000 holds the offset 1, or its line is absent. -/
def teamOne : Team := { team0 with scr := [(0x1000, 1)] }
def teamA : Team := { team0 with absent := [(32, true)] }
def accXz (wr : Bool) : Acc := { n := 1, rd := !wr, wr := wr, noIo := true, l1 := some 0 }

theorem witness_PipeJobs_steps :
    (let s := mk teamOne grp0 frag
     let t := full teamOne grp0 frag
     AMap.find (xz0 s).s.teams (jobZ 0).who.tid = some t ∧
     s.access t (accXz false) 0x41000 = .ok (.scr 0x1000) ∧ s.access t (accXz false) 0x41001 = .ok (.scr 0x1001) ∧
     s.access t (accXz true) 0x42000 = .ok (.scr 0x2000) ∧
     AMap.get false t.absent (0x1000 / 128) = false ∧ AMap.get false t.absent (0x2000 / 128) = false ∧
     (s.load who0 0 false (.scr 0x1000) 1).1 = [1] ∧ (s.load who0 0 false (.scr 0x1001) 1).1 = [0]) ∧
    (∃ r va, demo.access (full team0 grp0 frag) (accXz false) 0x90000 = .error (r, va)) ∧
    (∃ r va, demo.access (full team0 grp0 frag) (accXz true) 0x90000 = .error (r, va)) ∧
    (let s := mk teamA grp0 frag
     let t := full teamA grp0 frag
     (∀ wr, s.access t (accXz wr) 0x41000 = .ok (.scr 0x1000)) ∧ AMap.get false t.absent (0x1000 / 128) = true) ∧
    (0xFF : Byte).toNat / 32 = 7 ∧ (0xFF : Byte).toNat % 32 = 31 := by
  refine ⟨⟨rfl, ok_of (by decide), ok_of (by decide), ok_of (by decide), by decide, by decide, by decide, by decide⟩,
    ⟨_, _, rfl⟩, ⟨_, _, rfl⟩, ⟨fun wr => ok_of (by cases wr <;> decide), by decide⟩, by decide, by decide⟩

/-! Issue and events. -/

def grpQ : Group := { grp0 with pend := [{ reg := 4, op := 0, pc := 0 }], k := [(1, 63)] }

theorem witness_IssueRules :
    (State.env { demo with cur := none } = none ∧ (encode (.nop C0)).isSome = true) ∧
    (demo.env = some env0 ∧ (env0.tested = true → demo.matches env0 (.vadd V0) = []) ∧ trapFence (.vadd V0) = false ∧
      (Instr.vadd { V0 with ty := 15 }).check = some .reservedField) ∧
    (let i : Instr := .gadd { G0 with guard := 8 }
     i.check = none ∧ i.guard.lane = false ∧ env0.groupGuard i.guard = false ∧
     trapFence (.barr { X0 with guard := 8 }) = true ∧ env0.groupGuard (Instr.barr { X0 with guard := 8 }).guard = false) ∧
    (let e := en team0 grpQ frag
     (mk team0 grpQ frag).env = some e ∧ (Instr.vadd V0).check = none ∧ e.gr.pend ≠ [] ∧
     e.gr.pend.any (fun p => (e.regs (.vadd V0)).contains p.reg) = true ∧ (Instr.vadd V0).guard.lane = true ∧
     e.gr.pend.any (fun p => (e.regs (.gld L0)).contains p.reg) = false ∧ (Instr.gld L0).check = none ∧
     e.groupGuard (Instr.gld L0).guard = true ∧ e.flagOf (.gld L0) = some 1 ∧ 63 ≤ e.gr.flag 1) ∧
    (∃ g f, demo.grp? env0.who = some g ∧ AMap.find g.frags env0.who.frag = some f ∧ env0.gr.stepOn = false ∧ f.re = []) :=
  ⟨⟨by decide, by decide⟩, ⟨demo_env, fun _ => rfl, by decide, by decide⟩, ⟨by decide, by decide, by decide, by decide,
    by decide⟩, ⟨env_of rfl rfl (by decide), by decide, by decide, by decide, by decide, by decide, by decide, by decide,
    by decide, by decide⟩, _, _, rfl, rfl, rfl, rfl⟩

/-- The predicate that guards a word is pending. -/
def grpPend : Group := { grp0 with pend := [{ reg := (guardRegs (.gadd { G0 with guard := 9 })).headD 0, op := 0, pc := 0 }] }

theorem witness_IssueRules_pending :
    (let e := en team0 grpQ frag
     e.blocked (e.regs (.vadd V0)) = true ∧ e.blocked (e.regs (.gld L0)) = false ∧
     (mk team0 grpQ frag).env = some e) ∧
    (let i : Instr := .gadd { G0 with guard := 9 }
     let e := en team0 grpPend frag
     (mk team0 grpPend frag).env = some e ∧ i.check = none ∧ trapFence i = false ∧ e.blocked (guardRegs i) = true) ∧
    env0.blocked (guardRegs (.gadd { G0 with guard := 8 })) = false :=
  ⟨⟨by decide, by decide, env_of rfl rfl (by decide)⟩, ⟨env_of rfl rfl (by decide), by decide, by decide, by decide⟩,
    by decide⟩

/-- A fragment at a header: of a plain clause, of a MELD clause, of one that waits for flag 0. -/
def fragC : Frag := { exec := 0x00FF, pos := { pc := 0x10000 } }
def headed (m : Bool) (wait : BitVec 12) : Word :=
  HF.pack { len := 4, wait := wait, seta := 1, setb := 2, meld := m, zero := 0 }
def atHeader (w : Word) (g : Group) : State := { mk team0 g fragC with mem := code (2 ^ 48) [w] }
def grpT : Group := { grp0 with thr := true, thrp := true }
def grpDue : Group := { grp0 with deferred := [{ info := { trap0 with stat := statDefer }, cl := cl0 }] }
def grpW : Group := { grp0 with k := [(0, 1)] }

theorem witness_ClauseStarts :
    (demo.env = some env0 ∧ (atHeader (headed false 0) grp0).env = some (en team0 grp0 fragC) ∧ fragC.pos.cl.left = 0 ∧
      (en team0 grp0 fragC).due = none ∧ (en team0 grp0 fragC).throttled = false ∧
      HeaderAt (atHeader (headed false 0) grp0) (en team0 grp0 fragC) 0x10000 ∧
      HeaderAt (atHeader (headed true 0) grp0) (en team0 grp0 fragC) 0x10000 ∧
      (HF.unpack (headed true 0)).meld = true ∧ (en team0 grp0 fragC).depth = (en team0 grp0 fragC).floor ∧
      (en team0 grp1L fragC).depth ≠ (en team0 grp1L fragC).floor ∧
      (atHeader (headed true 0) grp1L).env = some (en team0 grp1L fragC)) ∧
    ((atHeader (headed false 1) grpW).env = some (en team0 grpW fragC) ∧
      HeaderAt (atHeader (headed false 1) grpW) (en team0 grpW fragC) 0x10000 ∧
      (HF.unpack (headed false 1)).wait.getLsbD 0 = true ∧ (en team0 grpW fragC).gr.flag 0 ≠ 0) ∧
    ((mk team0 grpT fragC).env = some (en team0 grpT fragC) ∧ (en team0 grpT fragC).throttled = true ∧
      (en team0 grpT fragC).fr.inH = false ∧ (en team0 grpT fragC).due = none ∧
      HeaderAt (mk team0 grpT fragC) (en team0 grpT fragC) (en team0 grpT fragC).gr.evvec) ∧
    ((mk team0 grpDue fragC).env = some (en team0 grpDue fragC) ∧ (en team0 grpDue fragC).due ≠ none ∧
      HeaderAt (mk team0 grpDue fragC) (en team0 grpDue fragC) 0x10000) ∧
    (let fr : Frag := { fragC with pos := { pc := 0x10004 } }
     (mk team0 grp0 fr).env = some (en team0 grp0 fr) ∧ fr.pos.cl.left = 0 ∧ (en team0 grp0 fr).pc.toNat % 8 ≠ 0) :=
  ⟨⟨demo_env, env_of rfl rfl (by decide), rfl, by decide, by decide, ⟨by decide, _, rfl, by decide, by decide⟩,
      ⟨by decide, _, rfl, by decide, by decide⟩, by decide, by decide, by decide, env_of rfl rfl (by decide)⟩,
    ⟨env_of rfl rfl (by decide), ⟨by decide, _, rfl, by decide, by decide⟩, by decide, by decide⟩,
    ⟨env_of rfl rfl (by decide), by decide, rfl, by decide, ⟨by decide, _, rfl, by decide, by decide⟩⟩,
    ⟨env_of rfl rfl (by decide), by decide, ⟨by decide, _, rfl, by decide, by decide⟩⟩,
    env_of rfl rfl (by decide), rfl, by decide⟩

/-- A throttle is pending, and a deferred fault is due whose clause's WAIT is met, or is not. -/
def grpDueT : Group := { grpDue with thr := true, thrp := true }
def grpDueW : Group := { grpDueT with k := [(0, 1)] }

theorem witness_ClauseStarts_order :
    ((mk team0 grpDueT fragC).env = some (en team0 grpDueT fragC) ∧ fragC.pos.cl.left = 0 ∧
      HeaderAt (mk team0 grpDueT fragC) (en team0 grpDueT fragC) 0x10000 ∧
      (∀ k, k < 12 → (HF.unpack hdr).wait.getLsbD k = true → (en team0 grpDueT fragC).gr.flag k = 0) ∧
      (en team0 grpDueT fragC).throttled = true ∧ (en team0 grpDueT fragC).due ≠ none) ∧
    ((atHeader (headed false 1) grpDueW).env = some (en team0 grpDueW fragC) ∧
      HeaderAt (atHeader (headed false 1) grpDueW) (en team0 grpDueW fragC) 0x10000 ∧
      (HF.unpack (headed false 1)).wait.getLsbD 0 = true ∧ (en team0 grpDueW fragC).gr.flag 0 ≠ 0 ∧
      (en team0 grpDueW fragC).throttled = true) :=
  ⟨⟨env_of rfl rfl (by decide), rfl, ⟨by decide, _, rfl, by decide, by decide⟩, by decide, by decide, by decide⟩,
    env_of rfl rfl (by decide), ⟨by decide, _, rfl, by decide, by decide⟩, by decide, by decide, by decide⟩

/-- A budget of nothing on core 0, where a heavy word is next. -/
def grpTp : Group := { grp0 with thrp := true }
def metered : State :=
  { mk team0 grpTp frag with
    mem := code (2 ^ 48) [hdr, (encode (.mmas { V0 with d := 0, a := 16, b := 20, c := 5 })).getD 0]
    cores := [(0, { curhard := 0, cursoft := 0, sum := 1 })] }

theorem witness_MarginTimers :
    (metered.envOf who0 = some (en team0 grpTp frag) ∧ (en team0 grpTp frag).canIssue = true ∧
      (en team0 grpTp frag).gr.thrp = true ∧ metered.denied (en team0 grpTp frag) = true) ∧
    (demo.envOf who0 = some env0 ∧ env0.gr.thrp = false ∧ demo.willing env0 = true ∧ demo.denied env0 = false ∧ env0.stuck = false) ∧
    (let fr := { frag with st := .waiting }
     (mk team0 grp0 fr).envOf who0 = some (en team0 grp0 fr) ∧ (mk team0 grp0 fr).willing (en team0 grp0 fr) = false) ∧
    ((demo.core 0).quar = false ∧ (State.core { demo with cores := [(0, { quar := true })] } 0).quar = true) ∧
    AMap.sorted (demo.core 0).slices = true :=
  ⟨⟨rfl, by decide, rfl, by decide⟩, ⟨rfl, rfl, by decide, by decide, by decide⟩, ⟨rfl, by decide⟩,
    ⟨by decide, by decide⟩, by decide⟩

theorem witness_MarginTimers_denied :
    (let e := en team0 grpTp frag
     metered.envOf who0 = some e ∧ metered.willing e = true ∧ metered.denied e = true ∧ e.stuck = false) ∧
    (let fr := { frag with stall := some (.bar 0) }
     (mk team0 grpB fr).envOf who0 = some (en team0 grpB fr) ∧ (en team0 grpB fr).stuck = true) :=
  ⟨⟨rfl, by decide, by decide, by decide⟩, rfl, by decide⟩

theorem witness_TimingEvents :
    (demo.envOf who0 = some env0 ∧ env0.gr.core = 0 ∧ env0.gr.slice = 0 ∧ (∃ x, demo.nextInstr env0 = some x) ∧
      (∃ t, demo.sliceCycle 0 0 = .next t ∧ ((t.core 0).slice 0).issued = some who0) ∧ (demo.core 0).ofs = 0 ∧
      AMap.sorted (demo.core 0).slices = true ∧ (∃ h, demo.hit 0 0 who0 = some h ∧ h.squash = true) ∧
      demo.hits 0 1 who0 = []) ∧
    (let s : State := { demo with cores := [(0, { ofs := 3 })] }
     s.envOf who0 = some env0 ∧ (s.core 0).ofs ≠ 0 ∧ ∃ h, s.hit 0 0 who0 = some h) ∧
    (piping.envOf who0 = some env0 ∧ AMap.get [] (piping.core 0).pipes (pipeOf 0) = job0 :: [] ∧
      job0.who.tid = who0.tid ∧ job0.who.grp = who0.grp) ∧
    (looping.envOf who0 = some (en teamX grpX0 frag) ∧ (3, loop0) ∈ (looping.core 0).loops ∧ loop0.who.tid = who0.tid ∧
      loop0.who.grp = who0.grp ∧ (en teamX grpX0 frag).gr.core = 0 ∧ (en teamX grpX0 frag).gr.slice = 0) :=
  ⟨⟨rfl, rfl, rfl, ⟨_, rfl⟩, ⟨_, rfl, by decide⟩, by decide, by decide, ⟨_, rfl, rfl⟩, by decide⟩,
    ⟨rfl, by decide, _, rfl⟩, ⟨rfl, rfl, rfl, rfl⟩, rfl, by decide, rfl, rfl, rfl, rfl⟩

/-- The module up, with a team, and with none. -/
def upS : State := { demo with start := { phase := .running }, linkA := true }
def emptyS : State := { start := { phase := .running }, linkA := true, frames := [(0x400000, 0x1000000)] }

theorem witness_RatiosAndBins :
    emptyS.answers = true ∧ bits (0 : Word) 3 0 = 0 ∧ bits (9 : Word) 3 0 = 9 ∧ bits (8 : Word) 3 0 = 8 ∧ Config.binFreq (bits (0 : Word) 3 0) ≠ 0 ∧
    (let s : State := { emptyS with cores := [(0, { slices := [(0, { pend := true, target := 4 })] })],
                                     dies := [(0, { pend := true, req := 2 })] }
     s.answers = true ∧ ((s.core 0).slice 0).pend = true ∧ s.groupsOn 0 0 = [] ∧
     (AMap.get {} s.dies 0 : DieClk).pend = true ∧ s.resident 0 = [] ∧
     ((s.core 0).slice 1).pend = false ∧ (AMap.get {} s.dies 1 : DieClk).pend = false) ∧
    (upS.answers = true ∧ upS.groupsOn 0 0 ≠ []) ∧
    (let s : State := { upS with frames := emptyS.frames }
     FramesEnough s ∧ ∃ tm, AMap.find s.teams 1 = some tm ∧ tm.onCore 0 = true ∧
       tm.groups.any (fun g => g.2.core == 0 && g.2.slice == 0) = true ∧ tm.cores.any (fun k => k / 48 == 0) = true) ∧
    (bits (0x01010A05 : Word) 31 24 ≠ 0 ∧ (emptyS.core 0).quar = false ∧ bits (0x00010A05 : Word) 31 24 = 0 ∧
     AMap.sorted (emptyS.core 0).slices = true ∧ bit (1 : Word) 0 = true ∧
     (State.core { emptyS with cores := [(0, { quar := true })] } 0).quar = true) :=
  ⟨by decide, by decide, by decide, by decide, by decide, ⟨by decide, by decide, by decide, by decide, by decide, by decide,
    by decide⟩, ⟨by decide, by decide⟩, ⟨⟨by decide, by decide, by decide +kernel⟩, _, rfl, by decide⟩, by decide, by decide, by decide, by decide, by decide, by decide⟩

/-! Launches. -/

def recWords : List Word := [0x10200, 0x100000001, 1]
def descWords : List Word := [0x10000, 0x1020810]
/-- Queue 0 with a record in device memory and its descriptor in a vault, and queue 1 with a record of zeros. -/
def queued : State :=
  { emptyS with
    mem := [(0, 0x01), (1, 0x10), (0x1018, 0x0D), (0x101A, 0x04)] ++ code 0x40100 recWords ++ code (2 ^ 48) [hdr] ++
      code (2 ^ 48 + 0x200) descWords
    ctxs := [(0, { va := 0x10000, len := 0x10000, ia := 0x1000000000000, ctl := 7 })]
    queues := [(0, { base := 0x30100, en := true, size := 4, tail := 1 }),
               (1, { base := 0x31000, en := true, size := 4, tail := 1 })] }
def desc0 : Desc := { entry := 0x10000, width := 16, regs := 8, team := 1, prog := 1 }
def launch0 : Launch := { desc := desc0 }
def taken : State := { queued with launches := [(0, launch0)] }

theorem freeSlot_some (s : State) (c : Nat) : ∃ a, freeSlot s c [] = some a := by
  have h : (List.range 48).filter (fun n => ([] : List Team).all (fun t => t.slotOn c != n)) = List.range 48 := by
    simp
  unfold freeSlot
  simp only [h]
  exact ⟨_, if_neg (by decide)⟩

theorem halves_one {u : Team} {g : Group} (c n : Nat) (hg : u.groups = [(0, g)]) (hw : u.desc.width = 16) :
    sliceHalves [u] c n ≤ 32 := by
  have h : (u.groups.filter (fun g => g.2.core == c && g.2.slice == n)).length ≤ 1 := by
    rw [hg]; exact Nat.le_trans (List.length_filter_le _ _) (by simp)
  simp only [sliceHalves, List.foldl_cons, List.foldl_nil, hw, List.filter_cons, List.filter_nil]
  simp [List.eraseDups_cons]
  omega

/-- A team of one group finds a seat on an empty core. -/
theorem seat_some {s : State} {t : Team} {g : Group} (hp : t.desc.pair = false) (hr : s.resident 0 = [])
    (hg : t.groups = [(0, g)]) (hs : (s.core 0).slices = []) (hw : t.desc.width = 16)
    (hf : (!t.desc.spots.contains 0 ||
      !(!(s.core 0).quar && s.dieOpen 0 && decide (0 < 48) && decide (t.desc.views ≤ 32) &&
        roomFor (s.owned 0 []) (t.need ([(0, g)].filter (fun g => !g.2.ended && t.desc.half g.1 == 0)).length) && true)) = false) : ∃ x, s.seat t 0 [] = some x := by
  have hc : t.desc.coresAt 0 = [0] := by simp [Desc.coresAt, hp]
  obtain ⟨a, ha⟩ := freeSlot_some s 0
  obtain ⟨b, hb⟩ := freeSlot_some s (0 + 1)
  unfold State.seat
  simp only [hc, List.length_singleton, show List.range 1 = [0] from rfl, List.all_cons, List.all_nil, Nat.add_zero, hr,
    hg, List.filter_nil, List.map_nil, List.foldl_nil, List.length_nil]
  rw [if_neg (by simpa using hf)]
  simp only [ha, hp, Bool.false_eq_true, if_false, hb]
  simp only [Desc.half, hp, Bool.false_and, Bool.false_eq_true, if_false, List.filter_cons, beq_self_eq_true, if_true,
    List.filter_nil, List.map_cons, List.map_nil, AMap.mapVal]
  unfold seatGroups
  generalize Config.placement s.fresh 0 = k
  split
  · rename_i hx
    dsimp only at hx
    split at hx
    · rename_i hn
      rw [List.find?_eq_none] at hn
      refine absurd ?_ (hn (k % 6) (List.mem_map.mpr ⟨0, by simp, by simp⟩))
      simp only [Core.slice, hs, Bool.and_eq_true, decide_eq_true_eq]
      exact ⟨rfl, halves_one _ _ rfl hw⟩
    · cases hx
  · exact ⟨_, rfl⟩

theorem seat0 : ∃ t, taken.seat (taken.nextTeam 0 launch0) 0 [] = some t :=
  seat_some (g := groupStart launch0 0 0) rfl rfl rfl rfl rfl (by decide +kernel)

/-- A team of one group, ended or not. -/
def teamE (g : Group) : Team := { team0 with groups := [(0, g)], lid := 0 }
def lone (t : Team) : State := { emptyS with teams := [(1, t)], nextTid := 2, launches := [(0, { launch0 with started := 1 })] }

theorem fits0 : taken.placeable 0 launch0 = true := by
  unfold State.placeable
  rw [if_neg (by decide)]
  unfold State.fitsNow
  rw [List.any_eq_true]
  obtain ⟨x, hx⟩ := seat0
  refine ⟨0, List.mem_range.mpr (by decide), ?_⟩
  rw [show taken.nextTeam 0 (taken.moded launch0) = taken.nextTeam 0 launch0 from rfl, hx]
  rfl

theorem isOk_iff {ε α : Type} {x : Except ε α} (h : x.isOk = true) : ∃ a, x = .ok a := by
  cases x with
  | error => cases h
  | ok a => exact ⟨a, rfl⟩

theorem read0 : ∃ l, queued.readLaunch 0 (queued.queue 0) = .ok l := isOk_iff (by decide +kernel)

theorem witness_LaunchesAndTeams :
    (queued.takeable 2 = false ∧ queued.takeable 0 = true ∧ (∃ l, queued.readLaunch 0 (queued.queue 0) = .ok l) ∧
      queued.takeable 1 = true ∧ (∃ bs, queued.iaRead 0x31000 64 = some bs ∧ queued.iaBad 0x31000 64 = false ∧
        recOk (wordsOf bs) = false) ∧
      State.iaBad { queued with bad := [0x4013F] } 0x30100 64 = true ∧
      ∃ bs, State.iaRead { queued with bad := [0x4013F] } 0x30100 64 = some bs) ∧
    (let l := taken.moded launch0
     AMap.find taken.launches 0 = some launch0 ∧ taken.open = true ∧ taken.eligible l = true ∧ taken.away 0 = [] ∧
     taken.heldBack 0 l.prio = false ∧ taken.servedFirst 0 l = false ∧ taken.placeable 0 launch0 = true ∧
     l.desc.prog ≠ 2 ∧ ∃ t1, taken.spot l.place (taken.nextTeam 0 l) 0 = some t1) ∧
    State.reset.open = false ∧ launch0.args.length ≤ 64 ∧
    (let s := lone (teamE { grp0 with ended := true })
     (∃ tm, AMap.find s.teams 1 = some tm ∧ tm.groups.all (fun g => g.2.ended) = true ∧ s.busyTeam 1 tm = false ∧
       ∃ l, AMap.find s.launches tm.lid = some l ∧ l.ended ≠ l.total) ∧
     ∃ tm, AMap.find demo.teams 1 = some tm ∧ tm.groups.all (fun g => g.2.ended) = false) ∧
    (let s : State := { emptyS with launches := [(0, { launch0 with started := 1, ended := 1, sen := true, sadd := 1 })] }
     ∃ l, AMap.find s.launches 0 = some l ∧ l.ended = l.total) :=
  ⟨⟨by decide, by decide, read0, by decide, ⟨List.replicate 64 0, by decide, by decide, by decide⟩, by decide +kernel, _, rfl⟩,
    ⟨rfl, by decide, by decide, by decide, by decide, by decide, fits0, by decide, seat0⟩, by decide, by decide,
    ⟨⟨_, rfl, by decide, by decide, _, rfl, by decide⟩, _, rfl, by decide⟩, _, rfl, by decide⟩

/-- A concurrent launch of one team. -/
def launchC : Launch := { desc := { desc0 with prog := 2 } }
def takenC : State := { queued with launches := [(0, launchC)] }

theorem seatC : ∃ t, takenC.seat (takenC.nextTeam 0 launchC) 0 [] = some t :=
  seat_some (g := groupStart launchC 0 0) rfl rfl rfl rfl rfl (by decide +kernel)

theorem allC : ∃ u, State.startAll 0 (launchC.total + 400) (takenC.spotsFrom launchC 0) takenC = some u := by
  obtain ⟨t, ht⟩ := seatC
  obtain ⟨cs, hs⟩ : ∃ cs, takenC.spotsFrom launchC 0 = 0 :: cs := ⟨_, rfl⟩
  rw [hs, State.startAll]
  exact ⟨takenC.startTeam 0 launchC (takenC.nextIdx launchC) t, by
    rw [show AMap.find takenC.launches 0 = some launchC from rfl]
    dsimp only
    rw [if_neg (by decide), show takenC.moded launchC = launchC from rfl, ht]
    exact if_pos (by decide)⟩

theorem witness_LaunchesAndTeams_concurrent :
    (let l := takenC.moded launchC
     AMap.find takenC.launches 0 = some launchC ∧ takenC.open = true ∧ takenC.eligible l = true ∧
     takenC.away 0 = [] ∧ takenC.heldBack 0 l.prio = false ∧ takenC.servedFirst 0 l = false ∧
     takenC.placeable 0 launchC = true ∧ l.desc.prog = 2 ∧
     ∃ u, State.startAll 0 (l.total + 400) (takenC.spotsFrom l 0) takenC = some u) ∧
    (let s : State := { queued with launches := [(0, launch0)], teams := [(1, { team0 with place := none })] }
     AMap.find s.launches 0 = some launch0 ∧ s.away 0 ≠ []) := by
  obtain ⟨u, hu⟩ := allC
  have hm : takenC.moded launchC = launchC := rfl
  refine ⟨⟨rfl, by decide, by decide, by decide, by decide, by decide, ?_, rfl, ?_⟩, rfl, by decide⟩
  · unfold State.placeable
    rw [if_pos (by decide), hm, hu]
    rfl
  · rw [hm]; exact ⟨u, hu⟩

/-- A team that is being pre-empted, one that has been saved, and one whose carve is granted. -/
def stopping : State := lone { teamE grp0 with stopping := true }
def savedTeam : Team :=
  { desc := desc0, groups := [(0, { grp0 with frags := [(0, frag)] })], lid := 0, place := none, regs := 8 }
def saved : State := lone savedTeam
def carving : State := lone { teamE grp0 with granted := [{ regs := 4, scr := some 1 }, { regs := 8, scr := none }] }
/-- A team on a quarantined core, with a frame free. -/
def quarS : State := { lone (teamE grp0) with cores := [(0, { quar := true })] }

theorem seat1 : ∃ t, saved.seat savedTeam 0 [] = some t :=
  seat_some (g := { grp0 with frags := [(0, frag)] }) rfl rfl rfl rfl rfl (by decide +kernel)

theorem witness_TeamsMove :
    (∃ tm, AMap.find stopping.teams 1 = some tm ∧ tm.stopping = true ∧
      (tm.frame.filter (fun f => decide (tm.imageSize ≤ f.2))).orElse (fun _ => stopping.frameFor tm) =
        some (0x400000, 0x1000000) ∧
      stopping.busyTeam 1 tm = false ∧ (∀ c o, o ∈ (stopping.core c).ops → o.2.who.tid ≠ 1) ∧
      (∀ c p j, p ∈ (stopping.core c).pipes → j ∈ p.2 → j.who.tid ≠ 1) ∧ (∀ l, l ∈ stopping.mcast → l.2.who.tid ≠ 1) ∧
      AMap.sorted stopping.teams = true) ∧
    (∃ tm, AMap.find stopping.teams 1 = some tm ∧ tm.frame = none ∧ State.frameFor { stopping with frames := [] } tm = none) ∧
    (AMap.find saved.teams 1 = some savedTeam ∧ saved.open = true ∧ saved.mayReturn 1 savedTeam = true ∧
      (∀ l, AMap.find saved.launches savedTeam.lid = some l → saved.servedFirst savedTeam.lid l = false) ∧
      (∃ t1, saved.spot (saved.hostPlaced savedTeam) savedTeam 0 = some t1) ∧
      ∀ x, x ∈ savedTeam.groups → x.2.halfLoop = none ∧ x.2.heldWake = false ∧ x.2.hostCmds = [] ∧ ∀ f, f ∈ x.2.frags → f.2.held = none) ∧
    (∃ tm r rest, AMap.find carving.teams 1 = some tm ∧ tm.granted = r :: rest ∧ tm.place ≠ none ∧
      carving.carveRoom 1 tm = true ∧ carving.busyTeam 1 tm = false ∧ r.regs ≠ 0 ∧ (tm.carved r).using 0 ≤ tm.using 0) ∧
    State.freeFrames { emptyS with frames := [] } = [] ∧ FramesEnough quarS ∧
    (∃ tm r, AMap.find quarS.teams 1 = some tm ∧ tm.stopping = false ∧ quarS.mustLeave tm = some r) := by
  refine ⟨⟨_, rfl, rfl, by decide +kernel, by decide, fun _ _ h => (by cases h), fun _ _ _ h => (by cases h),
      fun _ h => (by cases h), by decide⟩, ⟨_, rfl, rfl, rfl⟩,
    ⟨rfl, by decide, by decide, fun l h => ?_, seat1, by decide⟩,
    ⟨_, _, _, rfl, rfl, by decide, by decide, by decide, by decide, by decide⟩, by decide,
    ⟨by decide, by decide, by decide +kernel⟩, _, 5, rfl, rfl, by decide⟩
  cases h
  decide

/-- A record waits in the hold for a ring of 16. -/
def rec8 : FRec := { words := [1, 2, 3, 4, 5, 6, 7, 8], src := none }
def ringing : State :=
  { emptyS with hold := [rec8], host := { hfqEn := true, hfqS := 4, fwprog := true } }

theorem witness_HostRegisters :
    emptyS.answers = true ∧ (emptyS.queue 63).dev = false ∧
    (((16 : Word).extractLsb' 0 32 - (emptyS.queue 63).head).toNat ≤ 2 ^ (4 : Nat)) ∧
    (ringing.answers = true ∧ ringing.hold = rec8 :: [] ∧ ringing.ringRoom = true ∧ rec8.words.length = 8) ∧
    emptyS.ringRoom = false ∧ emptyS.host.fwprog = false ∧ ringing.host.fwprog = true ∧
    (0x17FF8 % 8 = 0 ∧ 0x10000 ≤ 0x17FF8 ∧ 0x17FF8 < 0x18000) ∧
    0x50000 + 0x200 * 63 + 32 * 15 + 8 * 3 = 0x57FF8 ∧ 0x10004 % 8 ≠ 0 ∧ bits (0x2000 : Word) 14 13 = 1 ∧
    bits (0x1F1F : Word) 14 13 = 0 ∧ 2 ≤ bits (0x4000 : Word) 14 13 :=
  ⟨by decide, by decide, by decide, ⟨by decide, rfl, by decide, rfl⟩, by decide, by decide, rfl, by decide, by decide,
    by decide, by decide, by decide, by decide⟩

/-- An operation in flight; a scratchpad line that a command is to bring; a multicast line on its way. -/
def flying : State := { mk team0 { grp0 with k := [(1, 1)] } frag with cores := [(0, { ops := [(5, { who := who0, flag := some 1 })] })] }
def line0 : McLine := { core := 0, who := who0, cmd := 3, token := 0, off := 0, va := 0x40000 }
def grantee : Team := { team0 with grants := [(0, { lo := 0, len := 128, core := 0 })] }
def casting : State := { mk grantee grp0 frag with mcast := [(1, line0)] }
def castAway : State := { demo with mcast := [(1, line0)] }
/-- A deferred fault that is due at a clause boundary. -/
def def0 : Deferred := { info := { trap0 with stat := statDefer }, cl := cl0 }
def grpZ : Group := { grp0 with deferred := [def0], live := 0x00FF }
def fragHeld : Frag := { frag with held := some (trap0, frag.pos, frag.pos) }

theorem witness_Arrivals :
    (∃ g, AMap.find (flying.core 0).ops 5 = some { who := who0, flag := some 1 } ∧ flying.grp? who0 = some g) ∧
    ((∃ tm, AMap.find copying.teams 1 = some tm ∧ tm.cores = [0]) ∧ (copying.core 0).cmds = [(3, cmd0)] ∧
      cmd0.who.tid = 1 ∧ cmd0.lines.contains 0x40 = true ∧ copying.cmdHeld 0 3 cmd0 = false) ∧
    ((∃ tm, AMap.find casting.mcast 1 = some line0 ∧ AMap.find casting.teams who0.tid = some tm ∧
      tm.absentAt 0 128 = false ∧ casting.castBehind line0 = false ∧ casting.castOk line0 = true) ∧
      casting.acceptor 0 0 = some 1 ∧ (∀ o, o ∈ (casting.core 0).ops → o.2.gated = false)) ∧
    ((∃ tm, AMap.find castAway.mcast 1 = some line0 ∧ AMap.find castAway.teams who0.tid = some tm ∧
      tm.absentAt 0 128 = false ∧ castAway.castBehind line0 = false ∧ castAway.castOk line0 = true) ∧
      castAway.acceptor 0 0 = none) ∧
    State.castOk { castAway with mcast := [(1, { line0 with va := 0 })] } { line0 with va := 0 } = false ∧
    (∀ c m, m ∈ (demo.core c).cmds → m.2.lines.contains 0x40 = false) ∧ copying2.cmdHeld 0 4 cmd0 = true ∧
    (let e := en team0 grpZ fragC
     (mk team0 grpZ fragC).envOf who0 = some e ∧ e.gr.hnd = none ∧ e.gr.tvec ≠ 0 ∧ e.gr.stepOn = false ∧
     Settled (mk team0 grpZ fragC) e ∧ e.gr.loops < 3 ∧ e.due = some def0 ∧
     ∃ p, (mk team0 grpZ fragC).nextPlace e = some p) ∧
    (let e := en team0 { grpZ with k := [(0, 1)] } { fragC with pos := { pc := 0x10010 } }
     e.gr.hnd = none ∧ (mk team0 { grpZ with k := [(0, 1)] } { fragC with pos := { pc := 0x10010 } }).nextPlace e = none) ∧
    (env0.due = none ∧ env0.fr.held = none ∧ demo.envOf who0 = some env0) ∧
    (let e := en team0 grp0 fragHeld
     (mk team0 grp0 fragHeld).envOf who0 = some e ∧ e.fr.held = some (trap0, frag.pos, frag.pos) ∧ e.tm.place ≠ none ∧
     e.tm.stopping = false ∧ e.gr.ended = false ∧ e.gr.halted = false ∧ e.gr.stopped = false ∧
     Settled (mk team0 grp0 fragHeld) e) ∧
    (demo.grp? env0.who = some env0.gr ∧ env0.flagOf (.gld L0) = some 1) :=
  ⟨⟨_, rfl, rfl⟩, ⟨⟨_, rfl, rfl⟩, rfl, rfl, by decide, by decide⟩,
    ⟨⟨_, rfl, rfl, by decide, by decide, by decide⟩, by decide, fun _ h => (by cases h)⟩,
    ⟨⟨_, rfl, rfl, by decide, by decide, by decide⟩, by decide⟩, by decide, fun _ _ h => (by cases h), by decide,
    ⟨rfl, rfl, by decide, rfl, settled_mk .., by decide, by decide, _, rfl⟩, ⟨rfl, by decide⟩,
    ⟨by decide, rfl, rfl⟩, ⟨rfl, rfl, by decide, rfl, rfl, rfl, rfl, settled_mk ..⟩, rfl, by decide⟩

/-- A byte that the command's move is to read is one that ECC cannot correct. -/
def copyBad : State := { copying with teams := [(1, full { teamV with bad := [0x1000] } grpV frag)] }

theorem witness_Arrivals_moves :
    (∃ tm, AMap.find copying.teams 1 = some tm ∧
      (∃ m, m ∈ cmd0.moves ∧ (copying.moveLines tm cmd0 m).contains 0x40 = true) ∧
      (∀ m, m ∈ cmd0.moves → (copying.moveLines tm cmd0 m).contains 0x40 = true →
        ((copying.drainFor 0 cmd0).movePlan tm cmd0 m).isOk = true) ∧
      (∀ m, m ∈ cmd0.moves → (copying.moveLines tm cmd0 m).contains 0x7F = false)) ∧
    (∃ tm, AMap.find copyBad.teams 1 = some tm ∧ copyBad.cmdHeld 0 3 cmd0 = false ∧
      ∃ m, m ∈ cmd0.moves ∧ (copyBad.moveLines tm cmd0 m).contains 0x40 = true ∧
        ((copyBad.drainFor 0 cmd0).movePlan tm cmd0 m).isOk = false) :=
  ⟨⟨_, rfl, by decide, by decide, by decide⟩, _, rfl, by decide, by decide⟩

/-- The group that the host has selected, stopped; halted; with one word to undo. -/
def stoppedS (g : Group) (t : Team) : State :=
  { full t g frag |> fun x => { demo with teams := [(1, x)] } with
    start := { phase := .running }, launches := [(0, launch0)] }
def grpStop : Group := { grp0 with stopped := true }
def grpHalt : Group := { grp0 with halted := true, haltRec := some (trap0, frag.pos, frag.pos) }
def undo0 : Undo := { grp := 0, frag := 0, before := grp0, after := grp0, bytes := [] }

theorem witness_HostDebug :
    (let s := stoppedS grpStop { team0 with undo := [undo0] }
     s.answers = true ∧ (∃ w tm g, s.selected 0 = some (w, tm, g) ∧ g.stopped = true ∧ tm.undo = [] ++ [undo0] ∧
       undo0.grp = w.grp ∧ undo0.bytes = [] ∧ (∃ l, AMap.find s.launches tm.lid = some l) ∧
       bits (s.core 0).dbgvsel 7 0 < tm.regs ∧ bits (s.core 0).dbgvsel 13 8 < tm.desc.width ∧
       (s.core 0).dbgsaddr.toNat + 8 ≤ (tm.scrPart 0).2)) ∧
    (let s := stoppedS grp0 team0
     s.answers = true ∧ ∃ w tm g, s.selected 0 = some (w, tm, g) ∧ g.stopped = false ∧ g.halted = false) ∧
    (let s := stoppedS grpHalt team0
     s.answers = true ∧ ∃ w tm g e, s.selected 0 = some (w, tm, g) ∧ g.stopped = false ∧ g.halted = true ∧
       s.recordWaits w = false ∧
       State.recordWaits { s with waiting := [{ words := [], src := some w }] } w = true ∧
       g.haltRec = some (trap0, frag.pos, frag.pos) ∧ g.tvec ≠ 0 ∧ g.hnd = none ∧
       s.envOf { w with frag := g.haltKey } = some e) ∧
    (upS.answers = true ∧ (∃ tm, upS.teams.find? (fun t => t.2.lid == bits (0 : Word) 31 0 &&
      t.2.idx == bits (upS.core 0).wakeid 31 0) = some (1, tm)) ∧ ∃ g, upS.grp? who0 = some g) ∧
    (bit (upS.core 0).smp 0 = false ∧ bit (State.core { upS with cores := [(0, { smp := 1 })] } 0).smp 0 = true ∧
      upS.groupsOn 0 0 ≠ [] ∧ upS.host.trcEn = false) ∧
    (let b : Group := { grp0 with frags := [(0, frag)] }
     b.frags.map (·.1) = [0] ∧ AMap.find b.frags 0 = some frag ∧ b.splits = grp0.splits) :=
  ⟨⟨by decide, _, _, _, rfl, rfl, rfl, rfl, rfl, ⟨_, rfl⟩, by decide, by decide, by decide⟩,
    ⟨by decide, _, _, _, rfl, rfl, rfl⟩, ⟨by decide, _, _, _, _, rfl, rfl, rfl, by decide, by decide, rfl, by decide, rfl, rfl⟩,
    ⟨by decide, ⟨_, rfl⟩, _, rfl⟩, ⟨by decide, by decide, by decide, by decide⟩, by decide, rfl, rfl⟩

/-- A comparator set that stops the group at the word at 0x10008. -/
def cmpr0 : Cmpr := { ctl := 1, lo := 0x10008, hi := 0x10010 }
def watched : State := { demo with cores := [(0, { cmps := [(2, cmpr0)] })] }

theorem witness_HostDebug_waits :
    (∃ w tm g, (stoppedS { grpStop with hostCmds := [true] } team0).selected 0 = some (w, tm, g) ∧ g.stopped = true ∧
      g.hostCmds ≠ []) ∧
    (let s : State := { stoppedS grpStop team0 with cores := [(0, { loops := [(3, loop0)] })] }
     ∃ w tm g, s.selected 0 = some (w, tm, g) ∧ g.stopped = true ∧
       ∃ l, l ∈ (s.core 0).loops ∧ l.2.who.tid = w.tid ∧ l.2.who.grp = w.grp) ∧
    (watched.envOf env0.who = some env0 ∧ env0.gr.ended = false ∧ env0.tested = true ∧ (watched.core 0).cmps ≠ [] ∧
      ∃ c cause, stopOf (watched.matches env0 (.nop C0)) = some (c, cause)) ∧
    (let b : Group := { grp0 with frags := [(0, frag)] }
     let u : Undo := { undo0 with before := b, after := grpH }
     b.hnd ≠ grpH.hnd ∧ (grpH.hnd = some hnd0 ∧ undo0.after.hnd = none ∧ hnd0.frag.key = undo0.frag) ∧
     u.before.frags.map (·.1) = [0] ∧ b.floor ≤ b.meld.length) :=
  ⟨⟨_, _, _, rfl, rfl, by decide⟩, ⟨_, _, _, rfl, rfl, _, .head _, rfl, rfl⟩,
    ⟨rfl, rfl, by decide, by decide, _, _, rfl⟩, by decide, ⟨rfl, rfl, rfl⟩, by decide, by decide⟩

theorem witness_HostDebug_record :
    (let s := stoppedS grpStop { team0 with undo := [undo0] }
     ∃ w tm g, s.selected 0 = some (w, tm, g) ∧ AMap.find s.teams w.tid = some tm ∧ AMap.find tm.groups w.grp = some g ∧
       g.hostCmds = [] ∧ (∀ v, v ∈ tm.undo → v.opened = false) ∧ g.hostRec = [] ∧ g.hostVec = [] ∧ g.hostScr = [] ∧ (∀ f, f ∈ g.frags → f.1 < g.nextKey) ∧
       AMap.sorted g.hostVec = true ∧ AMap.sorted g.hostScr = true ∧
       (∀ o, o ∈ (s.core 0).ops → o.2.of w = false ∧ o.2.readBy w = false) ∧ s.flying 0 w = false) ∧
    (let s := stoppedS { grpHalt with tvec := 0 } team0
     s.answers = true ∧ ∃ w tm g, s.selected 0 = some (w, tm, g) ∧ g.stopped = false ∧ g.halted = true ∧
       (g.edited tm.desc.width).tvec = 0) ∧
    (let b : Group := { grp0 with frags := [(0, frag)] }
     let u : Undo := { undo0 with before := b, after := { b with gstat := 1, k := [(0, 1)], stepOn := true } }
     b.floor ≤ b.meld.length ∧ u.before.gstat.getLsbD 0 ≠ u.after.gstat.getLsbD 0 ∧ u.before.flag 0 ≠ u.after.flag 0 ∧
     u.before.stepOn ≠ u.after.stepOn ∧ u.before.hnd = u.after.hnd ∧ u.before.splits = u.after.splits ∧
     u.before.frags.map (·.1) = u.after.frags.map (·.1)) ∧
    (let t := { team0 with place := some { core := 5, slot := 0 } }
     t.onCore 0 = false ∧ t.onCore 5 = true) :=
  ⟨⟨_, _, _, rfl, rfl, rfl, rfl, by decide, rfl, rfl, rfl, by decide, by decide, by decide, fun _ h => (by cases h),
      by decide⟩,
    ⟨by decide, _, _, _, rfl, rfl, rfl, by decide⟩, by decide, by decide⟩

theorem witness_HostDebug_matches :
    (∀ i, i ∈ [.ld L0, .st L0, .atom L0, .acas L0, .gld L0, .gst L0, .gatom L0, .wld { X0 with vop := 4, mode := 0xFF },
        .wst { X0 with vop := 4, mode := 0xFF }, .cpa { X0 with vop := 0xFF, gp := 2 }] → envV.touches i ≠ []) ∧
    (∀ i, i ∈ [.cpw { X0 with w1 := 1 }, .cpg { X0 with w1 := 3, w2 := 2 }, .cpx { X0 with w1 := 3, w2 := 2 },
        .cpm { X0 with w2 := 2 }, .mmlp { X0 with w1 := 2, w2 := 3, gp := 2 }] → envV.engineFeet i ≠ []) ∧
    (∃ ws : Nat → Prop, ∀ f, (Instr.cpw { X0 with w1 := 1 } = .cpw f ∨ Instr.cpw { X0 with w1 := 1 } = .cpg f) →
      ∀ k, ws k ↔ k = f.w1.toNat ∨ k = f.w2.toNat) ∧
    (let c : Cmpr := { ctl := 0x80000009, lo := 0x1000, hi := 0x1004 }
     bit c.ctl 0 = true ∧ bits c.ctl 21 16 = envV.slot ∧ bit c.ctl 31 = true ∧ bits c.ctl 3 1 = 4) ∧
    (∃ w, demo.window env0.tm.ctx 0x10000 = some w ∧ bit w.ctl 3 = false) := by
  refine ⟨by decide, by decide, ⟨fun k => k = 1 ∨ k = 0, fun f h k => ?_⟩, by decide, _, rfl, rfl⟩
  rcases h with h | h <;> cases h
  rfl

theorem witness_StartAndSecurity :
    (State.reset.start.phase = .off ∧ State.reset.start.run = none ∧ emptyS.start.phase = .running ∧
      emptyS.start.phase ≠ .off ∧ emptyS.start.run = none ∧ emptyS.start.keys = some [] ∧ emptyS.start.warmFail < 3 ∧
      emptyS.start.atBusy = false ∧ emptyS.start.provBusy = false ∧ emptyS.start.served = none) ∧
    (let s : State :=
      { start := { phase := .safe, atBusy := true, provBusy := true, warmFail := 3, served := some [] } }
     s.start.phase = .safe ∧ s.start.atBusy = true ∧ s.start.served = some [] ∧ s.start.provBusy = true ∧
     3 ≤ s.start.warmFail) ∧
    (let r : StartRegs := { phase := .cold, run := some (true, none) }
     r.run = some (true, none) ∧ r.keys ≠ none ∧ (∀ k, (none : Option Nat) = some k → k ≠ 1)) ∧
    (let r : StartRegs := { phase := .warm, run := some (false, some 3), warmFail := 2 }
     r.run = some (false, some 3) ∧ r.warmFail < 3 ∧ r.warmFail = 2 ∧ r.keys ≠ none ∧
     ¬(3 = 1 ∨ 3 = 4 ∨ 3 = 6 ∨ 3 = 7 ∨ (false = true ∧ (3 = 2 ∨ 3 = 3 ∨ 3 = 5)))) ∧
    (let r : StartRegs := { phase := .warm, run := some (false, some 4), warmFail := 2 }
     (some 4).orElse (fun _ => (none : Option Nat)) = some 4 ∧ r.run = some (false, some 4)) ∧
    ({ phase := .warm, run := some (false, some 3), warmFail := 1 } : StartRegs).warmFail < 2 ∧
    ((none : Option (Bool × Option Nat)) = emptyS.start.run ∧
      ¬((some (false, some 4) : Option (Bool × Option Nat)) = none ∨
        (∃ f, (some (false, some 4) : Option (Bool × Option Nat)) = some (true, f)) ∨ 2 < 2)) ∧
    (let r : StartRegs := { phase := .cold, run := some (true, some 7), coldFail := 2 }
     r.run = some (true, some 7) ∧ 3 ≤ r.coldFail + 1) ∧
    ({ keys := none } : StartRegs).keys = none ∧
    (∃ tm g, AMap.find upS.teams 1 = some tm ∧ tm.place ≠ none ∧ AMap.find tm.groups 0 = some g) :=
  ⟨⟨rfl, rfl, rfl, by decide, rfl, rfl, by decide, rfl, rfl, rfl⟩, ⟨rfl, rfl, rfl, rfl, by decide⟩,
    ⟨rfl, by decide, fun _ h => by cases h⟩, ⟨rfl, by decide, rfl, by decide, by decide⟩, ⟨rfl, rfl⟩, by decide,
    ⟨rfl, by simp⟩,
    ⟨rfl, by decide⟩, rfl, _, _, rfl, by decide, rfl⟩

set_option maxRecDepth 100000 in
/-- The first bytes of the digest of the three bytes 61, 62, 63: the example of FIPS 180-4. -/
theorem test_sha512 : (sha512 [0x61, 0x62, 0x63]).take 4 = [0xDD, 0xAF, 0x35, 0xA1] := by decide

/-- A page of device memory is mapped at the IA 0x30000, and the module is up. -/
def mappedUp : State :=
  { emptyS with mem := [(0, 0x01), (1, 0x10), (0x1018, 0x0D), (0x101A, 0x04)], peers := [(0, 3), (2, 1)],
                linkB := false }

/-- The demo machine with a vault byte that ECC cannot correct. -/
def lost : State := { demo with bad := [2 ^ 48 + 0x1002] }
/-- The mapped machine with a byte of device memory that ECC cannot correct. -/
def lostUp : State := { mappedUp with bad := [0x40002] }

theorem witness_HostMemory :
    (mappedUp.answers = true ∧ mappedUp.linkUp false = true ∧ mappedUp.linkUp true = false ∧
      (∃ bs, mappedUp.iaRead 0x30000 8 = some bs) ∧ mappedUp.iaRead 0x40000 8 = none ∧ 0x40000 % 128 + 8 ≤ 128 ∧
      mappedUp.iaKey true 0x30000 = some 0x40000 ∧ 0x40000 < aperBase ∧ mappedUp.iaKey true 0x50000 = none) ∧
    (State.answers { start := { phase := .safe } } = false) ∧
    (mappedUp.portUp 0 = true ∧ mappedUp.portUp 1 = false ∧ bit (AMap.get 0 mappedUp.peers 2 : Word) 0 = true ∧
      bit (AMap.get 0 mappedUp.peers 1 : Word) 0 = false) ∧
    (mappedUp.move = none ∧ mappedUp.leafAt 0x30000 = some (0x1018, 0x4000D, 0x40000, 0x10000) ∧
      (0x80000 : Nat) % 0x10000 = 0 ∧ (0x80000 : Nat) ≠ 0x40000) ∧
    (let s : State := { mappedUp with move := some { ia := 0x30000, frame := 0x80000 } }
     s.move = some { ia := 0x30000, frame := 0x80000 } ∧ s.leafAt 0x30000 = some (0x1018, 0x4000D, 0x40000, 0x10000)) ∧
    (let s : State := { mappedUp with aper := [(4, { dirty := true }), (5, {})] }
     AMap.find s.aper 4 = some { dirty := true } ∧ AMap.find s.aper 5 = some {}) ∧
    (mappedUp.iaBad 0x30000 8 = false ∧ lostUp.iaBad 0x30000 8 = true ∧ (lostUp.iaRead 0x30000 8).isSome = true ∧
      mappedUp.bad = []) := by
  refine ⟨⟨by decide, rfl, rfl, ⟨_, rfl⟩, by decide, by decide, by decide, by decide, by decide⟩, by decide,
    ⟨by decide, by decide, by decide, by decide⟩, ⟨rfl, by decide, by decide, by decide⟩, ⟨rfl, by decide⟩, ⟨rfl, rfl⟩, by decide, by decide, by decide, rfl⟩

/-- An enabled format window of a byte format with wide elements f32, its packed bytes at 0x30000 and its scales at
0x31000, on the aperture from 0x100000 on. -/
def fmtW : FmtWin := { ctl := 0x1C301, pkb := 0x30000, len := 0x1000, scb := 0x31000, apb := 0x100000 }
def framed : State := { mappedUp with ctrls := (List.range 16).map (fun n => (n, { fmt := [(0, fmtW)] })) }

theorem witness_HostMemory_apertures :
    (framed.aper = [] ∧ framed.aperture 0x100000 = some fmtW ∧ fmtW.wide = true ∧
      ∃ b, b8OfCode (bits fmtW.ctl 15 8) = some b) ∧
    (let y : AperLine := { dirty := true, win := fmtW, data := 0x3F800000 }
     let s : State := { framed with aper := [(0x2000, y)] }
     AMap.find s.aper (0x100000 / 128) = some y ∧ y.dirty = true) ∧
    (let o : Op := { who := who0, gated := true, bytes := [⟨false, 0x40010, 0x30010, 5, 0⟩] }
     let s : State := { mappedUp with move := some { ia := 0x30000, frame := 0x80000 }, cores := [(0, { ops := [(3, o)] })] }
     AMap.find (s.core 0).ops 3 = some o ∧ (0x30010 : Nat) / 0x10000 = 0x30000 / 0x10000) := by
  refine ⟨⟨rfl, by decide +kernel, rfl, _, rfl⟩, ⟨rfl, rfl⟩, rfl, by decide⟩

theorem witness_DecodeEncode :
    (Instr.vadd V0).WellFormed ∧ (encode (.vadd V0)).isSome = true ∧ (Instr.vadd V0).melded = false ∧
    (Instr.vaddMelded M0).WellFormed ∧ (encode (.vaddMelded M0)).isSome = true := by decide

/-- The demo machine is about to issue in slice 0 of core 0. -/
def turning : State := { demo with agenda := [.issue 0 0] }

theorem witness_StepRuns :
    turning.agenda = .issue 0 0 :: [] ∧
    (let s1 : State := { turning with agenda := [] }
     let c := s1.cycle 0 0
     s1.issues 0 0 = true ∧ s1.entering 0 0 = none ∧ (∃ ws, s1.candidates 0 0 = who0 :: ws) ∧
     c.envOf who0 = some env0 ∧ env0.due = none ∧ env0.fr.pos.cl.left ≠ 0 ∧
     c.fetch env0 env0.pc = .ok 0x0300000000000000 ∧
     decode env0.fr.pos.cl.meld 0x0300000000000000 = .instr (.nop C0) ∧
     ∃ t, exec (.nop C0) { c with cur := some who0 } = .next t ∧ stillWaits c t who0 = false) :=
  ⟨rfl, by decide, by decide, ⟨_, rfl⟩, rfl, by decide, by decide, ok_of (by decide), by decide, _, rfl, by decide⟩

theorem witness_MemoryForm : Memory.wf State.reset.mem = true ∧ ∃ t, step turning = .next t ∧ Memory.wf turning.mem = true :=
  ⟨rfl, _, rfl, by decide⟩

/-! Words of the spec's encodings (R245 to R254, and the examples of the entries), with the instructions that they stand
for. -/

theorem test_decode_v : decode false 0x344048080800A000 = .instr (.vcmp
    { V0 with d := 0x12, a := 2, b := 2, ty := 2, bg := true }) := by decide
theorem test_decode_v_sat : decode false 0x3000140408000080 = .instr (.vadd { V0 with d := 5, sat := true }) := by decide
theorem test_decode_vred : decode false 0x2180240800004008 =
    .instr (.vred { V0 with d := 9, a := 2, b := 0, ty := 1, sub := 8 }) := by decide
theorem test_decode_vcvt : decode false 0x5000080400504000 =
    .instr (.vcvt { V0 with d := 2, b := 0, c := 0x14, ty := 1 }) := by decide
theorem test_decode_vi : decode false 0x488008046FE00000 =
    .instr (.vfmulImm { guard := 0, d := 2, a := 1, ty := 1, imm := 0x2FE00000 }) := by decide
theorem test_decode_vi_shift : decode false 0x3A00101080000002 =
    .instr (.vshlImm { guard := 0, d := 4, a := 4, ty := 2, imm := 2 }) := by decide
theorem test_decode_vi_none : decode false 0x4B40000000000000 = .bad .illegalOpc := by decide
theorem test_decode_vm : decode true 0x305000000014140C = .instr (.vsubMelded
    { ena := false, enb := true, ty2 := 0, da := 0, aa := 0, ba := 0, db := 5, ab := 5, bb := 3, cx := 0 }) := by decide
theorem test_decode_m : decode false 0x80400BFC440C0400 = .instr (.acas
    { L0 with data := 2, gb := 4, ord := 1, scope := 4, off := 0x400 }) := by decide
theorem test_decode_m_flag : decode false 0x80142C280500B000 = .instr (.atom
    { guard := 5, data := 11, vo := 10, gb := 0, size := 2, scale := 2, sg := false, ord := 0, scope := 0, fs := true,
      off := 0x3000 }) := by decide
theorem test_decode_c : decode false 0x00C0000008000101 = .instr (.brv { guard := 0, off := 8, aux := 0x101 }) := by decide
theorem test_decode_c_guard : decode false 0x02A8000000000000 = .instr (.exit { C0 with guard := 10 }) := by decide
theorem test_decode_x : decode false 0x9080C0000500010A =
    .instr (.wld { X0 with w1 := 3, vop := 5, mode := 0x10A }) := by decide
theorem test_decode_x_get : decode false 0x9140801800000000 = .instr (.wget { X0 with w1 := 2, gp := 24 }) := by decide
theorem test_decode_x_loop : decode false 0x6040042800800001 =
    .instr (.mmlp { X0 with w2 := 1, gp := 40, fs := true, mode := 1 }) := by decide
theorem test_decode_x_grant : decode false 0x9480001600000114 =
    .instr (.grant { X0 with gp := 22, mode := 0x114 }) := by decide
theorem test_decode_s : decode false 0xF1C003900000013A = .instr (.pgmap { S0 with g := 57, imm := 0x13A }) := by decide
theorem test_decode_g : decode false 0x0080000000000002 ≠ .instr (.gadd G0) ∧
    decode false 0x20C0024400000000 = .instr (.emov { G0 with d := 0, a := 9, b := 0, w := false, sub := 1 }) := by decide

/-! Terms that the checks refuse. -/

theorem test_ill_control : [.bra { C0 with aux := 1 }, .brg { C0 with aux := 16 }, .bri { C0 with off := 1 },
    .call { C0 with aux := 1 }, .calli { C0 with off := 1 }, .ret { C0 with aux := 1 }, .yield { C0 with off := 1 },
    .nop { C0 with aux := 1 }, .idle { C0 with aux := 1 }, .lnch { C0 with aux := 0x8000 }, .briv { C0 with aux := 0x4000 },
    .exit { C0 with aux := 1 }, .join { C0 with guard := 1 }, .mopen { C0 with aux := 8 }, .mclose { C0 with guard := 1 },
    .mrep { C0 with aux := 256 }].all (fun i => Instr.check i == some .reservedField) = true := by decide

theorem test_ill_group : (([.gadd, .gsub, .gmul, .gmulh, .gmad, .gdiv, .grem, .gand, .gor, .gxor, .gshl, .gshr, .gsar, .gmin,
    .gmax] : List (GF → Instr)).all (fun i => (i { G0 with sub := 1 }).check == some .reservedField) &&
    [.gmov G0, .gmovh { G0 with a := 0, w := false }, .gcmp { G0 with d := 8 }, .gsel { G0 with sub := 8 },
     .gbits { G0 with a := 0, sub := 5 }, .gplog { G0 with w := true }, .emov { G0 with sub := 4 },
     .gadd { G0 with b := 64 }].all (fun i => Instr.check i == some .reservedField)) = true := by decide

theorem test_ill_lane : (([.vadd, .vsub, .vmul, .vmulh, .vmad, .vand, .vor, .vxor, .vshl, .vshr, .vsar, .vmin, .vmax, .vabs,
    .vbits, .vbfe, .vbfi, .vcmp, .vsel, .vmov, .plog, .ballot, .vbc, .vrdl, .vred, .vshfl, .vfadd, .vfsub, .vfmul, .vfma,
    .vfmin, .vfmax, .vfcmp, .vfrcp, .vfrsq, .vfsqrt, .vfex2, .vflg2, .vfsin, .vfcos, .vfcls, .vfscl, .vfdp4, .vcvt, .vnarw,
    .vwide, .vscl, .vpack, .vunpk, .mmas, .xlut, .xunp] : List (VF → Instr)).all
      (fun i => (i { V0 with ty := 15 }).check == some .reservedField) &&
    [.vadd { V0 with bg := true, b := 64 }, .vcmp { V0 with d := 0x30 }, .vfcmp { V0 with ty := 1, d := 0x38 },
     .vfadd { V0 with ty := 1, mod := 4 }].all (fun i => Instr.check i == some .reservedField)) = true := by decide

theorem test_ill_immediate : (([.vaddImm, .vsubImm, .vmulImm, .vmulhImm, .vandImm, .vorImm, .vxorImm, .vshlImm, .vshrImm,
    .vsarImm, .vminImm, .vmaxImm, .vcmpImm, .vfaddImm, .vfsubImm, .vfmulImm, .vfminImm, .vfmaxImm, .vfcmpImm] : List (VIF → Instr)).all
      (fun i => (i { I0 with ty := 9 }).check == some .reservedField) &&
    (Instr.vmovImm I0).check == some .reservedField) = true := by decide

theorem test_ill_melded : (([.vaddMelded, .vsubMelded, .vmulMelded, .vmadMelded, .vandMelded, .vorMelded, .vxorMelded,
    .vshlMelded, .vshrMelded, .vsarMelded, .vminMelded, .vmaxMelded, .vcmpMelded, .vmovMelded, .vfaddMelded, .vfsubMelded,
    .vfmulMelded, .vfmaMelded, .vfminMelded, .vfmaxMelded, .vfcmpMelded, .ldMelded, .stMelded, .wldMelded, .wstMelded] : List (VMF → Instr)).all
      (fun i => (i { M0 with cx := 2 }).check == some .reservedField) &&
    [.vcmpMelded { M0 with db := 0x0D }, .vaddMelded { M0 with ena := false }, .vaddMelded { M0 with ena := false, enb := false },
     .vmovMelded M0].all (fun i => Instr.check i == some .reservedField)) = true := by decide

theorem test_ill_memory : (([.ld, .st, .atom, .acas, .gld, .gst, .gatom, .fence, .cclean, .cinval, .cflush, .ptsync, .prf] : List (MF → Instr)).all
      (fun i => (i { L0 with size := 6 }).check == some .reservedField) &&
    [.ld { L0 with scale := 1 }, .ld { L0 with ord := 2 }, .st { L0 with scope := 1 }, .gld { L0 with data := 64 },
     .atom { L0 with off := 0x6000 }, .prf { L0 with data := 0, fs := true }].all (fun i => Instr.check i == some .reservedField)) = true := by decide

theorem test_ill_views : (([.wopen, .wret, .wld, .wst, .wadv, .wget, .wchk, .cpa, .cpg, .cpx, .cpw, .cpm, .bini, .barr, .bwait,
    .bsync, .btest, .crv, .grant, .revk, .mmlp, .eptab, .xtab, .xlz] : List (XF → Instr)).all
      (fun i => (i { X0 with sub := 1 }).check == some .reservedField) &&
    (Instr.cpw { X0 with bar := 1 }).check == some .reservedField) = true := by decide

theorem test_ill_system : (([.trap, .trret, .tfence, .brk, .srd, .swr, .pgtk, .pgmap, .mark, .sig] : List (SF → Instr)).all
      (fun i => (i { S0 with imm := 0x80000000 }).check == some .reservedField) &&
    (Instr.srd { S0 with sys := 0x0D }).check == some .reservedField) = true := by decide

theorem test_ill_flag : [.vadd { V0 with fs := true }, .fence { L0 with data := 0, gb := 0, size := 0 },
    .cclean { L0 with data := 0, size := 0, fs := true }].map Instr.check =
    [some .flagField, none, none] := by decide

theorem test_ill_header : (HF.unpack 0xA000000000000000).ok = false ∧ (HF.unpack hdr).ok = true ∧
    (HF.unpack (hdr ||| 1)).ok = false := by decide

/-! Single steps, with the results that the rules give. -/

/-- A reading of the group after one step. -/
def after {α : Type} (s : State) (i : Instr) (f : Group → α) : Option α :=
  match exec i s with
  | .next t => (t.grp? who0).map f
  | _ => none

def rg (n : Nat) (g : Group) : Word := g.gReg false n
def at1 (g : Group) : Lane := g.vReg 4 1

theorem test_gadd : after demo (.gadd G0) (rg 5) = some 0xFFFFFFFFFFFFFFF7 := by decide
theorem test_gadd_32 : after demo (.gadd { G0 with w := false, sub := 8 }) (rg 5) = some 0x00000000FFFFFFF7 := by decide
theorem test_gsub : after demo (.gsub G0) (rg 5) = some 0xFFFFFFFFFFFFFFE9 := by decide
theorem test_gmul : after demo (.gmul G0) (rg 5) = some 0xFFFFFFFFFFFFFF90 := by decide
theorem test_gmulh : after demo (.gmulh G0) (rg 5) = some 0xFFFFFFFFFFFFFFFF := by decide
theorem test_gmulh_u : after demo (.gmulh { G0 with sub := 8 }) (rg 5) = some 6 := by decide
theorem test_gmad : after demo (.gmad G0) (rg 5) = some 0xFFFFFFFFFFFFFFD0 := by decide
theorem test_gdiv : after demo (.gdiv G0) (rg 5) = some 0xFFFFFFFFFFFFFFFE := by decide
theorem test_gdiv_zero : after demo (.gdiv { G0 with b := 9 }) (fun g => (rg 5 g, g.gstat == flDZ)) =
    some (0xFFFFFFFFFFFFFFFF, true) := by decide
theorem test_grem : after demo (.grem G0) (rg 5) = some 0xFFFFFFFFFFFFFFFE := by decide
theorem test_gand : after demo (.gand G0) (rg 5) = some 0 := by decide
theorem test_gor : after demo (.gor G0) (rg 5) = some 0xFFFFFFFFFFFFFFF7 := by decide
theorem test_gxor : after demo (.gxor { G0 with i := true, b := 0xFFFFFFFF }) (rg 5) = some 0xFFFFFFFF0000000F := by decide
theorem test_gshl : after demo (.gshl G0) (rg 5) = some 0xFFFFFFFFFFFFF800 := by decide
theorem test_gshr : after demo (.gshr G0) (rg 5) = some 0x01FFFFFFFFFFFFFF := by decide
theorem test_gsar : after demo (.gsar G0) (rg 5) = some 0xFFFFFFFFFFFFFFFF := by decide
theorem test_gmin : after demo (.gmin { G0 with sub := 8 }) (rg 5) = some 7 := by decide
theorem test_gmax : after demo (.gmax G0) (rg 5) = some 7 := by decide
theorem test_gmovh : after demo (.gmovh { G0 with a := 0 }) (rg 5) = some 0x0000000700000040 := by decide
theorem test_gcmp : after demo (.gcmp { G0 with d := 2, sub := 2 }) (fun g => g.gpReg 2) = some true := by decide
theorem test_gcmp_u : after demo (.gcmp { G0 with d := 2, sub := 10 }) (fun g => g.gpReg 2) = some false := by decide
theorem test_gsel : after demo (.gsel { G0 with sub := 2 }) (rg 5) = some 7 := by decide
theorem test_gbits_clz : after demo (.gbits { G0 with a := 0, sub := 1 }) (rg 5) = some 61 := by decide
theorem test_gplog : after demo (.gplog { G0 with d := 0, a := 1, b := 2, w := false, sub := 3 }) (fun g => g.gpReg 0) =
    some true := by decide
theorem test_emov : after demo (.emov { G0 with a := 0, b := 0, w := false }) (rg 5) = some 0xFF := by decide

theorem test_vadd : after demo (.vadd V0) at1 = some 10 := by decide
theorem test_vadd_sat : after demo (.vadd { V0 with ty := 5, sat := true, bg := true, b := 4 }) at1 = some 7 := by decide
theorem test_vsub : after demo (.vsub { V0 with a := 2, b := 1 }) at1 = some 0xFFFFFFFC := by decide
theorem test_vmul : after demo (.vmul V0) at1 = some 21 := by decide
theorem test_vmad : after demo (.vmad { V0 with c := 1 }) at1 = some 28 := by decide
theorem test_vand : after demo (.vand V0) at1 = some 3 := by decide
theorem test_vshl : after demo (.vshl { V0 with ty := 6 }) at1 = some 56 := by decide
theorem test_vsar : after demo (.vsar { V0 with bg := true, b := 2 }) at1 = some 0 := by decide
theorem test_vmin : after demo (.vmin V0) at1 = some 3 := by decide
theorem test_lane_off : after demo (.vadd { V0 with d := 1, guard := 1 }) (fun g => (g.vReg 1 0, g.vReg 1 1, g.vReg 1 8)) =
    some (0x40490FE0, 10, 0) := by decide
theorem test_guard_off : after demo (.vadd { V0 with d := 1, guard := 9 }) (fun g => (g.vReg 1 0, g.vReg 1 1)) =
    some (5, 7) := by decide
theorem test_vabs_sat : after (mk team0 { grp0 with v := [(65, 0x80000000)] } frag) (.vabs { V0 with b := 0, sat := true })
    (fun g => (at1 g, g.gstat == flSAT)) = some (0x7FFFFFFF, true) := by decide
theorem test_vbfe : after demo (.vbfe { V0 with b := 3, c := 2 }) at1 = some 0xFFFFFFFF := by decide
theorem test_vcmp : after demo (.vcmp { V0 with d := 0x22 }) (fun g => g.pReg 2) = some 2 := by decide
theorem test_vsel : after demo (.vsel { V0 with c := 1 }) at1 = some 7 := by decide
theorem test_vmov_lane : after demo (.vmov { V0 with a := 0, b := 0, sub := 1 }) at1 = some 1 := by decide
theorem test_vbc : after demo (.vbc { V0 with a := 0, bg := true }) at1 = some 7 := by decide
theorem test_vrdl : after demo (.vrdl { V0 with b := 0, c := 1, d := 5 }) (rg 5) = some 7 := by decide
theorem test_vred : after demo (.vred { V0 with b := 0, d := 5 }) (rg 5) = some 12 := by decide
theorem test_vred_min : after demo (.vred { V0 with b := 0, d := 5, sub := 4, ty := 5 }) (rg 5) = some 0 := by decide
theorem test_vshfl : after demo (.vshfl { V0 with b := 0, c := 1, sub := 3 }) at1 = some 5 := by decide
theorem test_ballot : after demo (.ballot { V0 with a := 1, b := 0, d := 5 }) (rg 5) = some 0x0F := by decide
theorem test_plog : after demo (.plog { V0 with a := 1, b := 0, d := 2, sub := 5 }) (fun g => g.pReg 2) = some 0xF0 := by decide
theorem test_vsub_imm : after demo (.vsubImm I0) at1 = some 0xFFFFFFFE := by decide
theorem test_vadd_melded : after (mk team0 { grp0 with meld := [{ region := 0x01, saved := 0xFF }] } fragM) (.vaddMelded M0)
    (fun g => (g.vReg 4 0, g.vReg 4 1, g.vReg 5 0, g.vReg 5 1)) = some (0x40490FE0, 0, 0, 10) := by decide

/-- v1 lane 1 is 1.5, v2 lane 1 is 2.5, v3 lane 1 is 4.0, v5 is a signalling NaN. -/
def flt : State :=
  mk team0 { grp0 with v := [(65, 0x3FC00000), (129, 0x40200000), (193, 0x40800000), (321, 0x7F800001)] } frag

theorem test_vfadd : after flt (.vfadd F0) at1 = some 0x40800000 := by decide
theorem test_vfsub : after flt (.vfsub F0) at1 = some 0xBF800000 := by decide
theorem test_vfmul : after flt (.vfmul F0) at1 = some 0x40700000 := by decide +kernel
theorem test_vfma : after flt (.vfma { F0 with c := 3 }) at1 = some 0x40F80000 := by decide +kernel
theorem test_vfadd_nan : after flt (.vfadd { F0 with b := 5 }) at1 = some 0x7FC00000 := by decide
theorem test_vfmin : after flt (.vfmin F0) at1 = some 0x3FC00000 := by decide
theorem test_vfcmp : after flt (.vfcmp { F0 with d := 0x12 }) (fun g => (g.pReg 2).getLsbD 1) = some true := by decide
theorem test_vfrcp : after flt (.vfrcp { F1 with a := 3 }) at1 = some 0x3E800000 := by decide +kernel
theorem test_vfrsq : after flt (.vfrsq { F1 with a := 3 }) at1 = some 0x3F000000 := by decide +kernel
theorem test_vfsqrt : after flt (.vfsqrt { F1 with a := 3 }) at1 = some 0x40000000 := by decide +kernel
theorem test_vcvt : after demo (.vcvt { V0 with b := 0, ty := 1, c := 0x14 }) at1 = some 0x40E00000 := by decide
theorem test_vcvt_back : after flt (.vcvt { V0 with a := 2, b := 0, ty := 0, c := 0x22 }) at1 = some 2 := by decide
theorem test_vpack : after demo (.vpack { V0 with ty := 4, a := 2, b := 0 }) at1 = some 3 := by decide
theorem test_vunpk : after (mk team0 { grp0 with v := [(65, 0xFFFE0007)] } frag) (.vunpk { V0 with ty := 3, b := 0 })
    (fun g => (g.vReg 4 1, g.vReg 5 1)) = some (7, 0xFFFFFFFE) := by decide

/-- Where fragment 0 stands after one step, and its `exec`. -/
def at_ (s : State) (i : Instr) : Option (Word × Nat × Word) :=
  (after s i (fun g => (AMap.find g.frags 0).map (fun f => (f.pos.pc, f.pos.cl.left, f.exec)))).join

theorem test_nop : at_ demo (.nop C0) = some (0x10010, 3, 0xFF) := by decide
theorem test_bra : at_ demo (.bra C0) = some (0x10000, 0, 0xFF) := by decide
theorem test_brg : at_ demo (.brg { C0 with aux := 9 }) = some (0x10010, 3, 0xFF) := by decide
theorem test_call : after demo (.call C0) (rg 62) = some 0x10028 := by decide
theorem test_ret : at_ demo (.ret C0) = some (0x10000, 0, 0xFF) := by decide
theorem test_bra_bad : after demo (.bra { C0 with off := 1 }) (fun g => (g.tcause, g.tpc)) = some (0x84, 0x10008) := by decide
theorem test_mopen : after demo (.mopen { C0 with aux := 1 }) (fun g => g.meld) =
    some [{ region := 0x0F, saved := 0xFF }] := by decide
theorem test_mclose : at_ (mk team0 grp1L frag) (.mclose C0) = some (0x10010, 3, 0xFF) := by decide
theorem test_mrep : at_ (mk team0 grp1L frag) (.mrep { C0 with aux := 1 }) = some (0x10000, 0, 1) := by decide
theorem test_brv : after demo (.brv brv0) (fun g => (g.frags.map (fun f => (f.2.pos.pc, f.2.exec)), g.splits.length)) =
    some ([(0x10028, 0xF0), (0x10000, 0x0F)], 1) := by decide
theorem test_exit : after demo (.exit { C0 with guard := 1 }) (fun g => g.live) = some 0xFFF0 := by decide
theorem test_trap : after demo (.trap { S0 with g := 0, imm := 5 }) (fun g => (g.tcause, g.tpc, g.tlanes)) =
    some (0x1C5, 0x10008, 0xFF) := by decide
theorem test_trret : at_ (mk team0 { grpH with hnd := some { hnd0 with tpcWritten := true }, tpc := 0x10000 } fragH)
    (.trret { S0 with g := 0 }) = some (0x10000, 0, 0xFF) := by decide
theorem test_idle : after demo (.idle C0) (fun g => g.idle) = some true := by decide

theorem test_barr : (match exec (.barr { X0 with bar := 1 }) demo with
    | .next t => (AMap.find t.teams 1).bind (fun m => (AMap.find m.bars 1).map (·.ph)) | _ => none) = some true := by decide
theorem test_btest : after (mk teamB grpB frag) (.btest { X0 with mode := 2 }) (fun g => g.gpReg 2) = some true := by decide
theorem test_srd_width : after demo (.srd { S0 with sys := 1 }) (rg 5) = some 16 := by decide
theorem test_srd_priv : after demo (.srd { S0 with sys := 0x18 }) (fun g => g.tcause) = some 0x8F := by decide
theorem test_swr : after demo (.swr { S0 with g := 2, sys := 0x11 }) (fun g => g.tarm) = some 7 := by decide
theorem test_wadv : after demoV (.wadv { X0 with gp := 2 }) (fun g => AMap.find g.holds 0) = some (some (7, 0)) := by decide
theorem test_wchk : after demoV (.wchk { X0 with w2 := 2, mode := 2 }) (fun g => g.gpReg 2) = some true := by decide

/-- Bytes of view 0, and of view 1, which lies 0x1000 on. -/
def teamD : Team := { teamV with scr := [(0x1000, 7), (0x1004, 9)] }
theorem test_wld : after (mk teamD grpV frag) (.wld { X0 with vop := 4 }) (fun g => (g.vReg 4 0, at1 g)) = some (7, 9) := by
  decide
theorem test_gld : after (mk teamD { grpV with g := [(3, 0x41004)] } frag) (.gld L0) (rg 4) = some 9 := by decide
/-- R122 order 10: for lanes the address of the byte that cannot be corrected (R123), for the group that of the access
(R287). -/
theorem test_uncorrectable : after lost (.ld L0) (fun g => (g.tcause, g.tva)) = some (0x00E, 0x11002) ∧
    after lost (.gld L0) (fun g => (g.tcause, g.tva)) = some (0x00E, 0x11000) := by decide
theorem test_copy : (match exec (.engineCommandCompletion 0 3)
      { copying with teams := [(1, full teamD { grpV with k := [(1, 1)] } frag)] } with
    | .next t => (AMap.find t.teams 1).map (fun m => (m.scrRd 0x2000, m.scrRd 0x2004, (t.grp? who0).map (·.flag 1)))
    | _ => none) = some (7, 9, some 0) := by decide +kernel
theorem test_st : (match exec (.st { L0 with data := 1 }) demo with
    | .next t => ((t.core 0).ops.map (fun o => (o.2.gated, o.2.bytes.length)), t.rd (2 ^ 48 + 0x1000))
    | _ => ([], 1)) = ([(true, 32)], 0) := by decide
theorem test_gate : (match exec (.operationCompletion 0 5) gated with | .next t => t.rd (2 ^ 48 + 8) | _ => 0) = 7 := by decide
theorem test_clause : (match exec .clauseStart (mk team0 grp0 fragC) with
    | .next t => (t.frag? who0).map (fun f => (f.pos.pc, f.pos.cl.left)) | _ => none) = some (0x10008, 4) := by decide
theorem test_qtail : (match exec (.qtailWrite 0 16) { emptyS with queues := [(0, { size := 4 })] } with
    | .next t => (t.queue 0).tail | _ => 0) = 16 := by decide
theorem test_launch_take : (match exec (.launchTake 1) queued with
    | .next t => ((t.queue 1).err, (t.queue 1).reason) | _ => (false, 0)) = (true, 1) := by decide +kernel

/-- R255, R183: a matrix step is charged 15 for each lane of the width, and is heavy. -/
theorem test_step_charge : (match exec (.mmlpStep 0 3) looping with
    | .next t => ((t.core 0).sum, ((t.core 0).slice 0).heavy) | _ => (0, false)) = (240, true) := by decide +kernel
/-- R234: an offset that the map does not list reads 0. -/
theorem test_hole : upS.bar0 0x02800000 = 0 ∧ upS.bar0 0x03FFFFF8 = 0 := by decide +kernel
/-- R103: an empty range overlaps nothing. -/
theorem test_empty_range : overlap (8, 8) (0, 16) = false ∧ overlap (8, 9) (0, 16) = true := by decide
/-- R219, R4: ones written to the count of QSTAT clear it, bit by bit. -/
theorem test_qstat : (match exec (.qstatClear 0 0x0000000300000000) { emptyS with cores := [(0, { qcount := 7 })] } with
    | .next t => (t.core 0).qcount | _ => 0) = 4 := by decide
/-- R197, R199: a written %tpc that is no multiple of 8 is a double fault, and the group halts. -/
theorem test_trret_misaligned : after (mk team0 { grpH with hnd := some { hnd0 with tpcWritten := true }, tpc := 0x10004 } fragH)
    (.trret { S0 with g := 0 }) (fun g => g.halted) = some true := by decide
/-- R103: the worked stream. -/
theorem test_xlz :
    let stream := [(0x1000, 0x42), (0x1001, 0x61), (0x1002, 0x62), (0x1003, 2), (0x1005, 0x20), (0x1006, 0x63)]
    (match exec (.pipeJobReply 0 0) (pipeOn (mk { team0 with scr := stream } grp0 frag) (jobZ 0)) with
    | .next t => some ((AMap.find t.teams 1).map (fun m => (List.range 8).map (fun i => m.scrRd (0x2000 + i))),
        (t.grp? who0).map (fun g => (List.range 7).map (fun n => g.gReg false (56 + n))))
    | _ => none) = some (some [0x61, 0x62, 0x61, 0x62, 0x61, 0x62, 0x61, 0x63],
      some [0x41007, 0, 0x42008, 0xF8, 0, 8, 0]) := by decide +kernel
/-- R88: the worked block, its codes and its scale, in a window of b8p4 with elements of 2 bytes. -/
theorem test_writeback :
    let y : AperLine := { dirty := true, win := { fmtW with ctl := 0x401 }, data := 0x3C000000BF8040403F00C0023E403F84 }
    (match exec (.apertureWriteback 0x2000) { framed with aper := [(0x2000, y)] } with
    | .next t => (List.range 9).map (fun i => t.rdIa (0x30000 + i)) ++ [t.rdIa 0x31000]
    | _ => []) = [0x70, 0x5E, 0xF8, 0x67, 0x7C, 0xF0, 0x00, 0x38, 0x00, 0x79] := by decide +kernel
/-- R77: worked code points. -/
theorem test_codes : (({ p := 3, inf := false, uns := false } : B8).decode 0xC2, ({ p := 3, inf := true, uns := false } : B8).decode 0x7F,
    ({ p := 4, inf := false, uns := false } : B8).decode 0x7F, ({ p := 5, inf := false, uns := true } : B8).decode 0x7F) =
    (.fin true 6 (-2), .inf false, .fin false 15 4, .fin false 31 (-5)) := by decide

end Sys2Proof.Tests
end

section
/-! What a fetch sees does not depend on the groups of the teams, so that the target of a transfer is the same before
and after the issue of its word. The kernel must not evaluate a page walk: a definition that matches on one is opened
under its arguments, so that the two sides are never compared by computation. -/

namespace Sys2Proof.Machine

section
variable (s : State) (w : Sel) (u : Group → Group)

@[simp] theorem State.core_modGrp (c : Nat) : (s.modGrp w u).core c = s.core c := rfl
@[simp] theorem State.ctrl_modGrp (c : Nat) : (s.modGrp w u).ctrl c = s.ctrl c := rfl
@[simp] theorem State.rd_modGrp (k : Nat) : (s.modGrp w u).rd k = s.rd k := rfl
@[simp] theorem State.window_modGrp (c a : Nat) : (s.modGrp w u).window c a = s.window c a := rfl
@[simp] theorem State.ctrlFor_modGrp (n : Nat) : (s.modGrp w u).ctrlFor n = s.ctrlFor n := rfl
@[simp] theorem State.aperture_modGrp (ia : Nat) : (s.modGrp w u).aperture ia = s.aperture ia := rfl

@[simp] theorem State.rdNat_modGrp (k n : Nat) : (s.modGrp w u).rdNat k n = s.rdNat k n := by
  simp [State.rdNat]

@[simp] theorem State.topPa_modGrp (ia : Nat) : (s.modGrp w u).topPa ia = s.topPa ia := by
  simp [State.topPa]

@[simp] theorem State.walkNow_modGrp (ia : Nat) : (s.modGrp w u).walkNow ia = s.walkNow ia := by
  conv => enter [1, 0]; delta State.walkNow
  conv => enter [2, 0]; delta State.walkNow
  simp only [State.topPa_modGrp, State.rdNat_modGrp]

@[simp] theorem State.walk_modGrp (ia : Nat) : (s.modGrp w u).walk ia = s.walk ia := by
  simp [State.walk]

@[simp] theorem State.devKey_modGrp (ia : Nat) : (s.modGrp w u).devKey ia = s.devKey ia := by
  conv => enter [1, 0]; delta State.devKey
  conv => enter [2, 0]; delta State.devKey
  simp only [State.walkNow_modGrp]

@[simp] theorem State.rdIa_modGrp (ia : Nat) : (s.modGrp w u).rdIa ia = s.rdIa ia := by
  conv => enter [1, 0]; delta State.rdIa
  conv => enter [2, 0]; delta State.rdIa
  rw [State.devKey_modGrp]
  cases s.devKey ia <;> rfl

@[simp] theorem State.rdAper_modGrp (ia : Nat) : (s.modGrp w u).rdAper ia = s.rdAper ia := by
  simp [State.rdAper, State.aperElem]

@[simp] theorem State.rdKey_modGrp (k : Nat) : (s.modGrp w u).rdKey k = s.rdKey k := by
  simp [State.rdKey]

@[simp] theorem State.devByte_modGrp (acc : Acc) (ia : Nat) : (s.modGrp w u).devByte acc ia = s.devByte acc ia := by
  simp [State.devByte, State.aperPages, State.pageByte]

@[simp] theorem State.pageKeys_modGrp (acc : Acc) (ia : Nat) (a : Word) (n i : Nat) :
    (s.modGrp w u).pageKeys acc ia a n i = s.pageKeys acc ia a n i := by
  induction n generalizing i with
  | zero => rfl
  | succ n ih => simp [State.pageKeys, ih]

@[simp] theorem State.target8_modGrp (acc : Acc) (ia : Nat) : (s.modGrp w u).target8 acc ia = s.target8 acc ia := rfl

@[simp] theorem State.target_modGrp (acc : Acc) (ia : Nat) (a : Word) :
    (s.modGrp w u).target acc ia a = s.target acc ia a := by
  simp only [State.target, State.target8_modGrp, State.pageKeys_modGrp]

@[simp] theorem State.keyBad_modGrp : (s.modGrp w u).keyBad = s.keyBad := by
  funext k
  simp [State.keyBad]

@[simp] theorem State.l1Serves_modGrp (c : Option Nat) (ia : Nat) : (s.modGrp w u).l1Serves c ia = s.l1Serves c ia := rfl

@[simp] theorem State.badByte_modGrp (t : Team) (acc : Acc) (p : Where) :
    (s.modGrp w u).badByte t acc p = s.badByte t acc p := by
  simp only [State.badByte, State.modGrp_bad, State.keyBad_modGrp, State.l1Serves_modGrp]

@[simp] theorem State.access_modGrp (t : Team) (acc : Acc) (a : Word) :
    (s.modGrp w u).access t acc a = s.access t acc a := by
  simp [State.access]

@[simp] theorem State.peek_modGrp (tid : Nat) (p : Where) (n : Nat) : (s.modGrp w u).peek tid p n = s.peek tid p n := by
  cases p with
  | mem ia keys => simp [State.peek]
  | scr o =>
    simp only [State.peek, State.modGrp, State.find_modTeam]
    by_cases h : tid = w.tid
    · cases AMap.find s.teams tid <;> simp [h, Team.scrRd, Team.modGrp]
    · simp [h]

@[simp] theorem State.fetch_modGrp (e : Env) (va : Word) : (s.modGrp w u).fetch e va = s.fetch e va := by
  simp [State.fetch, State.wordAcc]

@[simp] theorem State.checkTarget_modGrp (e : Env) (va : Word) :
    (s.modGrp w u).checkTarget e va = s.checkTarget e va := by
  simp [State.checkTarget]

end

end Sys2Proof.Machine
end

section
/-! The traps of a word that issues, and its transfers (R267). -/

namespace Sys2Proof.Machine

theorem issue_instr {s : State} {e : Env} {i : Instr} {body : Env → State → Res} {c : InstrCause}
    (h : Issues s e i) (hf : trapFence i = false) (hb : body e (s.begun e) = e.instr c (s.begun e)) :
    s.issue i body = .next (s.trapped e i (e.trapOf (.instr c))) := by
  rw [issue_of_issues h hf, hb]; rfl

theorem checkTarget_of_headerAt {s : State} {e : Env} {va : Word} (h : HeaderAt s e va) :
    ∃ w, s.checkTarget e va = .ok w := by
  obtain ⟨ha, w, hw, hh, hok⟩ := h
  exact ⟨w, by simp [State.checkTarget, ha, hw, hh, hok]⟩

theorem checkTarget_of_not_header {s : State} {e : Env} {va w : Word} (ha : va.toNat % 8 = 0)
    (hw : s.fetch e va = .ok w) (hh : isHeader w = false) :
    s.checkTarget e va = .error (e.trapOf (.instr .notHeader)) := by
  simp [State.checkTarget, ha, hw, hh]

/-- The checks see the target as it stood before the issue. -/
theorem transfer_of_headerAt {s : State} {e : Env} {va : Word} (h : HeaderAt s e va) (k : State → State) :
    e.transfer va (s.begun e) k = .go (k (s.begun e)) va := by
  obtain ⟨w, hw⟩ := checkTarget_of_headerAt h
  simp [Env.transfer, State.begun, hw]

theorem transfer_of_not_header {s : State} {e : Env} {va w : Word} (ha : va.toNat % 8 = 0)
    (hw : s.fetch e va = .ok w) (hh : isHeader w = false) (k : State → State) :
    e.transfer va (s.begun e) k = e.instr .notHeader (s.begun e) := by
  simp [Env.transfer, State.begun, Env.instr, checkTarget_of_not_header ha hw hh]

end Sys2Proof.Machine
end

section
/-! The lanes of a mask, and a register written in a list of lanes. -/

namespace Sys2Proof.Machine

/-- The number that `maskIf` sums over the lanes below `n`. -/
def maskSum (p : Nat → Bool) (n : Nat) : Nat := (List.range n).foldl (fun a l => if p l then a + 2 ^ l else a) 0

theorem maskIf_eq (p : Nat → Bool) : maskIf p = BitVec.ofNat 64 (maskSum p 64) := rfl

theorem maskSum_succ (p : Nat → Bool) (n : Nat) :
    maskSum p (n + 1) = if p n then 2 ^ n + maskSum p n else maskSum p n := by
  simp [maskSum, List.range_succ, Nat.add_comm]

theorem maskSum_lt (p : Nat → Bool) (n : Nat) : maskSum p n < 2 ^ n := by
  induction n with
  | zero => simp [maskSum]
  | succ n ih => rw [maskSum_succ, Nat.pow_succ]; split <;> omega

theorem testBit_maskSum (p : Nat → Bool) (n l : Nat) : (maskSum p n).testBit l = (decide (l < n) && p l) := by
  induction n with
  | zero => simp [maskSum]
  | succ n ih =>
    rcases Nat.lt_trichotomy l n with hl | rfl | hl
    · rw [maskSum_succ]
      split <;> simp [Nat.testBit_two_pow_add_gt hl, ih, hl, Nat.lt_succ_of_lt hl]
    · rw [maskSum_succ]
      split <;> simp [Nat.testBit_two_pow_add_eq, Nat.testBit_lt_two_pow (maskSum_lt p l), *]
    · have : maskSum p (n + 1) < 2 ^ l :=
        Nat.lt_of_lt_of_le (maskSum_lt p (n + 1)) (Nat.pow_le_pow_right (by omega) hl)
      simp [Nat.testBit_lt_two_pow this, show ¬ l < n + 1 by omega]

theorem getLsbD_maskIf (p : Nat → Bool) (l : Nat) : (maskIf p).getLsbD l = (decide (l < 64) && p l) := by
  rw [maskIf_eq, BitVec.getLsbD_ofNat, testBit_maskSum, Bool.and_self_left]

/-- A register of a list of lanes written, in the order of the list. -/
def setLanes (v : AMap Lane) (r : Nat) (x : Nat → Lane) (ls : List Nat) : AMap Lane :=
  ls.foldl (fun v l => AMap.set 0 v (64 * r + l) (x l)) v

theorem foldl_setV (g : Group) (r : Nat) (x : Nat → Lane) (ls : List Nat) :
    ls.foldl (fun g l => g.setV r l (x l)) g = { g with v := setLanes g.v r x ls } := by
  induction ls generalizing g with
  | nil => rfl
  | cons l ls ih => exact ih (g.setV r l (x l))

theorem get_setLanes (v : AMap Lane) (r : Nat) (x : Nat → Lane) (ls : List Nat) (hls : ∀ l ∈ ls, l < 64)
    (q l : Nat) (hl : l < 64) :
    AMap.get 0 (setLanes v r x ls) (64 * q + l) = if q = r ∧ l ∈ ls then x l else AMap.get 0 v (64 * q + l) := by
  induction ls generalizing v with
  | nil => simp [setLanes]
  | cons k ks ih =>
    have hk : k < 64 := hls k (List.mem_cons_self ..)
    have hkey : 64 * q + l = 64 * r + k ↔ q = r ∧ l = k := by omega
    change AMap.get 0 (setLanes (AMap.set 0 v (64 * r + k) (x k)) r x ks) (64 * q + l) = _
    rw [ih _ (fun j hj => hls j (List.mem_cons_of_mem _ hj)), AMap.get_set]
    simp only [hkey]
    by_cases hq : q = r <;> by_cases h1 : l ∈ ks <;> by_cases h2 : l = k <;> simp [hq, h1, h2]

end Sys2Proof.Machine
end

section
/-! Melded regions: `mopen`, `mclose` and `mrep`, case by case, and the statements about them. -/

namespace Sys2Proof.Machine

theorem trapOf_lanes (e : Env) (c : Cause) : (e.trapOf c).lanes = e.fr.exec := rfl

theorem Group.pReg_zero (g : Group) : g.pReg 0 = BitVec.allOnes 64 := rfl

/-- `mopen p0` opens a region of all the lanes (R53). -/
theorem and_pReg_zero (g : Group) (m : Word) : m &&& g.pReg 0 = m := by
  rw [Group.pReg_zero, BitVec.and_allOnes]

/-! `mopen` (R53). -/

section
variable {s : State} {e : Env} {f : CF}

theorem mopen_trapped_of_splits (h : Issues s e (.mopen f)) (hs : e.splits ≠ []) :
    exec (.mopen f) s = .next (s.trapped e (.mopen f) (e.trapOf (.instr .meldSplit))) :=
  issue_instr h rfl (by simp [hs])

theorem mopen_trapped_of_full (h : Issues s e (.mopen f)) (hs : e.splits = []) (hd : e.depth = 4) :
    exec (.mopen f) s = .next (s.trapped e (.mopen f) (e.trapOf (.instr .meldDepth))) :=
  issue_instr h rfl (by simp [hs, hd])

theorem mopen_pushes (h : Issues s e (.mopen f)) (hs : e.splits = []) (hd : e.depth < 4) :
    exec (.mopen f) s = .next (s.wrote e (.mopen f) (e.putMeld
      ({ region := e.fr.exec &&& e.gr.pReg (f.aux.extractLsb' 0 3).toNat, saved := e.fr.exec } :: e.meld) e.floor)) :=
  issue_done h rfl (by simp [hs, hd])

/-! `mclose` (R54). -/

theorem mclose_trapped_of_splits (h : Issues s e (.mclose f)) (hs : e.splits ≠ []) :
    exec (.mclose f) s = .next (s.trapped e (.mclose f) (e.trapOf (.instr .meldSplit))) :=
  issue_instr h rfl (by simp [hs])

theorem mclose_trapped_of_floor (h : Issues s e (.mclose f)) (hs : e.splits = []) (hd : e.depth = e.floor) :
    exec (.mclose f) s = .next (s.trapped e (.mclose f) (e.trapOf (.instr .meldDepth))) :=
  issue_instr h rfl (by simp [hs, hd])

/-- The model reads the live lanes from the group as the issue has left it, which are those of the issuer. -/
theorem mclose_pops {top : MeldLevel} {rest : List MeldLevel} (h : Issues s e (.mclose f)) (hs : e.splits = [])
    (hd : e.floor < e.depth) (hm : e.meld = top :: rest) :
    exec (.mclose f) s = .next (s.wrote e (.mclose f) (fun g =>
      (e.putMeld rest e.floor g).modFrag e.who.frag (fun fr => { fr with exec := top.saved &&& e.gr.live }))) := by
  refine issue_done h rfl ?_
  simp only [hs, hm, bne_self_eq_false, Bool.false_eq_true, Nat.not_le.mpr hd, if_false]
  exact congrArg Res.done (modGrp_congr h.env (fun _ _ => rfl))

/-! `mrep` (R55). -/

/-- The count that `mrep` leaves in a lane of register `r`. -/
def Env.countLeft (e : Env) (r l : Nat) : Lane := if e.gr.vReg r l = 0 then 0 else e.gr.vReg r l - 1

/-- The lanes of `exec` that `mrep` leaves with a count. -/
def Env.lanesLeft (e : Env) (r : Nat) : Word := maskIf (fun l => e.fr.exec.getLsbD l && e.countLeft r l != 0)

/-- The vector registers after `mrep`. -/
def Env.counts (e : Env) (r : Nat) : AMap Lane := setLanes e.gr.v r (e.countLeft r) (lanesOf e.fr.exec)

/-- What `mrep` does to its group where it does not trap. -/
def Env.countDown (e : Env) (r : Nat) (g : Group) : Group :=
  { g with v := e.counts r }.modFrag e.who.frag (fun fr => { fr with exec := e.lanesLeft r })

/-- What `mrep` does where it does not trap, as the model has it: lane after lane. -/
def Env.countLanes (e : Env) (r : Nat) (s : State) : State :=
  s.modGrp e.who (fun g => (forLanes e.fr.exec (fun l g => g.setV r l (e.countLeft r l)) g).modFrag e.who.frag
    (fun fr => { fr with exec := e.lanesLeft r }))

/-- The register of an `mrep`. -/
def countReg (f : CF) : Nat := (f.aux.extractLsb' 0 8).toNat

theorem exec_mrep (f : CF) (s : State) : exec (.mrep f) s = s.issue (.mrep f) (fun e s =>
    if e.over (countReg f) then e.instr .regRange s
    else if e.splits != [] then e.instr .meldSplit s
    else if e.depth ≤ e.floor then e.instr .meldDepth s
    else if e.lanesLeft (countReg f) = 0 then .done (e.countLanes (countReg f) s)
    else e.transfer (e.offTarget f) s (e.countLanes (countReg f))) := rfl

theorem countLeft_ne_zero (e : Env) (r l : Nat) : (e.countLeft r l != 0) = decide (2 ≤ (e.gr.vReg r l).toNat) := by
  have hdec : e.countLeft r l ≠ 0 ↔ 2 ≤ (e.gr.vReg r l).toNat := by
    unfold Env.countLeft
    split <;> bv_omega
  rw [Bool.eq_iff_iff]
  simpa using hdec

theorem getLsbD_lanesLeft (e : Env) (r l : Nat) (hl : l < 64) :
    (e.lanesLeft r).getLsbD l = (e.fr.exec.getLsbD l && decide (2 ≤ (e.gr.vReg r l).toNat)) := by
  simp only [Env.lanesLeft, getLsbD_maskIf, hl, decide_true, Bool.true_and, countLeft_ne_zero]

theorem get_counts (e : Env) (r q l : Nat) (hl : l < 64) :
    AMap.get 0 (e.counts r) (64 * q + l) =
      if q = r ∧ e.fr.exec.getLsbD l = true ∧ e.gr.vReg r l ≠ 0 then e.gr.vReg r l - 1 else e.gr.vReg q l := by
  rw [Env.counts, get_setLanes _ _ _ _ (fun k hk => (mem_lanesOf.mp hk).1) _ _ hl]
  change (if _ then _ else e.gr.vReg q l) = _
  simp only [mem_lanesOf, hl, true_and, Env.countLeft]
  by_cases hw : q = r ∧ e.fr.exec.getLsbD l = true
  · obtain ⟨rfl, hx⟩ := hw
    by_cases hv : e.gr.vReg q l = 0#32 <;> simp [hx, hv]
  · rw [if_neg hw, if_neg (fun h => hw ⟨h.1, h.2.1⟩)]

/-- Counting lane after lane writes the registers of all the lanes at once. -/
theorem countLanes_begun {i : Instr} (h : Issues s e i) (r : Nat) :
    e.countLanes r (s.begun e) = (s.begun e).modGrp e.who (e.countDown r) :=
  modGrp_congr h.env (fun _ _ => by rw [forLanes, foldl_setV]; rfl)

theorem mrep_trapped_of_over (h : Issues s e (.mrep f)) (ho : e.over (countReg f) = true) :
    exec (.mrep f) s = .next (s.trapped e (.mrep f) (e.trapOf (.instr .regRange))) := by
  rw [exec_mrep]
  exact issue_instr h rfl (by simp [ho])

theorem mrep_trapped_of_splits (h : Issues s e (.mrep f)) (ho : e.over (countReg f) = false) (hs : e.splits ≠ []) :
    exec (.mrep f) s = .next (s.trapped e (.mrep f) (e.trapOf (.instr .meldSplit))) := by
  rw [exec_mrep]
  exact issue_instr h rfl (by simp [ho, hs])

theorem mrep_trapped_of_floor (h : Issues s e (.mrep f)) (ho : e.over (countReg f) = false) (hs : e.splits = [])
    (hd : e.depth = e.floor) :
    exec (.mrep f) s = .next (s.trapped e (.mrep f) (e.trapOf (.instr .meldDepth))) := by
  rw [exec_mrep]
  exact issue_instr h rfl (by simp [ho, hs, hd])

end

section
variable {s : State} {e : Env} {f : CF} (h : Issues s e (.mrep f))
  (ho : e.over (countReg f) = false) (hs : e.splits = []) (hd : e.floor < e.depth)
include h ho hs hd

theorem mrep_continues (hm : e.lanesLeft (countReg f) = 0) :
    exec (.mrep f) s = .next (s.wrote e (.mrep f) (e.countDown (countReg f))) := by
  rw [exec_mrep]
  exact issue_done h rfl (by simp [ho, hs, Nat.not_le.mpr hd, hm, countLanes_begun h])

theorem mrep_loops (hm : e.lanesLeft (countReg f) ≠ 0) (ht : HeaderAt s e (e.offTarget f)) :
    exec (.mrep f) s = .next (((s.begun e).modGrp e.who (e.countDown (countReg f))).jumped s e (.mrep f)
      (e.offTarget f)) := by
  rw [exec_mrep]
  exact issue_go h rfl (by
    simp only [ho, hs, Nat.not_le.mpr hd, hm, bne_self_eq_false, Bool.false_eq_true, if_false, transfer_of_headerAt ht,
      countLanes_begun h])

theorem mrep_trapped_of_not_header {w : Word} (hm : e.lanesLeft (countReg f) ≠ 0)
    (ha : (e.offTarget f).toNat % 8 = 0) (hw : s.fetch e (e.offTarget f) = .ok w) (hh : isHeader w = false) :
    exec (.mrep f) s = .next (s.trapped e (.mrep f) (e.trapOf (.instr .notHeader))) := by
  rw [exec_mrep]
  exact issue_instr h rfl (by
    simp only [ho, hs, Nat.not_le.mpr hd, hm, bne_self_eq_false, Bool.false_eq_true, if_false,
      transfer_of_not_header ha hw hh])

end

/-- Settles O19: each of the rule's traps in its order, and the loop by the lanes that keep a count. -/
theorem meldRepeat : Obligations.MeldRepeat := by
  intro s e f h
  refine ⟨trapOf_lanes e, mrep_trapped_of_over h, mrep_trapped_of_splits h, mrep_trapped_of_floor h, fun ho hs hd => ?_⟩
  exact ⟨e.counts _, e.lanesLeft _, getLsbD_lanesLeft e _, get_counts e _, mrep_continues h ho hs hd,
    mrep_loops h ho hs hd, fun _ hm ha hw hh => mrep_trapped_of_not_header h ho hs hd hm ha hw hh⟩

/-- Settles O18: `mopen` and `mclose` by the split records and the depth. -/
theorem meldLevels : Obligations.MeldLevels := by
  refine ⟨fun s e f h => ?_, fun s e f h => ?_⟩
  · refine ⟨mopen_trapped_of_splits h, mopen_trapped_of_full h, mopen_pushes h, trapOf_lanes e _,
      fun g n m x => ⟨g.setP_meld n m x, g.setP_hmeld n m x⟩, fun hp => ?_⟩
    rw [hp]
    exact and_pReg_zero e.gr e.fr.exec
  · exact ⟨mclose_trapped_of_splits h, mclose_trapped_of_floor h, fun _ _ => mclose_pops h⟩

end Sys2Proof.Machine
end

section
/-! A word that issues is well formed; what it does where its whole effect is a write to one g register or to the lanes of
one predicate. -/

namespace Sys2Proof.Machine

theorem fieldsOk_of_issues {s : State} {e : Env} {i : Instr} (h : Issues s e i) : i.fieldsOk = true := by
  have hform := h.form
  unfold Instr.check at hform
  split at hform
  · cases hform
  · simpa using ‹¬(!i.fieldsOk) = true›

/-! One g register. -/

@[simp] theorem Group.raise_zero (g : Group) : g.raise 0 = g := by
  simp [Group.raise]

theorem issue_putsG {s : State} {e : Env} {i : Instr} {body : Env → State → Res} {d : Nat} {x : Word} {fl : Flags}
    (h : Issues s e i) (hf : trapFence i = false) (hb : body e (s.begun e) = e.putsG d x (s.begun e) fl) :
    s.issue i body = .next (s.wrote e i (fun g => (e.putG d x g).raise fl)) :=
  issue_done h hf hb

/-- A word that raises no flag. -/
theorem issue_putsG_silent {s : State} {e : Env} {i : Instr} {body : Env → State → Res} {d : Nat} {x : Word}
    (h : Issues s e i) (hf : trapFence i = false) (hb : body e (s.begun e) = e.putsG d x (s.begun e)) :
    s.issue i body = .next (s.wrote e i (e.putG d x)) := by
  rw [issue_putsG h hf hb]
  simp only [Group.raise_zero]

/-! One predicate. -/

/-- The predicates after a write to the lanes `m` of one of them. -/
def setMask (p : AMap Word) (n : Nat) (m x : Word) : AMap Word :=
  if n = 0 then p else AMap.set 0 p n ((AMap.get 0 p n &&& ~~~m) ||| (x &&& m))

theorem Group.setP_eq (g : Group) (n : Nat) (m x : Word) : g.setP n m x = { g with p := setMask g.p n m x } := by
  unfold Group.setP Group.pReg setMask
  split <;> rfl

theorem getLsbD_setMask (p : AMap Word) (d n : Nat) (m x : Word) (l : Nat) (hl : l < 64) :
    (AMap.get 0 (setMask p d m x) n).getLsbD l =
      if m.getLsbD l = true ∧ n = d ∧ n ≠ 0 then x.getLsbD l else (AMap.get 0 p n).getLsbD l := by
  have hbit : ((AMap.get 0 p n &&& ~~~m) ||| (x &&& m)).getLsbD l =
      if m.getLsbD l = true then x.getLsbD l else (AMap.get 0 p n).getLsbD l := by
    cases hm : m.getLsbD l <;>
      simp only [BitVec.getLsbD_or, BitVec.getLsbD_and, BitVec.getLsbD_not, hm, hl] <;> simp
  unfold setMask
  by_cases hd : d = 0
  · rw [if_pos hd, if_neg (by omega)]
  · rw [if_neg hd, AMap.get_set]
    by_cases hn : n = d
    · subst hn
      simp only [if_true, hbit, ne_eq, hd, not_false_eq_true, and_true]
    · rw [if_neg hn, if_neg (by tauto)]

/-- A word whose whole effect is a write to the lanes of one predicate. -/
theorem takesPred_of_setP {s : State} {e : Env} {i : Instr} {body : Env → State → Res} {d : Nat} {m x : Word}
    {b : Nat → Bool}
    (h : Issues s e i) (hf : trapFence i = false) (hx : exec i s = s.issue i body)
    (hb : body e (s.begun e) = .done ((s.begun e).modGrp e.who (fun g => g.setP d m x))) (hd : d < 8)
    (hbits : ∀ l, l < 64 → m.getLsbD l = true → x.getLsbD l = b l) :
    TakesPred s e i (oneArm m d) (fun _ l => b l) := by
  refine ⟨setMask e.gr.p d m x, ?_, fun n l hl => ?_⟩
  · rw [hx, issue_done h hf hb, State.wrote]
    congr 2
    exact modGrp_congr h.env (fun _ _ => Group.setP_eq _ d m x)
  · rw [getLsbD_setMask _ _ _ _ _ _ hl, oneArm, List.find?_cons]
    cases hm : m.getLsbD l with
    | false => simp
    | true => simp [Nat.mod_eq_of_lt hd, hbits l hl hm]

end Sys2Proof.Machine
end

section
/-! The tree of R85: the model's list of values, combined level by level, holds the statement's places. -/

namespace Sys2Proof.Machine

variable {α : Type} (op : α → α → α)

/-- One level of the tree, by places. -/
def levelAt (x : Nat → α) (i : Nat) : α := op (x (2 * i)) (x (2 * i + 1))

theorem treeAt_succ (k : Nat) (x : Nat → α) (i : Nat) : treeAt op (k + 1) x i = treeAt op k (levelAt op x) i := by
  induction k generalizing i with
  | zero => rfl
  | succ k ih =>
    calc treeAt op (k + 2) x i
        = op (treeAt op (k + 1) x (2 * i)) (treeAt op (k + 1) x (2 * i + 1)) := rfl
      _ = op (treeAt op k (levelAt op x) (2 * i)) (treeAt op k (levelAt op x) (2 * i + 1)) := by rw [ih, ih]

theorem treeLevel_range (n : Nat) (x : Nat → α) :
    treeLevel op ((List.range (2 * n)).map x) = (List.range n).map (levelAt op x) := by
  induction n generalizing x with
  | zero => rfl
  | succ n ih =>
    have hx : (List.range (2 * (n + 1))).map x = x 0 :: x 1 :: (List.range (2 * n)).map (fun i => x (i + 2)) := by
      simp [Nat.mul_succ, List.range_succ_eq_map]
    rw [hx, treeLevel, ih, List.range_succ_eq_map, List.map_cons, List.map_map]
    rfl

theorem tree_singleton (n : Nat) (a : α) : tree op n [a] = [a] := by
  induction n with
  | zero => rfl
  | succ n ih => exact ih

/-- Over a power of two of values, the levels leave one value: the root. -/
theorem tree_range {k n : Nat} (hk : k ≤ n) (x : Nat → α) :
    tree op n ((List.range (2 ^ k)).map x) = [treeAt op k x 0] := by
  induction k generalizing n x with
  | zero => exact tree_singleton op n (x 0)
  | succ k ih =>
    obtain ⟨n, rfl⟩ : ∃ m, n = m + 1 := ⟨n - 1, by omega⟩
    rw [tree, Nat.pow_succ', treeLevel_range, ih (by omega), treeAt_succ]

end Sys2Proof.Machine
end

section
/-! `plog`, `ballot` and `vred` (R312, R264, R328), and the statement about them. -/

namespace Sys2Proof.Machine

variable {s : State} {e : Env} {f : VF}

/-- D of `plog` names a predicate (R312). -/
theorem plog_d_lt (h : Issues s e (.plog f)) : f.d.toNat < 8 := by
  have hf := fieldsOk_of_issues h
  simp only [Instr.fieldsOk, Bool.and_eq_true, decide_eq_true_eq] at hf
  have hd : f.d < 8 := by tauto
  exact hd

/-- A mask is not empty where it holds some lane. -/
theorem ne_zero_eq_any (x : Word) : (x != 0) = (List.range 64).any (fun l => x.getLsbD l) := by
  have hz : x = 0 ↔ ∀ l < 64, x.getLsbD l = false := by
    simp [BitVec.eq_of_getLsbD_eq_iff]
  rw [Bool.eq_iff_iff, bne_iff_ne, ne_eq, hz]
  simp

/-- A mask lies within another where each of its lanes does. -/
theorem and_eq_left_eq_all (m p : Word) :
    (m &&& p == m) = (List.range 64).all (fun l => !m.getLsbD l || p.getLsbD l) := by
  have hz : m &&& p = m ↔ ∀ l < 64, m.getLsbD l = true → p.getLsbD l = true := by
    simp [BitVec.eq_of_getLsbD_eq_iff]
  rw [Bool.eq_iff_iff, beq_iff_eq, hz]
  simp [← Bool.not_eq_true, imp_iff_not_or]

theorem plog_takes (h : Issues s e (.plog f)) :
    TakesPred s e (.plog f) (oneArm (e.active (Instr.plog f).guard) f.d.toNat) (fun _ l =>
      logOp f.sub.toNat ((e.gr.pReg f.a.toNat).getLsbD l) ((e.gr.pReg f.b.toNat).getLsbD l)) :=
  takesPred_of_setP h rfl rfl rfl (plog_d_lt h) (fun l hl hm => by
    rw [getLsbD_maskIf]
    change (decide (l < 64) && ((e.active (Instr.plog f).guard).getLsbD l && _)) = _
    rw [hm, decide_eq_true hl, Bool.true_and, Bool.true_and])

theorem ballot_mask (h : Issues s e (.ballot f)) (hs : f.sub = 0) :
    exec (.ballot f) s = .next (s.wrote e (.ballot f)
      (e.putG f.d.toNat (e.active (Instr.ballot f).guard &&& e.gr.pReg f.a.toNat))) :=
  issue_putsG_silent h rfl (by simp [hs]; rfl)

theorem ballot_any (h : Issues s e (.ballot f)) (hs : f.sub = 1) :
    exec (.ballot f) s = .next (s.wrote e (.ballot f) (fun g => g.setGp f.d.toNat ((List.range 64).any (fun l =>
      (e.active (Instr.ballot f).guard).getLsbD l && (e.gr.pReg f.a.toNat).getLsbD l)))) :=
  issue_done h rfl (by
    have hs' : f.sub.toNat = 1 := by rw [hs]; rfl
    simp only [hs', ne_zero_eq_any, BitVec.getLsbD_and]
    rfl)

theorem ballot_all (h : Issues s e (.ballot f)) (hs : f.sub = 2) :
    exec (.ballot f) s = .next (s.wrote e (.ballot f) (fun g => g.setGp f.d.toNat ((List.range 64).all (fun l =>
      !(e.active (Instr.ballot f).guard).getLsbD l || (e.gr.pReg f.a.toNat).getLsbD l)))) :=
  issue_done h rfl (by
    have hs' : f.sub.toNat = 2 := by rw [hs]; rfl
    simp only [hs', and_eq_left_eq_all]
    rfl)

section
variable {k : Nat} (h : Issues s e (.vred f)) (hb : e.badOpnd f.ty.toNat (.reg f.a.toNat) = false)
  (hw : e.width = 2 ^ k) (hk : k ≤ 6)
include h hb hw hk

theorem vred_int {c : BitVec 6} (hc : f.sub = c) (hi : c.toNat < 6) {op : Nat → Nat → Nat} {one : Nat}
    (hr : redInt c.toNat f.ty.toNat = (op, one)) :
    exec (.vred f) s = .next (s.wrote e (.vred f) (e.putG f.d.toNat (BitVec.ofInt 64 ((intTy f.ty.toNat).val
      (treeAt op k (fun l => if (e.active (Instr.vred f).guard).getLsbD l then (Opnd.reg f.a.toNat).num f.ty.toNat e.gr l
        else one) 0))))) :=
  issue_putsG_silent h rfl (by
    simp only [hb, Bool.false_eq_true, if_false, hc, hi, if_true, hr, hw, tree_range op hk]
    rfl)

theorem vred_flt {c : BitVec 6} (hc : f.sub = c) (hf : 6 ≤ c.toNat) {op : Lane → Lane → Lane × Flags} {one : Lane}
    (hr : redFlt c.toNat = (op, one)) :
    let r := treeAt (fun y z => ((op y.1 z.1).1, y.2 ||| z.2 ||| (op y.1 z.1).2)) k
      (fun l => (if (e.active (Instr.vred f).guard).getLsbD l then e.gr.vReg f.a.toNat l else one, 0)) 0
    exec (.vred f) s = .next (s.wrote e (.vred f) (fun g => (e.putG f.d.toNat (r.1.setWidth 64) g).raise r.2)) :=
  issue_putsG h rfl (by
    simp only [hb, Bool.false_eq_true, if_false, hc, Nat.not_lt.mpr hf, hr, hw, tree_range _ hk]
    rfl)

end

/-- Settles O8: `plog` and `ballot` lane by lane, and `vred` by the root of its tree. -/
theorem laneVotes : Obligations.LaneVotes := by
  refine ⟨fun s e f => ⟨plog_takes, fun h => ⟨ballot_mask h, ballot_any h, ballot_all h⟩⟩,
    fun s e f k h hb hw hk => ?_⟩
  have int {c one op} := vred_int h hb hw hk (c := c) (op := op) (one := one)
  have flt {c one op} := vred_flt h hb hw hk (c := c) (op := op) (one := one)
  exact ⟨fun hc => int hc (by decide) rfl, fun hc => int hc (by decide) rfl, fun hc => int hc (by decide) rfl,
    fun hc => int hc (by decide) rfl, fun hc => int hc (by decide) rfl, fun hc => int hc (by decide) rfl,
    fun hc => flt hc (by decide) rfl, fun hc => flt hc (by decide) rfl, fun hc => flt hc (by decide) rfl⟩

end Sys2Proof.Machine
end

section
/-! The order of the exact numbers is the order of the rationals that they denote. -/

namespace Sys2Proof.Machine

/-- The number that `m * 2^e` denotes. -/
def Dy.rat (x : Dy) : ℚ := x.m * 2 ^ x.e

theorem Dy.rat_scaled (m e d : Int) (h : d ≤ e) : ((m * 2 ^ (e - d).toNat : Int) : ℚ) * 2 ^ d = m * 2 ^ e := by
  have he : (2 : ℚ) ^ e = 2 ^ (e - d).toNat * 2 ^ d := by
    rw [← zpow_natCast, Int.toNat_of_nonneg (by omega), ← zpow_add₀ two_ne_zero, sub_add_cancel]
  rw [he]
  push_cast
  ring

theorem Dy.rat_add (x y : Dy) : (x.add y).rat = x.rat + y.rat := by
  have hx := Dy.rat_scaled x.m x.e (min x.e y.e) (min_le_left ..)
  have hy := Dy.rat_scaled y.m y.e (min x.e y.e) (min_le_right ..)
  rw [Dy.rat, Dy.rat, Dy.rat, ← hx, ← hy, ← add_mul, ← Int.cast_add]
  rfl

theorem Dy.rat_sub (x y : Dy) : (x.sub y).rat = x.rat - y.rat := by
  have hn : y.neg.rat = -y.rat := by simp [Dy.rat, Dy.neg]
  rw [Dy.sub, Dy.rat_add, hn, sub_eq_add_neg]

theorem Dy.rat_pos (x : Dy) : 0 < x.rat ↔ 0 < x.m := by
  rw [Dy.rat, mul_pos_iff_of_pos_right (by positivity), Int.cast_pos]

theorem Dy.rat_nonneg (x : Dy) : 0 ≤ x.rat ↔ 0 ≤ x.m := by
  rw [Dy.rat, mul_nonneg_iff_of_pos_right (by positivity), Int.cast_nonneg_iff]

theorem Dy.le_iff (x y : Dy) : x.le y = true ↔ x.rat ≤ y.rat := by
  rw [Dy.le, decide_eq_true_eq, ← not_lt, ← Dy.rat_pos, Dy.rat_sub, sub_pos, not_lt]

theorem Dy.lt_iff (x y : Dy) : x.lt y = true ↔ x.rat < y.rat := by
  rw [Dy.lt, decide_eq_true_eq, ← not_le, ← Dy.rat_nonneg, Dy.rat_sub, sub_nonneg, not_le]

theorem Dy.le_trans {x y z : Dy} (hxy : x.le y = true) (hyz : y.le z = true) : x.le z = true := by
  rw [Dy.le_iff] at *
  exact hxy.trans hyz

end Sys2Proof.Machine
end

section
/-! The largest magnitude of some values (R81). -/

namespace Sys2Proof.Machine

/-- The magnitude of a finite value. -/
def FVal.mag : FVal → Option Dy
  | .fin _ m e => some { m := m, e := e }
  | _ => none

/-- The greater of two exact numbers, the first one where they are equal. -/
def Dy.larger (x y : Dy) : Dy := if x.lt y then y else x

theorem Dy.rat_larger (x y : Dy) : (x.larger y).rat = max x.rat y.rat := by
  unfold Dy.larger
  split
  case isTrue h => rw [max_eq_right ((Dy.lt_iff x y).mp h).le]
  case isFalse h => rw [max_eq_left (not_lt.mp (fun hl => h ((Dy.lt_iff x y).mpr hl)))]

theorem maxMag_eq (vs : List FVal) : maxMag vs = (vs.filterMap FVal.mag).foldl Dy.larger Dy.zero := by
  rw [maxMag, List.foldl_filterMap]
  congr 1
  funext a v
  cases v <;> rfl

theorem larger_fold_mem (xs : List Dy) (a : Dy) : xs.foldl Dy.larger a = a ∨ xs.foldl Dy.larger a ∈ xs := by
  induction xs generalizing a with
  | nil => exact .inl rfl
  | cons x xs ih =>
    rw [List.foldl_cons]
    rcases ih (a.larger x) with h | h
    · rw [h, Dy.larger]
      split
      · exact .inr (List.mem_cons_self ..)
      · exact .inl rfl
    · exact .inr (List.mem_cons_of_mem _ h)

theorem le_larger_fold (xs : List Dy) (a : Dy) :
    a.rat ≤ (xs.foldl Dy.larger a).rat ∧ ∀ x ∈ xs, x.rat ≤ (xs.foldl Dy.larger a).rat := by
  induction xs generalizing a with
  | nil => exact ⟨le_rfl, fun _ h => absurd h (List.not_mem_nil)⟩
  | cons x xs ih =>
    obtain ⟨ha, hxs⟩ := ih (a.larger x)
    rw [Dy.rat_larger, max_le_iff] at ha
    exact ⟨ha.1, List.forall_mem_cons.mpr ⟨ha.2, hxs⟩⟩

/-- The largest magnitude is one of those of the values, or zero. -/
theorem maxMag_mem (vs : List FVal) : (maxMag vs).m = 0 ∨ ∃ v ∈ vs, v.mag = some (maxMag vs) := by
  rw [maxMag_eq]
  rcases larger_fold_mem (vs.filterMap FVal.mag) Dy.zero with h | h
  · exact .inl (by rw [h]; rfl)
  · exact .inr (List.mem_filterMap.mp h)

theorem mag_le_maxMag {vs : List FVal} {v : FVal} {x : Dy} (hv : v ∈ vs) (hx : v.mag = some x) :
    x.le (maxMag vs) = true := by
  rw [maxMag_eq, Dy.le_iff]
  exact (le_larger_fold _ _).2 x (List.mem_filterMap.mpr ⟨v, hv, hx⟩)

end Sys2Proof.Machine
end

section
/-! The block scale of a largest magnitude (R81). -/

namespace Sys2Proof.Machine

theorem blockScale_zero (mf : Dy) {x : Dy} (hx : x.m = 0) : blockScale mf x = -127 := if_pos hx

/-- What the search over the scales can answer: the first that suffices, or none. -/
theorem blockScale_cases (mf : Dy) {x : Dy} (hx : x.m ≠ 0) :
    (∃ i : Nat, i < 255 ∧ blockScale mf x = (i : Int) - 127 ∧ x.le (mf.scale ((i : Int) - 127)) = true ∧
      ∀ j < i, x.le (mf.scale ((j : Int) - 127)) = false) ∨
    (blockScale mf x = 127 ∧ ∀ j < 255, x.le (mf.scale (((j : Nat) : Int) - 127)) = false) := by
  unfold blockScale
  rw [if_neg hx]
  split
  next i hi =>
    rw [List.find?_range_eq_some] at hi
    obtain ⟨hle, hmem, hmin⟩ := hi
    exact .inl ⟨i, List.mem_range.mp hmem, rfl, hle, fun j hj => by simpa using hmin j hj⟩
  next hn =>
    rw [List.find?_range_eq_none] at hn
    exact .inr ⟨rfl, fun j hj => by simpa using hn j hj⟩

theorem blockScale_range (mf x : Dy) : -127 ≤ blockScale mf x ∧ blockScale mf x ≤ 127 := by
  by_cases hx : x.m = 0
  · rw [blockScale_zero mf hx]; decide
  · rcases blockScale_cases mf hx with ⟨i, hi, hz, -, -⟩ | ⟨hz, -⟩ <;> rw [hz] <;> omega

/-- No smaller scale suffices. -/
theorem blockScale_least (mf : Dy) {x : Dy} {y : Int} (hlo : -127 ≤ y) (hy : y < blockScale mf x) :
    x.m ≠ 0 ∧ x.le (mf.scale y) = false := by
  have hx : x.m ≠ 0 := fun hx => by rw [blockScale_zero mf hx] at hy; omega
  obtain ⟨j, rfl⟩ : ∃ j : Nat, y = (j : Int) - 127 := ⟨(y + 127).toNat, by omega⟩
  refine ⟨hx, ?_⟩
  rcases blockScale_cases mf hx with ⟨i, -, hz, -, hmin⟩ | ⟨hz, hnone⟩
  · exact hmin j (by omega)
  · exact hnone j (by omega)

/-- The scale suffices, where one below 127 does. -/
theorem blockScale_suffices {mf : Dy} (hmf : 0 ≤ mf.m) (x : Dy) :
    blockScale mf x = 127 ∨ x.le (mf.scale (blockScale mf x)) = true := by
  by_cases hx : x.m = 0
  · right
    have hz : x.rat = 0 := by simp [Dy.rat, hx]
    rw [Dy.le_iff, hz, Dy.rat_nonneg]
    exact hmf
  · rcases blockScale_cases mf hx with ⟨i, -, hz, hle, -⟩ | ⟨hz, -⟩
    · exact .inr (hz ▸ hle)
    · exact .inl hz

end Sys2Proof.Machine
end

section
/-! The largest finite value of a format (R81), `vscl` (R330), and the statement about it. -/

namespace Sys2Proof.Machine

theorem B8.decode_maxCode (b : B8) : b.decode b.maxCode = .fin false (b.mag b.maxCode).1 (b.mag b.maxCode).2 := by
  obtain ⟨p, inf, uns⟩ := b
  cases inf <;> cases uns <;> rfl

theorem maxFiniteOf_b8 {c : Nat} {b : B8} (h : b8OfCode c = some b) : maxFiniteOf c = some (b.decode b.maxCode).dy := by
  rw [maxFiniteOf, h, B8.decode_maxCode]
  rfl

theorem maxFiniteOf_wide {c : Nat} (h : b8OfCode c = none) : maxFiniteOf c =
    if c = 0x20 then some { m := 2047, e := 5 } else if c = 0x21 then some { m := 255, e := 120 } else none := by
  rw [maxFiniteOf, h]
  by_cases h0 : c = 0x20
  · subst h0; decide
  · by_cases h1 : c = 0x21
    · subst h1; decide
    · simp [h0, h1]

theorem maxFiniteOf_nonneg {c : Nat} {mf : Dy} (h : maxFiniteOf c = some mf) : 0 ≤ mf.m := by
  cases hb : b8OfCode c with
  | some b =>
    rw [maxFiniteOf_b8 hb, B8.decode_maxCode, Option.some.injEq] at h
    subst h
    exact Int.natCast_nonneg _
  | none =>
    rw [maxFiniteOf_wide hb] at h
    split_ifs at h <;> cases h <;> decide

/-- The magnitude of a lane that takes part: an active one with a finite value. -/
def Group.laneMag (g : Group) (m : Word) (r l : Nat) : Option Dy :=
  if m.getLsbD l then (f32Of (g.vReg r l)).mag else none

/-- The values of the lanes of a mask. -/
def Group.laneVals (g : Group) (m : Word) (r : Nat) : List FVal := (lanesOf m).map (fun l => f32Of (g.vReg r l))

theorem laneMag_iff (g : Group) (m : Word) (r : Nat) (x : Dy) :
    (∃ l, l < 64 ∧ g.laneMag m r l = some x) ↔ ∃ v ∈ g.laneVals m r, v.mag = some x := by
  simp [Group.laneVals, Group.laneMag, mem_lanesOf, and_assoc]

theorem vscl_puts {s : State} {e : Env} {f : VF} {mf : Dy} (h : Issues s e (.vscl f)) (ho : e.over f.a.toNat = false)
    (hm : maxFiniteOf f.c.toNat = some mf) :
    exec (.vscl f) s = .next (s.wrote e (.vscl f) (e.putG f.d.toNat (BitVec.ofInt 64
      (blockScale mf (maxMag (e.gr.laneVals (e.active (Instr.vscl f).guard) f.a.toNat)))))) :=
  issue_putsG_silent h rfl (by simp [ho, hm]; rfl)

/-- Settles O14: the scale of the largest magnitude, which bounds every lane's and is itself one of them or zero. The
model's `blockScale` has the plain name. -/
theorem vsclBlockScale : Obligations.BlockScale := by
  refine ⟨fun c => ⟨fun b => maxFiniteOf_b8, maxFiniteOf_wide⟩, fun s e f mf h ho hmf => ?_⟩
  intro m mag
  have hmag : mag = e.gr.laneMag m f.a.toNat := by
    funext l
    simp only [mag, Group.laneMag]
    cases f32Of (e.gr.vReg f.a.toNat l) <;> cases m.getLsbD l <;> rfl
  rw [hmag]
  refine ⟨_, vscl_puts h ho hmf, (blockScale_range mf _).1, (blockScale_range mf _).2, fun hz => ?_,
    fun y hlo hy => ?_, ?_⟩
  · refine blockScale_zero mf ((maxMag_mem _).elim id fun hx => ?_)
    obtain ⟨l, hl, hx⟩ := (laneMag_iff ..).mpr hx
    exact hz l _ hl hx
  · obtain ⟨hne, hle⟩ := blockScale_least mf hlo hy
    obtain ⟨l, hl, hx⟩ := (laneMag_iff ..).mpr ((maxMag_mem _).resolve_left hne)
    exact ⟨l, _, hl, hx, hle⟩
  · refine (blockScale_suffices (maxFiniteOf_nonneg hmf) _).imp_right fun hle l x hl hx => ?_
    obtain ⟨v, hv, hvx⟩ := (laneMag_iff ..).mp ⟨l, hl, hx⟩
    exact Dy.le_trans (mag_le_maxMag hv hvx) hle

end Sys2Proof.Machine
end

section
/-! The bytes of memory depend on memory, the controllers and the aperture lines alone. As for `State.fetch` above, a
definition that matches on a page walk is opened under its arguments, so that the kernel does not evaluate the walk. -/

namespace Sys2Proof.Machine

/-- `t` has the memory and the controllers of `s`, and its aperture lines and uncorrectable bytes. -/
structure SameBytes (s t : State) : Prop where
  mem : t.mem = s.mem
  ctrls : t.ctrls = s.ctrls
  aper : t.aper = s.aper
  bad : t.bad = s.bad

namespace SameBytes
variable {s t : State} (h : SameBytes s t)
include h

theorem rd : t.rd = s.rd := by
  funext k
  rw [State.rd, State.rd, h.mem]

theorem ctrl : t.ctrl = s.ctrl := by
  funext c
  rw [State.ctrl, State.ctrl, h.ctrls]

theorem ctrlFor : t.ctrlFor = s.ctrlFor := by
  funext n
  rw [State.ctrlFor, State.ctrlFor, State.ctrlsAlike, State.ctrlsAlike, h.ctrl]

theorem rdNat : t.rdNat = s.rdNat := by
  funext k n
  rw [State.rdNat, State.rdNat, h.rd]

theorem aperture : t.aperture = s.aperture := by
  funext ia
  rw [State.aperture, State.aperture, h.ctrl, h.ctrlFor]

theorem topPa : t.topPa = s.topPa := by
  funext ia
  rw [State.topPa, State.topPa, h.ctrl, h.ctrlFor]

theorem walkNow : t.walkNow = s.walkNow := by
  funext ia
  conv => enter [1, 0]; delta State.walkNow
  conv => enter [2, 0]; delta State.walkNow
  simp only [h.topPa, h.rdNat]

theorem devKey : t.devKey = s.devKey := by
  funext ia
  conv => enter [1, 0]; delta State.devKey
  conv => enter [2, 0]; delta State.devKey
  simp only [h.walkNow]

theorem rdIa : t.rdIa = s.rdIa := by
  funext ia
  conv => enter [1, 0]; delta State.rdIa
  conv => enter [2, 0]; delta State.rdIa
  simp only [h.devKey, h.rd]

theorem rdAper : t.rdAper = s.rdAper := by
  funext ia
  unfold State.rdAper State.aperElem
  rw [h.aper, h.aperture, h.rdIa]

theorem rdKey : t.rdKey = s.rdKey := by
  funext k
  unfold State.rdKey
  rw [h.rd, h.rdAper]

theorem keyBad : t.keyBad = s.keyBad := by
  funext k
  unfold State.keyBad
  simp only [h.bad, h.aper, h.aperture, h.devKey]

end SameBytes

theorem SameBytes.pocLine {s t : State} (h : SameBytes s t) : t.pocLine = s.pocLine := by
  funext ia key
  rw [State.pocLine, State.pocLine, h.rdKey]

theorem SameBytes.lineBad {s t : State} (h : SameBytes s t) : t.lineBad = s.lineBad := by
  funext ia key
  rw [State.lineBad, State.lineBad, h.bad, h.keyBad]

end Sys2Proof.Machine
end

section
/-! What a load changes (R130): with no store between the core's L1 and the point of coherence, it performs none, so
that it changes L1 lines alone. -/

namespace Sys2Proof.Machine

/-- `t` is `s` but for its cores, and the core holds the same operations in flight. -/
structure OnlyCores (core : Nat) (s t : State) : Prop where
  rest : ∃ cs, t = { s with cores := cs }
  ops : (t.core core).ops = (s.core core).ops

section
variable {core : Nat} {s t u : State}

theorem OnlyCores.refl (s : State) : OnlyCores core s s := ⟨⟨_, rfl⟩, rfl⟩

theorem OnlyCores.trans (h : OnlyCores core s t) (k : OnlyCores core t u) : OnlyCores core s u := by
  obtain ⟨_, rfl⟩ := h.rest
  obtain ⟨_, rfl⟩ := k.rest
  exact ⟨⟨_, rfl⟩, k.ops.trans h.ops⟩

theorem OnlyCores.teams (h : OnlyCores core s t) : t.teams = s.teams := by
  obtain ⟨_, rfl⟩ := h.rest
  rfl

theorem OnlyCores.mem (h : OnlyCores core s t) : t.mem = s.mem := by
  obtain ⟨_, rfl⟩ := h.rest
  rfl

theorem OnlyCores.unapplied (h : OnlyCores core s t) (hu : Unapplied s core) : Unapplied t core := by
  unfold Unapplied
  rw [h.ops]
  exact hu

theorem onlyCores_modCore {f : Core → Core} (hf : (f (s.core core)).ops = (s.core core).ops) :
    OnlyCores core s (s.modCore core f) :=
  ⟨⟨_, rfl⟩, by rw [State.core_modCore, if_pos rfl, hf]⟩

theorem onlyCores_foldl {α : Type} {f : State → α → State}
    (hf : ∀ s a, Unapplied s core → OnlyCores core s (f s a)) (xs : List α) (hu : Unapplied s core) :
    OnlyCores core s (xs.foldl f s) :=
  List.foldlRecOn xs f (OnlyCores.refl s) (fun t ht a _ => ht.trans (hf t a (ht.unapplied hu)))

end

/-- The state with the L1 lines of a core changed. -/
def State.modL1 (s : State) (core : Nat) (f : AMap (BitVec 1024) → AMap (BitVec 1024)) : State :=
  s.modCore core (fun c => { c with l1 := f c.l1 })

section
variable {core : Nat} {s : State} (hu : Unapplied s core)

theorem onlyCores_modL1 (s : State) (core : Nat) (f : AMap (BitVec 1024) → AMap (BitVec 1024)) :
    OnlyCores core s (s.modL1 core f) :=
  onlyCores_modCore rfl

theorem l1Fill_held {ia key : Nat} {x : BitVec 1024} (hl : s.l1Line core (ia / 128) = some x) :
    s.l1Fill core ia key = s := by
  rw [State.l1Fill, hl]

include hu

theorem settleBytes_unapplied (here : StByte → Bool) : s.settleBytes core here = s := by
  rw [State.settleBytes, List.filter_eq_nil_iff.mpr (fun o ho => by simp [hu o ho]), List.foldl_nil]

theorem l1Fill_missed {ia key : Nat} (hl : s.l1Line core (ia / 128) = none) :
    s.l1Fill core ia key = s.modL1 core (fun m =>
      if s.lineBad ia key then AMap.erase m (ia / 128) else AMap.insert m (ia / 128) (s.pocLine ia key)) := by
  rw [State.l1Fill, hl]
  simp only [State.settleLine, settleBytes_unapplied hu]
  cases s.lineBad ia key <;> rfl

theorem l1Drop_settled (ia : Nat) :
    (s.settleLine core ia).l1Drop core (ia / 128) = s.modL1 core (fun m => AMap.erase m (ia / 128)) := by
  rw [State.settleLine, settleBytes_unapplied hu]
  rfl

theorem onlyCores_l1Fill (ia key : Nat) : OnlyCores core s (s.l1Fill core ia key) := by
  cases hl : s.l1Line core (ia / 128) with
  | some x => rw [l1Fill_held hl]; exact .refl s
  | none => rw [l1Fill_missed hu hl]; exact onlyCores_modL1 ..

theorem onlyCores_l1Drop (ia : Nat) : OnlyCores core s ((s.settleLine core ia).l1Drop core (ia / 128)) := by
  rw [l1Drop_settled hu]
  exact onlyCores_modL1 ..

theorem onlyCores_loadMem (poc : Bool) (ia : Nat) (keys : List Nat) :
    OnlyCores core s (s.loadMem core poc ia keys).2 := by
  unfold State.loadMem
  split
  · exact onlyCores_foldl (fun s ki hs => onlyCores_l1Fill hs (ia + ki.2) ki.1) _ hu
  · split
    · exact onlyCores_foldl (fun s i hs => onlyCores_l1Drop hs (ia + i)) _ hu
    · exact .refl s

/-- With no store between the core's L1 and the point of coherence, no store gets a reader. -/
theorem onlyCores_load (who : Sel) (poc : Bool) (p : Where) (n : Nat) :
    OnlyCores core s (s.load who core poc p n).2 := by
  cases p with
  | scr o => exact .refl s
  | mem ia keys =>
    have h := onlyCores_loadMem hu poc ia keys
    have hn : ((s.loadMem core poc ia keys).2.core core).ops.any (fun o => o.2.applied) = false :=
      List.any_eq_false.mpr (fun o ho => by simp [h.unapplied hu o ho])
    simp only [State.load, hn, Bool.false_eq_true, if_false]
    exact h

end

end Sys2Proof.Machine
end

section
/-! What a load finds (R130, R140) depends on the bytes of memory and of the scratchpads, on the core's L1 lines and on
its operations in flight. -/

namespace Sys2Proof.Machine

/-- A load of the core finds in `t` what it finds in `s`, and performs no store. -/
structure LoadsAlike (core : Nat) (s t : State) : Prop extends SameBytes s t where
  fresh : t.fresh = s.fresh
  l1 : (t.core core).l1 = (s.core core).l1
  ops : (t.core core).ops = (s.core core).ops
  scr : ∀ tid, (AMap.find t.teams tid).map (·.scr) = (AMap.find s.teams tid).map (·.scr)
  unapplied : Unapplied s core

theorem OnlyCores.loadsAlike {core : Nat} {s t : State} (h : OnlyCores core s t) (hu : Unapplied s core)
    (hl : (t.core core).l1 = (s.core core).l1) : LoadsAlike core s t := by
  obtain ⟨⟨_, rfl⟩, ho⟩ := h
  exact ⟨⟨rfl, rfl, rfl, rfl⟩, rfl, hl, ho, fun _ => rfl, hu⟩

theorem loadsAlike_modGrp {core : Nat} {s : State} (hu : Unapplied s core) (w : Sel) (f : Group → Group) :
    LoadsAlike core s (s.modGrp w f) := by
  refine ⟨⟨rfl, rfl, rfl, rfl⟩, rfl, rfl, rfl, fun tid => ?_, hu⟩
  rw [State.modGrp, State.find_modTeam]
  split
  · rw [Option.map_map]; rfl
  · rfl

namespace LoadsAlike
variable {core : Nat} {s t : State} (h : LoadsAlike core s t)

theorem trans {u : State} (h : LoadsAlike core s t) (k : LoadsAlike core t u) : LoadsAlike core s u :=
  ⟨⟨k.mem.trans h.mem, k.ctrls.trans h.ctrls, k.aper.trans h.aper, k.bad.trans h.bad⟩, k.fresh.trans h.fresh,
    k.l1.trans h.l1, k.ops.trans h.ops, fun tid => (k.scr tid).trans (h.scr tid), h.unapplied⟩

include h

theorem unapplied_right : Unapplied t core := by
  unfold Unapplied
  rw [h.ops]
  exact h.unapplied

theorem l1Line (line : Nat) : t.l1Line core line = s.l1Line core line := by
  rw [State.l1Line, State.l1Line, h.l1, h.fresh]

theorem gatedByte : (t.core core).gatedByte = (s.core core).gatedByte := by
  funext who scr k
  rw [Core.gatedByte, Core.gatedByte, h.ops]

theorem modL1 (f : AMap (BitVec 1024) → AMap (BitVec 1024)) : LoadsAlike core (s.modL1 core f) (t.modL1 core f) := by
  refine ⟨⟨h.mem, h.ctrls, h.aper, h.bad⟩, h.fresh, ?_, ?_, h.scr,
    (onlyCores_modL1 s core f).unapplied h.unapplied⟩
  · simp only [State.modL1, State.core_modCore, if_true, h.l1]
  · simp only [State.modL1, State.core_modCore, if_true, h.ops]

theorem l1Fill (ia key : Nat) : LoadsAlike core (s.l1Fill core ia key) (t.l1Fill core ia key) := by
  have ht := h.l1Line (ia / 128)
  cases hs : s.l1Line core (ia / 128) with
  | some x =>
    rw [l1Fill_held hs, l1Fill_held (ht.trans hs)]
    exact h
  | none =>
    rw [l1Fill_missed h.unapplied hs, l1Fill_missed h.unapplied_right (ht.trans hs), h.lineBad, h.pocLine]
    exact h.modL1 _

theorem l1Drop (ia : Nat) : LoadsAlike core ((s.settleLine core ia).l1Drop core (ia / 128))
    ((t.settleLine core ia).l1Drop core (ia / 128)) := by
  rw [l1Drop_settled h.unapplied, l1Drop_settled h.unapplied_right]
  exact h.modL1 _

theorem loadMem (poc : Bool) (ia : Nat) (keys : List Nat) :
    (t.loadMem core poc ia keys).1 = (s.loadMem core poc ia keys).1 := by
  unfold State.loadMem
  split
  · have hfill := List.foldl_rel (l := keys.zip (List.range keys.length)) (r := LoadsAlike core) h
      (fun ki _ _ _ h => h.l1Fill (ia + ki.2) ki.1)
    simp only [hfill.l1, hfill.rdKey]
  · split
    · have hdrop := List.foldl_rel (l := List.range keys.length) (r := LoadsAlike core) h
        (fun i _ _ _ h => h.l1Drop (ia + i))
      simp only [hdrop.rdKey]
    · simp only [h.rdKey]

theorem load (who : Sel) (poc : Bool) (p : Where) (n : Nat) :
    (t.load who core poc p n).1 = (s.load who core poc p n).1 := by
  cases p with
  | scr o =>
    have hscr := h.scr who.tid
    cases hs : AMap.find s.teams who.tid with
    | none =>
      rw [hs, Option.map_none, Option.map_eq_none_iff] at hscr
      simp only [State.load, h.gatedByte, hs, hscr]
    | some x =>
      rw [hs, Option.map_some, Option.map_eq_some_iff] at hscr
      obtain ⟨y, ht, hy⟩ := hscr
      simp only [State.load, h.gatedByte, hs, ht, Team.scrRd, hy]
  | mem ia keys => simp only [State.load, h.gatedByte, h.loadMem]

end LoadsAlike

end Sys2Proof.Machine
end

section
/-! The number of bytes of a load. -/

namespace Sys2Proof.Machine

theorem pageKeys_length {s : State} {acc : Acc} {ia n i : Nat} {a : Word} {ks : List Nat}
    (h : s.pageKeys acc ia a n i = .ok ks) : ks.length = n := by
  induction n generalizing i ks with
  | zero =>
    cases h
    rfl
  | succ n ih =>
    unfold State.pageKeys at h
    split at h
    · cases h
    · split at h
      · cases h
      next ks' hks =>
        cases h
        rw [List.length_cons, ih hks]

theorem target_length {s : State} {acc : Acc} {o ia : Nat} {a : Word} {keys : List Nat}
    (h : s.target acc o a = .ok (.mem ia keys)) : keys.length = acc.n := by
  unfold State.target at h
  split at h
  · cases h
  · split at h
    · split at h
      · cases h
      next hks =>
        cases h
        exact pageKeys_length hks
    · cases h
      rw [List.length_map, List.length_range]

/-- An access outside the scratchpad has a key for each of its bytes. -/
theorem access_keys_length {s : State} {t : Team} {acc : Acc} {a : Word} {ia : Nat} {keys : List Nat}
    (h : s.access t acc a = .ok (.mem ia keys)) : keys.length = acc.n := by
  have hplace : ∃ o, s.target acc o a = .ok (.mem ia keys) := by
    unfold State.access at h
    iterate 3 (split at h; · cases h)
    split at h
    · cases h
    next w _ =>
      iterate 3 (split at h; · cases h)
      refine ⟨w.ia.toNat + (a.toNat - w.va.toNat), ?_⟩
      simp only at h
      split at h
      · cases h
      next p hp =>
        split at h <;> cases h
        split at hp
        · split at hp <;> cases hp
        · exact hp
  exact hplace.elim (fun _ => target_length)

theorem loadMem_length (s : State) (core : Nat) (poc : Bool) (ia : Nat) (keys : List Nat) :
    (s.loadMem core poc ia keys).1.length = keys.length := by
  unfold State.loadMem
  split <;> simp

/-- A load gives as many bytes as its place has. -/
theorem load_length {s : State} {t : Team} {acc : Acc} {a : Word} {p : Where} (h : s.access t acc a = .ok p)
    (who : Sel) (core : Nat) (poc : Bool) : (s.load who core poc p acc.n).1.length = acc.n := by
  cases p with
  | scr o => simp [State.load]
  | mem ia keys => simp [State.load, loadMem_length, access_keys_length h]

end Sys2Proof.Machine
end

section
/-! The bits of a little-endian value (R3). -/

namespace Sys2Proof.Machine

/-- The bits of a little-endian value are those of its bytes. -/
theorem testBit_leVal (bs : List Byte) (k : Nat) : (leVal bs).testBit k = (bs.getD (k / 8) 0).getLsbD (k % 8) := by
  induction bs generalizing k with
  | nil => simp [leVal]
  | cons b bs ih =>
    have hcons : leVal (b :: bs) = 2 ^ 8 * leVal bs + b.toNat := Nat.add_comm ..
    rw [hcons, Nat.testBit_two_pow_mul_add _ b.isLt]
    split
    next hk => rw [Nat.div_eq_of_lt hk, Nat.mod_eq_of_lt hk, List.getD_cons_zero, BitVec.getLsbD]
    next hk =>
      obtain ⟨k, rfl⟩ := Nat.exists_eq_add_of_le' (Nat.not_lt.mp hk)
      rw [Nat.add_sub_cancel, ih, Nat.add_div_right _ (by decide), Nat.add_mod_right, List.getD_cons_succ]

theorem getLsbD_ofNat_leVal (bs : List Byte) {k : Nat} (hk : k < 64) :
    (BitVec.ofNat 64 (leVal bs)).getLsbD k = (bs.getD (k / 8) 0).getLsbD (k % 8) := by
  rw [BitVec.getLsbD_ofNat, testBit_leVal, decide_eq_true hk, Bool.true_and]

theorem extractLsb_ofNat_leVal (bs : List Byte) {j : Nat} (hj : j < 8) :
    (BitVec.ofNat 64 (leVal bs)).extractLsb' (8 * j) 8 = bs.getD j 0 := by
  refine BitVec.eq_of_getLsbD_eq (fun i hi => ?_)
  rw [BitVec.getLsbD_extractLsb', decide_eq_true hi, Bool.true_and, getLsbD_ofNat_leVal bs (by omega),
    show (8 * j + i) / 8 = j by omega, show (8 * j + i) % 8 = i by omega]

/-- No bit above its bytes. -/
theorem getLsbD_ofNat_leVal_above (bs : List Byte) {k : Nat} (hk : 8 * bs.length ≤ k) :
    (BitVec.ofNat 64 (leVal bs)).getLsbD k = false := by
  rw [BitVec.getLsbD_ofNat, testBit_leVal, List.getD_eq_default _ _ (by omega)]
  exact (congrArg _ (BitVec.getLsbD_zero ..)).trans (Bool.and_false _)

end Sys2Proof.Machine
end

section
/-! `gld` (R171, R287), and the statement about it. -/

namespace Sys2Proof.Machine

/-- Counting loads for the tag changes the count alone (R228). -/
theorem tagLoad_cases (s : State) (e : Env) (poc : Bool) (ws : List Where) :
    (s.tagLoad e poc ws).1 = s ∨
      ∃ n, (s.tagLoad e poc ws).1 = s.modCore e.gr.core (fun c => { c with tagcnt := n }) := by
  unfold State.tagLoad
  dsimp only
  split
  · split
    · split <;> exact .inr ⟨_, rfl⟩
    · exact .inl rfl
  · exact .inl rfl

theorem onlyCores_tagLoad (s : State) (e : Env) (poc : Bool) (ws : List Where) :
    OnlyCores e.gr.core s (s.tagLoad e poc ws).1 := by
  rcases tagLoad_cases s e poc ws with h | ⟨n, h⟩ <;> rw [h]
  · exact .refl s
  · exact onlyCores_modCore rfl

theorem tagLoad_l1 (s : State) (e : Env) (poc : Bool) (ws : List Where) :
    ((s.tagLoad e poc ws).1.core e.gr.core).l1 = (s.core e.gr.core).l1 := by
  rcases tagLoad_cases s e poc ws with h | ⟨n, h⟩ <;> rw [h]
  rw [State.core_modCore, if_pos rfl]

/-- The state in which the bytes of a load are read: the load has been counted. -/
theorem loadsAlike_tagLoad {s : State} {e : Env} (hu : Unapplied s e.gr.core) (poc : Bool) (ws : List Where) :
    LoadsAlike e.gr.core s ((s.begun e).tagLoad e poc ws).1 := by
  have h := loadsAlike_modGrp hu e.who (·.used e.key)
  exact h.trans ((onlyCores_tagLoad (s.begun e) e poc ws).loadsAlike h.unapplied_right (tagLoad_l1 ..))

theorem gld_bytes_le {s : State} {e : Env} {f : MF} (h : Issues s e (.gld f)) : f.bytes ≤ 8 := by
  have hf := fieldsOk_of_issues h
  simp only [Instr.fieldsOk, Bool.and_eq_true, decide_eq_true_eq] at hf
  have hs : f.size ≤ 3 := by tauto
  exact Nat.pow_le_pow_right (by decide : 0 < 2) (BitVec.le_def.mp hs)

/-- The word completes with the value of the bytes that the load finds before the issue. -/
theorem gld_done {s : State} {e : Env} {f : MF} {w : Where} (h : Issues s e (.gld f)) (hu : Unapplied s e.gr.core)
    (ha : s.access e.tm (s.loadAcc e (readsPoc f) f.bytes) (e.groupEa f f.off15) = .ok w)
    (hw : e.absent f.bytes w = false) :
    exec (.gld f) s = .next ((((((s.begun e).tagLoad e (readsPoc f) [w]).1.load e.who e.gr.core (readsPoc f) w
      f.bytes).2.modGrp e.who (e.putG f.data.toNat (BitVec.ofNat 64
        (leVal (s.load e.who e.gr.core (readsPoc f) w f.bytes).1)))).track e (.gld f) [] []
      ((s.begun e).tagLoad e (readsPoc f) [w]).2 [e.sbG f.data.toNat]).issued s e (.gld f)) := by
  have hplace : (s.begun e).access e.tm ((s.begun e).loadAcc e (readsPoc f) f.bytes) (e.groupEa f f.off15) = .ok w :=
    (State.access_modGrp ..).trans ha
  exact issue_done h rfl (by
    simp only [hplace, hw, Bool.false_eq_true, if_false, (loadsAlike_tagLoad hu (readsPoc f) [w]).load])

/-- Settles O34: the load finds the same bytes once its issue has begun and it has been counted, and the register takes
their little-endian value. -/
theorem groupLoads : Obligations.GroupLoads := by
  intro s e f w h n hu ha hw bs
  have hlen : bs.length = n := load_length ha e.who e.gr.core (readsPoc f)
  have hn : n ≤ 8 := gld_bytes_le h
  have htag := onlyCores_tagLoad (s.begun e) e (readsPoc f) [w]
  have hload := onlyCores_load (loadsAlike_tagLoad hu (readsPoc f) [w]).unapplied_right e.who (readsPoc f) w n
  exact ⟨_, _, _, gld_done h hu ha hw, hload.teams.trans htag.teams, hload.mem.trans htag.mem, hlen,
    fun j hj => extractLsb_ofNat_leVal bs (hj.trans_le hn), fun j hj => getLsbD_ofNat_leVal_above bs (hlen ▸ hj)⟩

end Sys2Proof.Machine
end

section
/-! Decoding gives back what has been encoded (R243 to R254). The fields of a word stand side by side, so that each is
found by dropping those below it.

The helper definitions of data in these proofs are never run, and are marked `noncomputable` so that none of them is
compiled. -/

namespace Sys2Proof

/-! A field of a word built by appending. -/

theorem extractLsb'_append_last {m n k : Nat} (x : BitVec m) (y : BitVec n) (h : k = 0) : (x ++ y).extractLsb' k n = y := by
  subst h
  rw [BitVec.extractLsb'_append_eq_of_add_le (by omega), BitVec.extractLsb'_eq_self]

theorem getLsbD_append_above {m n k : Nat} (x : BitVec m) (y : BitVec n) (h : n ≤ k) :
    (x ++ y).getLsbD k = x.getLsbD (k - n) := by
  rw [BitVec.getLsbD_append, if_neg (by omega)]

theorem getLsbD_append_ofBool {m k : Nat} (x : BitVec m) (b : Bool) (h : k = 0) :
    (x ++ BitVec.ofBool b).getLsbD k = b := by
  subst h
  rw [BitVec.getLsbD_append, if_pos (by omega), BitVec.getLsbD_ofBool]
  simp

theorem extractLsb'_self {n k : Nat} (x : BitVec n) (h : k = 0) : x.extractLsb' k n = x := by
  subst h
  exact BitVec.extractLsb'_eq_self

/-! The fields of each format. -/

theorem VF.unpack_pack (opc : BitVec 10) (f : VF) : VF.unpack (f.pack opc) = f := by
  simp (disch := decide) only [VF.unpack, VF.pack, bitField, BitVec.extractLsb'_append_eq_of_le, extractLsb'_append_last,
    getLsbD_append_above, getLsbD_append_ofBool]

theorem VIF.unpack_pack (opc : BitVec 10) (f : VIF) : VIF.unpack (f.pack opc) = f := by
  simp (disch := decide) only [VIF.unpack, VIF.pack, BitVec.extractLsb'_append_eq_of_le, extractLsb'_append_last]

theorem VMF.unpack_pack (opc : BitVec 10) (f : VMF) : VMF.unpack (f.pack opc) = f := by
  simp (disch := decide) only [VMF.unpack, VMF.pack, bitField, BitVec.extractLsb'_append_eq_of_le,
    extractLsb'_append_last, getLsbD_append_above, getLsbD_append_ofBool]

theorem MF.unpack_pack (opc : BitVec 10) (f : MF) : MF.unpack (f.pack opc) = f := by
  simp (disch := decide) only [MF.unpack, MF.pack, bitField, BitVec.extractLsb'_append_eq_of_le, extractLsb'_append_last,
    getLsbD_append_above, getLsbD_append_ofBool]

theorem GF.unpack_pack (opc : BitVec 10) (f : GF) : GF.unpack (f.pack opc) = f := by
  simp (disch := decide) only [GF.unpack, GF.pack, bitField, BitVec.extractLsb'_append_eq_of_le, extractLsb'_append_last,
    getLsbD_append_above, getLsbD_append_ofBool]

theorem CF.unpack_pack (opc : BitVec 10) (f : CF) : CF.unpack (f.pack opc) = f := by
  simp (disch := decide) only [CF.unpack, CF.pack, BitVec.extractLsb'_append_eq_of_le, extractLsb'_append_last]

theorem XF.unpack_pack (opc : BitVec 10) (f : XF) : XF.unpack (f.pack opc) = f := by
  simp (disch := decide) only [XF.unpack, XF.pack, bitField, BitVec.extractLsb'_append_eq_of_le, extractLsb'_append_last,
    getLsbD_append_above, getLsbD_append_ofBool]

theorem SF.unpack_pack (opc : BitVec 10) (f : SF) : SF.unpack (f.pack opc) = f := by
  simp (disch := decide) only [SF.unpack, SF.pack, BitVec.extractLsb'_append_eq_of_le, extractLsb'_append_last]

/-! The opcode and the format of an instruction are all of its word. -/

/-- The word of a payload under an opcode; an event has none. -/
noncomputable def Shape.pack (opc : BitVec 10) : Shape → Option Word
  | .v f => some (f.pack opc)
  | .vi f => some (f.pack opc)
  | .vm f => some (f.pack opc)
  | .m f => some (f.pack opc)
  | .g f => some (f.pack opc)
  | .c f => some (f.pack opc)
  | .x f => some (f.pack opc)
  | .s f => some (f.pack opc)
  | .event => none

theorem encode_eq_pack (i : Instr) : encode i = i.shape.pack (BitVec.ofNat 10 i.opc) := by
  induction i <;> rfl

theorem Shape.opcOf_pack {opc : BitVec 10} {x : Shape} {w : Word} (h : x.pack opc = some w) : opcOf w = opc := by
  cases x with
  | event => cases h
  | _ f =>
    cases h
    simp (disch := decide) only [opcOf, VF.pack, VIF.pack, VMF.pack, MF.pack, GF.pack, CF.pack, XF.pack, SF.pack,
      BitVec.extractLsb'_append_eq_of_le, extractLsb'_self]

/-- The opcodes in use, and that of a melded instruction is one of an unmelded one too. -/
theorem Instr.opc_used (i : Instr) (w : Word) :
    ((Nat.ble i.opc 639 || Nat.ble 656 i.opc && Nat.ble i.opc 1023) && (!i.melded || (ofOpc i.opc w).isSome)) = true := by
  induction i <;> exact (rfl : true = true)

theorem Instr.opc_range (i : Instr) : (Nat.ble i.opc 639 || Nat.ble 656 i.opc && Nat.ble i.opc 1023) = true :=
  (Bool.and_eq_true_iff.mp (i.opc_used 0)).1

theorem ofOpc_isSome_of_melded {i : Instr} (w : Word) (hm : i.melded = true) : (ofOpc i.opc w).isSome = true := by
  have h := (Bool.and_eq_true_iff.mp (i.opc_used w)).2
  rwa [hm] at h

theorem Instr.opc_lt (i : Instr) : i.opc < 2 ^ 10 := by
  have h := i.opc_range
  rw [Bool.or_eq_true, Bool.and_eq_true, Nat.ble_eq, Nat.ble_eq, Nat.ble_eq] at h
  exact Nat.lt_succ_of_le (h.elim (le_trans · (by decide)) And.right)

/-- No opcode lies where headers do (R243). -/
theorem Instr.opc_not_header (i : Instr) : i.opc / 2 ^ 4 ≠ 0b101000 := by
  have h := i.opc_range
  rw [Bool.or_eq_true, Bool.and_eq_true, Nat.ble_eq, Nat.ble_eq] at h
  exact h.elim (fun h => ne_of_lt ((Nat.div_le_div_right h).trans_lt (by decide)))
    (fun h => ne_of_gt (lt_of_lt_of_le (by decide) (Nat.div_le_div_right h.1)))

theorem toNat_opcOf_encode {i : Instr} {w : Word} (h : encode i = some w) : (opcOf w).toNat = i.opc := by
  rw [encode_eq_pack] at h
  rw [Shape.opcOf_pack h, BitVec.toNat_ofNat, Nat.mod_eq_of_lt i.opc_lt]

theorem isHeader_iff (w : Word) : isHeader w = true ↔ (opcOf w).toNat / 2 ^ 4 = 0b101000 := by
  unfold isHeader opcOf
  rw [beq_iff_eq, ← BitVec.toNat_inj]
  have e : w.toNat / 2 ^ 54 % 2 ^ 10 / 2 ^ 4 = w.toNat / 2 ^ 58 % 2 ^ 6 := by
    rw [Nat.pow_add 2 4 6, Nat.mod_mul_right_div_self, Nat.div_div_eq_div_mul, ← Nat.pow_add]
  rw [BitVec.extractLsb'_toNat, BitVec.extractLsb'_toNat, Nat.shiftRight_eq_div_pow, Nat.shiftRight_eq_div_pow, e]
  rfl

theorem isHeader_encode {i : Instr} {w : Word} (h : encode i = some w) : isHeader w = false := by
  rw [← Bool.not_eq_true, isHeader_iff, toNat_opcOf_encode h]
  exact i.opc_not_header

/-! The opcode map. -/

/-- The opcode map of unmelded, or of melded, instructions. -/
noncomputable def opcodeMap : Bool → Nat → Word → Option Instr
  | false => ofOpc
  | true => ofOpcMelded

/-- Of a word that packs the payload, the reader makes the instruction. -/
def Reads (r : Word → Option Instr) (x : Shape) (i : Instr) : Prop := ∀ opc w, x.pack opc = some w → r w = some i

section
variable {r : Word → Option Instr}

theorem VF.reads {k : VF → Instr} (f : VF) (hr : ∀ w, r w = some (k (VF.unpack w))) : Reads r (.v f) (k f) := by
  intro opc w h
  cases h
  rw [hr, VF.unpack_pack]

theorem VIF.reads {k : VIF → Instr} (f : VIF) (hr : ∀ w, r w = some (k (VIF.unpack w))) : Reads r (.vi f) (k f) := by
  intro opc w h
  cases h
  rw [hr, VIF.unpack_pack]

theorem VMF.reads {k : VMF → Instr} (f : VMF) (hr : ∀ w, r w = some (k (VMF.unpack w))) : Reads r (.vm f) (k f) := by
  intro opc w h
  cases h
  rw [hr, VMF.unpack_pack]

theorem MF.reads {k : MF → Instr} (f : MF) (hr : ∀ w, r w = some (k (MF.unpack w))) : Reads r (.m f) (k f) := by
  intro opc w h
  cases h
  rw [hr, MF.unpack_pack]

theorem GF.reads {k : GF → Instr} (f : GF) (hr : ∀ w, r w = some (k (GF.unpack w))) : Reads r (.g f) (k f) := by
  intro opc w h
  cases h
  rw [hr, GF.unpack_pack]

theorem CF.reads {k : CF → Instr} (f : CF) (hr : ∀ w, r w = some (k (CF.unpack w))) : Reads r (.c f) (k f) := by
  intro opc w h
  cases h
  rw [hr, CF.unpack_pack]

theorem XF.reads {k : XF → Instr} (f : XF) (hr : ∀ w, r w = some (k (XF.unpack w))) : Reads r (.x f) (k f) := by
  intro opc w h
  cases h
  rw [hr, XF.unpack_pack]

theorem SF.reads {k : SF → Instr} (f : SF) (hr : ∀ w, r w = some (k (SF.unpack w))) : Reads r (.s f) (k f) := by
  intro opc w h
  cases h
  rw [hr, SF.unpack_pack]

theorem reads_event (i : Instr) : Reads r .event i := fun _ _ h => nomatch h

end

theorem Instr.reads (i : Instr) : Reads (opcodeMap i.melded i.opc) i.shape i := by
  induction i with
  | bra f | brg f | brv f | bri f | briv f | call f | calli f | ret f | join f | exit f | yield f | nop f
  | mopen f | mclose f | mrep f | idle f | lnch f =>
    refine CF.reads f fun _ => ?_
    rfl
  | gadd f | gsub f | gmul f | gmulh f | gmad f | gdiv f | grem f | gand f | gor f | gxor f | gshl f | gshr f
  | gsar f | gmin f | gmax f | gmov f | gmovh f | gcmp f | gsel f | gbits f | gplog f | emov f =>
    refine GF.reads f fun _ => ?_
    rfl
  | plog f | ballot f | vbc f | vrdl f | vred f | vshfl f | vadd f | vsub f | vmul f | vmulh f | vmad f
  | vand f | vor f | vxor f | vshl f | vshr f | vsar f | vmin f | vmax f | vabs f | vbits f | vbfe f | vbfi f
  | vcmp f | vsel f | vmov f | vfadd f | vfsub f | vfmul f | vfma f | vfmin f | vfmax f | vfcmp f | vfrcp f
  | vfrsq f | vfsqrt f | vfex2 f | vflg2 f | vfsin f | vfcos f | vfcls f | vfscl f | vfdp4 f | vcvt f | vnarw f
  | vwide f | vscl f | vpack f | vunpk f | mmas f | xlut f | xunp f =>
    refine VF.reads f fun _ => ?_
    rfl
  | vaddImm f | vsubImm f | vmulImm f | vmulhImm f | vandImm f | vorImm f | vxorImm f | vshlImm f | vshrImm f
  | vsarImm f | vminImm f | vmaxImm f | vcmpImm f | vmovImm f | vfaddImm f | vfsubImm f | vfmulImm f
  | vfminImm f | vfmaxImm f | vfcmpImm f =>
    refine VIF.reads f fun _ => ?_
    rfl
  | ld f | st f | gld f | gst f | prf f | atom f | acas f | gatom f | fence f | cclean f | cinval f | cflush f
  | ptsync f =>
    refine MF.reads f fun _ => ?_
    rfl
  | mmlp f | eptab f | xtab f | xlz f | wopen f | wret f | wld f | wst f | wadv f | wget f | wchk f | cpa f
  | cpw f | cpg f | cpx f | cpm f | bini f | barr f | bwait f | bsync f | btest f | crv f | grant f | revk f =>
    refine XF.reads f fun _ => ?_
    rfl
  | trap f | trret f | tfence f | brk f | srd f | swr f | pgtk f | pgmap f | mark f | sig f =>
    refine SF.reads f fun _ => ?_
    rfl
  | vaddMelded f | vsubMelded f | vmulMelded f | vmadMelded f | vandMelded f | vorMelded f | vxorMelded f
  | vshlMelded f | vshrMelded f | vsarMelded f | vminMelded f | vmaxMelded f | vcmpMelded f | vmovMelded f
  | vfaddMelded f | vfsubMelded f | vfmulMelded f | vfmaMelded f | vfminMelded f | vfmaxMelded f
  | vfcmpMelded f | ldMelded f | stMelded f | wldMelded f | wstMelded f =>
    refine VMF.reads f fun _ => ?_
    rfl
  | _ => exact reads_event _

/-! Decoding. -/

theorem decode_encode {i : Instr} {w : Word} (hi : i.WellFormed) (h : encode i = some w) :
    decode i.melded w = .instr i := by
  have hp := encode_eq_pack i ▸ h
  have hok : Decoded.ofInstr i = .instr i := by rw [Decoded.ofInstr, hi]
  have hr := i.reads _ _ hp
  unfold decode
  rw [isHeader_encode h, toNat_opcOf_encode h]
  cases hm : i.melded with
  | false =>
    rw [hm] at hr
    simp [show ofOpc i.opc w = some i from hr, hok]
  | true =>
    obtain ⟨j, hj⟩ := Option.isSome_iff_exists.mp (ofOpc_isSome_of_melded w hm)
    rw [hm] at hr
    simp [show ofOpcMelded i.opc w = some i from hr, hj, hok]

theorem wordOfBytes_bytesOfWord (w : Word) :
    wordOfBytes (w.extractLsb' 0 8) (w.extractLsb' 8 8) (w.extractLsb' 16 8) (w.extractLsb' 24 8) (w.extractLsb' 32 8)
      (w.extractLsb' 40 8) (w.extractLsb' 48 8) (w.extractLsb' 56 8) = w := by
  unfold wordOfBytes
  simp (disch := decide) only [BitVec.extractLsb'_append_extractLsb'_eq_extractLsb', extractLsb'_self]

theorem decodeTableWord_toNat (w : Word) (i : Instr) (h : decode false w = .instr i) :
    decodeTableWord 64 w.toNat = some i := by
  have e : decodeBytes false (bytesOfWord w) = some (.instr i, []) := by
    rw [← h, ← congrArg (decode false) (wordOfBytes_bytesOfWord w)]
    rfl
  rw [decodeTableWord, Nat.mod_eq_of_lt w.isLt, BitVec.ofNat_toNat, BitVec.setWidth_eq, e]

/-- Settles O57: every format reads back the fields that it packs, and the opcode names the format. -/
theorem decodeEncode : Obligations.DecodeEncode := by
  intro i w hi h
  have hd := decode_encode hi h
  exact ⟨hd, isHeader_encode h, toNat_opcOf_encode h, fun hm => decodeTableWord_toNat w i (hm ▸ hd)⟩

end Sys2Proof
end

section
/-! What an access sees: its checks depend on memory, the tables, the windows, the links and the L1 alone. As for
`State.fetch` above, a definition that matches on a page walk is opened under its arguments, so that the kernel does not
evaluate the walk. -/

namespace Sys2Proof.Machine

/-- `t` has all of `s` that the checks of an access read. -/
structure SameAccess (s t : State) : Prop where
  bytes : SameBytes s t
  stale : t.stale = s.stale
  fresh : t.fresh = s.fresh
  peers : t.peers = s.peers
  host : t.host = s.host
  linkA : t.linkA = s.linkA
  linkB : t.linkB = s.linkB
  ctxs : t.ctxs = s.ctxs
  l1 : ∀ c, (t.core c).l1 = (s.core c).l1

namespace SameAccess
variable {s t : State} (h : SameAccess s t)
include h

theorem walk : t.walk = s.walk := by
  funext ia
  unfold State.walk
  rw [h.stale, h.fresh, h.bytes.walkNow]

theorem pageByte : t.pageByte = s.pageByte := by
  funext acc ia
  unfold State.pageByte
  rw [h.walk]

theorem devByte : t.devByte = s.devByte := by
  funext acc ia
  unfold State.devByte State.aperPages
  rw [h.bytes.aperture, h.pageByte]

theorem pageKeys : t.pageKeys = s.pageKeys := by
  funext acc ia a n i
  induction n generalizing i with
  | zero => rfl
  | succ n ih => simp only [State.pageKeys, h.devByte, ih]

theorem target8 : t.target8 = s.target8 := by
  funext acc ia
  unfold State.target8 State.inTrace
  simp only [h.host, h.peers, h.linkA, h.linkB, h.bytes.aperture]

theorem target : t.target = s.target := by
  funext acc ia a
  unfold State.target
  rw [h.target8, h.pageKeys]

theorem l1Line : t.l1Line = s.l1Line := by
  funext c line
  unfold State.l1Line
  rw [h.l1, h.fresh]

theorem badByte : t.badByte = s.badByte := by
  funext tm acc p
  unfold State.badByte State.l1Serves
  simp only [h.bytes.bad, h.bytes.keyBad, h.l1Line]

theorem window : t.window = s.window := by
  funext c a
  unfold State.window State.win
  rw [h.ctxs]

theorem access : t.access = s.access := by
  funext tm acc a
  unfold State.access
  rw [h.window, h.target, h.badByte]

end SameAccess

/-- `t` has all of `s` that the fetch of a word reads. -/
structure SameFetch (s t : State) : Prop extends SameAccess s t where
  feet : ∀ c, (t.core c).dstFeet = (s.core c).dstFeet
  scr : ∀ tid, (AMap.find t.teams tid).map Team.scr = (AMap.find s.teams tid).map Team.scr

namespace SameFetch
variable {s t : State} (h : SameFetch s t)
include h

theorem peek : t.peek = s.peek := by
  funext tid p n
  unfold State.peek
  cases p with
  | mem ia keys => simp only [h.bytes.rdKey]
  | scr o =>
    have hscr := h.scr tid
    cases ht : AMap.find t.teams tid <;> cases hs : AMap.find s.teams tid <;> simp [ht, hs] at hscr <;>
      simp [Team.scrRd, hscr]

theorem wordAcc : t.wordAcc = s.wordAcc := by
  funext e
  unfold State.wordAcc
  rw [h.feet]

theorem fetch : t.fetch = s.fetch := by
  funext e va
  unfold State.fetch
  rw [h.access, h.wordAcc, h.peek]

theorem checkTarget : t.checkTarget = s.checkTarget := by
  funext e va
  unfold State.checkTarget
  rw [h.fetch]

end SameFetch

theorem sameFetch_cur (s : State) (w : Option Sel) : SameFetch s { s with cur := w } where
  bytes := ⟨rfl, rfl, rfl, rfl⟩
  stale := rfl
  fresh := rfl
  peers := rfl
  host := rfl
  linkA := rfl
  linkB := rfl
  ctxs := rfl
  l1 _ := rfl
  feet _ := rfl
  scr _ := rfl

end Sys2Proof.Machine
end

section
/-! Words written out, the state at reset, the step of a slice, and the words that do nothing else (R303, R339, R296). -/

namespace Sys2Proof.Machine

/-- Settles O56: the decoder evaluates on each word. -/
theorem decodedWords : Obligations.DecodedWords := by
  refine ⟨rfl, rfl, rfl, rfl, rfl, rfl, rfl, rfl, rfl, rfl, rfl⟩

/-- Settles O60: every part is read off the reset state. -/
theorem resetState : Obligations.ResetState :=
  ⟨State.wf_reset, rfl, rfl, rfl, rfl, fun _ => ⟨rfl, rfl, rfl⟩, fun _ => ⟨rfl, rfl, fun _ => rfl⟩, fun _ => rfl⟩

/-! The step. -/

/-- A word that decodes is the one that its opcode names (R245). -/
theorem wordInstr_of_decode {meld : Bool} {x : Word} {i : Instr} (h : decode meld x = .instr i) :
    wordInstr meld x = .ok i := by
  have key {j : Instr} (hj : Decoded.ofInstr j = .instr i) : j = i := by
    unfold Decoded.ofInstr at hj
    split at hj <;> cases hj
    rfl
  unfold decode at h
  unfold wordInstr
  split at h
  · cases h
  · rename_i hh
    rw [if_neg hh]
    cases ho : ofOpc (opcOf x).toNat x with
    | none => simp [ho] at h
    | some j =>
      simp only [ho] at h ⊢
      cases meld with
      | false => exact congrArg Except.ok (key h)
      | true =>
        cases hm : ofOpcMelded (opcOf x).toNat x with
        | none => simp [hm] at h
        | some k => simp only [hm] at h ⊢; exact congrArg Except.ok (key h)

theorem runFragOf_word {ex : Instr → State → Host.Outcome State Fault Refusal} {c : State} {w : Sel} {e : Env} {x : Word}
    {i : Instr} (he : c.envOf w = some e) (hdue : e.due = none) (hleft : e.fr.pos.cl.left ≠ 0)
    (hfetch : c.fetch e e.pc = .ok x) (hdec : decode e.fr.pos.cl.meld x = .instr i) :
    c.runFragOf ex w = ex i { c with cur := some w } := by
  have he' : ({ c with cur := some w } : State).envOf w = some e := he
  have hword : ({ c with cur := some w } : State).nextWord e = .ok (.ok i) := by
    unfold State.nextWord
    rw [(sameFetch_cur c (some w)).fetch, hfetch, ← wordInstr_of_decode hdec]
  unfold State.runFragOf
  simp only [he, hleft, if_false, hdue, Option.isSome_none, Bool.false_eq_true]
  unfold State.runWordOf
  simp only [he', hword]

/-! Words without a result. -/

theorem yield_leaves {s : State} {e : Env} {f : CF} (h : Issues s e (.yield f)) (ht : HeaderAt s e e.afterClause) :
    exec (.yield f) s = .next ((((s.begun e).modFrag e.who (fun fr => { fr with yielded := true })).modSlice
      e.gr.core e.gr.slice (fun l => { l with rest := some e.who })).jumped s e (.yield f) e.afterClause) :=
  issue_go h rfl (transfer_of_headerAt ht _)

theorem idle_wakes {s : State} {e : Env} {f : CF} (h : Issues s e (.idle f)) (hw : e.gr.wake = true) :
    exec (.idle f) s = .next (s.wrote e (.idle f) (fun g => { g with wake := false })) :=
  issue_done h rfl (congrArg Res.done (modGrp_congr h.env (fun _ _ => if_pos hw)))

theorem idle_parks {s : State} {e : Env} {f : CF} (h : Issues s e (.idle f)) (hw : e.gr.wake = false) :
    exec (.idle f) s = .next (s.wrote e (.idle f) (fun g => { g with idle := true })) :=
  issue_done h rfl (congrArg Res.done (modGrp_congr h.env (fun _ _ => if_neg (by simp [hw]))))

/-- Settles O17: each word by its own meaning once it issues. -/
theorem plainControl : Obligations.PlainControl := fun _ _ _ =>
  ⟨fun h => issue_done h rfl rfl, yield_leaves, idle_wakes, idle_parks⟩

end Sys2Proof.Machine

namespace Sys2Proof
open Machine

/-- Settles O58: the first candidate of the slice is the fragment that issues. -/
theorem stepRuns : Obligations.StepRuns := by
  intro s t core slice rest w ws e x i hag s1 c hiss hent hcand he hdue hleft hfetch hdec hexec hwait
  have hnext : s.nextTurn = (.issue core slice, s1) := by
    unfold State.nextTurn
    rw [hag]
  unfold step
  rw [hnext]
  show s1.sliceCycleOf exec core slice = _
  unfold State.sliceCycleOf
  simp only [hiss, hent, hcand, Bool.not_true, Bool.false_eq_true, if_false]
  unfold State.issueFirstOf
  have hrun : c.runFragOf exec w = .next t := (runFragOf_word he hdue hleft hfetch hdec).trans hexec
  simp only [c, s1] at hrun hwait ⊢
  rw [hrun]
  simp only [hwait, Bool.false_eq_true, if_false]

end Sys2Proof
end

section
/-! The bit operations that `gbits` and `vbits` share (R284, R317), told by the bits of their operand. -/

namespace Sys2Proof.Machine

theorem foldl_add_range (f : Nat → Nat) (n : Nat) :
    (List.range n).foldl (fun a i => a + f i) 0 = ∑ i ∈ Finset.range n, f i := by
  induction n with
  | zero => rfl
  | succ n ih => rw [List.range_succ, List.foldl_append, ih, Finset.sum_range_succ]; rfl

/-- Digits of `w` bits below their number's top. -/
theorem digits_lt {w m : Nat} {y : Nat → Nat} (hy : ∀ j, y j < 2 ^ w) :
    ∑ j ∈ Finset.range m, y j * 2 ^ (w * j) < 2 ^ (w * m) := by
  induction m with
  | zero => simp
  | succ m ih =>
    rw [Finset.sum_range_succ, Nat.mul_succ, Nat.pow_add, Nat.mul_comm (2 ^ (w * m))]
    have := Nat.mul_le_mul_right (2 ^ (w * m)) (hy m)
    rw [Nat.succ_mul] at this
    omega

/-- A number given by its digits of `w` bits has their bits. -/
theorem testBit_digits {w m : Nat} {y : Nat → Nat} (hw : 0 < w) (hy : ∀ j, y j < 2 ^ w) (k : Nat) :
    (∑ j ∈ Finset.range m, y j * 2 ^ (w * j)).testBit k = (decide (k / w < m) && (y (k / w)).testBit (k % w)) := by
  induction m with
  | zero => simp
  | succ m ih =>
    rw [Finset.sum_range_succ, Nat.add_comm, Nat.mul_comm (y m), Nat.testBit_two_pow_mul_add _ (digits_lt hy)]
    by_cases hk : k < w * m
    · have : k / w < m := (Nat.div_lt_iff_lt_mul hw).mpr (by rwa [Nat.mul_comm])
      rw [if_pos hk, ih, decide_eq_true this, decide_eq_true (by lia)]
    · have hge : m ≤ k / w := (Nat.le_div_iff_mul_le hw).mpr (by rw [Nat.mul_comm]; lia)
      rw [if_neg hk]
      by_cases he : k / w = m
      · have hsub : k - w * m = k % w := by have := Nat.div_add_mod k w; rw [he] at this; lia
        rw [hsub, he, decide_eq_true (by lia), Bool.true_and]
      · have hbig : w ≤ k - w * m := by
          have := Nat.mul_le_of_le_div w (m + 1) k (by lia)
          rw [Nat.add_mul, Nat.mul_comm m] at this
          lia
        rw [decide_eq_false (by lia), Bool.false_and]
        exact Nat.testBit_lt_two_pow (lt_of_lt_of_le (hy m) (Nat.pow_le_pow_right (by lia) hbig))

/-! Each operation. -/

theorem div_pow_mod_two (x i : Nat) : x / 2 ^ i % 2 = if x.testBit i then 1 else 0 := by
  rw [Nat.testBit_eq_decide_div_mod_eq]
  have := Nat.mod_lt (x / 2 ^ i) (show 0 < 2 by decide)
  by_cases h : x / 2 ^ i % 2 = 1
  · simp [h]
  · simp [h]; lia

theorem popcNat_eq (n x : Nat) : popcNat n x = (List.range n).countP (fun j => x.testBit j) := by
  unfold popcNat
  induction n with
  | zero => rfl
  | succ n ih =>
    rw [List.range_succ, List.foldl_append, List.countP_append, ih, List.countP_singleton]
    simp only [List.foldl_cons, List.foldl_nil, div_pow_mod_two]

theorem popcNat_le (n x : Nat) : popcNat n x ≤ n := by
  rw [popcNat_eq]
  exact List.countP_le_length.trans (by simp)

theorem clzNat_spec {n x : Nat} (hx : x < 2 ^ n) :
    clzNat n x ≤ n ∧ x < 2 ^ (n - clzNat n x) ∧ (clzNat n x < n → 2 ^ (n - 1 - clzNat n x) ≤ x) := by
  unfold clzNat
  split
  · subst x
    exact ⟨le_rfl, by simp, fun h => absurd h (by omega)⟩
  · rename_i h0
    have hlog : x.log2 < n := (Nat.log2_lt h0).mpr hx
    refine ⟨by omega, ?_, fun _ => ?_⟩
    · rw [show n - (n - 1 - x.log2) = x.log2 + 1 by omega]
      exact Nat.lt_log2_self
    · rw [show n - 1 - (n - 1 - x.log2) = x.log2 by omega]
      exact Nat.log2_self_le h0

theorem ctzNat_spec (n x : Nat) :
    ctzNat n x ≤ n ∧ (∀ j, j < ctzNat n x → x.testBit j = false) ∧ (ctzNat n x < n → x.testBit (ctzNat n x) = true) := by
  unfold ctzNat
  have hp : (fun i => decide (x / 2 ^ i % 2 = 1)) = fun i => x.testBit i :=
    funext fun i => (Nat.testBit_eq_decide_div_mod_eq).symm
  simp only [hp]
  cases h : (List.range n).find? (fun i => x.testBit i) with
  | none =>
    rw [List.find?_range_eq_none] at h
    exact ⟨le_rfl, fun j hj => by simpa using h j hj, fun hn => absurd hn (lt_irrefl n)⟩
  | some r =>
    rw [List.find?_range_eq_some] at h
    obtain ⟨hbit, hr, hlow⟩ := h
    exact ⟨(List.mem_range.mp hr).le, fun j hj => by simpa using hlow j hj, fun _ => hbit⟩

theorem brevNat_eq (n x : Nat) :
    brevNat n x = ∑ j ∈ Finset.range n, x / 2 ^ (n - 1 - j) % 2 * 2 ^ (1 * j) := by
  unfold brevNat
  rw [foldl_add_range, ← Finset.sum_range_reflect]
  refine Finset.sum_congr rfl fun j hj => ?_
  have := Finset.mem_range.mp hj
  rw [show n - 1 - (n - 1 - j) = 1 * j by omega]

theorem brevNat_lt (n x : Nat) : brevNat n x < 2 ^ n := by
  rw [brevNat_eq]
  exact (digits_lt (w := 1) fun j => Nat.mod_lt _ (by decide)).trans_eq (by rw [Nat.one_mul])

theorem testBit_brevNat {n j : Nat} (x : Nat) (hj : j < n) : (brevNat n x).testBit j = x.testBit (n - 1 - j) := by
  have hy : ∀ j, x / 2 ^ (n - 1 - j) % 2 < 2 ^ 1 := fun j => Nat.mod_lt _ (by decide)
  rw [brevNat_eq, testBit_digits (by decide) hy, Nat.div_one, Nat.mod_one,
    decide_eq_true hj, Bool.true_and, div_pow_mod_two]
  cases x.testBit (n - 1 - j) <;> rfl

theorem bswapNat_eq {n : Nat} (x : Nat) (hn : 8 ∣ n) :
    bswapNat n x = ∑ j ∈ Finset.range (n / 8), x / 2 ^ (8 * (n / 8 - 1 - j)) % 256 * 2 ^ (8 * j) := by
  unfold bswapNat
  rw [foldl_add_range, ← Finset.sum_range_reflect]
  refine Finset.sum_congr rfl fun j hj => ?_
  have := Finset.mem_range.mp hj
  rw [show n - 8 - 8 * (n / 8 - 1 - j) = 8 * j by omega]

theorem bswapNat_lt {n : Nat} (x : Nat) (hn : 8 ∣ n) : bswapNat n x < 2 ^ n := by
  rw [bswapNat_eq x hn]
  exact (digits_lt (w := 8) fun j => Nat.mod_lt _ (by decide)).trans_eq (by rw [Nat.mul_div_cancel' hn])

theorem testBit_bswapNat {n j : Nat} (x : Nat) (hn : 8 ∣ n) (hj : j < n) :
    (bswapNat n x).testBit j = x.testBit (8 * (n / 8 - 1 - j / 8) + j % 8) := by
  have hy : ∀ j, x / 2 ^ (8 * (n / 8 - 1 - j)) % 256 < 2 ^ 8 := fun j => Nat.mod_lt _ (by decide)
  rw [bswapNat_eq x hn, testBit_digits (by decide) hy, decide_eq_true (by omega),
    Bool.true_and, show 256 = 2 ^ 8 from rfl, Nat.testBit_mod_two_pow, decide_eq_true (Nat.mod_lt _ (by decide)),
    Bool.true_and, Nat.testBit_div_two_pow, Nat.add_comm]

/-- What the statements say of the result of a bit operation. -/
theorem bitOp_spec {n x : Nat} (hn : 8 ∣ n) (op : Nat) (hx : x < 2 ^ n) :
    bitOp op n x < 2 ^ n ∧
    (op = 0 → bitOp op n x = (List.range n).countP (fun j => x.testBit j)) ∧
    (op = 1 → bitOp op n x ≤ n ∧ x < 2 ^ (n - bitOp op n x) ∧ (bitOp op n x < n → 2 ^ (n - 1 - bitOp op n x) ≤ x)) ∧
    (op = 2 → bitOp op n x ≤ n ∧ (∀ j, j < bitOp op n x → x.testBit j = false) ∧
      (bitOp op n x < n → x.testBit (bitOp op n x) = true)) ∧
    (op = 3 → ∀ j, j < n → (bitOp op n x).testBit j = x.testBit (n - 1 - j)) ∧
    (op = 4 → ∀ j, j < n → (bitOp op n x).testBit j = x.testBit (8 * (n / 8 - 1 - j / 8) + j % 8)) := by
  have hsmall : n < 2 ^ n := Nat.lt_two_pow_self
  refine ⟨?_, ?_, ?_, ?_, ?_, ?_⟩
  · unfold bitOp
    split
    · exact (popcNat_le n x).trans_lt hsmall
    · exact (clzNat_spec hx).1.trans_lt hsmall
    · exact (ctzNat_spec n x).1.trans_lt hsmall
    · exact brevNat_lt n x
    · exact bswapNat_lt x hn
  · rintro rfl; exact popcNat_eq n x
  · rintro rfl; exact clzNat_spec hx
  · rintro rfl; exact ctzNat_spec n x
  · rintro rfl; exact fun j hj => testBit_brevNat x hj
  · rintro rfl; exact fun j hj => testBit_bswapNat x hn hj

end Sys2Proof.Machine
end

section
/-! Group arithmetic (R284, R285): a result is told by any integer that agrees with it at n bits. -/

namespace Sys2Proof

open Machine

variable (f : GF) (x : Word)

theorem GF.n_cases : f.w = true ∧ f.n = 64 ∨ f.w = false ∧ f.n = 32 := by
  unfold GF.n
  cases f.w <;> simp

theorem GF.eight_dvd_n : 8 ∣ f.n := by
  rcases f.n_cases with ⟨_, hn⟩ | ⟨_, hn⟩ <;> rw [hn] <;> decide

theorem GF.cut_eq_nat : f.cut x = f.nat x := by
  unfold GF.cut GF.nat
  rcases f.n_cases with ⟨hw, hn⟩ | ⟨hw, hn⟩ <;> rw [hn] <;> simp only [hw]
  · exact Nat.mod_eq_of_lt x.isLt
  · exact (BitVec.toNat_setWidth 32 x).symm

theorem GF.nat_lt : f.nat x < 2 ^ f.n := by
  rw [← f.cut_eq_nat]
  exact Nat.mod_lt _ (Nat.two_pow_pos _)

/-- A number of n bits read as the machine reads signed ones. -/
theorem GF.signed_nat : (if 2 ^ (f.n - 1) ≤ f.nat x then (f.nat x : Int) - 2 ^ f.n else f.nat x) = f.sgn x := by
  unfold GF.nat GF.sgn
  rcases f.n_cases with ⟨hw, hn⟩ | ⟨hw, hn⟩ <;> rw [hn] <;> simp only [hw, if_true, Bool.false_eq_true, if_false] <;>
    rw [BitVec.toInt_eq_toNat_cond] <;> split <;> split <;> lia

theorem GF.sval_cut : f.sval (f.cut x) = f.int x := by
  have hs := f.signed_nat x
  rw [f.cut_eq_nat]
  unfold GF.sval GF.int
  cases hu : f.u
  · unfold GF.sgn at hs
    simpa using hs
  · unfold GF.nat
    cases f.w <;> simp

theorem GF.int_emod : f.int x % 2 ^ f.n = f.nat x := by
  have hlt := f.nat_lt x
  rw [← f.sval_cut, f.cut_eq_nat]
  unfold GF.sval
  rcases f.n_cases with ⟨_, hn⟩ | ⟨_, hn⟩ <;> rw [hn] at hlt ⊢ <;> split <;> lia

theorem GF.nat_emod : (f.nat x : Int) % 2 ^ f.n = f.int x % 2 ^ f.n := by
  rw [← f.int_emod, Int.emod_emod]

theorem GF.sgn_emod : f.sgn x % 2 ^ f.n = f.nat x := by
  have hlt := f.nat_lt x
  rw [← f.signed_nat]
  rcases f.n_cases with ⟨_, hn⟩ | ⟨_, hn⟩ <;> rw [hn] at hlt ⊢ <;> split <;> lia

theorem GF.toInt_emod : x.toInt % 2 ^ f.n = f.nat x := by
  rw [← f.cut_eq_nat, BitVec.toInt_eq_toNat_cond]
  unfold GF.cut
  rcases f.n_cases with ⟨_, hn⟩ | ⟨_, hn⟩ <;> rw [hn] <;> split <;> lia

/-- A result of n bits is put as any integer that agrees with it there. -/
theorem GF.ext_eq_put {m : Nat} {y : Int} (h : (m : Int) % 2 ^ f.n = y % 2 ^ f.n) : f.ext (m % 2 ^ f.n) = f.put y := by
  unfold GF.ext GF.put
  rcases f.n_cases with ⟨hw, hn⟩ | ⟨hw, hn⟩ <;> rw [hn] at h ⊢ <;> simp only [hw, if_true, Bool.false_eq_true, if_false]
  · apply BitVec.eq_of_toInt_eq
    rw [BitVec.toInt_ofInt, ← BitVec.ofInt_natCast, BitVec.toInt_ofInt]
    simp only [Int.bmod]
    lia
  · have hv : BitVec.ofNat 32 (m % 2 ^ 32) = BitVec.ofInt 32 y := by
      apply BitVec.eq_of_toNat_eq
      rw [BitVec.toNat_ofNat, BitVec.toNat_ofInt]
      lia
    rw [← hv]
    cases f.u
    · rfl
    · apply BitVec.eq_of_toNat_eq
      simp only [if_true, BitVec.toNat_ofNat, BitVec.toNat_setWidth]

theorem cutInt_emod (n : Nat) (y : Int) : (cutInt n y : Int) % 2 ^ n = y % 2 ^ n := by
  have hpos : (0 : Int) < 2 ^ n := by positivity
  rw [cutInt, Int.toNat_of_nonneg (Int.emod_nonneg y hpos.ne'), Int.emod_emod]

theorem cutInt_lt (n : Nat) (y : Int) : cutInt n y < 2 ^ n := by
  have hpos : (0 : Int) < 2 ^ n := by positivity
  have := Int.emod_lt_of_pos y hpos
  rw [cutInt, Int.toNat_lt (Int.emod_nonneg y hpos.ne')]
  exact_mod_cast this

end Sys2Proof

namespace Sys2Proof.Machine

section
variable {s : State} {e : Env} {f : GF}

/-- A word of `gop` writes the integer that its operation agrees with at n bits. -/
theorem gop_puts {i : Instr} {z : Bool} {op : Nat → Nat → Nat → Nat} {y : Int} {body : Env → State → Res}
    (hi : trapFence i = false) (hx : exec i s = s.issue i body) (hb : body e (s.begun e) = e.gop f z op (s.begun e))
    (hy : (op (f.nat (e.g f.a.toNat)) (f.nat (f.srcB e z)) (f.nat (e.g f.d.toNat)) : Int) % 2 ^ f.n = y % 2 ^ f.n)
    (h : Issues s e i) : exec i s = .next (s.wrote e i (e.putG f.d.toNat (f.put y))) := by
  rw [hx]
  refine issue_putsG_silent h hi ?_
  rw [hb, Env.gop, GF.cut_eq_nat, GF.cut_eq_nat, GF.cut_eq_nat, f.ext_eq_put hy]

end

/-! The operations of R284 at n bits. -/

section
variable (f : GF) (a b d : Word)

theorem gadd_agrees : ((f.nat a + f.nat b : Nat) : Int) % 2 ^ f.n = (f.int a + f.int b) % 2 ^ f.n := by
  rw [Int.add_emod (f.int a), f.int_emod, f.int_emod, Nat.cast_add]

theorem gsub_agrees : ((f.nat a + (2 ^ f.n - f.nat b) : Nat) : Int) % 2 ^ f.n = (f.int a - f.int b) % 2 ^ f.n := by
  have hb := f.nat_lt b
  rw [Int.sub_emod (f.int a), f.int_emod, f.int_emod]
  rcases f.n_cases with ⟨_, hn⟩ | ⟨_, hn⟩ <;> rw [hn] at hb ⊢ <;> lia

theorem gmul_agrees : ((f.nat a * f.nat b : Nat) : Int) % 2 ^ f.n = f.int a * f.int b % 2 ^ f.n := by
  rw [Int.mul_emod (f.int a), f.int_emod, f.int_emod, Nat.cast_mul]

theorem gmulh_agrees : (cutInt f.n (f.sval (f.nat a) * f.sval (f.nat b) / 2 ^ f.n) : Int) % 2 ^ f.n =
    f.int a * f.int b / 2 ^ f.n % 2 ^ f.n := by
  rw [cutInt_emod, ← f.cut_eq_nat, ← f.cut_eq_nat, f.sval_cut, f.sval_cut]

theorem gmad_agrees : ((f.nat a * f.nat b + f.nat d : Nat) : Int) % 2 ^ f.n =
    (f.int a * f.int b + f.int d) % 2 ^ f.n := by
  rw [Int.add_emod (f.int a * f.int b), ← gmul_agrees, f.int_emod, ← Int.emod_emod_of_dvd _ (dvd_refl _),
    Nat.cast_add, Int.add_emod]
  simp

/-- The n low bits of a bitwise operation are those of its operands. -/
theorem bitwise_agrees (op : Word → Word → Word) (k : Nat → Nat → Nat)
    (hop : ∀ n, n ≤ 64 → (op a b).toNat % 2 ^ n = k (a.toNat % 2 ^ n) (b.toNat % 2 ^ n)) :
    ((k (f.nat a) (f.nat b) : Nat) : Int) % 2 ^ f.n = (op a b).toInt % 2 ^ f.n := by
  have hn : f.n ≤ 64 := by rcases f.n_cases with ⟨_, hn⟩ | ⟨_, hn⟩ <;> lia
  rw [f.toInt_emod, ← f.cut_eq_nat, ← f.cut_eq_nat, ← f.cut_eq_nat]
  unfold GF.cut
  rw [← hop f.n hn]
  exact_mod_cast Nat.mod_mod _ _

theorem gand_agrees : ((f.nat a &&& f.nat b : Nat) : Int) % 2 ^ f.n = (a &&& b).toInt % 2 ^ f.n :=
  bitwise_agrees f a b (· &&& ·) (· &&& ·) fun n _ => by rw [BitVec.toNat_and, Nat.and_mod_two_pow]

theorem gor_agrees : ((f.nat a ||| f.nat b : Nat) : Int) % 2 ^ f.n = (a ||| b).toInt % 2 ^ f.n :=
  bitwise_agrees f a b (· ||| ·) (· ||| ·) fun n _ => by rw [BitVec.toNat_or, Nat.or_mod_two_pow]

theorem gxor_agrees : ((f.nat a ^^^ f.nat b : Nat) : Int) % 2 ^ f.n = (a ^^^ b).toInt % 2 ^ f.n :=
  bitwise_agrees f a b (· ^^^ ·) (· ^^^ ·) fun n _ => by rw [BitVec.toNat_xor, Nat.xor_mod_two_pow]

theorem gshl_agrees (k : Nat) : ((if f.n ≤ k then 0 else f.nat a * 2 ^ k : Nat) : Int) % 2 ^ f.n =
    f.int a * 2 ^ k % 2 ^ f.n := by
  split
  · rename_i hk
    rw [Int.emod_eq_zero_of_dvd (Dvd.dvd.mul_left (pow_dvd_pow 2 hk) _)]
    rfl
  · rw [Nat.cast_mul, Nat.cast_pow, Nat.cast_ofNat]
    exact Int.ModEq.mul_right _ (f.nat_emod a)

theorem gshr_agrees (k : Nat) : ((if f.n ≤ k then 0 else f.nat a / 2 ^ k : Nat) : Int) % 2 ^ f.n =
    ((f.nat a / 2 ^ k : Nat) : Int) % 2 ^ f.n := by
  split
  · rename_i hk
    rw [Nat.div_eq_of_lt ((f.nat_lt a).trans_le (Nat.pow_le_pow_right (by decide) hk))]
  · rfl

/-- Shifting a number of n signed bits by more than n leaves its sign alone. -/
theorem ediv_pow_min {n k : Nat} {y : Int} (hlo : -2 ^ n ≤ y) (hhi : y < 2 ^ n) :
    y / 2 ^ min k n = y / 2 ^ k := by
  rcases Nat.le_total k n with h | h
  · rw [Nat.min_eq_left h]
  · rw [Nat.min_eq_right h]
    have hp : (2 : Int) ^ n ≤ 2 ^ k := pow_le_pow_right₀ (by decide) h
    rcases lt_or_ge y 0 with hy | hy
    · rw [Int.ediv_eq_neg_one_of_neg_of_le hy (by lia), Int.ediv_eq_neg_one_of_neg_of_le hy (by lia)]
    · rw [Int.ediv_eq_zero_of_lt hy hhi, Int.ediv_eq_zero_of_lt hy (by lia)]

theorem gsar_agrees (k : Nat) : (sarNat f.n (f.nat a) k : Int) % 2 ^ f.n = f.sgn a / 2 ^ k % 2 ^ f.n := by
  have hlt := f.nat_lt a
  have hs := f.signed_nat a
  unfold sarNat
  rw [cutInt_emod, hs, ediv_pow_min]
  all_goals rw [← hs]; rcases f.n_cases with ⟨_, hn⟩ | ⟨_, hn⟩ <;> rw [hn] at hlt ⊢ <;> split <;> lia

theorem gmin_agrees : ((if f.sval (f.nat b) < f.sval (f.nat a) then f.nat b else f.nat a : Nat) : Int) % 2 ^ f.n =
    min (f.int a) (f.int b) % 2 ^ f.n := by
  rw [← f.cut_eq_nat a, ← f.cut_eq_nat b, f.sval_cut, f.sval_cut]
  split
  · rename_i h
    rw [min_eq_right h.le, f.cut_eq_nat, f.nat_emod]
  · rename_i h
    rw [min_eq_left (not_lt.mp h), f.cut_eq_nat, f.nat_emod]

theorem gmax_agrees : ((if f.sval (f.nat a) < f.sval (f.nat b) then f.nat b else f.nat a : Nat) : Int) % 2 ^ f.n =
    max (f.int a) (f.int b) % 2 ^ f.n := by
  rw [← f.cut_eq_nat a, ← f.cut_eq_nat b, f.sval_cut, f.sval_cut]
  split
  · rename_i h
    rw [max_eq_right h.le, f.cut_eq_nat, f.nat_emod]
  · rename_i h
    rw [max_eq_left (not_lt.mp h), f.cut_eq_nat, f.nat_emod]

theorem gmov_agrees : (f.nat a : Int) % 2 ^ f.n = a.toInt % 2 ^ f.n := by
  rw [f.toInt_emod, ← f.int_emod, Int.emod_emod]

theorem gsel_agrees (c : Bool) : ((if c then f.nat a else f.nat b : Nat) : Int) % 2 ^ f.n =
    (if c then a else b).toInt % 2 ^ f.n := by
  cases c
  · exact gmov_agrees f b
  · exact gmov_agrees f a

end

/-- `gmovh` works at 64 bits (R284). -/
theorem gmovh_joins {s : State} {e : Env} {f : GF} (h : Issues s e (.gmovh f)) :
    exec (.gmovh f) s = .next (s.wrote e (.gmovh f) (e.putG f.d.toNat
      ((f.srcB e true).setWidth 32 ++ (e.g f.d.toNat).setWidth 32))) := by
  have hw : f.w = true := by
    have hf := fieldsOk_of_issues h
    simp only [Instr.fieldsOk, Bool.and_eq_true] at hf
    exact hf.2
  refine issue_putsG_silent h rfl ?_
  have hn : f.n = 64 := by rw [GF.n, hw]; rfl
  rw [Env.gop, hn]
  congr 1
  apply BitVec.eq_of_toNat_eq
  unfold GF.ext GF.cut
  rw [hn, hw, if_pos rfl, BitVec.toNat_ofNat, BitVec.toNat_append, Nat.shiftLeft_eq, Nat.mul_comm _ (2 ^ 32), Nat.mul_comm _ (2 ^ 32),
    ← Nat.two_pow_add_eq_or_of_lt (BitVec.isLt _), BitVec.toNat_setWidth, BitVec.toNat_setWidth]
  lia

/-! `gdiv` and `grem` (R285). -/

section
variable {s : State} {e : Env} {f : GF}

/-- A result that `cutInt` has cut. -/
theorem ext_cutInt (f : GF) (y : Int) : f.ext (cutInt f.n y) = f.put y := by
  rw [← Nat.mod_eq_of_lt (cutInt_lt f.n y)]
  exact f.ext_eq_put (cutInt_emod f.n y)

theorem ext_ones (f : GF) : f.ext (2 ^ f.n - 1) = f.put (-1) := by
  have h : 2 ^ f.n - 1 < 2 ^ f.n := Nat.sub_lt (Nat.two_pow_pos _) (by decide)
  rw [← Nat.mod_eq_of_lt h]
  refine f.ext_eq_put ?_
  rcases f.n_cases with ⟨_, hn⟩ | ⟨_, hn⟩ <;> rw [hn] <;> rfl

theorem ext_nat (f : GF) (x : Word) : f.ext (f.nat x) = f.put (f.int x) := by
  rw [← Nat.mod_eq_of_lt (f.nat_lt x)]
  exact f.ext_eq_put (f.nat_emod x)

/-- A word of R285 whose divisor is not zero raises nothing. -/
theorem divides {i : Instr} {op : Nat → Nat → Nat} {y : Int} (hi : trapFence i = false)
    (hx : exec i s = s.issue i (fun e s => e.putsG f.d.toNat
      (f.ext (op (f.cut (e.g f.a.toNat)) (f.cut (f.srcB e false)))) s (flIf (f.cut (f.srcB e false) == 0) flDZ)))
    (hb : f.nat (f.srcB e false) ≠ 0) (hy : f.ext (op (f.nat (e.g f.a.toNat)) (f.nat (f.srcB e false))) = f.put y)
    (h : Issues s e i) : exec i s = .next (s.wrote e i (e.putG f.d.toNat (f.put y))) := by
  rw [hx]
  refine issue_putsG_silent h hi ?_
  rw [f.cut_eq_nat, f.cut_eq_nat, hy, beq_false_of_ne hb]
  rfl

/-- A word of R285 whose divisor is zero raises DZ. -/
theorem divides_zero {i : Instr} {op : Nat → Nat → Nat} {y : Int} (hi : trapFence i = false)
    (hx : exec i s = s.issue i (fun e s => e.putsG f.d.toNat
      (f.ext (op (f.cut (e.g f.a.toNat)) (f.cut (f.srcB e false)))) s (flIf (f.cut (f.srcB e false) == 0) flDZ)))
    (hb : f.nat (f.srcB e false) = 0) (hy : f.ext (op (f.nat (e.g f.a.toNat)) 0) = f.put y)
    (h : Issues s e i) : exec i s = .next (s.wrote e i (fun g => (e.putG f.d.toNat (f.put y) g).raise flDZ)) := by
  rw [hx]
  refine issue_putsG h hi ?_
  rw [f.cut_eq_nat, f.cut_eq_nat, hb, hy]
  rfl

theorem gquot_nonzero (a b : Word) (hb : f.nat b ≠ 0) :
    f.ext (gquot f (f.nat a) (f.nat b)) = f.put ((f.int a).tdiv (f.int b)) := by
  rw [gquot, if_neg hb, ext_cutInt, ← f.cut_eq_nat, ← f.cut_eq_nat, f.sval_cut, f.sval_cut]

theorem grest_nonzero (a b : Word) (hb : f.nat b ≠ 0) :
    f.ext (grest f (f.nat a) (f.nat b)) = f.put ((f.int a).tmod (f.int b)) := by
  rw [grest, if_neg hb, ext_cutInt, ← f.cut_eq_nat, ← f.cut_eq_nat, f.sval_cut, f.sval_cut]

theorem gquot_zero (a : Nat) : f.ext (gquot f a 0) = f.put (-1) := by
  rw [gquot, if_pos rfl, ext_ones]

theorem grest_zero (a : Word) : f.ext (grest f (f.nat a) 0) = f.put (f.int a) := by
  rw [grest, if_pos rfl, ext_nat]

/-! `gbits` (R284). -/

theorem gbits_puts (h : Issues s e (.gbits f)) :
    exec (.gbits f) s = .next (s.wrote e (.gbits f) (e.putG f.d.toNat
      (f.put (bitOp f.sel.toNat f.n (f.nat (f.srcB e true)) : Nat)))) :=
  gop_puts rfl rfl rfl rfl h

end

/-- Settles O1: `gop` and the divisions by what they compute at n bits, and `gbits` by `bitOp`. -/
theorem groupArithmetic : Obligations.GroupArithmetic := by
  refine ⟨fun s e f => ?_, fun s e f => ?_, fun s e f h => ?_⟩
  · exact ⟨gop_puts rfl rfl rfl (gadd_agrees ..), gop_puts rfl rfl rfl (gsub_agrees ..),
      gop_puts rfl rfl rfl (gmul_agrees ..), gop_puts rfl rfl rfl (gmulh_agrees ..),
      gop_puts rfl rfl rfl (gmad_agrees ..), gop_puts rfl rfl rfl (gand_agrees ..),
      gop_puts rfl rfl rfl (gor_agrees ..), gop_puts rfl rfl rfl (gxor_agrees ..),
      gop_puts rfl rfl rfl (gshl_agrees ..), gop_puts rfl rfl rfl (gshr_agrees ..),
      gop_puts rfl rfl rfl (gsar_agrees ..), gop_puts rfl rfl rfl (gmin_agrees ..),
      gop_puts rfl rfl rfl (gmax_agrees ..), gop_puts rfl rfl rfl (gmov_agrees ..), gmovh_joins,
      gop_puts rfl rfl rfl (gsel_agrees ..)⟩
  · exact ⟨fun h hb => divides (op := gquot f) rfl rfl hb (gquot_nonzero _ _ hb) h,
      fun h hb => divides_zero (op := gquot f) rfl rfl hb (gquot_zero _) h,
      fun h hb => divides (op := grest f) rfl rfl hb (grest_nonzero _ _ hb) h,
      fun h hb => divides_zero (op := grest f) rfl rfl hb (grest_zero _) h⟩
  · obtain ⟨hlt, h0, h1, h2, h3, h4⟩ := bitOp_spec f.eight_dvd_n f.sel.toNat (f.nat_lt (f.srcB e true))
    have code {n : Nat} {c : BitVec 3} (hn : c.toNat = n) (hc : f.sel = c) : f.sel.toNat = n := by rw [hc, hn]
    exact ⟨_, gbits_puts h, hlt, fun hc => h0 (code rfl hc), fun hc => h1 (code rfl hc), fun hc => h2 (code rfl hc),
      fun hc => h3 (code rfl hc), fun hc => h4 (code rfl hc)⟩


/-! Group predicates (R286) and lane masks (R282, R283). -/

theorem condHolds_ints {c : Nat} (hc : c ≤ 5) (a b : Int) : condHolds c (some (intOrder a b)) = condInt c a b := by
  unfold intOrder
  rcases lt_trichotomy a b with h | h | h
  · rw [compare_lt_iff_lt.mpr h]
    interval_cases c <;> simp [condHolds, condInt, h, h.le, h.ne, h.not_gt, h.not_ge]
  · subst h
    rw [compare_eq_iff_eq.mpr rfl]
    interval_cases c <;> simp [condHolds, condInt]
  · rw [compare_gt_iff_gt.mpr h]
    interval_cases c <;> simp [condHolds, condInt, h, h.le, h.ne', h.not_gt, h.not_ge]

theorem Group.gpReg_setGp_zero (g : Group) (n : Nat) (b : Bool) : (g.setGp n b).gpReg 0 = true := by
  simp [Group.gpReg]

theorem Group.gpReg_setGp_same (g : Group) {n : Nat} (hn : n ≠ 0) (b : Bool) : (g.setGp n b).gpReg n = b := by
  simp [Group.gpReg, Group.setGp, hn, AMap.get_set]

section
variable {s : State} {e : Env} {f : GF}

theorem gcmp_puts (h : Issues s e (.gcmp f)) :
    exec (.gcmp f) s = .next (s.wrote e (.gcmp f) (fun g =>
      g.setGp f.d.toNat (condInt f.sel.toNat (f.int (e.g f.a.toNat)) (f.int (f.srcB e false))))) := by
  have hsel : f.sel.toNat ≤ 5 := by
    have hf := fieldsOk_of_issues h
    simp only [Instr.fieldsOk, Bool.and_eq_true, decide_eq_true_eq] at hf
    exact hf.1.2
  refine issue_done h rfl ?_
  simp only [f.sval_cut, condHolds_ints hsel]

theorem emov_from_exec (h : Issues s e (.emov f)) (hs : f.sel = 0) :
    exec (.emov f) s = .next (s.wrote e (.emov f) (e.putG f.d.toNat e.fr.exec)) :=
  issue_putsG_silent h rfl (by simp [hs])

theorem emov_to_exec (h : Issues s e (.emov f)) (hs : f.sel = 1) :
    exec (.emov f) s = .next (s.wrote e (.emov f) (fun g =>
      g.modFrag e.who.frag (fun fr => { fr with exec := e.g f.a.toNat &&& e.reach }))) :=
  issue_done h rfl (by simp [hs]; rfl)

theorem emov_from_predicate (h : Issues s e (.emov f)) (hs : f.sel = 2) :
    exec (.emov f) s = .next (s.wrote e (.emov f) (e.putG f.d.toNat (e.gr.pReg f.a.toNat &&& widthMask e.width))) :=
  issue_putsG_silent h rfl (by simp [hs])

theorem emov_to_predicate (h : Issues s e (.emov f)) (hs : f.sel = 3) :
    exec (.emov f) s = .next (s.wrote e (.emov f) (fun g => g.setP f.d.toNat (widthMask e.width) (e.g f.a.toNat))) :=
  issue_done h rfl (by simp [hs])

end

theorem setGp_reads {e : Env} {f : GF} (b : Bool) :
    (e.gr.setGp f.d.toNat b).gpReg 0 = true ∧ (f.d ≠ 0 → (e.gr.setGp f.d.toNat b).gpReg f.d.toNat = b) :=
  ⟨e.gr.gpReg_setGp_zero _ b, fun hd => e.gr.gpReg_setGp_same (fun h0 => hd (BitVec.eq_of_toNat_eq h0)) b⟩

/-- Settles O2: the compare of integers, the eight operations of `logOp`, and `emov` form by form. -/
theorem groupPredicates : Obligations.GroupPredicates :=
  ⟨fun _ _ _ => ⟨fun h => ⟨gcmp_puts h, setGp_reads _⟩, fun h => ⟨issue_done h rfl rfl, setGp_reads _⟩⟩,
    fun _ _ _ h => ⟨emov_from_exec h, emov_to_exec h, emov_from_predicate h, emov_to_predicate h⟩⟩

end Sys2Proof.Machine
end

section
/-! Words that write the lanes of a register: from the state change of their meaning to what every lane takes. -/

namespace Sys2Proof.Machine

/-! Changes of one group, one after another. -/

theorem State.modGrp_modGrp (s : State) (w : Sel) (f k : Group → Group) :
    (s.modGrp w f).modGrp w k = s.modGrp w (fun g => k (f g)) := by
  unfold State.modGrp State.modTeam Team.modGrp
  simp only [AMap.modify_modify]

theorem AMap.modify_id {α : Type} (m : AMap α) (k : Nat) : AMap.modify m k (fun x => x) = m := by
  induction m with
  | nil => rfl
  | cons e m ih =>
    obtain ⟨i, y⟩ := e
    simp only [AMap.modify, ih]
    split <;> rfl

theorem State.modGrp_id (s : State) (w : Sel) : s.modGrp w (fun g => g) = s := by
  unfold State.modGrp State.modTeam Team.modGrp
  simp only [AMap.modify_id]

theorem foldl_modGrp {α : Type} (w : Sel) (f : α → Group → Group) (xs : List α) (s : State) :
    xs.foldl (fun s x => s.modGrp w (f x)) s = s.modGrp w (fun g => xs.foldl (fun g x => f x g) g) := by
  induction xs generalizing s with
  | nil => exact (s.modGrp_id w).symm
  | cons x xs ih =>
    simp only [List.foldl_cons]
    rw [ih, State.modGrp_modGrp]

/-! The lanes of one mask, and of the arms of a melded word. -/

theorem foldl_congr_mem {α β : Type} {f k : β → α → β} {xs : List α} (h : ∀ b, ∀ x ∈ xs, f b x = k b x) (b : β) :
    xs.foldl f b = xs.foldl k b := by
  induction xs generalizing b with
  | nil => rfl
  | cons x xs ih =>
    simp only [List.foldl_cons]
    rw [h b x (List.mem_cons_self ..), ih fun b y hy => h b y (List.mem_cons_of_mem _ hy)]

theorem forLanes_eq_laneSteps {m : Word} {pair : Bool} {d : Nat} {step : Nat → Group → Group} {x : Nat → Word}
    {fl : Nat → Flags} (h : ∀ l, l < 64 → m.getLsbD l = true → ∀ g, step l g = laneStep pair d x fl l g) (g : Group) :
    forLanes m step g = (lanesOf m).foldl (fun g l => laneStep pair d x fl l g) g :=
  foldl_congr_mem (fun g l hl => h l (mem_lanesOf.mp hl).1 (mem_lanesOf.mp hl).2 g) g

theorem apart_oneArm (m : Word) (d : Nat) : apart (oneArm m d) := List.pairwise_singleton _ _

theorem apart_arms (f : VMF) (e : Env) : apart (f.arms e) := by
  have h : (e.fr.exec &&& e.region) &&& (e.fr.exec &&& ~~~e.region) = 0 := by
    ext i hi
    simp only [BitVec.getElem_and, BitVec.getElem_not]
    cases e.fr.exec[i] <;> cases e.region[i] <;> simp
  unfold apart VMF.arms
  cases f.ena <;> cases f.enb <;> simp [h]

section
variable {s : State} {e : Env} {i : Instr} {body : Env → State → Res}

/-- A word whose whole effect is lane after lane of one register. -/
theorem takes_forLanes {m : Word} {pair : Bool} {d : Nat} {step : Nat → Group → Group} {x : Nat → Word}
    {fl : Nat → Flags} (hf : trapFence i = false) (hx : exec i s = s.issue i body)
    (hb : body e (s.begun e) = .done ((s.begun e).modGrp e.who (forLanes m step)))
    (hstep : ∀ l, l < 64 → m.getLsbD l = true → ∀ g, step l g = laneStep pair d x fl l g) (h : Issues s e i) :
    TakesLanes s e i pair (oneArm m d) (fun _ l => x l) (fun _ l => fl l) :=
  takes_of_body h hf hx hb (apart_oneArm m d) fun _ _ => forLanes_eq_laneSteps hstep _

/-- A melded word whose whole effect is arm after arm, and lane after lane in each. -/
theorem takes_arms {f : VMF} {step : Arm → Nat → Group → Group} {x : Arm → Nat → Word}
    {fl : Arm → Nat → Flags} (hf : trapFence i = false) (hx : exec i s = s.issue i body)
    (hb : body e (s.begun e) = .done ((f.arms e).foldl (fun s y => s.modGrp e.who (forLanes y.m (step y))) (s.begun e)))
    (hstep : ∀ y ∈ f.arms e, ∀ l, l < 64 → y.m.getLsbD l = true → ∀ g, step y l g = laneStep false y.d (x y) (fl y) l g)
    (h : Issues s e i) :
    TakesLanes s e i false (f.arms e) x fl := by
  rw [foldl_modGrp] at hb
  exact takes_of_body h hf hx hb (apart_arms f e) fun _ _ =>
    foldl_congr_mem (fun g y hy => forLanes_eq_laneSteps (hstep y hy) g) _

end

end Sys2Proof.Machine
end

section
/-! Lane integers (R316, R317, R324): each operation wraps the exact integer that the statement names. -/

namespace Sys2Proof.Machine

/-! The operations. -/

theorem opAdd_eq (ty : Nat) (sat : Bool) (a b c : Nat) :
    let t := intTy ty
    let x := t.val a + t.val b
    opAdd ty sat a b c = (t.wrap (if sat then max t.min (min t.max x) else x),
      flIf (sat && (decide (x < t.min) || decide (t.max < x))) flSAT) := by
  intro t x
  have hle : t.min ≤ t.max := by
    show (intTy ty).min ≤ (intTy ty).max
    unfold intTy IntTy.min IntTy.max
    split <;> simp
  unfold opAdd
  cases sat
  · rfl
  · simp only [Bool.true_and, decide_eq_true_eq, if_true]
    change (if x < t.min then _ else if t.max < x then _ else _) = _
    split
    · rename_i h
      rw [min_eq_right (h.le.trans hle), max_eq_left h.le, decide_eq_true h]
      rfl
    · rename_i h
      split
      · rename_i h'
        rw [min_eq_left h'.le, max_eq_right hle, decide_eq_true h', Bool.or_true]
        rfl
      · rename_i h'
        rw [min_eq_right (not_lt.mp h'), max_eq_right (not_lt.mp h), decide_eq_false h, decide_eq_false h']
        rfl

theorem val_emod (ty a : Nat) : (intTy ty).val a % 2 ^ (intTy ty).w = (a : Int) % 2 ^ (intTy ty).w := by
  unfold IntTy.val
  split
  · simp
  · rfl

theorem wrap_val {ty a : Nat} (h : a < 2 ^ (intTy ty).w) : (intTy ty).wrap ((intTy ty).val a) = a := by
  rw [IntTy.wrap, val_emod]
  exact wrap_of_lt (intTy ty) a h

theorem opShl_eq (ty a k : Nat) : opShl ty k a = (intTy ty).wrap ((a : Int) * 2 ^ k) := by
  unfold opShl IntTy.wrap
  split
  · rename_i hk
    rw [Int.emod_eq_zero_of_dvd (Dvd.dvd.mul_left (pow_dvd_pow 2 hk) _)]
    rfl
  · exact (Int.toNat_natCast _).symm

theorem opAnd_eq {ty b : Nat} (hb : b < 2 ^ (intTy ty).w) (a c : Nat) : opBits (· &&& ·) a b c = ((intTy ty).wrap ((a &&& b : Nat) : Int), 0) := by
  rw [wrap_of_lt _ _ (Nat.and_lt_two_pow a hb)]
  rfl

section
variable {ty a b : Nat} (ha : a < 2 ^ (intTy ty).w) (hb : b < 2 ^ (intTy ty).w) (c : Nat)
include ha

theorem opShr_eq (k : Nat) : opShr ty k a = (intTy ty).wrap ((a / 2 ^ k : Nat) : Int) := by
  rw [wrap_of_lt _ _ ((Nat.div_le_self _ _).trans_lt ha)]
  unfold opShr
  split
  · rename_i hk
    rw [Nat.div_eq_of_lt (ha.trans_le (Nat.pow_le_pow_right (by decide) hk))]
  · rfl

theorem opSar_eq (k : Nat) : opSar ty k a = (intTy ty).wrap ((IntTy.mk (intTy ty).w true).val a / 2 ^ k) := by
  unfold opSar sarNat IntTy.wrap cutInt IntTy.val
  simp only [Bool.true_and, decide_eq_true_eq]
  rw [ediv_pow_min]
  all_goals rcases width_cases ty with hw | hw | hw | hw <;> rw [hw] at ha ⊢ <;> split <;> lia

include hb

theorem opOr_eq : opBits (· ||| ·) a b c = ((intTy ty).wrap ((a ||| b : Nat) : Int), 0) := by
  rw [wrap_of_lt _ _ (Nat.or_lt_two_pow ha hb)]
  rfl

theorem opXor_eq : opBits (· ^^^ ·) a b c = ((intTy ty).wrap ((a ^^^ b : Nat) : Int), 0) := by
  rw [wrap_of_lt _ _ (Nat.xor_lt_two_pow ha hb)]
  rfl

theorem opMin_eq : opMin ty a b c = ((intTy ty).wrap (min ((intTy ty).val a) ((intTy ty).val b)), 0) := by
  unfold opMin
  split
  · rename_i h
    rw [min_eq_right h.le, wrap_val hb]
  · rename_i h
    rw [min_eq_left (not_lt.mp h), wrap_val ha]

theorem opMax_eq : opMax ty a b c = ((intTy ty).wrap (max ((intTy ty).val a) ((intTy ty).val b)), 0) := by
  unfold opMax
  split
  · rename_i h
    rw [max_eq_right h.le, wrap_val hb]
  · rename_i h
    rw [max_eq_left (not_lt.mp h), wrap_val ha]

end

/-- |a| of a signed type (R317). -/
theorem opAbs_eq {ty a : Nat} (ha : a < 2 ^ (intTy ty).w) (hs : (intTy ty).signed = true) (sat : Bool) (b c : Nat) :
    let t := intTy ty
    let x := t.val a
    opAbs ty sat a b c = (t.wrap (if sat then min t.max x.natAbs else (x.natAbs : Int)),
      flIf (sat && decide (x = t.min)) flSAT) := by
  intro t x
  have hrange : t.min ≤ x ∧ x ≤ t.max := by
    show (intTy ty).min ≤ (intTy ty).val a ∧ (intTy ty).val a ≤ (intTy ty).max
    unfold IntTy.min IntTy.max IntTy.val
    simp only [hs, if_true, Bool.true_and, decide_eq_true_eq]
    rcases width_cases ty with hw | hw | hw | hw <;> rw [hw] at ha ⊢ <;> split <;> lia
  have hmin : t.min = -(t.max + 1) ∧ 0 ≤ t.max := by
    show (intTy ty).min = -((intTy ty).max + 1) ∧ 0 ≤ (intTy ty).max
    unfold IntTy.min IntTy.max
    simp only [hs, if_true]
    rcases width_cases ty with hw | hw | hw | hw <;> rw [hw] <;> decide
  unfold opAbs
  change (if x = t.min then _ else _) = _
  split
  · rename_i h
    cases sat
    · simp only [Bool.false_eq_true, if_false, Bool.false_and]
      have habs : (t.wrap (x.natAbs : Int)) = a := by
        have hmod : (x.natAbs : Int) % 2 ^ t.w = x % 2 ^ t.w := by
          have h2 : t.min = -2 ^ (t.w - 1) := by
            show (intTy ty).min = _
            unfold IntTy.min
            rw [if_pos hs]
          rw [h, h2]
          show _ % (2 : Int) ^ (intTy ty).w = _ % 2 ^ (intTy ty).w
          show ((-2 ^ ((intTy ty).w - 1) : Int).natAbs : Int) % _ = _
          rcases width_cases ty with hw | hw | hw | hw <;> rw [hw] <;> decide
        rw [IntTy.wrap, hmod]
        exact wrap_val ha
      rw [habs]
      rfl
    · have : (x.natAbs : Int) = t.max + 1 := by lia
      simp only [if_true, Bool.true_and, h, decide_true]
      rw [← h, this, min_eq_left (by lia)]
      rfl
  · rename_i h
    have : (x.natAbs : Int) ≤ t.max := by lia
    rw [decide_eq_false h, Bool.and_false, min_eq_right this, ite_self]
    rfl

/-! The state changes. -/

/-- A lane's integer result as one lane of the word. -/
theorem putInt_laneStep {ty d l : Nat} {r : Nat × Flags} {x : Nat → Int} {fl : Nat → Flags}
    (h : r = ((intTy ty).wrap (x l), fl l)) (g : Group) :
    (g.putInt ty d l r.1).raise r.2 = laneStep (wide ty) d (fun l => tyBits ty (x l)) fl l g := by
  rw [h, putInt_wrap]
  rfl

section
variable {s : State} {e : Env} {i : Instr} {body : Env → State → Res} {ty d : Nat} {a b c : Opnd}

/-- A word of `mapInt` whose operation wraps the integers `x`. -/
theorem takes_mapInt {m : Word} {op : LaneOp} {x : Nat → Int} {fl : Nat → Flags} (hf : trapFence i = false)
    (hx : exec i s = s.issue i body) (hb : body e (s.begun e) = .done (e.mapInt m ty d a b c op (s.begun e)))
    (hop : ∀ l, op (a.num ty e.gr l) (b.num ty e.gr l) (c.num ty e.gr l) = ((intTy ty).wrap (x l), fl l))
    (h : Issues s e i) :
    TakesLanes s e i (wide ty) (oneArm m d) (fun _ l => tyBits ty (x l)) (fun _ l => fl l) :=
  takes_forLanes hf hx hb (fun l _ _ g => putInt_laneStep (hop l) g) h

/-- A word of `mapShift` likewise. -/
theorem takes_mapShift {m : Word} {op : Nat → Nat → Nat → Nat} {x : Nat → Int} (hf : trapFence i = false)
    (hx : exec i s = s.issue i body) (hb : body e (s.begun e) = .done (e.mapShift m ty d a b op (s.begun e)))
    (hop : ∀ l, op ty (b.lo e.gr l).toNat (a.num ty e.gr l) = (intTy ty).wrap (x l)) (h : Issues s e i) :
    TakesLanes s e i (wide ty) (oneArm m d) (fun _ l => tyBits ty (x l)) (fun _ _ => 0) := by
  refine takes_forLanes hf hx hb (fun l _ _ g => ?_) h
  rw [← putInt_laneStep (r := (op ty (b.lo e.gr l).toNat (a.num ty e.gr l), 0)) (by rw [hop l])]
  exact (Group.raise_zero _).symm

end

/-! The V words. -/

section
variable {s : State} {e : Env} {f : VF} {i : Instr} {body : Env → State → Res}

theorem vInt_done {op : LaneOp} {t : State} (hv : e.badV f.ty.toNat f.d.toNat [.reg f.a.toNat, f.srcB e] = false) :
    e.vInt i f op t = .done (e.mapInt (e.lanesFor i) f.ty.toNat f.d.toNat (.reg f.a.toNat) (f.srcB e) (.const 0) op t) := by
  unfold Env.vInt
  simp only [hv, Bool.false_eq_true, if_false]

theorem vShift_done {op : Nat → Nat → Nat → Nat} {t : State}
    (hv : e.badV f.ty.toNat f.d.toNat [.reg f.a.toNat, f.srcB e] = false) :
    e.vShift i f op t = .done (e.mapShift (e.lanesFor i) f.ty.toNat f.d.toNat (.reg f.a.toNat) (f.srcB e) op t) := by
  unfold Env.vShift
  simp only [hv, Bool.false_eq_true, if_false]

theorem vmad_done (hv : e.badV f.ty.toNat f.d.toNat [.reg f.a.toNat, f.srcB e, f.srcC e] = false) (h : Issues s e (.vmad f)) :
    TakesLanes s e (.vmad f) (wide f.ty.toNat) (oneArm (e.active (Instr.vmad f).guard) f.d.toNat)
      (fun _ l => tyBits f.ty.toNat ((Opnd.reg f.a.toNat).int f.ty.toNat e.gr l * (f.srcB e).int f.ty.toNat e.gr l +
        (f.srcC e).int f.ty.toNat e.gr l)) (fun _ _ => 0) :=
  takes_mapInt (op := modTy f.ty.toNat (fun a b c => a * b + c)) rfl rfl (by
    simp only [hv, Bool.false_eq_true, if_false]; rfl) (fun _ => rfl) h

theorem vabs_signed (h : Issues s e (.vabs f)) : (intTy f.ty.toNat).signed = true := by
  have hf := fieldsOk_of_issues h
  simp only [Instr.fieldsOk, Bool.and_eq_true, Bool.or_eq_true, beq_iff_eq] at hf
  obtain ⟨⟨⟨⟨hty, -⟩, -⟩, -⟩, -⟩ := hf
  rcases hty with ((hty | hty) | hty) | hty <;> rw [hty] <;> rfl

theorem vabs_done (h : Issues s e (.vabs f)) (hv : e.badV f.ty.toNat f.d.toNat [.reg f.a.toNat] = false) :
    let t := intTy f.ty.toNat
    let a (l : Nat) : Int := (Opnd.reg f.a.toNat).int f.ty.toNat e.gr l
    TakesLanes s e (.vabs f) (wide f.ty.toNat) (oneArm (e.active (Instr.vabs f).guard) f.d.toNat)
      (fun _ l => tyBits f.ty.toNat (if f.sat then min t.max (a l).natAbs else ((a l).natAbs : Int)))
      (fun _ l => flIf (f.sat && decide (a l = t.min)) flSAT) :=
  takes_mapInt (op := opAbs f.ty.toNat f.sat) rfl rfl (by
    simp only [hv, Bool.false_eq_true, if_false]; rfl)
    (fun l => opAbs_eq (num_lt _ _ _ l) (vabs_signed h) f.sat _ _) h

/-- Settles O3: every word maps an operation over the lanes, and the operation wraps the integer named. -/
theorem laneIntegers : Obligations.LaneIntegers := by
  intro s e f ty t d va vb a b c na nb k puts
  have ha : ∀ l, va.num ty e.gr l < 2 ^ t.w := num_lt va ty e.gr
  have hb : ∀ l, vb.num ty e.gr l < 2 ^ t.w := num_lt vb ty e.gr
  exact ⟨fun h hv => takes_mapInt rfl rfl (vInt_done hv) (fun _ => opAdd_eq ..) h,
    fun h hv => takes_mapInt rfl rfl (vInt_done hv) (fun _ => rfl) h,
    fun h hv => takes_mapInt rfl rfl (vInt_done hv) (fun _ => rfl) h,
    fun h hv => takes_mapInt rfl rfl (vInt_done hv) (fun _ => rfl) h,
    fun h hv => vmad_done hv h,
    fun h hv => takes_mapInt rfl rfl (vInt_done hv) (fun l => opAnd_eq (hb l) _ _) h,
    fun h hv => takes_mapInt rfl rfl (vInt_done hv) (fun l => opOr_eq (ha l) (hb l) _) h,
    fun h hv => takes_mapInt rfl rfl (vInt_done hv) (fun l => opXor_eq (ha l) (hb l) _) h,
    fun h hv => takes_mapShift rfl rfl (vShift_done hv) (fun _ => opShl_eq _ _ _) h,
    fun h hv => takes_mapShift rfl rfl (vShift_done hv) (fun l => opShr_eq (ha l) _) h,
    fun h hv => takes_mapShift rfl rfl (vShift_done hv) (fun l => opSar_eq (ha l) _) h,
    fun h hv => takes_mapInt rfl rfl (vInt_done hv) (fun l => opMin_eq (ha l) (hb l) _) h,
    fun h hv => takes_mapInt rfl rfl (vInt_done hv) (fun l => opMax_eq (ha l) (hb l) _) h,
    fun h hv => vabs_done h hv⟩

end

/-- Refutes O4: a melded word's TY2 of 3 is the 16-bit type 3, and the clause that the width is 32 asks of no well-formed
word alone. -/
theorem not_integerForms : ¬ Obligations.IntegerForms := by
  intro h
  let f : VMF := { ena := true, enb := false, ty2 := 3, da := 0, aa := 0, ba := 0, db := 0, ab := 0, bb := 0, cx := 0 }
  let e : Env := { who := { tid := 0, grp := 0, frag := 0 }, tm := {}, gr := {}, fr := {} }
  have hw : (intTy f.ty).w = 32 := (h.2 State.reset e f).1
  exact absurd hw (by decide)

end Sys2Proof.Machine
end

section
/-! Bits, fields, moves and shuffles of lanes (R317, R319, R325 to R327). -/

namespace Sys2Proof.Machine

/-! One register without flags. -/

theorem setV_laneStep (g : Group) (d l : Nat) {x : Nat → Lane} {y : Lane} (h : y = x l) :
    g.setV d l y = laneStep false d (fun l => (x l).setWidth 64) (fun _ => 0) l g := by
  rw [h]
  unfold laneStep Group.putWord
  rw [Group.raise_zero]
  simp only [Bool.false_eq_true, if_false]
  congr 1
  ext i hi
  simp [BitVec.getElem_extractLsb', show i < 64 by lia, BitVec.getLsbD_eq_getElem hi]

/-- A write of one lane at a type's width. -/
theorem ite_wide_laneStep (g : Group) {ty d l : Nat} {p : Word} {q : Lane} {x : Nat → Word}
    (hw : wide ty = true → p = x l) (hn : wide ty = false → q = (x l).extractLsb' 0 32) :
    (if wide ty then g.setV64 d l p else g.setV d l q) = laneStep (wide ty) d x (fun _ => 0) l g := by
  unfold laneStep Group.putWord
  rw [Group.raise_zero]
  cases hty : wide ty
  · simp only [Bool.false_eq_true, if_false, hn hty]
  · simp only [if_true, hw hty]

theorem extractLsb'_setWidth_lane (x : Lane) : (x.setWidth 64 : Word).extractLsb' 0 32 = x := by
  ext i hi
  simp [BitVec.getElem_extractLsb', show i < 64 by lia, BitVec.getLsbD_eq_getElem hi]

/-- What a source gives a lane at the type's width. -/
noncomputable def Opnd.whole (o : Opnd) (ty : Nat) (gr : Group) (l : Nat) : Word :=
  if wide ty then o.pair gr l else (o.lo gr l).setWidth 64

theorem whole_pair {ty : Nat} (o : Opnd) (g : Group) (l : Nat) (h : wide ty = true) : o.pair g l = o.whole ty g l := by
  rw [Opnd.whole, if_pos h]

theorem whole_lo {ty : Nat} (o : Opnd) (g : Group) (l : Nat) (h : wide ty = false) :
    o.lo g l = (o.whole ty g l).extractLsb' 0 32 := by
  rw [Opnd.whole, h, if_neg Bool.false_ne_true, extractLsb'_setWidth_lane]

/-! `vbits` (R317). -/

section
variable {s : State} {e : Env} {f : VF}

/-- A number of an unsigned type of 32 or 64 bits is written as it stands. -/
theorem putInt_ofNat (g : Group) {ty d l : Nat} {r : Nat → Nat} (h : ty = 2 ∨ ty = 8) :
    g.putInt ty d l (r l) = laneStep (wide ty) d (fun l => BitVec.ofNat 64 (r l)) (fun _ => 0) l g := by
  unfold laneStep Group.putWord Group.putInt
  rw [Group.raise_zero]
  rcases h with rfl | rfl
  · simp only [show wide 2 = false from rfl, Bool.false_eq_true, if_false]
    congr 1
    apply BitVec.eq_of_toNat_eq
    rw [show (intTy 2).val (r l) = ((r l : Nat) : Int) from rfl, BitVec.ofInt_natCast, BitVec.toNat_ofNat,
      BitVec.extractLsb'_toNat, BitVec.toNat_ofNat]
    omega
  · rfl

/-- The type that `vbits` writes. -/
noncomputable def bitsTy (f : VF) : Nat := if f.sub.toNat < 3 then 2 else f.ty.toNat

theorem vbits_ty (h : Issues s e (.vbits f)) : f.ty.toNat = 2 ∨ f.ty.toNat = 8 := by
  have hf := fieldsOk_of_issues h
  simp only [Instr.fieldsOk, Bool.and_eq_true, Bool.or_eq_true, beq_iff_eq] at hf
  rcases hf.1.1.1.1.1 with hty | hty <;> rw [hty]
  · exact .inl rfl
  · exact .inr rfl

theorem vbits_takes (h : Issues s e (.vbits f)) (hd : e.badReg (bitsTy f) f.d.toNat = false)
    (ha : e.badOpnd f.ty.toNat (.reg f.a.toNat) = false) :
    TakesLanes s e (.vbits f) (wide (bitsTy f)) (oneArm (e.active (Instr.vbits f).guard) f.d.toNat)
      (fun _ l => BitVec.ofNat 64 (bitOp f.sub.toNat (intTy f.ty.toNat).w ((Opnd.reg f.a.toNat).num f.ty.toNat e.gr l)))
      (fun _ _ => 0) := by
  have hty : bitsTy f = 2 ∨ bitsTy f = 8 := by
    unfold bitsTy
    split
    · exact .inl rfl
    · exact vbits_ty h
  let r (l : Nat) : Nat := bitOp f.sub.toNat (intTy f.ty.toNat).w ((Opnd.reg f.a.toNat).num f.ty.toNat e.gr l)
  refine takes_forLanes (m := e.active (Instr.vbits f).guard) (step := fun l g => g.putInt (bitsTy f) f.d.toNat l (r l))
    rfl rfl ?_ (fun l _ _ g => putInt_ofNat (r := r) g hty) h
  change (if e.badReg (bitsTy f) f.d.toNat || e.badOpnd f.ty.toNat (.reg f.a.toNat) then e.instr .regRange (s.begun e) else _) = _
  rw [hd, ha]
  rfl

theorem vbits_spec (h : Issues s e (.vbits f)) (hd : e.badReg (if f.sub < 3 then 2 else f.ty.toNat) f.d.toNat = false)
    (ha : e.badOpnd f.ty.toNat (.reg f.a.toNat) = false) :
    ∃ r : Nat → Nat,
      TakesLanes s e (.vbits f) (wide f.ty.toNat && decide (3 ≤ f.sub))
        (oneArm (e.active (Instr.vbits f).guard) f.d.toNat) (fun _ l => BitVec.ofNat 64 (r l)) (fun _ _ => 0) ∧
      ∀ l, l < 64 → let w := (intTy f.ty.toNat).w; let b := (Opnd.reg f.a.toNat).num f.ty.toNat e.gr l
        r l < 2 ^ w ∧
        (f.sub = 0 → r l = (List.range w).countP (fun j => b.testBit j)) ∧
        (f.sub = 1 → r l ≤ w ∧ b < 2 ^ (w - r l) ∧ (r l < w → 2 ^ (w - 1 - r l) ≤ b)) ∧
        (f.sub = 2 → r l ≤ w ∧ (∀ j, j < r l → b.testBit j = false) ∧ (r l < w → b.testBit (r l) = true)) ∧
        (f.sub = 3 → ∀ j, j < w → (r l).testBit j = b.testBit (w - 1 - j)) ∧
        (f.sub = 4 → ∀ j, j < w → (r l).testBit j = b.testBit (8 * (w / 8 - 1 - j / 8) + j % 8)) := by
  have hlt : f.sub < 3 ↔ f.sub.toNat < 3 := Iff.rfl
  have hle : 3 ≤ f.sub ↔ 3 ≤ f.sub.toNat := Iff.rfl
  have hpair : (wide f.ty.toNat && decide (3 ≤ f.sub)) = wide (bitsTy f) := by
    unfold bitsTy
    rw [decide_eq_decide.mpr hle]
    by_cases hs : f.sub.toNat < 3
    · rw [if_pos hs, decide_eq_false (by lia), Bool.and_false]; rfl
    · rw [if_neg hs, decide_eq_true (by lia), Bool.and_true]
  have hd' : e.badReg (bitsTy f) f.d.toNat = false := by simpa only [bitsTy, hlt] using hd
  refine ⟨_, hpair ▸ vbits_takes h hd' ha, fun l _ => ?_⟩
  have hdvd : 8 ∣ (intTy f.ty.toNat).w := by rcases width_cases f.ty.toNat with hw | hw | hw | hw <;> rw [hw] <;> decide
  obtain ⟨hbound, h0, h1, h2, h3, h4⟩ := bitOp_spec hdvd f.sub.toNat (num_lt (.reg f.a.toNat) f.ty.toNat e.gr l)
  have code {n : Nat} {c : BitVec 6} (hn : c.toNat = n) (hc : f.sub = c) : f.sub.toNat = n := by rw [hc, hn]
  exact ⟨hbound, fun hc => h0 (code rfl hc), fun hc => h1 (code rfl hc), fun hc => h2 (code rfl hc),
    fun hc => h3 (code rfl hc), fun hc => h4 (code rfl hc)⟩

end

/-! `vbfe` (R317). -/

/-- The field of `n` bits at bit `st`, extended. -/
noncomputable def fieldOf (sgn : Bool) (a : Lane) (st n : Nat) : Lane :=
  if sgn then (a.extractLsb' st n).signExtend 32 else (a.extractLsb' st n).setWidth 32

theorem getLsbD_fieldOf (sgn : Bool) (a : Lane) {st n j : Nat} (hn : 0 < n) (hj : j < 32) :
    (fieldOf sgn a st n).getLsbD j = if j < n then a.getLsbD (st + j) else sgn && a.getLsbD (st + n - 1) := by
  unfold fieldOf
  cases sgn
  · simp only [Bool.false_eq_true, if_false, BitVec.getLsbD_setWidth, BitVec.getLsbD_extractLsb', hj]
    by_cases h : j < n <;> simp [h]
  · simp only [if_true, BitVec.getLsbD_signExtend, BitVec.getLsbD_extractLsb', hj, BitVec.msb_eq_getLsbD_last]
    by_cases h : j < n
    · simp [h]
    · simp [h, show n - 1 < n by lia, show st + (n - 1) = st + n - 1 by lia]

theorem fieldOf_zero (sgn : Bool) (a : Lane) (st : Nat) : fieldOf sgn a st 0 = 0 := by
  unfold fieldOf
  rw [Subsingleton.elim (a.extractLsb' st 0) 0#0]
  cases sgn <;> rfl

/-- The model's field, in arithmetic. -/
theorem fieldOf_eq (sgn : Prop) [Decidable sgn] (a : Lane) (st n : Nat) :
    (if sgn ∧ 0 < n ∧ 2 ^ (n - 1) ≤ a.toNat / 2 ^ st % 2 ^ n then
        BitVec.ofInt 32 (((a.toNat / 2 ^ st % 2 ^ n : Nat) : Int) - 2 ^ n)
      else BitVec.ofNat 32 (a.toNat / 2 ^ st % 2 ^ n)) = fieldOf (decide sgn) a st n := by
  have hval : (a.extractLsb' st n).toNat = a.toNat / 2 ^ st % 2 ^ n := by
    rw [BitVec.extractLsb'_toNat, Nat.shiftRight_eq_div_pow]
  unfold fieldOf
  rw [← hval]
  by_cases hs : sgn
  · simp only [hs, true_and, decide_true, if_true]
    rw [BitVec.signExtend, BitVec.toInt_eq_toNat_cond]
    rcases Nat.eq_zero_or_pos n with rfl | hn
    · simp
    · have h2 : 2 ^ n = 2 * 2 ^ (n - 1) := by rw [← Nat.pow_succ', Nat.succ_eq_add_one, Nat.sub_add_cancel hn]
      by_cases hc : 2 ^ (n - 1) ≤ (a.extractLsb' st n).toNat
      · rw [if_pos ⟨hn, hc⟩, if_neg (by omega)]
        push_cast
        rfl
      · rw [if_neg (fun h => hc h.2), if_pos (by omega), BitVec.ofInt_natCast]
  · simp only [hs, false_and, if_false, decide_false, Bool.false_eq_true]
    exact (BitVec.eq_of_toNat_eq (by simp))

section
variable {s : State} {e : Env} {f : VF}

/-- What `vbfe` gives a lane. -/
noncomputable def Env.bfe (e : Env) (f : VF) (l : Nat) : Lane :=
  let st := ((f.srcB e).lo e.gr l).toNat
  if 32 ≤ st then 0
  else fieldOf (decide (f.ty = 0)) (e.gr.vReg f.a.toNat l) st (min ((f.srcC e).lo e.gr l).toNat (32 - st))

theorem vbfe_takes (h : Issues s e (.vbfe f)) (hv : e.badV 2 f.d.toNat [.reg f.a.toNat, f.srcB e, f.srcC e] = false) :
    TakesLanes s e (.vbfe f) false (oneArm (e.active (Instr.vbfe f).guard) f.d.toNat)
      (fun _ l => (e.bfe f l).setWidth 64) (fun _ _ => 0) := by
  refine takes_forLanes (m := e.active (Instr.vbfe f).guard) rfl rfl (by
    simp only [hv, Bool.false_eq_true, if_false]
    rfl) (fun l _ _ g => setV_laneStep g _ l ?_) h
  unfold bitfield Env.bfe
  by_cases hst : 32 ≤ ((f.srcB e).lo e.gr l).toNat
  · simp only [hst, if_true]
  · simp only [hst, if_false]
    exact fieldOf_eq (f.ty = 0) _ _ _

end

/-! `vbfi` (R317). -/

/-- A word whose whole effect is one register of a list of its lanes. -/
theorem takes_setLanes {s : State} {e : Env} {i : Instr} {body : Env → State → Res} {m : Word} {d : Nat} {ls : List Nat}
    {x y : Nat → Lane} {k : Group → Group} (hf : trapFence i = false) (hx : exec i s = s.issue i body)
    (hb : body e (s.begun e) = .done ((s.begun e).modGrp e.who k))
    (hk : ∀ g : Group, k g = { g with v := setLanes g.v d x ls })
    (hls : ∀ l ∈ ls, l < 64) (hin : ∀ l, l < 64 → l ∈ ls → m.getLsbD l = true ∧ x l = y l)
    (hout : ∀ l, l < 64 → l ∉ ls → m.getLsbD l = true → e.gr.vReg d l = y l) (h : Issues s e i) :
    TakesLanes s e i false (oneArm m d) (fun _ l => (y l).setWidth 64) (fun _ _ => 0) := by
  have hflags : armFlags (oneArm m d) (fun _ _ => 0) = 0 := by
    have hz (ls : List Nat) : ls.foldl (fun (f : Flags) _ => f ||| 0) 0 = 0 := by
      induction ls with
      | nil => rfl
      | cons _ _ ih => exact ih
    exact hz _
  refine ⟨setLanes e.gr.v d x ls, ?_, fun r l hl => ?_⟩
  · rw [hx, issue_done h hf hb, State.wrote]
    congr 2
    refine modGrp_congr h.env fun fr ag => ?_
    rw [hk, hflags]
    exact (Group.raise_zero _).symm
  · rw [get_setLanes _ _ _ _ hls r l hl]
    unfold laneAfter oneArm
    rw [List.find?_cons]
    by_cases hl' : l ∈ ls
    · obtain ⟨hm, hxy⟩ := hin l hl hl'
      simp only [hm, hl', and_true, hxy, extractLsb'_setWidth_lane, Bool.false_and, Bool.false_eq_true, if_false]
      rfl
    · cases hm : m.getLsbD l with
      | false => simp [hl', Group.vReg]
      | true =>
        have := hout l hl hl' hm
        simp only [hl', and_false, if_false, extractLsb'_setWidth_lane, Bool.false_and, Bool.false_eq_true]
        split
        · rename_i hr; rw [hr]; exact this
        · rfl

/-- The field of `n` bits from bit `st` on replaced by the low bits of another lane. -/
noncomputable def insertField (old a : Lane) (st n : Nat) : Lane :=
  let m : Lane := BitVec.ofNat 32 ((2 ^ n - 1) * 2 ^ st)
  (old &&& ~~~m) ||| ((a <<< st) &&& m)

theorem getLsbD_fieldMask {st n j : Nat} (hj : j < 32) :
    (BitVec.ofNat 32 ((2 ^ n - 1) * 2 ^ st) : Lane).getLsbD j = decide (st ≤ j ∧ j < st + n) := by
  rw [BitVec.getLsbD_ofNat, decide_eq_true hj, Bool.true_and, Nat.testBit_mul_two_pow, Nat.testBit_two_pow_sub_one]
  rw [← Bool.decide_and]
  exact decide_eq_decide.mpr (by omega)

theorem getLsbD_insertField (old a : Lane) {st n j : Nat} (hj : j < 32) :
    (insertField old a st n).getLsbD j = if st ≤ j ∧ j < st + n then a.getLsbD (j - st) else old.getLsbD j := by
  unfold insertField
  simp only [BitVec.getLsbD_or, BitVec.getLsbD_and, BitVec.getLsbD_not, BitVec.getLsbD_shiftLeft, getLsbD_fieldMask hj, hj,
    decide_true, Bool.true_and]
  by_cases hin : st ≤ j ∧ j < st + n
  · simp [hin, Nat.not_lt.mpr hin.1]
  · simp [hin]

section
variable {s : State} {e : Env} {f : VF}

/-- The lanes whose start lies inside the register. -/
noncomputable def Env.bfiLanes (e : Env) (f : VF) : List Nat :=
  (lanesOf (e.active (Instr.vbfi f).guard)).filter (fun l => decide (((f.srcB e).lo e.gr l).toNat < 32))

/-- What `vbfi` gives a lane whose start lies inside the register. -/
noncomputable def Env.bfi (e : Env) (f : VF) (l : Nat) : Lane :=
  let st := ((f.srcB e).lo e.gr l).toNat
  insertField (e.gr.vReg f.d.toNat l) (e.gr.vReg f.a.toNat l) st (min ((f.srcC e).lo e.gr l).toNat (32 - st))

theorem forLanes_bfi (g : Group) :
    forLanes (e.active (Instr.vbfi f).guard) (fun l g =>
      match bitfield ((f.srcB e).lo e.gr l) ((f.srcC e).lo e.gr l) with
      | none => g
      | some (st, w) =>
        let m : Lane := BitVec.ofNat 32 ((2 ^ w - 1) * 2 ^ st)
        g.setV f.d.toNat l ((e.gr.vReg f.d.toNat l &&& ~~~m) ||| ((e.gr.vReg f.a.toNat l <<< st) &&& m))) g =
    { g with v := setLanes g.v f.d.toNat (e.bfi f) (e.bfiLanes f) } := by
  rw [← foldl_setV, Env.bfiLanes, List.foldl_filter]
  refine foldl_congr_mem (fun g l _ => ?_) g
  unfold bitfield
  by_cases hst : 32 ≤ ((f.srcB e).lo e.gr l).toNat
  · simp only [hst, if_true, decide_eq_false (show ¬ ((f.srcB e).lo e.gr l).toNat < 32 by lia)]
    rfl
  · simp only [hst, if_false, decide_eq_true (show ((f.srcB e).lo e.gr l).toNat < 32 by lia)]
    rfl

theorem vbfi_takes (h : Issues s e (.vbfi f)) (hv : e.badV 2 f.d.toNat [.reg f.a.toNat, f.srcB e, f.srcC e] = false) :
    ∃ r : Nat → Lane,
      TakesLanes s e (.vbfi f) false (oneArm (e.active (Instr.vbfi f).guard) f.d.toNat)
        (fun _ l => (r l).setWidth 64) (fun _ _ => 0) ∧
      ∀ l j, l < 64 → j < 32 →
        let st := ((f.srcB e).lo e.gr l).toNat
        let n := min ((f.srcC e).lo e.gr l).toNat (32 - st)
        (r l).getLsbD j =
          if st ≤ j ∧ j < st + n then (e.gr.vReg f.a.toNat l).getLsbD (j - st) else (e.gr.vReg f.d.toNat l).getLsbD j := by
  have hmem (l : Nat) : l ∈ e.bfiLanes f ↔
      (l < 64 ∧ (e.active (Instr.vbfi f).guard).getLsbD l = true) ∧ ((f.srcB e).lo e.gr l).toNat < 32 := by
    rw [Env.bfiLanes, List.mem_filter, mem_lanesOf, decide_eq_true_eq]
  refine ⟨fun l => if ((f.srcB e).lo e.gr l).toNat < 32 then e.bfi f l else e.gr.vReg f.d.toNat l, ?_, fun l j hl hj => ?_⟩
  · refine takes_setLanes (k := forLanes (e.active (Instr.vbfi f).guard) _) (x := e.bfi f) (ls := e.bfiLanes f) rfl rfl (by
      simp only [hv, Bool.false_eq_true, if_false]
      rfl) forLanes_bfi (fun l hl => ((hmem l).mp hl).1.1) (fun l _ hl => ⟨((hmem l).mp hl).1.2, ?_⟩)
      (fun l hl hl' hm => ?_) h
    · rw [if_pos ((hmem l).mp hl).2]
    · rw [if_neg fun hst => hl' ((hmem l).mpr ⟨⟨hl, hm⟩, hst⟩)]
  · dsimp only
    split
    · exact getLsbD_insertField _ _ hj
    · rw [if_neg (by lia)]

theorem vbfe_spec (h : Issues s e (.vbfe f)) (hv : e.badV 2 f.d.toNat [.reg f.a.toNat, f.srcB e, f.srcC e] = false) :
    ∃ r : Nat → Lane,
      TakesLanes s e (.vbfe f) false (oneArm (e.active (Instr.vbfe f).guard) f.d.toNat)
        (fun _ l => (r l).setWidth 64) (fun _ _ => 0) ∧
      ∀ l, l < 64 →
        let st := ((f.srcB e).lo e.gr l).toNat
        let n := min ((f.srcC e).lo e.gr l).toNat (32 - st)
        (n = 0 → r l = 0) ∧
        (0 < n → ∀ j, j < 32 → (r l).getLsbD j =
          if j < n then (e.gr.vReg f.a.toNat l).getLsbD (st + j)
          else decide (f.ty = 0) && (e.gr.vReg f.a.toNat l).getLsbD (st + n - 1)) := by
  refine ⟨e.bfe f, vbfe_takes h hv, fun l _ => ⟨fun hn => ?_, fun hn j hj => ?_⟩⟩
  · unfold Env.bfe
    dsimp only
    rw [hn, fieldOf_zero, ite_self]
  · unfold Env.bfe
    dsimp only
    rw [if_neg (by omega)]
    exact getLsbD_fieldOf _ _ hn hj

end

/-- Settles O5: the counts, the reversals and the fields, bit by bit. -/
theorem laneBits : Obligations.LaneBits := by
  intro s e f ty d m va
  exact ⟨fun h hd ha => vbits_spec h hd ha, fun h hv => vbfe_spec h hv, fun h hv => vbfi_takes h hv⟩

/-! Moves and shuffles. -/

section
variable {s : State} {e : Env} {f : VF} {i : Instr} {body : Env → State → Res}

/-- A word that moves one source to each lane. -/
theorem takes_putMove {m : Word} {ty d : Nat} {o : Nat → Opnd} {x : Nat → Word} (hf : trapFence i = false)
    (hx : exec i s = s.issue i body)
    (hb : body e (s.begun e) = .done ((s.begun e).modGrp e.who (forLanes m fun l g => g.putMove ty d l (o l) e.gr)))
    (hw : ∀ l, wide ty = true → (o l).pair e.gr l = x l)
    (hn : ∀ l, wide ty = false → (o l).lo e.gr l = (x l).extractLsb' 0 32) (h : Issues s e i) :
    TakesLanes s e i (wide ty) (oneArm m d) (fun _ l => x l) (fun _ _ => 0) :=
  takes_forLanes hf hx hb (fun l _ _ g => ite_wide_laneStep g (hw l) (hn l)) h

theorem vsel_takes (h : Issues s e (.vsel f)) (hv : e.badV f.ty.toNat f.d.toNat [.reg f.a.toNat, f.srcB e] = false) :
    TakesLanes s e (.vsel f) (wide f.ty.toNat) (oneArm (e.active (Instr.vsel f).guard) f.d.toNat)
      (fun _ l => (if (e.gr.pReg f.c.toNat).getLsbD l then .reg f.a.toNat else f.srcB e : Opnd).whole f.ty.toNat e.gr l)
      (fun _ _ => 0) :=
  takes_putMove (o := fun l => if (e.gr.pReg f.c.toNat).getLsbD l then .reg f.a.toNat else f.srcB e) rfl rfl (by
    simp only [hv, Bool.false_eq_true, if_false]
    rfl) (fun l => whole_pair _ _ l) (fun l => whole_lo _ _ l) h

theorem vmov_takes (h : Issues s e (.vmov f)) {o : Nat → Opnd} {x : Nat → Word}
    (ho : ∀ l, (if f.sub = 0 then .reg f.a.toNat else .const (BitVec.ofNat 64 l)) = o l)
    (hw : ∀ l, wide f.ty.toNat = true → (o l).pair e.gr l = x l)
    (hn : ∀ l, wide f.ty.toNat = false → (o l).lo e.gr l = (x l).extractLsb' 0 32)
    (hv : e.badV f.ty.toNat f.d.toNat (if f.sub = 0 then [.reg f.a.toNat] else []) = false) :
    TakesLanes s e (.vmov f) (wide f.ty.toNat) (oneArm (e.active (Instr.vmov f).guard) f.d.toNat)
      (fun _ l => x l) (fun _ _ => 0) :=
  takes_putMove (o := o) rfl rfl (by
    simp only [hv, Bool.false_eq_true, if_false, ho]
    rfl) hw hn h

theorem vbc_takes (h : Issues s e (.vbc f)) (hd : e.badReg f.ty.toNat f.d.toNat = false) :
    TakesLanes s e (.vbc f) (wide f.ty.toNat) (oneArm (e.active (Instr.vbc f).guard) f.d.toNat)
      (fun _ _ => e.g f.b.toNat) (fun _ _ => 0) :=
  takes_putMove (o := fun _ => .const (e.g f.b.toNat)) rfl rfl (by
    simp only [hd, Bool.false_eq_true, if_false]
    rfl) (fun _ _ => rfl) (fun _ _ => rfl) h

theorem vrdl_writes (h : Issues s e (.vrdl f)) (ha : e.badReg f.ty.toNat f.a.toNat = false) :
    let l := if f.cg then (e.g f.c.toNat).toNat else f.c.toNat
    l < e.width →
    exec (.vrdl f) s = .next (s.wrote e (.vrdl f) (e.putG f.d.toNat
      (if wide f.ty.toNat then (Opnd.reg f.a.toNat).pair e.gr l
       else if f.ty = 0 then ((Opnd.reg f.a.toNat).lo e.gr l).signExtend 64
       else ((Opnd.reg f.a.toNat).lo e.gr l).setWidth 64))) := by
  intro l hl
  have hty : (f.ty.toNat = 0) = (f.ty = 0) := propext ⟨fun h0 => BitVec.eq_of_toNat_eq h0, fun h0 => by rw [h0]; rfl⟩
  refine issue_putsG_silent h rfl ?_
  have hw : ¬ e.width ≤ (if f.cg then (e.g f.c.toNat).toNat else f.c.toNat) := not_le.mpr hl
  simp only [hw, ha, hty, Bool.false_eq_true, if_false]
  rfl

theorem shuffleSrc_eq (sub : BitVec 6) (b l : Nat) :
    shuffleSrc sub.toNat b l =
      if sub = 0 then (b : Int) else if sub = 1 then (l : Int) - b else if sub = 2 then (l : Int) + b
      else ((l ^^^ b : Nat) : Int) := by
  have code (n : Nat) (hn : n < 2 ^ 6) : sub = BitVec.ofNat 6 n ↔ sub.toNat = n := by
    rw [← BitVec.toNat_inj, BitVec.toNat_ofNat, Nat.mod_eq_of_lt hn]
  have h0 : sub = 0 ↔ _ := code 0 (by decide)
  have h1 : sub = 1 ↔ _ := code 1 (by decide)
  have h2 : sub = 2 ↔ _ := code 2 (by decide)
  unfold shuffleSrc
  split
  · rename_i hs; rw [if_pos (h0.mpr hs)]
  · rename_i hs; rw [if_neg (by rw [h0]; lia), if_pos (h1.mpr hs)]
  · rename_i hs; rw [if_neg (by rw [h0]; lia), if_neg (by rw [h1]; lia), if_pos (h2.mpr hs)]
  · rename_i n0 n1 n2
    rw [if_neg (mt h0.mp n0), if_neg (mt h1.mp n1), if_neg (mt h2.mp n2)]

/-- The lane that a shuffle counts from (R327). -/
noncomputable def Env.shuffleBy (e : Env) (f : VF) (l : Nat) : Nat :=
  if f.sub = 0 then ((f.srcB e).lo e.gr l).toNat else if f.cg then (e.g f.c.toNat).toNat else f.c.toNat

/-- The lane that a shuffle names. -/
noncomputable def Env.shuffleFrom (e : Env) (f : VF) (l : Nat) : Int :=
  if f.sub = 0 then (e.shuffleBy f l : Int) else if f.sub = 1 then (l : Int) - e.shuffleBy f l
  else if f.sub = 2 then (l : Int) + e.shuffleBy f l else ((l ^^^ e.shuffleBy f l : Nat) : Int)

/-- The lane that a shuffle takes. -/
noncomputable def Env.shuffleLane (e : Env) (f : VF) (l : Nat) : Nat :=
  if 0 ≤ e.shuffleFrom f l ∧ e.shuffleFrom f l < e.width then (e.shuffleFrom f l).toNat else l

theorem vshfl_takes (h : Issues s e (.vshfl f)) (hd : e.badReg f.ty.toNat f.d.toNat = false)
    (ha : e.badReg f.ty.toNat f.a.toNat = false) (hb : f.sub = 0 → f.bg = false → e.over f.b.toNat = false)
    (hc : f.sub ≠ 0 → f.cg = false → f.c.toNat < e.width) :
    TakesLanes s e (.vshfl f) (wide f.ty.toNat) (oneArm (e.active (Instr.vshfl f).guard) f.d.toNat)
      (fun _ l => (Opnd.reg f.a.toNat).whole f.ty.toNat e.gr (e.shuffleLane f l)) (fun _ _ => 0) := by
  have hzero : (f.sub.toNat = 0) = (f.sub = 0) :=
    propext ⟨fun h0 => BitVec.eq_of_toNat_eq h0, fun h0 => by rw [h0]; rfl⟩
  have hwidth : ¬ (f.sub.toNat ≠ 0 ∧ !f.cg ∧ e.width ≤ f.c.toNat) := by
    rintro ⟨h0, hcg, hle⟩
    have := hc (fun h1 => h0 (hzero ▸ h1)) (by simpa using hcg)
    omega
  have hregs : (e.badReg f.ty.toNat f.d.toNat || e.badReg f.ty.toNat f.a.toNat ||
      (f.sub.toNat == 0 && !f.bg && e.over f.b.toNat)) = false := by
    rw [hd, ha]
    by_cases h0 : f.sub = 0
    · cases hbg : f.bg
      · simp [hb h0 hbg]
      · simp
    · rw [beq_false_of_ne (fun h1 => h0 (hzero ▸ h1))]
      rfl
  refine takes_forLanes (step := fun l g =>
    if wide f.ty.toNat then g.setV64 f.d.toNat l (e.gr.vReg64 f.a.toNat (e.shuffleLane f l))
    else g.setV f.d.toNat l (e.gr.vReg f.a.toNat (e.shuffleLane f l))) rfl rfl ?_ (fun l _ _ g => ?_) h
  · simp only [hwidth, hregs, Bool.false_eq_true, if_false, shuffleSrc_eq, hzero]
    rfl
  · exact ite_wide_laneStep g (whole_pair (.reg f.a.toNat) e.gr _) (whole_lo (.reg f.a.toNat) e.gr _)

/-- Settles O6: every word moves one source to each active lane, or one lane to a g register. -/
theorem laneMoves : Obligations.LaneMoves := by
  intro s e f ty d w va whole puts
  refine ⟨fun h hv => vsel_takes h hv, fun h hs hv => ?_, fun h hs hv => ?_, fun h hd => vbc_takes h hd,
    fun h ha => vrdl_writes h ha, fun h hd ha hb hc => ?_⟩
  · exact vmov_takes (o := fun _ => va) h (fun _ => if_pos hs) (fun l => whole_pair va _ l) (fun l => whole_lo va _ l)
      (by rwa [if_pos hs])
  · have hs' : ¬ f.sub = 0 := by rw [hs]; decide
    exact vmov_takes (o := fun l => .const (BitVec.ofNat 64 l)) h (fun _ => if_neg hs') (fun _ _ => rfl) (fun _ _ => rfl)
      (by rwa [if_neg hs'])
  · exact vshfl_takes h hd ha hb hc

end

/-! Compares. -/

/-- The predicates after each arm has written its lanes of one. -/
def armMasks (p : AMap Word) (arms : List Arm) (b : Arm → Nat → Bool) : AMap Word :=
  arms.foldl (fun p x => setMask p (x.d % 8) x.m (maskIf fun l => x.m.getLsbD l && b x l)) p

theorem getLsbD_armMasks {arms : List Arm} (ha : apart arms) (b : Arm → Nat → Bool) (p : AMap Word) (n : Nat) {l : Nat}
    (hl : l < 64) :
    (AMap.get 0 (armMasks p arms b) n).getLsbD l =
      match arms.find? (fun a => a.m.getLsbD l) with
      | some a => if n = a.d % 8 ∧ n ≠ 0 then b a l else (AMap.get 0 p n).getLsbD l
      | none => (AMap.get 0 p n).getLsbD l := by
  induction arms generalizing p with
  | nil => rfl
  | cons a as ih =>
    obtain ⟨hne, hap⟩ := List.pairwise_cons.mp ha
    change (AMap.get 0 (armMasks (setMask p (a.d % 8) a.m (maskIf fun l => a.m.getLsbD l && b a l)) as b) n).getLsbD l = _
    rw [ih hap, List.find?_cons, getLsbD_setMask _ _ _ _ _ _ hl, getLsbD_maskIf, decide_eq_true hl, Bool.true_and]
    cases hm : a.m.getLsbD l with
    | false => simp only [Bool.false_eq_true, false_and, if_false]
    | true =>
      have hnone : as.find? (fun a => a.m.getLsbD l) = none := by
        refine List.find?_eq_none.mpr fun x hx hxl => ?_
        have hbit := congrArg (fun w => BitVec.getLsbD w l) (hne x hx)
        simp only [BitVec.getLsbD_and, hm, hxl, Bool.and_true] at hbit
        exact Bool.noConfusion (hbit.trans BitVec.getLsbD_zero)
      rw [hnone]
      simp only [true_and, Bool.true_and]

section
variable {s : State} {e : Env} {i : Instr} {body : Env → State → Res}

/-- A compare of the arms of a word. -/
theorem takesPred_arms {arms : List Arm} {b : Arm → Nat → Bool} (hf : trapFence i = false)
    (hx : exec i s = s.issue i body) (ha : apart arms)
    (hb : body e (s.begun e) = .done (arms.foldl (fun s x => s.modGrp e.who fun g =>
      g.setP (x.d % 8) x.m (maskIf fun l => x.m.getLsbD l && b x l)) (s.begun e))) (h : Issues s e i) :
    TakesPred s e i arms b := by
  refine ⟨armMasks e.gr.p arms b, ?_, fun n l hl => getLsbD_armMasks ha b _ n hl⟩
  have hfold (g : Group) : arms.foldl (fun g x => g.setP (x.d % 8) x.m (maskIf fun l => x.m.getLsbD l && b x l)) g =
      { g with p := armMasks g.p arms b } := by
    unfold armMasks
    clear hb ha
    induction arms generalizing g with
    | nil => rfl
    | cons x xs ih =>
      rw [List.foldl_cons, ih, Group.setP_eq]
      rfl
  rw [hx, issue_done h hf (hb.trans (congrArg Res.done (foldl_modGrp _ _ _ _))), State.wrote]
  congr 2
  exact modGrp_congr h.env (fun _ _ => hfold _)

/-- A compare of one mask of lanes. -/
theorem takesPred_putCmp {m : Word} {d : BitVec 8} {b : Nat → Bool} (hf : trapFence i = false)
    (hx : exec i s = s.issue i body) (hb : body e (s.begun e) = .done ((s.begun e).putCmp e m d b)) (h : Issues s e i) :
    TakesPred s e i (oneArm m d.toNat) (fun _ l => b l) :=
  takesPred_arms hf hx (apart_oneArm m _) hb h

/-- A melded compare. -/
theorem takesPred_putCmps {f : VMF} {b c : Arm → Nat → Bool} (hf : trapFence i = false) (hx : exec i s = s.issue i body)
    (hb : body e (s.begun e) =
      .done ((f.arms e).foldl (fun s x => s.putCmp e x.m (BitVec.ofNat 8 x.d) (b x)) (s.begun e)))
    (hbc : ∀ x ∈ f.arms e, b x = c x) (h : Issues s e i) :
    TakesPred s e i (f.arms e) c := by
  refine takesPred_arms hf hx (apart_arms f e) (hb.trans (congrArg Res.done (foldl_congr_mem (fun t x hx => ?_) _))) h
  have hd : (BitVec.ofNat 8 x.d).toNat % 8 = x.d % 8 := by rw [BitVec.toNat_ofNat]; lia
  rw [State.putCmp, hd, hbc x hx]

end

theorem condOf_eq {d top : BitVec 8} (h : condOk d top = true) : condOf d = d.toNat / 8 ∧ d.toNat / 8 ≤ top.toNat := by
  simp only [condOk, Bool.and_eq_true, decide_eq_true_eq] at h
  obtain ⟨hd, htop⟩ := h
  have hd' : d.toNat < 64 := hd
  have htop' : (d >>> 3).toNat ≤ top.toNat := htop
  rw [BitVec.toNat_ushiftRight, Nat.shiftRight_eq_div_pow] at htop'
  exact ⟨Nat.mod_eq_of_lt (by lia), htop'⟩

theorem cmpInt_eq (e : Env) {d : BitVec 8} (h : condOk d 5 = true) (ty : Nat) (a b : Opnd) :
    e.cmpInt ty (condOf d) a b = fun l => condInt (d.toNat / 8) (a.int ty e.gr l) (b.int ty e.gr l) := by
  obtain ⟨hc, hle⟩ := condOf_eq h
  funext l
  rw [Env.cmpInt, hc, condHolds_ints hle]

theorem cmpFlt_eq (e : Env) {d : BitVec 8} (h : condOk d 6 = true) (a b : Opnd) :
    e.cmpFlt (condOf d) a b = fun l => condHolds (d.toNat / 8) (fcompare (a.lo e.gr l) (b.lo e.gr l)) := by
  funext l
  rw [Env.cmpFlt, (condOf_eq h).1]

/-- The destination of an arm of a melded compare is a field that meets its cell. -/
theorem cond_of_arms {f : VMF} {e : Env} {tys : BitVec 2 → Bool} {top : BitVec 8} (h : f.cmpOk tys top = true) {x : Arm}
    (hx : x ∈ f.arms e) : ∃ d : BitVec 8, x.d = d.toNat ∧ condOk d top = true := by
  simp only [VMF.cmpOk, VMF.ok, Bool.and_eq_true] at h
  obtain ⟨⟨⟨-, ha⟩, hb⟩, -⟩ := h
  rcases List.mem_append.mp hx with hx | hx
  · cases hen : f.ena
    · simp [hen] at hx
    · rw [hen, if_pos rfl, List.mem_singleton] at hx
      exact ⟨f.da, by rw [hx], by simpa [armOk, hen] using ha⟩
  · cases hen : f.enb
    · simp [hen] at hx
    · rw [hen, if_pos rfl, List.mem_singleton] at hx
      exact ⟨f.db, by rw [hx], by simpa [armOk, hen] using hb⟩

section
variable {s : State} {e : Env}

theorem vcmp_takes {f : VF} (h : Issues s e (.vcmp f)) (ha : e.badOpnd f.ty.toNat (.reg f.a.toNat) = false)
    (hb : e.badOpnd f.ty.toNat (f.srcB e) = false) :
    TakesPred s e (.vcmp f) (oneArm (e.active (Instr.vcmp f).guard) f.d.toNat) (fun _ l =>
      condInt (f.d.toNat / 8) ((Opnd.reg f.a.toNat).int f.ty.toNat e.gr l) ((f.srcB e).int f.ty.toNat e.gr l)) := by
  have hf := fieldsOk_of_issues h
  simp only [Instr.fieldsOk, Bool.and_eq_true] at hf
  rw [← cmpInt_eq e hf.1.1.1.2]
  exact takesPred_putCmp rfl rfl (by simp only [ha, hb, Bool.or_self, Bool.false_eq_true, if_false]; rfl) h

theorem vcmpImm_takes {f : VIF} (h : Issues s e (.vcmpImm f)) (ha : e.badOpnd f.ty.toNat (.reg f.a.toNat) = false) :
    TakesPred s e (.vcmpImm f) (oneArm (e.active (Instr.vcmpImm f).guard) f.d.toNat) (fun _ l =>
      condInt (f.d.toNat / 8) ((Opnd.reg f.a.toNat).int f.ty.toNat e.gr l) ((Opnd.const f.val).int f.ty.toNat e.gr l)) := by
  have hf := fieldsOk_of_issues h
  simp only [Instr.fieldsOk, Bool.and_eq_true] at hf
  rw [← cmpInt_eq e hf.2]
  exact takesPred_putCmp rfl rfl (by simp only [ha, Bool.false_eq_true, if_false]; rfl) h

theorem vfcmp_takes {f : VF} (h : Issues s e (.vfcmp f)) (ha : e.over f.a.toNat = false)
    (hb : e.badOpnd 1 (f.srcB e) = false) :
    TakesPred s e (.vfcmp f) (oneArm (e.active (Instr.vfcmp f).guard) f.d.toNat) (fun _ l =>
      condHolds (f.d.toNat / 8) (fcompare (e.gr.vReg f.a.toNat l) ((f.srcB e).lo e.gr l))) := by
  have hf := fieldsOk_of_issues h
  simp only [Instr.fieldsOk, Bool.and_eq_true] at hf
  have ha' : e.badOpnd 1 (.reg f.a.toNat) = false := ha
  have := cmpFlt_eq e hf.2 (.reg f.a.toNat) (f.srcB e)
  exact this ▸ takesPred_putCmp rfl rfl (by simp only [ha', hb, Bool.or_self, Bool.false_eq_true, if_false]; rfl) h

theorem vfcmpImm_takes {f : VIF} (h : Issues s e (.vfcmpImm f)) (ha : e.over f.a.toNat = false) :
    TakesPred s e (.vfcmpImm f) (oneArm (e.active (Instr.vfcmpImm f).guard) f.d.toNat) (fun _ l =>
      condHolds (f.d.toNat / 8) (fcompare (e.gr.vReg f.a.toNat l) (f.val.setWidth 32))) := by
  have hf := fieldsOk_of_issues h
  simp only [Instr.fieldsOk, Bool.and_eq_true] at hf
  have ha' : e.badOpnd 1 (.reg f.a.toNat) = false := ha
  have hval : f.val.setWidth 32 = (Opnd.const f.val).lo e.gr 0 := by
    ext i hi
    simp [Opnd.lo, BitVec.getElem_extractLsb', BitVec.getLsbD_eq_getElem (show i < 64 by omega)]
  have := cmpFlt_eq e hf.2 (.reg f.a.toNat) (.const f.val)
  rw [hval]
  exact this ▸ takesPred_putCmp rfl rfl (by simp only [ha', Bool.false_eq_true, if_false]; rfl) h

/-- No register of the arms is out of range. -/
theorem any_over_of_all {e : Env} {arms : List Arm} (h : arms.all (fun x => !e.over x.a && !e.over x.b) = true) :
    arms.any (fun x => e.over x.a || e.over x.b) = false := by
  rw [List.any_eq_false]
  intro x hx
  have := List.all_eq_true.mp h x hx
  simpa using this

theorem vcmpMelded_takes {f : VMF} (h : Issues s e (.vcmpMelded f))
    (hr : (f.arms e).all (fun x => !e.over x.a && !e.over x.b) = true) :
    TakesPred s e (.vcmpMelded f) (f.arms e) (fun x l =>
      condInt (x.d / 8) (x.a'.int f.ty e.gr l) (x.b'.int f.ty e.gr l)) := by
  refine takesPred_putCmps (b := fun x => e.cmpInt f.ty (x.d / 8 % 8) x.a' x.b') rfl rfl ?_ (fun x hx => ?_) h
  · simp only [any_over_of_all hr, Bool.false_eq_true, if_false]
    rfl
  · obtain ⟨d, hd, hc⟩ := cond_of_arms (fieldsOk_of_issues h) hx
    rw [hd]
    exact cmpInt_eq e hc _ _ _

theorem vfcmpMelded_takes {f : VMF} (h : Issues s e (.vfcmpMelded f))
    (hr : (f.arms e).all (fun x => !e.over x.a && !e.over x.b) = true) :
    TakesPred s e (.vfcmpMelded f) (f.arms e) (fun x l =>
      condHolds (x.d / 8) (fcompare (e.gr.vReg x.a l) (e.gr.vReg x.b l))) := by
  refine takesPred_putCmps (b := fun x => e.cmpFlt (x.d / 8 % 8) x.a' x.b') rfl rfl ?_ (fun x hx => ?_) h
  · simp only [any_over_of_all hr, Bool.false_eq_true, if_false]
    rfl
  · obtain ⟨d, hd, hc⟩ := cond_of_arms (fieldsOk_of_issues h) hx
    rw [hd]
    exact cmpFlt_eq e hc _ _

end

/-- Settles O7: each compare writes the condition to the lanes of its arms, in one predicate. -/
theorem laneCompares : Obligations.LaneCompares := by
  intro s e
  refine ⟨fun f h ha hb => vcmp_takes h ha hb, fun f h ha => vcmpImm_takes h ha, fun f h ha hb => vfcmp_takes h ha hb,
    fun f h ha => vfcmpImm_takes h ha, fun f h hr => vcmpMelded_takes h hr, fun f h hr => vfcmpMelded_takes h hr,
    fun x y c hxy => ?_⟩
  rw [hxy, condHolds, Bool.decide_or]
  rfl

end Sys2Proof.Machine
end

section
/-! Rounding (R72, R73, R79): the result of the model's one rounding step is the code that its mode names. The exact
magnitude is a real number; a model's integer stands for it, exactly or with the sticky bit. -/

namespace Sys2Proof.Machine

/-- The real number of an exact one. -/
noncomputable def Dy.real (t : Dy) : ℝ := t.m * 2 ^ t.e

theorem Dy.real_eq_rat (t : Dy) : t.real = (t.rat : ℝ) := by
  unfold Dy.real Dy.rat
  push_cast
  rfl

theorem Dy.real_mid (x y : Dy) : (x.mid y).real = (x.real + y.real) / 2 := by
  have h (z : Dy) : (z.scale (-1)).real = z.real / 2 := by
    unfold Dy.real Dy.scale
    rw [zpow_add₀ two_ne_zero, zpow_neg_one]
    ring
  rw [Dy.mid, h, Dy.real_eq_rat, Dy.real_eq_rat, Dy.real_eq_rat, Dy.rat_add]
  push_cast
  rfl

theorem Dy.le_iff_real (x y : Dy) : x.le y = true ↔ x.real ≤ y.real := by
  rw [Dy.le_iff, Dy.real_eq_rat, Dy.real_eq_rat, Rat.cast_le]

theorem Dy.lt_iff_real (x y : Dy) : x.lt y = true ↔ x.real < y.real := by
  rw [Dy.lt_iff, Dy.real_eq_rat, Dy.real_eq_rat, Rat.cast_lt]

/-! One grid: the multiples of a unit. -/

/-- `a` is the integer that the number `y` rounds to (R73). -/
def OnGrid (rm : RMode) (neg : Bool) (y : ℝ) (a : Nat) : Prop :=
  (rm.toZero neg = true → (a : ℝ) ≤ y ∧ y < a + 1) ∧
  (rm.away neg = true → (a : ℝ) - 1 < y ∧ y ≤ a) ∧
  (rm = .rne → (a : ℝ) - 1 / 2 ≤ y ∧ y ≤ a + 1 / 2 ∧ ((a : ℝ) - 1 / 2 = y ∨ y = a + 1 / 2 → a % 2 = 0))

/-- A mode rounds to nearest, toward zero, or away from it. -/
theorem RMode.kinds (rm : RMode) (neg : Bool) :
    (rm = .rne ∧ rm.toZero neg = false ∧ rm.away neg = false) ∨ (rm ≠ .rne ∧ rm.toZero neg = true ∧ rm.away neg = false) ∨
      (rm ≠ .rne ∧ rm.toZero neg = false ∧ rm.away neg = true) := by
  cases rm <;> cases neg <;> decide

theorem onGrid_near {rm : RMode} {neg : Bool} {y : ℝ} {a : Nat} (h : OnGrid rm neg y a) : (a : ℝ) - 1 < y ∧ y < a + 1 := by
  obtain ⟨hz, ha, hn⟩ := h
  rcases rm.kinds neg with ⟨hm, -, -⟩ | ⟨-, hm, -⟩ | ⟨-, -, hm⟩
  · obtain ⟨h1, h2, -⟩ := hn hm
    constructor <;> grind
  · obtain ⟨h1, h2⟩ := hz hm
    constructor <;> grind
  · obtain ⟨h1, h2⟩ := ha hm
    constructor <;> grind

/-- Whether the rounded integer reaches an even bound. -/
theorem le_onGrid {rm : RMode} {neg : Bool} {y : ℝ} {a k : Nat} (h : OnGrid rm neg y a) (hk : k % 2 = 0) :
    k ≤ a ↔ (rm = .rne ∧ (k : ℝ) - 1 / 2 ≤ y) ∨ (rm.toZero neg = true ∧ (k : ℝ) ≤ y) ∨
      (rm.away neg = true ∧ (k : ℝ) - 1 < y) := by
  have hcast : k ≤ a ↔ (k : ℝ) ≤ a := Nat.cast_le.symm
  have hsucc : ¬ k ≤ a ↔ (a : ℝ) + 1 ≤ k := by
    rw [not_le]
    exact_mod_cast Nat.succ_le_iff.symm
  obtain ⟨hz, ha, hn⟩ := h
  rcases rm.kinds neg with ⟨hm, hm2, hm3⟩ | ⟨hm, hm2, hm3⟩ | ⟨hm, hm2, hm3⟩
  · obtain ⟨h1, h2, h3⟩ := hn hm
    simp only [hm2, hm3, eq_true hm, true_and, Bool.false_eq_true, false_and, or_false]
    constructor
    · intro h
      linarith [hcast.mp h]
    · intro h
      by_contra hlt
      have hle := hsucc.mp hlt
      have heq : y = a + 1 / 2 := by grind
      have hak : (a : ℝ) + 1 = k := by grind
      have hak' : a + 1 = k := by exact_mod_cast hak
      have := h3 (.inr heq)
      omega
  · obtain ⟨h1, h2⟩ := hz hm2
    simp only [hm2, hm3, hm, true_and, Bool.false_eq_true, false_and, or_false, false_or]
    constructor
    · intro h
      linarith [hcast.mp h]
    · intro h
      by_contra hlt
      linarith [hsucc.mp hlt]
  · obtain ⟨h1, h2⟩ := ha hm3
    simp only [hm2, hm3, hm, true_and, Bool.false_eq_true, false_and, false_or]
    constructor
    · intro h
      linarith [hcast.mp h]
    · intro h
      by_contra hlt
      linarith [hsucc.mp hlt]

/-- The integer `m` at `2 ^ e` stands for the number `x`: it is that number, or with the sticky bit the number lies
strictly between it and the next. -/
def StandsFor (m : Nat) (e : Int) (st : Bool) (x : ℝ) : Prop :=
  if st then (m : ℝ) * 2 ^ e < x ∧ x < (m + 1) * 2 ^ e else x = m * 2 ^ e

theorem StandsFor.bounds {m : Nat} {e : Int} {st : Bool} {x : ℝ} (h : StandsFor m e st x) :
    (m : ℝ) * 2 ^ e ≤ x ∧ x < (m + 1) * 2 ^ e := by
  have hpos : (0 : ℝ) < 2 ^ e := by positivity
  unfold StandsFor at h
  cases st
  · simp only [Bool.false_eq_true, if_false] at h
    rw [h]
    exact ⟨le_rfl, by grind⟩
  · simp only [if_true] at h
    exact ⟨h.1.le, h.2⟩

/-- The integer part and the rest of a number on a coarser grid. -/
theorem standsFor_div {m : Nat} {e : Int} {st : Bool} {x : ℝ} {q : Int} (h : StandsFor m e st x) (hq : e < q) :
    let s := (q - e).toNat
    let lo := m / 2 ^ s
    let rem := m % 2 ^ s
    (lo : ℝ) ≤ x / 2 ^ q ∧ x / 2 ^ q < lo + 1 ∧ ((rem ≠ 0 ∨ st = true) ↔ x / 2 ^ q ≠ lo) ∧
      (2 * rem < 2 ^ s → x / 2 ^ q - lo < 1 / 2) ∧ (2 * rem = 2 ^ s → st = false → x / 2 ^ q - lo = 1 / 2) ∧
      (2 * rem = 2 ^ s → st = true → 1 / 2 < x / 2 ^ q - lo) ∧ (2 ^ s < 2 * rem → 1 / 2 < x / 2 ^ q - lo) := by
  intro s lo rem
  have hs : (s : Int) = q - e := Int.toNat_of_nonneg (by lia)
  have hs1 : 1 ≤ s := by lia
  have hpow : (2 : ℝ) ^ q = 2 ^ s * 2 ^ e := by
    rw [show q = (s : Int) + e by lia, zpow_add₀ two_ne_zero, zpow_natCast]
  have hS : (0 : ℝ) < 2 ^ s := by positivity
  have hE : (0 : ℝ) < 2 ^ e := by positivity
  -- `v` is the number in units of `2 ^ e`
  obtain ⟨v, hv⟩ : ∃ v : ℝ, v = x / 2 ^ e := ⟨_, rfl⟩
  have hy : x / 2 ^ q = v / 2 ^ s := by rw [hpow, hv, div_div, mul_comm]
  have hm : (m : ℝ) = 2 ^ s * lo + rem := by exact_mod_cast (Nat.div_add_mod m (2 ^ s)).symm
  have hrem : rem + 1 ≤ 2 ^ s := Nat.mod_lt _ (by positivity)
  have hremR : (rem : ℝ) + 1 ≤ 2 ^ s := by exact_mod_cast hrem
  have hv1 : (m : ℝ) ≤ v := by rw [hv, le_div_iff₀ hE]; exact h.bounds.1
  have hv2 : v < m + 1 := by rw [hv, div_lt_iff₀ hE]; exact h.bounds.2
  have hvs : st = true → (m : ℝ) < v := fun hst => by
    rw [StandsFor, if_pos hst] at h
    rw [hv, lt_div_iff₀ hE]; exact h.1
  have hve : st = false → v = m := fun hst => by
    rw [StandsFor, if_neg (by simp [hst])] at h
    rw [hv, h, mul_div_cancel_right₀ _ hE.ne']
  have hrem0 : (0 : ℝ) ≤ rem := Nat.cast_nonneg _
  rw [hy]
  have hhalf : v / 2 ^ s - lo = (v - 2 ^ s * lo) / 2 ^ s := by field_simp
  refine ⟨?_, ?_, ?_, fun hc => ?_, fun hc hst => ?_, fun hc hst => ?_, fun hc => ?_⟩
  · rw [le_div_iff₀ hS]; grind
  · rw [div_lt_iff₀ hS]; grind
  · rw [ne_eq, ne_eq, div_eq_iff hS.ne']
    cases hst : st with
    | false =>
      rw [hve hst, hm]
      simp only [Bool.false_eq_true, or_false]
      refine not_congr ⟨fun hr => by rw [hr]; push_cast; ring, fun heq => ?_⟩
      have : (rem : ℝ) = 0 := by grind
      exact_mod_cast this
    | true =>
      simp only [or_true, true_iff]
      intro heq
      have := hvs hst
      grind
  · have heven : 2 ∣ 2 ^ s := dvd_pow_self 2 (by lia)
    have h2 : 2 * rem + 2 ≤ 2 ^ s := by lia
    have h2R : 2 * (rem : ℝ) + 2 ≤ 2 ^ s := by exact_mod_cast h2
    rw [hhalf, div_lt_iff₀ hS]
    grind
  · have h2R : 2 * (rem : ℝ) = 2 ^ s := by exact_mod_cast hc
    rw [hhalf, div_eq_iff hS.ne', hve hst]
    grind
  · have h2R : 2 * (rem : ℝ) = 2 ^ s := by exact_mod_cast hc
    rw [hhalf, lt_div_iff₀ hS]
    linarith [hvs hst]
  · have h2R : (2 : ℝ) ^ s < 2 * rem := by exact_mod_cast hc
    rw [hhalf, lt_div_iff₀ hS]
    grind

/-- The model's step below the unit: the integer part goes up as the rest, compared with a half, says. -/
theorem roundAt_eq (rm : RMode) (neg : Bool) {m : Nat} {e : Int} {st : Bool} {x : ℝ} {q : Int} (h : StandsFor m e st x)
    (hq : e < q) :
    let lo := m / 2 ^ (q - e).toNat
    let ix := decide (m % 2 ^ (q - e).toNat ≠ 0) || st
    roundAt rm neg m e st q =
      (if roundUp rm neg (lo % 2 == 1) (compare (x / 2 ^ q - lo) (1 / 2)) ix then lo + 1 else lo, ix) := by
  obtain ⟨-, -, -, hlt, heq, heq', hgt⟩ := standsFor_div h hq
  intro lo ix
  unfold roundAt
  rw [if_neg (not_le.mpr hq)]
  dsimp only
  rcases lt_trichotomy (2 * (m % 2 ^ (q - e).toNat)) (2 ^ (q - e).toNat) with hc | hc | hc
  · rw [compare_lt_iff_lt.mpr hc, compare_lt_iff_lt.mpr (hlt hc)]
  · rw [compare_eq_iff_eq.mpr hc]
    cases hst : st with
    | false =>
      rw [compare_eq_iff_eq.mpr (heq hc hst)]
      simp only [ix, hst]
      rfl
    | true =>
      rw [compare_gt_iff_gt.mpr (heq' hc hst)]
      simp only [ix, hst]
      rfl
  · rw [compare_gt_iff_gt.mpr hc, compare_gt_iff_gt.mpr (hgt hc)]

/-- The upper or the lower of two neighbours, as the mode names it. -/
theorem onGrid_roundUp (rm : RMode) (neg : Bool) {y : ℝ} {lo : Nat} {ix : Bool} (h1 : (lo : ℝ) ≤ y) (h2 : y < lo + 1)
    (hix : ix = true ↔ y ≠ lo) :
    let a := if roundUp rm neg (lo % 2 == 1) (compare (y - lo) (1 / 2)) ix then lo + 1 else lo
    OnGrid rm neg y a := by
  have hnear : rm = .rne → OnGrid .rne neg y
      (if roundUp .rne neg (lo % 2 == 1) (compare (y - lo) (1 / 2)) ix then lo + 1 else lo) := fun _ => by
    refine ⟨fun h => by cases neg <;> exact absurd h (by decide), fun h => by cases neg <;> exact absurd h (by decide),
      fun _ => ?_⟩
    rcases lt_trichotomy (y - lo) (1 / 2) with hc | hc | hc
    · rw [compare_lt_iff_lt.mpr hc]
      simp only [roundUp, show (Ordering.lt == .gt) = false from rfl, show (Ordering.lt == .eq) = false from rfl,
        Bool.false_and, Bool.or_self, Bool.false_eq_true, if_false]
      exact ⟨by grind, by grind, by rintro (h | h) <;> grind⟩
    · rw [compare_eq_iff_eq.mpr hc]
      simp only [roundUp, show (Ordering.eq == .gt) = false from rfl, show (Ordering.eq == .eq) = true from rfl,
        Bool.false_or, Bool.true_and, beq_iff_eq]
      split
      · exact ⟨by push_cast; linarith, by push_cast; linarith, fun _ => by lia⟩
      · exact ⟨by linarith, by linarith, fun _ => by lia⟩
    · rw [compare_gt_iff_gt.mpr hc]
      simp only [roundUp, show (Ordering.gt == .gt) = true from rfl, Bool.true_or, if_true]
      push_cast
      exact ⟨by grind, by grind, by rintro (h | h) <;> grind⟩
  have hdown {a : Nat} (ha : a = lo) (hm : rm.toZero neg = true) (hr : rm ≠ .rne) (haw : rm.away neg = false) :
      OnGrid rm neg y a := by
    subst ha
    exact ⟨fun _ => ⟨h1, h2⟩, fun h => absurd (haw ▸ h) Bool.false_ne_true, fun h => absurd h hr⟩
  have hup {a : Nat} (ha : a = if ix then lo + 1 else lo) (hm : rm.away neg = true) (hr : rm ≠ .rne)
      (hz : rm.toZero neg = false) : OnGrid rm neg y a := by
    refine ⟨fun h => absurd (hz ▸ h) Bool.false_ne_true, fun _ => ?_, fun h => absurd h hr⟩
    cases hi : ix with
    | false =>
      have hy : y = lo := by
        by_contra hne
        exact absurd (hix.mpr hne) (by simp [hi])
      rw [ha, hi, if_neg Bool.false_ne_true, hy]
      constructor <;> grind
    | true =>
      have hne := hix.mp hi
      have hlt : (lo : ℝ) < y := lt_of_le_of_ne h1 hne.symm
      rw [ha, hi, if_pos rfl]
      push_cast
      constructor <;> grind
  intro a
  rcases hrm : rm with _ | _ | _ | _
  · subst hrm
    exact hnear rfl
  · subst hrm
    exact hdown rfl (by cases neg <;> rfl) (by decide) (by cases neg <;> rfl)
  · subst hrm
    cases neg
    · exact hup (by simp [a, roundUp]) rfl (by decide) rfl
    · exact hdown (by simp [a, roundUp]) rfl (by decide) rfl
  · subst hrm
    cases neg
    · exact hdown (by simp [a, roundUp]) rfl (by decide) rfl
    · exact hup (by simp [a, roundUp]) rfl (by decide) rfl

/-- The model's step: the multiple of `2 ^ q` that the mode names, and whether the number is none. -/
theorem roundAt_onGrid (rm : RMode) (neg : Bool) {m : Nat} {e : Int} {st : Bool} {x : ℝ} {q : Int}
    (h : StandsFor m e st x) (hq : st = true → e < q) :
    OnGrid rm neg (x / 2 ^ q) (roundAt rm neg m e st q).1 ∧
      ((roundAt rm neg m e st q).2 = true ↔ x / 2 ^ q ≠ (roundAt rm neg m e st q).1) := by
  by_cases hqe : q ≤ e
  · unfold roundAt
    rw [if_pos hqe]
    have hst : st = false := by
      cases st
      · rfl
      · exact absurd (hq rfl) (not_lt.mpr hqe)
    subst hst
    have hx : x / 2 ^ q = ((m * 2 ^ (e - q).toNat : Nat) : ℝ) := by
      rw [StandsFor, if_neg Bool.false_ne_true] at h
      rw [h, mul_div_assoc, ← zpow_sub₀ two_ne_zero]
      push_cast
      rw [← zpow_natCast, Int.toNat_of_nonneg (by lia)]
    simp only [hx, Bool.false_eq_true, false_iff, ne_eq, not_not, and_true]
    exact ⟨fun _ => ⟨le_rfl, by grind⟩, fun _ => ⟨by grind, le_rfl⟩,
      fun _ => ⟨by grind, by grind, by rintro (h | h) <;> grind⟩⟩
  · have hqe' := not_le.mp hqe
    obtain ⟨h1, h2, h3, -⟩ := standsFor_div h hqe'
    have hix : (decide (m % 2 ^ (q - e).toNat ≠ 0) || st) = true ↔ x / 2 ^ q ≠ (m / 2 ^ (q - e).toNat : Nat) := by
      rw [Bool.or_eq_true, decide_eq_true_eq]
      exact h3
    rw [roundAt_eq rm neg h hqe']
    have hgrid := onGrid_roundUp rm neg h1 h2 hix
    refine ⟨hgrid, hix.trans ?_⟩
    have hnear := onGrid_near hgrid
    dsimp only at hnear ⊢
    split at hnear <;> rename_i hup
    · rw [if_pos hup]
      push_cast at hnear ⊢
      exact ⟨fun _ => h2.ne, fun _ => (show ((m / 2 ^ (q - e).toNat : Nat) : ℝ) < x / 2 ^ q by linarith [hnear.1]).ne'⟩
    · rw [if_neg hup]

/-- The grid need not be finer than the unit: with the sticky bit the step sees the same on a finer one. -/
theorem roundAt_scale (rm : RMode) (neg : Bool) (m k : Nat) {e q : Int} (hq : e < q) :
    roundAt rm neg (m * 2 ^ k) (e - k) true q = roundAt rm neg m e true q := by
  -- a number just above the integer stands between the neighbours of both grids
  obtain ⟨x, hx⟩ : ∃ x : ℝ, x = (m * 2 ^ k + 1 / 2) * 2 ^ (e - k) := ⟨_, rfl⟩
  have hE : (0 : ℝ) < 2 ^ (e - k) := by positivity
  have hK : (1 : ℝ) ≤ 2 ^ k := one_le_pow₀ (by simp)
  have hpow : (2 : ℝ) ^ e = 2 ^ k * 2 ^ (e - k) := by
    rw [← zpow_natCast, ← zpow_add₀ two_ne_zero, add_sub_cancel]
  have hfine : StandsFor (m * 2 ^ k) (e - k) true x := by
    rw [StandsFor, if_pos rfl, hx]
    push_cast
    constructor <;> grind
  have hcoarse : StandsFor m e true x := by
    rw [StandsFor, if_pos rfl, hx, hpow]
    constructor <;> nlinarith
  have hs : (q - (e - k)).toNat = (q - e).toNat + k := by lia
  rw [roundAt_eq rm neg hfine (by lia), roundAt_eq rm neg hcoarse hq]
  simp only [hs, pow_add, Nat.mul_div_mul_right _ _ (show 0 < 2 ^ k by positivity), Bool.or_true]

/-! Codes (R71). -/

/-- The formats that a code of the wide formats fits. -/
structure FFmt.Wide (f : FFmt) : Prop where
  frac : 1 ≤ f.fb
  exp : 2 ≤ f.eb
  bias : f.bias = 2 ^ (f.eb - 1) - 1

theorem f32_wide : f32.Wide := ⟨by decide, by decide, by decide⟩
theorem f16_wide : f16.Wide := ⟨by decide, by decide, by decide⟩
theorem e8m7_wide : e8m7.Wide := ⟨by decide, by decide, by decide⟩

section
variable {f : FFmt}

/-- The exponent of the last place of a biased exponent. -/
noncomputable def FFmt.place (f : FFmt) (ex : Nat) : Int := (if ex = 0 then 1 else (ex : Int)) - f.bias - f.fb

/-- A code with its fields. -/
theorem decode_fields (neg : Bool) {ex fr : Nat} (hex : ex < 2 ^ f.eb) (hfr : fr < 2 ^ f.fb) :
    f.decode (f.signCode neg + (ex * 2 ^ f.fb + fr)) =
      if ex = 2 ^ f.eb - 1 then (if fr = 0 then .inf neg else .nan)
      else .fin neg (if ex = 0 then fr else fr + 2 ^ f.fb) (f.place ex) := by
  have hB : 0 < 2 ^ f.fb := by positivity
  have hS : f.signCode neg = neg.toNat * 2 ^ f.eb * 2 ^ f.fb := by
    unfold FFmt.signCode
    cases neg <;> simp [pow_add]
  have hsum : f.signCode neg + (ex * 2 ^ f.fb + fr) = (neg.toNat * 2 ^ f.eb + ex) * 2 ^ f.fb + fr := by rw [hS]; ring
  have hmod : (f.signCode neg + (ex * 2 ^ f.fb + fr)) % 2 ^ f.fb = fr := by
    rw [hsum, Nat.mul_comm, Nat.mul_add_mod, Nat.mod_eq_of_lt hfr]
  have hdiv : (f.signCode neg + (ex * 2 ^ f.fb + fr)) / 2 ^ f.fb = neg.toNat * 2 ^ f.eb + ex := by
    rw [hsum, Nat.mul_comm, Nat.mul_add_div hB, Nat.div_eq_of_lt hfr, Nat.add_zero]
  have hexp : (neg.toNat * 2 ^ f.eb + ex) % 2 ^ f.eb = ex := by
    rw [Nat.mul_comm, Nat.mul_add_mod, Nat.mod_eq_of_lt hex]
  have hneg : (neg.toNat * 2 ^ f.eb + ex) / 2 ^ f.eb = neg.toNat := by
    rw [Nat.mul_comm, Nat.mul_add_div (by positivity), Nat.div_eq_of_lt hex, Nat.add_zero]
  have hsign : decide ((f.signCode neg + (ex * 2 ^ f.fb + fr)) / 2 ^ (f.fb + f.eb) % 2 = 1) = neg := by
    rw [pow_add, ← Nat.div_div_eq_div_mul, hdiv, hneg]
    cases neg <;> rfl
  unfold FFmt.decode FFmt.place
  simp only [hmod, hdiv, hexp, hsign]
  split
  · rfl
  · split <;> simp

theorem infCode_eq (f : FFmt) : f.infCode = (2 ^ f.eb - 1) * 2 ^ f.fb := rfl

/-- The code that the rounding step forms holds its multiple of the last place. -/
theorem decode_code (neg : Bool) {ex a : Nat} (h0 : ex = 0 ∨ 2 ^ f.fb ≤ a) (ha : a ≤ 2 ^ (f.fb + 1))
    (hc : ex * 2 ^ f.fb + a < f.infCode) :
    ∃ (m : Nat) (q : Int), f.decode (f.signCode neg + (ex * 2 ^ f.fb + a)) = .fin neg m q ∧
      Dy.real { m := m, e := q } = a * 2 ^ ((ex : Int) + 1 - f.bias - f.fb) := by
  have hB : 0 < 2 ^ f.fb := by positivity
  have h2 : 2 ^ (f.fb + 1) = 2 * 2 ^ f.fb := pow_succ' 2 _
  have hin : (ex * 2 ^ f.fb + a) / 2 ^ f.fb < 2 ^ f.eb - 1 := by
    rw [Nat.div_lt_iff_lt_mul hB]
    exact hc
  rw [Nat.mul_comm ex, Nat.mul_add_div hB] at hin
  rcases Nat.lt_or_ge a (2 ^ f.fb) with hlt | hge
  · have hex : ex = 0 := h0.resolve_right (by omega)
    subst hex
    rw [Nat.div_eq_of_lt hlt] at hin
    rw [decode_fields neg (by omega) hlt, if_neg (by omega), if_pos rfl]
    refine ⟨_, _, rfl, ?_⟩
    simp [Dy.real, FFmt.place]
  · rcases Nat.lt_or_ge a (2 ^ (f.fb + 1)) with hlt | hge2
    · have hdiv : a / 2 ^ f.fb = 1 := Nat.div_eq_of_lt_le (by omega) (by omega)
      rw [hdiv] at hin
      rw [show ex * 2 ^ f.fb + a = (ex + 1) * 2 ^ f.fb + (a - 2 ^ f.fb) by rw [Nat.add_mul]; omega,
        decode_fields neg (by omega) (by omega), if_neg (by omega), if_neg (by omega), Nat.sub_add_cancel hge]
      refine ⟨_, _, rfl, ?_⟩
      simp [Dy.real, FFmt.place]
    · have hdiv : a / 2 ^ f.fb = 2 := Nat.div_eq_of_lt_le (by omega) (by omega)
      rw [hdiv] at hin
      rw [show ex * 2 ^ f.fb + a = (ex + 2) * 2 ^ f.fb + 0 by rw [Nat.add_mul]; omega,
        decode_fields neg (by omega) hB, if_neg (by omega), if_neg (by omega)]
      refine ⟨_, _, rfl, ?_⟩
      have haR : (a : ℝ) = 2 * 2 ^ f.fb := by
        have : a = 2 * 2 ^ f.fb := by omega
        exact_mod_cast this
      rw [Dy.real, haR, FFmt.place, if_neg (by omega)]
      push_cast
      rw [show (ex : Int) + 2 - f.bias - f.fb = (ex + 1 - f.bias - f.fb) + 1 by ring, zpow_add_one₀ two_ne_zero]
      ring

/-- A finite code is a multiple of its last place, below twice the normal range's first number of places. -/
theorem decode_range {c m : Nat} {n : Bool} {q : Int} (h : f.decode c = .fin n m q) :
    m < 2 ^ (f.fb + 1) ∧ 1 - (f.bias : Int) - f.fb ≤ q := by
  have hfr : c % 2 ^ f.fb < 2 ^ f.fb := Nat.mod_lt _ (by positivity)
  have h2 : 2 ^ (f.fb + 1) = 2 * 2 ^ f.fb := pow_succ' 2 _
  unfold FFmt.decode at h
  simp only at h
  split at h
  · split at h <;> cases h
  · split at h <;> cases h <;> constructor <;> lia

/-- A finite magnitude is a multiple of a unit, or below the numbers that have this unit as their last place. -/
theorem decode_multiple {c m : Nat} {n : Bool} {q : Int} (h : f.decode c = .fin n m q) (u : Int) :
    (∃ k : Nat, Dy.real { m := m, e := q } = k * 2 ^ u) ∨ (q < u ∧ Dy.real { m := m, e := q } < 2 ^ (u + f.fb)) := by
  obtain ⟨hm, -⟩ := decode_range h
  by_cases hq : u ≤ q
  · left
    refine ⟨m * 2 ^ (q - u).toNat, ?_⟩
    unfold Dy.real
    push_cast
    rw [mul_assoc, ← zpow_natCast, ← zpow_add₀ two_ne_zero, Int.toNat_of_nonneg (by lia), sub_add_cancel]
  · refine .inr ⟨not_le.mp hq, ?_⟩
    have hmR : (m : ℝ) < 2 ^ (f.fb + 1) := by exact_mod_cast hm
    calc Dy.real { m := m, e := q } = m * 2 ^ q := by unfold Dy.real; push_cast; rfl
      _ < 2 ^ (f.fb + 1) * 2 ^ q := by
        exact mul_lt_mul_of_pos_right hmR (by positivity)
      _ = 2 ^ ((f.fb : Int) + 1 + q) := by rw [zpow_add₀ two_ne_zero]; norm_cast
      _ ≤ 2 ^ (u + f.fb) := zpow_le_zpow_right₀ (by simp) (by lia)

/-! The rounding step. -/

/-- The binary exponent of a magnitude. -/
theorem StandsFor.top {m : Nat} {e : Int} {st : Bool} {x : ℝ} (h : StandsFor m e st x) (hm : m ≠ 0) :
    (2 : ℝ) ^ ((m.log2 : Int) + e) ≤ x ∧ x < 2 ^ ((m.log2 : Int) + e + 1) := by
  obtain ⟨h1, h2⟩ := h.bounds
  have hE : (0 : ℝ) < 2 ^ e := by positivity
  have hlo : ((2 ^ m.log2 : Nat) : ℝ) ≤ m := by exact_mod_cast Nat.log2_self_le hm
  have hhi : ((m + 1 : Nat) : ℝ) ≤ ((2 ^ (m.log2 + 1) : Nat) : ℝ) := by exact_mod_cast Nat.lt_log2_self
  push_cast at hlo hhi
  constructor
  · calc (2 : ℝ) ^ ((m.log2 : Int) + e) = 2 ^ m.log2 * 2 ^ e := by rw [zpow_add₀ two_ne_zero, zpow_natCast]
      _ ≤ m * 2 ^ e := by gcongr
      _ ≤ x := h1
  · calc x < (m + 1) * 2 ^ e := h2
      _ ≤ 2 ^ (m.log2 + 1) * 2 ^ e := by gcongr
      _ = 2 ^ ((m.log2 : Int) + e + 1) := by
        rw [show (m.log2 : Int) + e + 1 = ((m.log2 + 1 : Nat) : Int) + e by push_cast; ring, zpow_add₀ two_ne_zero,
          zpow_natCast]

/-- The multiple of the place that the step takes. -/
noncomputable def FFmt.mantAt (f : FFmt) (rm : RMode) (neg : Bool) (m : Nat) (e : Int) (st : Bool) (q : Int) : Nat × Bool :=
  if st then roundAt rm neg (m * 2 ^ (f.fb + 4)) (e - (f.fb + 4)) st q else roundAt rm neg m e st q

theorem mantAt_onGrid (rm : RMode) (neg : Bool) {m : Nat} {e : Int} {st : Bool} {x : ℝ} {q : Int}
    (h : StandsFor m e st x) (hq : st = true → e < q) :
    OnGrid rm neg (x / 2 ^ q) (f.mantAt rm neg m e st q).1 ∧
      ((f.mantAt rm neg m e st q).2 = true ↔ x / 2 ^ q ≠ (f.mantAt rm neg m e st q).1) := by
  unfold FFmt.mantAt
  cases st with
  | false => exact roundAt_onGrid rm neg h hq
  | true =>
    rw [if_pos rfl]
    have := roundAt_scale rm neg m (f.fb + 4) (hq rfl)
    push_cast at this
    rw [this]
    exact roundAt_onGrid rm neg h hq

/-- The step in the terms of the exact magnitude. -/
theorem round_eq (f : FFmt) (rm : RMode) (sat neg : Bool) {m : Nat} (hm : m ≠ 0) (e : Int) (st : Bool) :
    f.round rm sat neg m e st =
      let top : Int := m.log2 + e
      let emin : Int := 1 - (f.bias : Int)
      let q := max top emin - f.fb
      let a := (f.mantAt rm neg m e st q).1
      let ix := (f.mantAt rm neg m e st q).2
      let tiny := decide (top < emin) &&
        decide ((f.mantAt rm neg m e st (top - f.fb)).1 < 2 ^ (f.fb + 1) ∨ top < emin - 1)
      let code := (q + f.fb + f.bias - 1).toNat * 2 ^ f.fb + a
      if f.infCode ≤ code then
        if sat then (f.signCode neg + (f.infCode - 1), flSAT)
        else (f.signCode neg + (if rm.toZero neg then f.infCode - 1 else f.infCode), flOF ||| flNX)
      else (f.signCode neg + code, flIf ix flNX ||| flIf (tiny && ix) flUF) := by
  have hinf : (match rm with | .rne => true | .rz => false | .rup => !neg | .rdn => neg) = !rm.toZero neg := by
    cases rm <;> cases neg <;> rfl
  have hlog : (m * 2 ^ (f.fb + 4)).log2 = m.log2 + (f.fb + 4) := by
    rw [Nat.log2_eq_iff (by positivity)]
    have h1 := Nat.log2_self_le hm
    have h2 := Nat.lt_log2_self (n := m)
    constructor
    · rw [pow_add]; exact Nat.mul_le_mul_right _ h1
    · rw [show m.log2 + (f.fb + 4) + 1 = (m.log2 + 1) + (f.fb + 4) by ring, pow_add 2 (m.log2 + 1)]
      exact Nat.mul_lt_mul_of_pos_right h2 (by positivity)
  have htop : ((m * 2 ^ (f.fb + 4)).log2 : Int) + (e - (f.fb + 4)) = m.log2 + e := by rw [hlog]; push_cast; ring
  unfold FFmt.round FFmt.mantAt
  cases st with
  | false => cases rm <;> cases neg <;> rfl
  | true =>
    simp only [if_true, htop]
    cases rm <;> cases neg <;> rfl

/-- A number rounds up to `2 ^ (u + n)` or beyond, on the grid of `2 ^ u`. -/
def RoundsPast (rm : RMode) (neg : Bool) (x : ℝ) (n : Nat) (u : Int) : Prop :=
  (rm = .rne ∧ Dy.real { m := 2 ^ (n + 1) - 1, e := u - 1 } ≤ x) ∨
    (rm.toZero neg = true ∧ Dy.real { m := 1, e := u + n } ≤ x) ∨
    (rm.away neg = true ∧ Dy.real { m := 2 ^ n - 1, e := u } < x)

section
variable {rm : RMode} {neg : Bool} {x : ℝ} {n : Nat} {u : Int}

theorem roundsPast_bounds (n : Nat) (u : Int) :
    Dy.real { m := 2 ^ (n + 1) - 1, e := u - 1 } = (2 ^ n - 1 / 2) * 2 ^ u ∧
      Dy.real { m := 1, e := u + n } = 2 ^ n * 2 ^ u ∧ Dy.real { m := 2 ^ n - 1, e := u } = (2 ^ n - 1) * 2 ^ u := by
  unfold Dy.real
  push_cast
  refine ⟨?_, ?_, rfl⟩
  · rw [zpow_sub_one₀ two_ne_zero, pow_succ]; ring
  · rw [zpow_add₀ two_ne_zero, zpow_natCast]; ring

theorem le_iff_roundsPast {a : Nat} (h : OnGrid rm neg (x / 2 ^ u) a) (hn : 1 ≤ n) : 2 ^ n ≤ a ↔ RoundsPast rm neg x n u := by
  have hU : (0 : ℝ) < 2 ^ u := by positivity
  have heven : 2 ^ n % 2 = 0 := Nat.mod_eq_zero_of_dvd (dvd_pow_self 2 (by lia))
  obtain ⟨h1, h2, h3⟩ := roundsPast_bounds n u
  rw [le_onGrid h heven, RoundsPast, h1, h2, h3]
  push_cast
  rw [le_div_iff₀ hU, le_div_iff₀ hU, lt_div_iff₀ hU]

theorem roundsPast_of_le (h : (2 : ℝ) ^ (u + n) ≤ x) : RoundsPast rm neg x n u := by
  have hU : (0 : ℝ) < 2 ^ u := by positivity
  obtain ⟨h1, h2, h3⟩ := roundsPast_bounds n u
  rw [zpow_add₀ two_ne_zero, zpow_natCast] at h
  unfold RoundsPast
  rw [h1, h2, h3]
  rcases rm.kinds neg with ⟨hm, -, -⟩ | ⟨-, hm, -⟩ | ⟨-, -, hm⟩
  · exact .inl ⟨hm, by grind⟩
  · exact .inr (.inl ⟨hm, by grind⟩)
  · exact .inr (.inr ⟨hm, by grind⟩)

theorem not_roundsPast_of_lt (hn : 1 ≤ n) (h : x < 2 ^ (u + n - 1)) : ¬ RoundsPast rm neg x n u := by
  have hU : (0 : ℝ) < 2 ^ u := by positivity
  obtain ⟨k, rfl⟩ : ∃ k, n = k + 1 := ⟨n - 1, by lia⟩
  have hK : (1 : ℝ) ≤ 2 ^ k := one_le_pow₀ (by norm_num)
  obtain ⟨h1, h2, h3⟩ := roundsPast_bounds (k + 1) u
  have hx : x < 2 ^ k * 2 ^ u := by
    rwa [show u + ((k + 1 : Nat) : Int) - 1 = (k : Int) + u by push_cast; ring, zpow_add₀ two_ne_zero, zpow_natCast] at h
  have hle : (2 : ℝ) ^ k * 2 ^ u ≤ (2 ^ (k + 1) - 1) * 2 ^ u := by
    rw [pow_succ]
    exact mul_le_mul_of_nonneg_right (by grind) hU.le
  unfold RoundsPast
  rw [h1, h2, h3]
  rintro (⟨-, hr⟩ | ⟨-, hr⟩ | ⟨-, hr⟩) <;> grind

end

/-- The unit of an exponent field above the subnormal one by `ex`. -/
noncomputable def FFmt.unit (f : FFmt) (ex : Nat) : Int := (ex : Int) + 1 - f.bias - f.fb

/-- A number's place: the multiple `a` of the unit of its binade, or of the subnormal one, that it rounds to. -/
structure Placed (f : FFmt) (rm : RMode) (neg : Bool) (x : ℝ) (ex a : Nat) : Prop where
  grid : OnGrid rm neg (x / 2 ^ f.unit ex) a
  low : ex = 0 ∨ (2 : ℝ) ^ (f.unit ex + f.fb) ≤ x
  high : x < 2 ^ (f.unit ex + f.fb + 1)

section
variable {rm : RMode} {neg : Bool} {x : ℝ} {ex a : Nat} (h : Placed f rm neg x ex a)
include h

theorem Placed.unit_low (hx : (2 : ℝ) ^ (f.unit ex + f.fb) ≤ x) : 2 ^ f.fb ≤ a := by
  have hU : (0 : ℝ) < 2 ^ f.unit ex := by positivity
  have hy : (2 : ℝ) ^ f.fb ≤ x / 2 ^ f.unit ex := by
    rwa [le_div_iff₀ hU, ← zpow_natCast, ← zpow_add₀ two_ne_zero, add_comm]
  have hlt : ((2 ^ f.fb : Nat) : ℝ) < ((a + 1 : Nat) : ℝ) := by
    push_cast
    exact hy.trans_lt (onGrid_near h.grid).2
  exact Nat.lt_succ_iff.mp (by exact_mod_cast hlt)

theorem Placed.mant_low : ex = 0 ∨ 2 ^ f.fb ≤ a := h.low.imp_right h.unit_low

theorem Placed.mant_high : a ≤ 2 ^ (f.fb + 1) := by
  have hU : (0 : ℝ) < 2 ^ f.unit ex := by positivity
  have hy : x / 2 ^ f.unit ex < (2 : ℝ) ^ (f.fb + 1) := by
    rw [div_lt_iff₀ hU, ← zpow_natCast, ← zpow_add₀ two_ne_zero]
    push_cast
    rw [show (f.fb : Int) + 1 + f.unit ex = f.unit ex + f.fb + 1 by ring]
    exact h.high
  have hlt : ((a : Nat) : ℝ) < ((2 ^ (f.fb + 1) + 1 : Nat) : ℝ) := by
    push_cast
    linarith [(onGrid_near h.grid).1]
  exact Nat.lt_succ_iff.mp (by exact_mod_cast hlt)

/-- The code passes the finite ones exactly where the number reaches past their range. -/
theorem Placed.infCode_le (hf : f.Wide) :
    f.infCode ≤ ex * 2 ^ f.fb + a ↔ RoundsPast rm neg x (f.fb + 1) (2 ^ f.eb - 2 - (f.bias : Int) - f.fb) := by
  have hB : 0 < 2 ^ f.fb := by positivity
  have h2 : 2 ^ (f.fb + 1) = 2 * 2 ^ f.fb := pow_succ' 2 _
  have heb : 4 ≤ 2 ^ f.eb := Nat.pow_le_pow_right (n := 2) (by decide) hf.exp
  have hhigh := h.mant_high
  obtain ⟨k, hk⟩ : ∃ k, 2 ^ f.eb = k + 3 := ⟨2 ^ f.eb - 3, by lia⟩
  have hinf : f.infCode = (k + 2) * 2 ^ f.fb := by rw [infCode_eq, hk]; rfl
  have hkZ : (2 : Int) ^ f.eb = k + 3 := by exact_mod_cast hk
  have hunit : (2 : Int) ^ f.eb - 2 - f.bias - f.fb = f.unit k := by rw [hkZ, FFmt.unit]; ring
  rw [hinf, hunit]
  rcases lt_trichotomy ex k with hlt | heq | hgt
  · refine iff_of_false ?_ (not_roundsPast_of_lt (by lia) (h.high.trans_le ?_))
    · have hmul : ex * 2 ^ f.fb + 2 ^ f.fb ≤ k * 2 ^ f.fb := by
        rw [← Nat.succ_mul]
        exact Nat.mul_le_mul_right _ hlt
      rw [Nat.add_mul]
      lia
    · refine zpow_le_zpow_right₀ (by norm_num) ?_
      unfold FFmt.unit
      push_cast
      lia
  · rw [← le_iff_roundsPast (heq ▸ h.grid) (by lia), Nat.add_mul, heq]
    lia
  · have hx : (2 : ℝ) ^ (f.unit ex + f.fb) ≤ x := h.low.resolve_left (by lia)
    have hmant := h.unit_low hx
    refine iff_of_true ?_ (roundsPast_of_le (le_trans (zpow_le_zpow_right₀ (by norm_num) ?_) hx))
    · have hmul : k * 2 ^ f.fb + 2 ^ f.fb ≤ ex * 2 ^ f.fb := by
        rw [← Nat.succ_mul]
        exact Nat.mul_le_mul_right _ hgt
      rw [Nat.add_mul]
      lia
    · unfold FFmt.unit
      push_cast
      lia

/-- Every finite magnitude is a multiple of the unit, or lies below the number's binade. -/
theorem Placed.neighbour {c k : Nat} {n : Bool} {z : Int} (hd : f.decode c = .fin n k z) :
    (∃ j : Nat, Dy.real { m := k, e := z } = j * 2 ^ f.unit ex) ∨
      (Dy.real { m := k, e := z } < 2 ^ (f.unit ex + f.fb) ∧ (2 : ℝ) ^ (f.unit ex + f.fb) ≤ x) := by
  refine (decode_multiple hd (f.unit ex)).imp_right fun ⟨hz, hlt⟩ => ⟨hlt, h.low.resolve_left fun h0 => ?_⟩
  have := (decode_range hd).2
  rw [h0, FFmt.unit] at hz
  push_cast at hz
  lia

end

end

/-- The place that the step chooses. -/
theorem placed_of_standsFor {f : FFmt} (rm : RMode) (neg : Bool) {m : Nat} {e : Int} {st : Bool} {x : ℝ} (hm : m ≠ 0)
    (h : StandsFor m e st x) (hst : st = true → 2 ^ (f.fb + 1) ≤ m) :
    let q := max ((m.log2 : Int) + e) (1 - f.bias) - f.fb
    let ex := (q + f.fb + f.bias - 1).toNat
    f.unit ex = q ∧ Placed f rm neg x ex (f.mantAt rm neg m e st q).1 ∧
      ((f.mantAt rm neg m e st q).2 = true ↔ x ≠ (f.mantAt rm neg m e st q).1 * 2 ^ q) := by
  intro q ex
  obtain ⟨hlo, hhi⟩ := h.top hm
  have hlog : st = true → (f.fb : Int) + 1 ≤ m.log2 := fun h1 => by
    have := (Nat.le_log2 hm).mpr (hst h1)
    omega
  have hunit : f.unit ex = q := by
    have : (ex : Int) = q + f.fb + f.bias - 1 := Int.toNat_of_nonneg (by omega)
    rw [FFmt.unit, this]
    ring
  obtain ⟨hgrid, hix⟩ := mantAt_onGrid (f := f) (q := q) rm neg h fun h1 => by have := hlog h1; omega
  rw [ne_eq, div_eq_iff (by positivity)] at hix
  refine ⟨hunit, ⟨?_, ?_, ?_⟩, hix⟩
  · rw [hunit]
    exact hgrid
  · by_cases htop : (m.log2 : Int) + e ≤ 1 - f.bias
    · left; omega
    · right
      rw [hunit]
      exact le_trans (zpow_le_zpow_right₀ (by norm_num) (by omega)) hlo
  · rw [hunit]
    exact hhi.trans_le (zpow_le_zpow_right₀ (by norm_num) (by omega))

/-- Whether the number, rounded to the precision alone, lies below the normal range. -/
theorem tiny_iff {f : FFmt} (rm : RMode) (neg : Bool) {m : Nat} {e : Int} {st : Bool} {x : ℝ} (hm : m ≠ 0)
    (h : StandsFor m e st x) (hst : st = true → 2 ^ (f.fb + 1) ≤ m) :
    let top : Int := (m.log2 : Int) + e
    let emin : Int := 1 - f.bias
    (top < emin ∧ ((f.mantAt rm neg m e st (top - f.fb)).1 < 2 ^ (f.fb + 1) ∨ top < emin - 1)) ↔
      ¬ RoundsPast rm neg x (f.fb + 1) (emin - f.fb - 1) := by
  intro top emin
  obtain ⟨hlo, hhi⟩ := h.top hm
  have hlog : st = true → (f.fb : Int) + 1 ≤ m.log2 := fun h1 => by
    have := (Nat.le_log2 hm).mpr (hst h1)
    lia
  rcases lt_trichotomy top (emin - 1) with hlt | heq | hgt
  · refine iff_of_true ⟨by lia, .inr hlt⟩ (not_roundsPast_of_lt (by lia) (hhi.trans_le ?_))
    exact zpow_le_zpow_right₀ (by norm_num) (by push_cast; lia)
  · have hgrid := (mantAt_onGrid (f := f) (q := top - f.fb) rm neg h fun h1 => by have := hlog h1; lia).1
    rw [show emin - f.fb - 1 = top - f.fb by lia, ← le_iff_roundsPast hgrid (by lia)]
    lia
  · refine iff_of_false (by lia) (not_not.mpr (roundsPast_of_le (le_trans ?_ hlo)))
    exact zpow_le_zpow_right₀ (by norm_num) (by push_cast; lia)

/-! A number's nearest multiple is the code that its mode names (R73). -/

section
variable {f : FFmt} {rm : RMode} {neg : Bool} {x y : ℝ} {ex a : Nat} (h : Placed f rm neg x ex a)
  (hy : (∃ j : Nat, y = j * 2 ^ f.unit ex) ∨ (y < 2 ^ (f.unit ex + f.fb) ∧ (2 : ℝ) ^ (f.unit ex + f.fb) ≤ x))
include h

theorem Placed.toZero_le (hz : rm.toZero neg = true) : (a : ℝ) * 2 ^ f.unit ex ≤ x := by
  rw [← le_div_iff₀ (by positivity)]
  exact (h.grid.1 hz).1

theorem Placed.le_away (hz : rm.away neg = true) : x ≤ (a : ℝ) * 2 ^ f.unit ex := by
  rw [← div_le_iff₀ (by positivity)]
  exact (h.grid.2.1 hz).2

include hy

theorem Placed.toZero_greatest (hz : rm.toZero neg = true) (hle : y ≤ x) : y ≤ a * 2 ^ f.unit ex := by
  have hU : (0 : ℝ) < 2 ^ f.unit ex := by positivity
  rcases hy with ⟨j, rfl⟩ | ⟨hlt, hx⟩
  · have hlt := (h.grid.1 hz).2
    rw [← le_div_iff₀ hU] at hle
    have hj : j ≤ a := by
      have : ((j : Nat) : ℝ) < ((a + 1 : Nat) : ℝ) := by push_cast; exact hle.trans_lt hlt
      exact Nat.lt_succ_iff.mp (by exact_mod_cast this)
    gcongr
  · have ha : ((2 ^ f.fb : Nat) : ℝ) ≤ a := by exact_mod_cast h.unit_low hx
    push_cast at ha
    rw [zpow_add₀ two_ne_zero, zpow_natCast] at hlt
    nlinarith

theorem Placed.away_least (hz : rm.away neg = true) (hle : x ≤ y) : (a : ℝ) * 2 ^ f.unit ex ≤ y := by
  have hU : (0 : ℝ) < 2 ^ f.unit ex := by positivity
  rcases hy with ⟨j, rfl⟩ | ⟨hlt, hx⟩
  · have hlt := (h.grid.2.1 hz).1
    rw [← div_le_iff₀ hU] at hle
    have hj : a ≤ j := by
      have : ((a : Nat) : ℝ) < ((j + 1 : Nat) : ℝ) := by push_cast; grind
      exact Nat.lt_succ_iff.mp (by exact_mod_cast this)
    gcongr
  · grind

/-- Below the code: the number is not nearer to another code there. -/
theorem Placed.nearest_below (hr : rm = .rne) (hlt : y < a * 2 ^ f.unit ex) :
    (y + a * 2 ^ f.unit ex) / 2 ≤ x ∧ (x = (y + a * 2 ^ f.unit ex) / 2 → a % 2 = 0) := by
  have hU : (0 : ℝ) < 2 ^ f.unit ex := by positivity
  obtain ⟨hlo, -, htie⟩ := h.grid.2.2 hr
  have hx : x = x / 2 ^ f.unit ex * 2 ^ f.unit ex := (div_mul_cancel₀ _ hU.ne').symm
  obtain ⟨v, hv⟩ : ∃ v, v = x / 2 ^ f.unit ex := ⟨_, rfl⟩
  rw [← hv] at hx hlo htie
  rcases hy with ⟨j, rfl⟩ | ⟨hlt', hxlo⟩
  · have hj : ((j : Nat) : ℝ) + 1 ≤ a := by
      have : (j : ℝ) < a := lt_of_mul_lt_mul_right hlt hU.le
      exact_mod_cast this
    refine ⟨by rw [hx]; nlinarith, fun heq => htie (.inl ?_)⟩
    rw [hx] at heq
    have : v = (j + a) / 2 := by
      have : v * 2 ^ f.unit ex = (j + a) / 2 * 2 ^ f.unit ex := by grind
      exact mul_right_cancel₀ hU.ne' this
    grind
  · have hmid : (y + a * 2 ^ f.unit ex) / 2 < x := by
      rcases le_or_gt ((a : ℝ) * 2 ^ f.unit ex) x with hle | hgt
      · grind
      · have hlow : (2 : ℝ) ^ f.fb ≤ v := by
          rw [hv, le_div_iff₀ hU, ← zpow_natCast, ← zpow_add₀ two_ne_zero, add_comm]
          exact hxlo
        have hav : v < a := by rw [hx] at hgt; exact lt_of_mul_lt_mul_right hgt hU.le
        have ha : ((2 ^ f.fb + 1 : Nat) : ℝ) ≤ a := by
          have : ((2 ^ f.fb : Nat) : ℝ) < a := by push_cast; exact hlow.trans_lt hav
          exact_mod_cast this
        push_cast at ha
        rw [zpow_add₀ two_ne_zero, zpow_natCast] at hlt'
        rw [hx]
        nlinarith
    exact ⟨hmid.le, fun heq => absurd heq hmid.ne'⟩

/-- Above the code likewise. -/
theorem Placed.nearest_above (hr : rm = .rne) (hlt : a * 2 ^ f.unit ex < y) :
    x ≤ (a * 2 ^ f.unit ex + y) / 2 ∧ (x = (a * 2 ^ f.unit ex + y) / 2 → a % 2 = 0) := by
  have hU : (0 : ℝ) < 2 ^ f.unit ex := by positivity
  obtain ⟨-, hhi, htie⟩ := h.grid.2.2 hr
  have hx : x = x / 2 ^ f.unit ex * 2 ^ f.unit ex := (div_mul_cancel₀ _ hU.ne').symm
  obtain ⟨v, hv⟩ : ∃ v, v = x / 2 ^ f.unit ex := ⟨_, rfl⟩
  rw [← hv] at hx hhi htie
  rcases hy with ⟨j, rfl⟩ | ⟨hlt', hxlo⟩
  · have hj : (a : ℝ) + 1 ≤ j := by
      have : (a : ℝ) < j := lt_of_mul_lt_mul_right hlt hU.le
      exact_mod_cast this
    refine ⟨by rw [hx]; nlinarith, fun heq => htie (.inr ?_)⟩
    rw [hx] at heq
    have : v = (a + j) / 2 := by
      have : v * 2 ^ f.unit ex = (a + j) / 2 * 2 ^ f.unit ex := by grind
      exact mul_right_cancel₀ hU.ne' this
    grind
  · have ha : ((2 ^ f.fb : Nat) : ℝ) ≤ a := by exact_mod_cast h.unit_low hxlo
    push_cast at ha
    rw [zpow_add₀ two_ne_zero, zpow_natCast] at hlt'
    nlinarith

end

theorem bounds_nonneg (n : Nat) : (0 : Int) ≤ 2 ^ n - 1 := by
  have : (1 : Int) ≤ 2 ^ n := one_le_pow₀ (by simp)
  lia

section
variable {f : FFmt} {rm : RMode} {neg : Bool} {x : ℝ} {le ge : Dy → Prop}
  (hle : ∀ t, 0 ≤ t.m → (le t ↔ t.real ≤ x)) (hge : ∀ t, 0 ≤ t.m → (ge t ↔ x ≤ t.real))
include hle hge

/-- The statement's bounds are those of the step. -/
theorem roundsPast_iff {n : Nat} {u u' v w : Int} (hu : u' = u - 1) (hv : v = u + n) (hw : w = u) :
    RoundsPast rm neg x n u ↔
      (rm = .rne ∧ le { m := 2 ^ (n + 1) - 1, e := u' }) ∨ (rm.toZero neg = true ∧ le { m := 1, e := v }) ∨
        (rm.away neg = true ∧ ¬ge { m := 2 ^ n - 1, e := w }) := by
  subst hu hv hw
  rw [RoundsPast, hle { m := 2 ^ (n + 1) - 1, e := w - 1 } (bounds_nonneg _), hle { m := 1, e := w + n } Int.one_nonneg,
    hge { m := 2 ^ n - 1, e := w } (bounds_nonneg _), not_le]

theorem not_roundsPast_iff {n : Nat} {u u' v w : Int} (hu : u' = u - 1) (hv : v = u + n) (hw : w = u) :
    ¬ RoundsPast rm neg x n u ↔
      (rm = .rne ∧ ¬le { m := 2 ^ (n + 1) - 1, e := u' }) ∨ (rm.toZero neg = true ∧ ¬le { m := 1, e := v }) ∨
        (rm.away neg = true ∧ ge { m := 2 ^ n - 1, e := w }) := by
  rw [roundsPast_iff hle hge hu hv hw]
  rcases rm.kinds neg with ⟨h1, h2, h3⟩ | ⟨h1, h2, h3⟩ | ⟨h1, h2, h3⟩
  · simp [h2, h3, eq_true h1]
  · simp [h1, h2, h3]
  · simp [h1, h2, h3]

/-- A placed number and the codes around it, in the statement's terms. -/
theorem Placed.nearest {ex a : Nat} {w : Dy} (h : Placed f rm neg x ex a) (hw : w.real = a * 2 ^ f.unit ex) (hw0 : 0 ≤ w.m) :
    (rm.toZero neg = true →
      le w ∧ ∀ c k z, f.decode c = .fin false k z → le { m := k, e := z } → Dy.le { m := k, e := z } w = true) ∧
    (rm.away neg = true →
      ge w ∧ ∀ c k z, f.decode c = .fin false k z → ge { m := k, e := z } → w.le { m := k, e := z } = true) ∧
    (rm = .rne → ∀ c k z, f.decode c = .fin false k z →
      let y : Dy := { m := k, e := z }
      (y.lt w = true → le (w.mid y)) ∧ (w.lt y = true → ge (w.mid y)) ∧
      (y.lt w = true ∨ w.lt y = true → le (w.mid y) → ge (w.mid y) → a % 2 = 0)) := by
  have hk (k : Nat) (z : Int) : 0 ≤ ({ m := k, e := z } : Dy).m := Int.natCast_nonneg k
  refine ⟨fun hz => ⟨?_, fun c k z hd hl => ?_⟩, fun hz => ⟨?_, fun c k z hd hg => ?_⟩, fun hr c k z hd => ?_⟩
  · rw [hle w hw0, hw]
    exact h.toZero_le hz
  · rw [hle _ (hk k z)] at hl
    rw [Dy.le_iff_real, hw]
    exact h.toZero_greatest (h.neighbour hd) hz hl
  · rw [hge w hw0, hw]
    exact h.le_away hz
  · rw [hge _ (hk k z)] at hg
    rw [Dy.le_iff_real, hw]
    exact h.away_least (h.neighbour hd) hz hg
  · intro y
    have hmid0 : 0 ≤ (w.mid y).m :=
      add_nonneg (mul_nonneg hw0 (by positivity)) (mul_nonneg (hk k z) (by positivity))
    have hmid : (w.mid y).real = (w.real + y.real) / 2 := Dy.real_mid w y
    rw [hle _ hmid0, hge _ hmid0, Dy.lt_iff_real, Dy.lt_iff_real, hmid, hw]
    have hn := h.neighbour hd
    refine ⟨fun hl => ?_, fun hl => (h.nearest_above hn hr hl).1, fun hne hl hg => ?_⟩
    · rw [add_comm]
      exact (h.nearest_below hn hr hl).1
    · have heq := le_antisymm hg hl
      rcases hne with hlt | hlt
      · exact (h.nearest_below hn hr hlt).2 (by rw [heq, add_comm])
      · exact (h.nearest_above hn hr hlt).2 heq

end

theorem flags_round (ix tiny : Bool) :
    ((flIf ix flNX ||| flIf (tiny && ix) flUF) &&& flNX = 0 ↔ ix = false) ∧
    ((flIf ix flNX ||| flIf (tiny && ix) flUF) &&& flUF ≠ 0 ↔ ix = true ∧ tiny = true) ∧
    (flIf ix flNX ||| flIf (tiny && ix) flUF) &&& ~~~(flNX ||| flUF) = 0 := by
  cases ix <;> cases tiny <;> decide

/-- The step rounds the number that its integer stands for, once. -/
theorem round_roundedIn {f : FFmt} (hf : f.Wide) (rm : RMode) (sat neg : Bool) {m : Nat} {e : Int} {st : Bool} {x : ℝ}
    (hm : m ≠ 0) (h : StandsFor m e st x) (hst : st = true → 2 ^ (f.fb + 1) ≤ m) {le ge : Dy → Prop}
    (hle : ∀ t, 0 ≤ t.m → (le t ↔ t.real ≤ x)) (hge : ∀ t, 0 ≤ t.m → (ge t ↔ x ≤ t.real)) :
    RoundedIn f sat rm neg le ge (f.round rm sat neg m e st) := by
  obtain ⟨hunit, hp, hix⟩ := placed_of_standsFor (f := f) rm neg hm h hst
  have htiny := tiny_iff (f := f) rm neg hm h hst
  have hinf := hp.infCode_le hf
  rw [round_eq f rm sat neg hm e st]
  dsimp only at hunit hp htiny hinf hix ⊢
  generalize (max ((m.log2 : Int) + e) (1 - f.bias) - f.fb + f.fb + f.bias - 1).toNat = ex at *
  generalize f.mantAt rm neg m e st (max ((m.log2 : Int) + e) (1 - f.bias) - f.fb) = r at *
  obtain ⟨a, ix⟩ := r
  dsimp only at *
  rw [← hunit] at hix
  rw [roundsPast_iff hle hge (u' := 2 ^ f.eb - 2 - f.bias - (f.fb + 1 : Nat)) (v := 2 ^ f.eb - 2 - f.bias + 1)
    (w := 2 ^ f.eb - 2 - f.bias - f.fb) (by push_cast; ring) (by push_cast; ring) rfl] at hinf
  rw [not_roundsPast_iff hle hge (u' := 1 - (f.bias : Int) - (f.fb + 1 : Nat) - 1) (v := 1 - (f.bias : Int))
    (w := 1 - (f.bias : Int) - (f.fb + 1 : Nat)) (by push_cast; ring) (by push_cast; ring) (by push_cast; ring)] at htiny
  refine ⟨fun hpast => ?_, fun hpast => ?_⟩
  · rw [if_pos (hinf.mpr hpast)]
  · have hc := not_le.mp (mt hinf.mp hpast)
    rw [if_neg (not_le.mpr hc)]
    obtain ⟨m', q', hdec, hreal⟩ := decode_code neg hp.mant_low hp.mant_high hc
    have hw0 : 0 ≤ ({ m := m', e := q' } : Dy).m := Int.natCast_nonneg m'
    have hparity : (f.signCode neg + (ex * 2 ^ f.fb + a)) % 2 = a % 2 := by
      have h1 : 2 ∣ 2 ^ f.fb := dvd_pow_self 2 (by have := hf.frac; lia)
      have h2 : 2 ∣ f.signCode neg := by
        unfold FFmt.signCode
        split
        · exact dvd_pow_self 2 (by have := hf.frac; lia)
        · exact dvd_zero 2
      have h3 : 2 ∣ ex * 2 ^ f.fb := Dvd.dvd.mul_left h1 ex
      lia
    have hexact : (le { m := m', e := q' } ∧ ge { m := m', e := q' }) ↔ x = a * 2 ^ f.unit ex := by
      rw [hle _ hw0, hge _ hw0, hreal]
      exact ⟨fun ⟨h1, h2⟩ => le_antisymm h2 h1, fun h1 => ⟨h1.ge, h1.le⟩⟩
    obtain ⟨hnx, huf, hother⟩ := flags_round ix (decide ((m.log2 : Int) + e < 1 - f.bias) &&
      decide ((f.mantAt rm neg m e st ((m.log2 : Int) + e - f.fb)).1 < 2 ^ (f.fb + 1) ∨ (m.log2 : Int) + e < 1 - f.bias - 1))
    refine ⟨?_, m', q', hdec, ?_⟩
    · have hinf2 : f.infCode ≤ 2 ^ (f.eb + f.fb) := by
        rw [infCode_eq, pow_add]
        exact Nat.mul_le_mul_right _ (Nat.sub_le _ _)
      have hsign : f.signCode neg ≤ 2 ^ (f.eb + f.fb) := by
        unfold FFmt.signCode
        split <;> lia
      have h2 : 2 ^ (1 + f.eb + f.fb) = 2 * 2 ^ (f.eb + f.fb) := by rw [add_assoc, add_comm 1, pow_succ, mul_comm]
      dsimp only
      lia
    · obtain ⟨hz, ha, hn⟩ := hp.nearest hle hge (w := { m := m', e := q' }) hreal hw0
      dsimp only at hz ha hn ⊢
      rw [hexact, hparity]
      refine ⟨hz, ha, hn, hnx.trans ?_, huf.trans ?_, hother⟩
      · rw [← Bool.not_eq_true, hix, not_not]
      · rw [hix, Bool.and_eq_true, decide_eq_true_eq, decide_eq_true_eq]
        exact and_congr Iff.rfl htiny

end Sys2Proof.Machine
end

section
/-! The f32 words of the lanes (R321, R322, R74): every lane takes the operation of its sources. -/

namespace Sys2Proof.Machine

/-- A lane's float result as one lane of the word. -/
theorem putFlt_laneStep (g : Group) (d l : Nat) {r : Lane × Flags} {x : Nat → Lane × Flags} (h : r = x l) :
    (g.setV d l r.1).raise r.2 = laneStep false d (fun l => (x l).1.setWidth 64) (fun l => (x l).2) l g := by
  rw [h]
  unfold laneStep Group.putWord
  simp only [Bool.false_eq_true, if_false, extractLsb'_setWidth_lane]

section
variable {s : State} {e : Env} {f : VF} {i : Instr} {body : Env → State → Res} {a b c : Opnd} {d : Nat}

/-- A word of `mapFlt`. -/
theorem takes_mapFlt {m : Word} {op : FltOp} (hf : trapFence i = false) (hx : exec i s = s.issue i body)
    (hb : body e (s.begun e) = .done (e.mapFlt m d a b c op (s.begun e))) (h : Issues s e i) :
    TakesLanes s e i false (oneArm m d)
      (fun _ l => (op (a.lo e.gr l) (b.lo e.gr l) (c.lo e.gr l)).1.setWidth 64)
      (fun _ l => (op (a.lo e.gr l) (b.lo e.gr l) (c.lo e.gr l)).2) :=
  takes_forLanes hf hx hb
    (fun l _ _ g => putFlt_laneStep g d l (x := fun l => op (a.lo e.gr l) (b.lo e.gr l) (c.lo e.gr l)) rfl) h

/-- A V word of A and B. -/
theorem takes_vFlt {op : Lane → Lane → Lane × Flags} (hf : trapFence i = false) (hx : exec i s = s.issue i body)
    (hb : body e (s.begun e) = e.vFlt i f (fun a b _ => op a b) (s.begun e)) (hl : e.lanesFor i = e.active i.guard)
    (hv : e.badV 1 f.d.toNat [.reg f.a.toNat, f.srcB e] = false) (h : Issues s e i) :
    TakesLanes s e i false (oneArm (e.active i.guard) f.d.toNat)
      (fun _ l => (op (e.gr.vReg f.a.toNat l) ((f.srcB e).lo e.gr l)).1.setWidth 64)
      (fun _ l => (op (e.gr.vReg f.a.toNat l) ((f.srcB e).lo e.gr l)).2) := by
  refine takes_mapFlt (a := .reg f.a.toNat) (b := f.srcB e) (c := .const 0) (op := fun a b _ => op a b) hf hx
    (hb.trans ?_) h
  unfold Env.vFlt
  simp only [hv, Bool.false_eq_true, if_false, hl]

/-- `vfma`. -/
theorem vfma_takes (h : Issues s e (.vfma f)) (hv : e.badV 1 f.d.toNat [.reg f.a.toNat, f.srcB e, f.srcC e] = false) :
    let x (l : Nat) : Lane × Flags :=
      ffma (RMode.of f.mod) (e.gr.vReg f.a.toNat l) ((f.srcB e).lo e.gr l) ((f.srcC e).lo e.gr l)
    TakesLanes s e (.vfma f) false (oneArm (e.active (Instr.vfma f).guard) f.d.toNat)
      (fun _ l => (x l).1.setWidth 64) (fun _ l => (x l).2) :=
  takes_mapFlt (a := .reg f.a.toNat) (b := f.srcB e) (c := f.srcC e) (op := fun a b c => ffma (RMode.of f.mod) a b c)
    rfl rfl (by simp only [hv, Bool.false_eq_true, if_false]; rfl) h

/-- A word of one function of A. -/
theorem takes_vFun {op : Nat → Lane → Lane × Flags} (hf : trapFence i = false) (hx : exec i s = s.issue i body)
    (hb : body e (s.begun e) = e.vFun i f op (s.begun e)) (hl : e.lanesFor i = e.active i.guard)
    (hv : e.badV 1 f.d.toNat [.reg f.a.toNat] = false) (h : Issues s e i) :
    TakesLanes s e i false (oneArm (e.active i.guard) f.d.toNat)
      (fun _ l => (op l (e.gr.vReg f.a.toNat l)).1.setWidth 64) (fun _ l => (op l (e.gr.vReg f.a.toNat l)).2) := by
  refine takes_forLanes hf hx (hb.trans ?_)
    (fun l _ _ g => putFlt_laneStep g f.d.toNat l (x := fun l => op l (e.gr.vReg f.a.toNat l)) rfl) h
  unfold Env.vFun
  simp only [hv, Bool.false_eq_true, if_false, hl]

/-- A melded word of `mapFlt`. -/
theorem takes_vmFlt {f : VMF} {op : FltOp} (hf : trapFence i = false) (hx : exec i s = s.issue i body)
    (hb : body e (s.begun e) = e.vmFlt f op (s.begun e))
    (hr : (f.arms e).all (fun x => !e.over x.d && !e.over x.a && !e.over x.b) = true) (h : Issues s e i) :
    let v (x : Arm) (l : Nat) : Lane × Flags :=
      op (e.gr.vReg x.a l) (e.gr.vReg x.b l) (if f.acc then e.gr.vReg x.d l else 0)
    TakesLanes s e i false (f.arms e) (fun x l => (v x l).1.setWidth 64) (fun x l => (v x l).2) := by
  have hbad : (f.arms e).any (fun x => e.badV 1 x.d [.reg x.a, .reg x.b]) = false := by
    refine List.any_eq_false.mpr fun x hx => ?_
    have := List.all_eq_true.mp hr x hx
    simp only [Bool.and_eq_true, Bool.not_eq_true'] at this
    obtain ⟨⟨hd, ha⟩, hb⟩ := this
    show ¬ (e.over x.d || (e.over x.a || (e.over x.b || false))) = true
    simp [hd, ha, hb]
  have hc (x : Arm) (l : Nat) :
      (if f.acc then .reg x.d else .const 0 : Opnd).lo e.gr l = if f.acc then e.gr.vReg x.d l else 0 := by
    split <;> rfl
  intro v
  refine takes_arms (f := f) (step := fun x l g => (g.setV x.d l (v x l).1).raise (v x l).2) hf hx (hb.trans ?_)
    (fun x _ l _ _ g => putFlt_laneStep g x.d l (x := fun l => v x l) rfl) h
  unfold Env.vmFlt Env.mapFlt
  simp only [hbad, hc, Bool.false_eq_true, if_false]
  rfl

end

/-- Settles O9: each word maps its operation over the active lanes. -/
theorem laneFloats : Obligations.LaneFloats := by
  intro s e f d va a b c rm puts
  exact ⟨fun h hv => takes_vFlt (op := fadd rm) rfl rfl rfl rfl hv h,
    fun h hv => takes_vFlt (op := fsub rm) rfl rfl rfl rfl hv h,
    fun h hv => takes_vFlt (op := fmul rm) rfl rfl rfl rfl hv h,
    fun h hv => vfma_takes h hv,
    fun h hv => takes_vFlt (op := fmin) rfl rfl rfl rfl hv h,
    fun h hv => takes_vFlt (op := fmax) rfl rfl rfl rfl hv h,
    fun h hv => takes_vFlt (op := fun a b => fscale rm a b.toInt) rfl rfl rfl rfl hv h,
    fun h hv => takes_vFun (op := fun _ x => frcp rm x) rfl rfl rfl rfl hv h,
    fun h hv => takes_vFun (op := fun _ x => frsqrt rm x) rfl rfl rfl rfl hv h,
    fun h hv => takes_vFun (op := fun _ x => fsqrt rm x) rfl rfl rfl rfl hv h,
    fun h hv => takes_vFun (op := fun l x => fex2 (Config.undecided (64 * s.fresh + l) x) x) rfl rfl rfl rfl hv h,
    fun h hv => takes_vFun (op := fun l x => flg2 (Config.undecided (64 * s.fresh + l) x) x) rfl rfl rfl rfl hv h,
    fun h hv => takes_vFun (op := fun l x => fsin (Config.undecided (64 * s.fresh + l) x)
      (Config.zeroSign (64 * s.fresh + l) x) x) rfl rfl rfl rfl hv h,
    fun h hv => takes_vFun (op := fun l x => fcos (Config.undecided (64 * s.fresh + l) x) x) rfl rfl rfl rfl hv h,
    fun h hv => takes_vFun (op := fun _ x => (fclass x, 0)) rfl rfl rfl rfl hv h⟩

end Sys2Proof.Machine
end

section
/-! Sums rounded once (R83, R84, R322). -/

namespace Sys2Proof.Machine

/-! An exact number counts by its value alone. -/

theorem Dy.m_eq_zero_iff (x : Dy) : x.m = 0 ↔ x.rat = 0 := by
  unfold Dy.rat
  rw [mul_eq_zero, or_iff_left (by positivity : (2 : ℚ) ^ x.e ≠ 0), Int.cast_eq_zero]

theorem Dy.m_neg_iff (x : Dy) : x.m < 0 ↔ x.rat < 0 := by
  rw [← not_le, ← not_le, Dy.rat_nonneg]

theorem Dy.rat_abs (x : Dy) : x.abs.rat = |x.rat| := by
  unfold Dy.rat Dy.abs
  rw [abs_mul, abs_of_pos (by positivity : (0 : ℚ) < 2 ^ x.e)]
  push_cast
  rfl

theorem Dy.rat_mul (x y : Dy) : (x.mul y).rat = x.rat * y.rat := by
  unfold Dy.rat Dy.mul
  rw [zpow_add₀ two_ne_zero]
  push_cast
  ring

theorem Dy.rat_neg (x : Dy) : x.neg.rat = -x.rat := by
  unfold Dy.rat Dy.neg
  push_cast
  ring

theorem Dy.rat_scale (x : Dy) (k : Int) : (x.scale k).rat = x.rat * 2 ^ k := by
  unfold Dy.rat Dy.scale
  rw [zpow_add₀ two_ne_zero]
  ring

theorem Dy.rat_zero : Dy.zero.rat = 0 := by simp [Dy.rat, Dy.zero]

theorem Dy.rat_ofInt (n : Int) : (Dy.ofInt n).rat = n := by simp [Dy.rat, Dy.ofInt]

theorem RoundsTo.of_rat {f : FFmt} {sat : Bool} {rm : RMode} {x y : Dy} {r : Nat × Flags} (h : x.rat = y.rat)
    (hx : RoundsTo f sat rm x r) : RoundsTo f sat rm y r := by
  have habs : x.abs.rat = y.abs.rat := by rw [Dy.rat_abs, Dy.rat_abs, h]
  have hneg : decide (x.m < 0) = decide (y.m < 0) := by rw [decide_eq_decide, Dy.m_neg_iff, Dy.m_neg_iff, h]
  have hle : (fun t : Dy => t.le x.abs = true) = fun t => t.le y.abs = true := by
    funext t
    rw [eq_iff_iff, Dy.le_iff, Dy.le_iff, habs]
  have hge : (fun t : Dy => x.abs.le t = true) = fun t => y.abs.le t = true := by
    funext t
    rw [eq_iff_iff, Dy.le_iff, Dy.le_iff, habs]
  unfold RoundsTo at hx ⊢
  rwa [← hneg, ← hle, ← hge]

/-- An exact number stands for its magnitude. -/
theorem Dy.standsFor_natAbs (x : Dy) : StandsFor x.m.natAbs x.e false x.abs.real := by
  rw [StandsFor, if_neg Bool.false_ne_true]
  unfold Dy.real Dy.abs
  rw [Int.cast_natCast]

/-- The step rounds an exact number once, in its sign and magnitude. -/
theorem round_roundsTo {f : FFmt} (hf : f.Wide) (rm : RMode) (sat : Bool) {x : Dy} (hx : x.m ≠ 0) :
    RoundsTo f sat rm x (f.round rm sat (decide (x.m < 0)) x.m.natAbs x.e false) :=
  round_roundedIn hf rm sat _ (Int.natAbs_ne_zero.mpr hx) x.standsFor_natAbs (fun h => absurd h Bool.false_ne_true)
    (fun t _ => Dy.le_iff_real t x.abs) (fun t _ => Dy.le_iff_real x.abs t)

theorem roundDy_roundsTo {f : FFmt} (hf : f.Wide) (rm : RMode) (sat z : Bool) {x : Dy} (hx : x.m ≠ 0) :
    RoundsTo f sat rm x (f.roundDy rm sat z x) := by
  rw [FFmt.roundDy, if_neg hx]
  exact round_roundsTo hf rm sat hx

/-- A result is a code of its format. -/
theorem round_lt (f : FFmt) (rm : RMode) (sat neg : Bool) {m : Nat} (hm : m ≠ 0) (e : Int) (st : Bool) :
    (f.round rm sat neg m e st).1 < 2 ^ (1 + f.eb + f.fb) := by
  have hinf : f.infCode + 1 ≤ 2 ^ (f.eb + f.fb) := by
    have hB : 0 < 2 ^ f.fb := by positivity
    have hE : 0 < 2 ^ f.eb := by positivity
    rw [infCode_eq, pow_add, Nat.sub_mul, Nat.one_mul]
    have := Nat.le_mul_of_pos_left (2 ^ f.fb) hE
    omega
  have hsign : f.signCode neg ≤ 2 ^ (f.eb + f.fb) := by
    unfold FFmt.signCode
    split <;> omega
  have h2 : 2 ^ (1 + f.eb + f.fb) = 2 * 2 ^ (f.eb + f.fb) := by rw [add_assoc, add_comm 1, pow_succ, mul_comm]
  rw [round_eq f rm sat neg hm e st]
  dsimp only
  split
  · split
    · dsimp only; omega
    · dsimp only; split <;> omega
  · dsimp only; omega

theorem roundDy_lt (f : FFmt) (rm : RMode) (sat z : Bool) (x : Dy) :
    (f.roundDy rm sat z x).1 < 2 ^ (1 + f.eb + f.fb) := by
  unfold FFmt.roundDy
  split
  · unfold FFmt.signCode
    split
    · exact Nat.pow_lt_pow_right (by decide) (by lia)
    · positivity
  · exact round_lt f rm sat _ (Int.natAbs_ne_zero.mpr ‹_›) _ _

/-- A lane holds an f32 code whole. -/
theorem lane32_toNat {r : Nat × Flags} (h : r.1 < 2 ^ 32) : ((lane32 r).1.toNat, (lane32 r).2) = r := by
  unfold lane32
  rw [BitVec.toNat_ofNat, Nat.mod_eq_of_lt h]

/-! The terms of a sum. -/

/-- The sum of exact terms. -/
theorem rat_foldl_add (xs : List FVal) (z : Dy) :
    ((xs.map FVal.dy).foldl Dy.add z).rat = z.rat + (xs.map fun x => x.dy.rat).sum := by
  induction xs generalizing z with
  | nil => simp
  | cons x xs ih =>
    rw [List.map_cons, List.foldl_cons, ih, Dy.rat_add, List.map_cons, List.sum_cons]
    ring

theorem rat_foldr_products (ps : List (FVal × FVal)) (c : Dy) :
    (ps.foldr (fun p a => (p.1.dy.mul p.2.dy).add a) c).rat = (ps.map fun p => p.1.dy.rat * p.2.dy.rat).sum + c.rat := by
  induction ps with
  | nil => simp
  | cons p ps ih =>
    rw [List.foldr_cons, Dy.rat_add, Dy.rat_mul, ih, List.map_cons, List.sum_cons]
    ring

theorem FVal.isZero_fin (n : Bool) (m : Nat) (e : Int) : (FVal.fin n m e).isZero = decide (m = 0) := by
  cases m <;> rfl

@[simp] theorem FVal.isZero_nan : FVal.nan.isZero = false := rfl

@[simp] theorem FVal.isZero_inf (n : Bool) : (FVal.inf n).isZero = false := rfl

theorem FVal.dy_rat (n : Bool) (m : Nat) (e : Int) :
    (FVal.fin n m e).dy.rat = (if n then -(m : ℚ) else m) * 2 ^ e := by
  unfold FVal.dy Dy.rat
  cases n <;> simp

section
variable {f : FFmt} {rm : RMode} {terms : List (Option FVal)}

theorem mem_terms {v : FVal} : v ∈ terms.filterMap id ↔ some v ∈ terms := by
  simp

theorem any_terms {v : FVal} : (terms.filterMap id).any (· == v) = true ↔ some v ∈ terms := by
  rw [List.any_eq_true, ← mem_terms]
  simp

theorem sum_nan (h : some .nan ∈ terms) : f.sum rm terms = (f.nanCode, 0) := by
  unfold FFmt.sum
  exact if_pos (any_terms.mpr h)

theorem sum_invalid (hn : some .nan ∉ terms)
    (h : none ∈ terms ∨ (some (.inf true) ∈ terms ∧ some (.inf false) ∈ terms)) : f.sum rm terms = (f.nanCode, flNV) := by
  unfold FFmt.sum hasInf
  rw [if_neg (mt any_terms.mp hn)]
  refine if_pos ?_
  rw [Bool.or_eq_true, Bool.and_eq_true, any_terms, any_terms, List.any_eq_true]
  exact h.imp_left fun h => ⟨none, h, rfl⟩

section
variable (hn : some .nan ∉ terms) (hnone : none ∉ terms)
include hn hnone

theorem sum_inf {n : Bool} (hi : some (.inf n) ∈ terms) (hi' : some (.inf (!n)) ∉ terms) :
    f.sum rm terms = (f.signCode n + f.infCode, 0) := by
  have hany : terms.any Option.isNone = false := List.any_eq_false.mpr fun x hx => by
    cases x with
    | none => exact absurd hx hnone
    | some _ => simp
  have hb := Bool.eq_false_iff.mpr (mt any_terms.mp hi')
  have ha := any_terms.mpr hi
  unfold FFmt.sum hasInf
  simp only [mt any_terms.mp hn, hany, Bool.false_or]
  cases n
  · simp only [Bool.not_false] at hb
    simp only [ha, hb, Bool.false_and, Bool.false_eq_true, if_false, if_true, FFmt.signCode, Nat.zero_add]
  · simp only [Bool.not_true] at hb
    simp only [ha, hb, Bool.and_false, Bool.false_eq_true, if_false, if_true]

theorem sum_finite (hi : ∀ n, some (.inf n) ∉ terms) :
    f.sum rm terms = f.roundDy rm false (zeroSign rm (terms.filterMap id))
      (((terms.filterMap id).map FVal.dy).foldl Dy.add Dy.zero) := by
  have hany : terms.any Option.isNone = false := List.any_eq_false.mpr fun x hx => by
    cases x with
    | none => exact absurd hx hnone
    | some _ => simp
  unfold FFmt.sum hasInf
  simp only [mt any_terms.mp hn, mt any_terms.mp (hi true), mt any_terms.mp (hi false), hany, Bool.eq_false_iff.mpr,
    if_false, Bool.false_or, Bool.and_false, Bool.false_eq_true, ne_eq, not_false_eq_true]

end

end

/-! Products (R83). -/

/-- An infinity times zero. -/
def badProduct (p q : FVal) : Prop := (p.isInf = true ∧ q.isZero = true) ∨ (p.isZero = true ∧ q.isInf = true)

theorem prodTerm_nan {p q : FVal} : prodTerm p q = some .nan ↔ p = .nan ∨ q = .nan := by
  cases p <;> cases q <;> simp [prodTerm]

theorem prodTerm_none {p q : FVal} : prodTerm p q = none ↔ badProduct p q := by
  cases p <;> cases q <;> simp [prodTerm, badProduct, FVal.isInf, FVal.isZero_fin]

theorem prodTerm_inf {p q : FVal} (hp : p ≠ .nan) (hq : q ≠ .nan) (hb : ¬ badProduct p q) (n : Bool) :
    prodTerm p q = some (.inf n) ↔ (p.isInf = true ∨ q.isInf = true) ∧ (p.sign != q.sign) = n := by
  cases p <;> cases q <;>
    simp_all [prodTerm, badProduct, FVal.isInf, FVal.isZero_fin, FVal.sign]

/-- The product of two finite values. -/
noncomputable def FVal.times : FVal → FVal → FVal
  | .fin n m e, .fin k o g => .fin (n != k) (m * o) (e + g)
  | _, _ => .nan

section
variable {p q : FVal} (hp : ∃ n m e, p = .fin n m e) (hq : ∃ n m e, q = .fin n m e)
include hp hq

theorem prodTerm_finite : prodTerm p q = some (p.times q) := by
  obtain ⟨n, m, e, rfl⟩ := hp
  obtain ⟨k, o, g, rfl⟩ := hq
  rfl

theorem times_rat : (p.times q).dy.rat = p.dy.rat * q.dy.rat := by
  obtain ⟨n, m, e, rfl⟩ := hp
  obtain ⟨k, o, g, rfl⟩ := hq
  unfold FVal.times
  rw [FVal.dy_rat, FVal.dy_rat, FVal.dy_rat, zpow_add₀ two_ne_zero]
  push_cast
  cases n <;> cases k <;> simp <;> ring

theorem times_isZero : (p.times q).isZero = true ↔ p.isZero = true ∨ q.isZero = true := by
  obtain ⟨n, m, e, rfl⟩ := hp
  obtain ⟨k, o, g, rfl⟩ := hq
  unfold FVal.times
  simp only [FVal.isZero_fin, decide_eq_true_eq, Nat.mul_eq_zero]

theorem times_sign : (p.times q).sign = (p.sign != q.sign) := by
  obtain ⟨n, m, e, rfl⟩ := hp
  obtain ⟨k, o, g, rfl⟩ := hq
  rfl

end

theorem FVal.fin_of {p : FVal} (hn : p ≠ .nan) (hi : ∀ n, p ≠ .inf n) : ∃ n m e, p = .fin n m e := by
  cases p with
  | nan => exact absurd rfl hn
  | inf n => exact absurd rfl (hi n)
  | fin n m e => exact ⟨n, m, e, rfl⟩

/-! One sum (R83). -/

section
variable (rm : RMode) (c : FVal) (ps : List (FVal × FVal))

/-- The terms of a sum of products and an addend. -/
noncomputable def sumTerms (c : FVal) (ps : List (FVal × FVal)) : List (Option FVal) :=
  ps.map (fun p => prodTerm p.1 p.2) ++ [some c]

theorem mem_sumTerms (v : FVal) : some v ∈ sumTerms c ps ↔ (∃ p ∈ ps, prodTerm p.1 p.2 = some v) ∨ c = v := by
  simp [sumTerms, eq_comm]

theorem none_mem_sumTerms : none ∈ sumTerms c ps ↔ ∃ p ∈ ps, badProduct p.1 p.2 := by
  simp [sumTerms, prodTerm_none]

theorem nan_mem_sumTerms : some .nan ∈ sumTerms c ps ↔ c = .nan ∨ ∃ p ∈ ps, p.1 = .nan ∨ p.2 = .nan := by
  rw [mem_sumTerms, or_comm]
  simp only [prodTerm_nan]

theorem inf_mem_sumTerms (hn : some .nan ∉ sumTerms c ps) (hb : none ∉ sumTerms c ps) (n : Bool) :
    some (.inf n) ∈ sumTerms c ps ↔
      c = .inf n ∨ ∃ p ∈ ps, (p.1.isInf = true ∨ p.2.isInf = true) ∧ (p.1.sign != p.2.sign) = n := by
  rw [mem_sumTerms, or_comm]
  refine or_congr Iff.rfl (exists_congr fun p => and_congr_right fun hp => ?_)
  rw [nan_mem_sumTerms] at hn
  rw [none_mem_sumTerms] at hb
  push Not at hn hb
  exact prodTerm_inf (hn.2 p hp).1 (hn.2 p hp).2 (hb p hp) n

/-- With finite terms the sum is that of the products and the addend. -/
theorem filterMap_sumTerms (h : ∀ p ∈ ps, (∃ n m e, p.1 = .fin n m e) ∧ ∃ n m e, p.2 = .fin n m e) :
    (sumTerms c ps).filterMap id = ps.map (fun p => p.1.times p.2) ++ [c] := by
  have hmap : ps.map (fun p => prodTerm p.1 p.2) = ps.map (fun p => some (p.1.times p.2)) :=
    List.map_congr_left fun p hp => prodTerm_finite (h p hp).1 (h p hp).2
  rw [sumTerms, hmap, List.filterMap_append, List.filterMap_map]
  simp

/-- The sum of products and an addend, as the statement has it. -/
theorem sum_once : SumOnce rm c ps (lane32 (f32.sum rm (sumTerms c ps))) := by
  unfold SumOnce
  intro sign nan invalid infinite zeros total
  have hnan : some .nan ∈ sumTerms c ps ↔ nan := nan_mem_sumTerms c ps
  have hinv : none ∈ sumTerms c ps ↔ invalid := none_mem_sumTerms c ps
  refine ⟨fun h => ?_, fun hn h => ?_, fun n hn hb h h' => ?_, fun hn hb hi => ?_⟩
  · rw [sum_nan (hnan.mpr h)]
    rfl
  · rw [sum_invalid (mt hnan.mp hn)]
    · rfl
    · by_cases hb : invalid
      · exact .inl (hinv.mpr hb)
      · obtain ⟨h1, h2⟩ := h.resolve_left hb
        have hinf := inf_mem_sumTerms c ps (mt hnan.mp hn) (mt hinv.mp hb)
        exact .inr ⟨(hinf true).mpr h1, (hinf false).mpr h2⟩
  · have hinf := inf_mem_sumTerms c ps (mt hnan.mp hn) (mt hinv.mp hb)
    rw [sum_inf (mt hnan.mp hn) (mt hinv.mp hb) ((hinf n).mpr h) (mt (hinf (!n)).mp h')]
    cases n <;> rfl
  · have hinf := inf_mem_sumTerms c ps (mt hnan.mp hn) (mt hinv.mp hb)
    have hn' : c ≠ .nan ∧ ∀ p ∈ ps, p.1 ≠ .nan ∧ p.2 ≠ .nan := by
      simpa only [nan, not_or, not_exists, not_and] using hn
    have hfin : ∀ p ∈ ps, (∃ n m e, p.1 = .fin n m e) ∧ ∃ n m e, p.2 = .fin n m e := fun p hp => by
      have hinf' : ¬ (p.1.isInf = true ∨ p.2.isInf = true) := fun h => hi (sign p) (.inr ⟨p, hp, h, rfl⟩)
      exact ⟨FVal.fin_of (hn'.2 p hp).1 fun n h => hinf' (.inl (by rw [h]; rfl)),
        FVal.fin_of (hn'.2 p hp).2 fun n h => hinf' (.inr (by rw [h]; rfl))⟩
    rw [sum_finite (mt hnan.mp hn) (mt hinv.mp hb) fun n => mt (hinf n).mp (hi n), filterMap_sumTerms c ps hfin]
    have hrat : (((ps.map (fun p => p.1.times p.2) ++ [c]).map FVal.dy).foldl Dy.add Dy.zero).rat = total.rat := by
      rw [rat_foldl_add, Dy.rat_zero, rat_foldr_products]
      simp only [List.map_append, List.map_map, List.sum_append, List.map_cons, List.map_nil, List.sum_cons,
        List.sum_nil, add_zero, zero_add]
      congr 2
      exact List.map_congr_left fun p hp => times_rat (hfin p hp).1 (hfin p hp).2
    have hzeros (n : Bool) : (ps.map (fun p => p.1.times p.2) ++ [c]).all (fun x => x.isZero && (x.sign == n)) = true ↔
        zeros n := by
      rw [List.all_append, Bool.and_eq_true, and_comm, List.all_map]
      refine and_congr (by simp) (List.all_eq_true.trans (forall_congr' fun p => imp_congr_right fun hp => ?_))
      rw [Function.comp_apply, Bool.and_eq_true, beq_iff_eq, times_isZero (hfin p hp).1 (hfin p hp).2,
        times_sign (hfin p hp).1 (hfin p hp).2]
    refine ⟨fun ht => ?_, fun ht => ?_⟩
    · rw [lane32_toNat (roundDy_lt ..)]
      refine (roundDy_roundsTo f32_wide rm false _ ?_).of_rat hrat
      rwa [ne_eq, Dy.m_eq_zero_iff, hrat, ← Dy.m_eq_zero_iff]
    · rw [Dy.m_eq_zero_iff, ← hrat, ← Dy.m_eq_zero_iff] at ht
      rw [FFmt.roundDy, if_pos ht]
      have ht' := hzeros true
      have hf' := hzeros false
      simp only [beq_true, beq_false] at ht' hf'
      unfold zeroSign
      refine ⟨rfl, fun h => ?_, fun h => ?_, fun h h' => ?_⟩
      · rw [if_pos (ht'.mpr h)]
        rfl
      · have hnt : ¬ zeros true := fun h' => Bool.noConfusion (h.1.2.symm.trans h'.1.2)
        rw [if_neg (mt ht'.mp hnt), if_pos (hf'.mpr h)]
        rfl
      · rw [if_neg (mt ht'.mp h), if_neg (mt hf'.mp h')]
        cases rm <;> rfl

end

/-! The VI and melded words, and `vfdp4`. -/

section
variable {s : State} {e : Env}

/-- A VI word. -/
theorem takes_viFlt {i : Instr} {f : VIF} {body : Env → State → Res} {op : Lane → Lane → Lane × Flags}
    (hf : trapFence i = false) (hx : exec i s = s.issue i body)
    (hb : body e (s.begun e) = e.viFlt i f (fun a b _ => op a b) (s.begun e)) (hl : e.lanesFor i = e.active i.guard)
    (h : Issues s e i) (hd : e.over f.d.toNat = false) (ha : e.over f.a.toNat = false) :
    let x (l : Nat) : Lane × Flags := op (e.gr.vReg f.a.toNat l) (f.val.setWidth 32)
    TakesLanes s e i false (oneArm (e.active i.guard) f.d.toNat) (fun _ l => (x l).1.setWidth 64) (fun _ l => (x l).2) := by
  have hv : e.badV 1 f.d.toNat [.reg f.a.toNat] = false := by
    show (e.over f.d.toNat || (e.over f.a.toNat || false)) = false
    rw [hd, ha]
    rfl
  have hval : f.val.extractLsb' 0 32 = f.val.setWidth 32 := by
    ext i hi
    simp [BitVec.getElem_extractLsb', BitVec.getLsbD_eq_getElem (show i < 64 by lia)]
  intro x
  refine takes_forLanes (step := fun l g => (g.setV f.d.toNat l (x l).1).raise (x l).2) hf hx (hb.trans ?_)
    (fun l _ _ g => putFlt_laneStep g f.d.toNat l (x := x) rfl) h
  simp only [Env.viFlt, hv, Bool.false_eq_true, if_false, hl, Env.mapFlt, Opnd.lo, hval]
  rfl

/-- Element `j` of a block of `vfdp4`. -/
noncomputable def dp4El (ty : BitVec 4) (g : Group) (r l j : Nat) : FVal :=
  if ty = 1 then f32Of (g.vReg (r + j) l)
  else (if ty = 9 then f16 else e8m7).decode ((g.vReg (r + j / 2) l).toNat / 2 ^ (16 * (j % 2)) % 2 ^ 16)

theorem dp4Terms_eq (ty : BitVec 4) (g : Group) (r l : Nat) :
    dp4Terms ty.toNat g r l = (List.range 4).map (dp4El ty g r l) := by
  have hcode (n : Nat) (hn : n < 2 ^ 4) : (ty.toNat = n) = (ty = BitVec.ofNat 4 n) := by
    rw [eq_iff_iff, ← BitVec.toNat_inj, BitVec.toNat_ofNat, Nat.mod_eq_of_lt hn]
  have h1 : (ty.toNat = 1) = (ty = 1) := hcode 1 (by decide)
  have h9 : (ty.toNat = 9) = (ty = 9) := hcode 9 (by decide)
  unfold dp4Terms dp4El
  simp only [h1, h9]
  split
  · rfl
  · simp only [BitVec.extractLsb'_toNat, Nat.shiftRight_eq_div_pow]

/-- The four products of `vfdp4`. -/
noncomputable def dp4Pairs (ty : BitVec 4) (g : Group) (ra rb l : Nat) : List (FVal × FVal) :=
  [(dp4El ty g ra l 0, dp4El ty g rb l 0), (dp4El ty g ra l 1, dp4El ty g rb l 1),
   (dp4El ty g ra l 2, dp4El ty g rb l 2), (dp4El ty g ra l 3, dp4El ty g rb l 3)]

theorem dp4_zip (ty : BitVec 4) (g : Group) (ra rb l : Nat) :
    (dp4Terms ty.toNat g ra l).zip (dp4Terms ty.toNat g rb l) = dp4Pairs ty g ra rb l := by
  rw [dp4Terms_eq, dp4Terms_eq]
  rfl

theorem vfdp4_takes {f : VF} (h : Issues s e (.vfdp4 f)) {n : Nat} (hn : (if f.ty = 1 then 4 else 2) = n)
    (hd : e.over f.d.toNat = false) (hc : e.badOpnd 1 (f.srcC e) = false) (ha : f.a.toNat % n = 0)
    (ha' : e.over (f.a.toNat + n - 1) = false) (hb : f.b.toNat % n = 0) (hb' : e.over (f.b.toNat + n - 1) = false) :
    let x (l : Nat) : Lane × Flags :=
      lane32 (f32.sum (RMode.of f.mod) (sumTerms (f32Of ((f.srcC e).lo e.gr l)) (dp4Pairs f.ty e.gr f.a.toNat f.b.toNat l)))
    TakesLanes s e (.vfdp4 f) false (oneArm (e.active (Instr.vfdp4 f).guard) f.d.toNat)
      (fun _ l => (x l).1.setWidth 64) (fun _ l => (x l).2) := by
  have h1 : (f.ty.toNat = 1) = (f.ty = 1) := by
    rw [eq_iff_iff, ← BitVec.toNat_inj]
    rfl
  intro x
  refine takes_forLanes (step := fun l g => (g.setV f.d.toNat l (x l).1).raise (x l).2) rfl rfl ?_
    (fun l _ _ g => putFlt_laneStep g f.d.toNat l (x := x) rfl) h
  simp only [h1, hn, hd, hc, ha, ha', hb, hb', bne_self_eq_false, Bool.or_self, Bool.false_eq_true, if_false, dp4_zip]
  rfl

end

/-- Settles O10: the VI and melded words map their operations, and `vfdp4` sums its four products once. -/
theorem floatForms : Obligations.FloatForms := by
  intro s e
  refine ⟨fun f => ?_, fun f => ?_, fun f h => ?_⟩
  · intro a b puts
    exact ⟨fun h hd ha => takes_viFlt (op := fadd .rne) rfl rfl rfl rfl h hd ha,
      fun h hd ha => takes_viFlt (op := fsub .rne) rfl rfl rfl rfl h hd ha,
      fun h hd ha => takes_viFlt (op := fmul .rne) rfl rfl rfl rfl h hd ha,
      fun h hd ha => takes_viFlt (op := fmin) rfl rfl rfl rfl h hd ha,
      fun h hd ha => takes_viFlt (op := fmax) rfl rfl rfl rfl h hd ha⟩
  · intro a b puts
    exact ⟨fun h hr => takes_vmFlt (op := fun a b _ => fadd .rne a b) rfl rfl rfl hr h,
      fun h hr => takes_vmFlt (op := fun a b _ => fsub .rne a b) rfl rfl rfl hr h,
      fun h hr => takes_vmFlt (op := fun a b _ => fmul .rne a b) rfl rfl rfl hr h,
      fun h hr => takes_vmFlt (op := fun a b c => ffma .rne a b c) rfl rfl rfl hr h,
      fun h hr => takes_vmFlt (op := fun a b _ => fmin a b) rfl rfl rfl hr h,
      fun h hr => takes_vmFlt (op := fun a b _ => fmax a b) rfl rfl rfl hr h⟩
  · intro n hd hc ha ha' hb hb' el
    exact ⟨_, fun l => sum_once _ _ (dp4Pairs f.ty e.gr f.a.toNat f.b.toNat l), vfdp4_takes h rfl hd hc ha ha' hb hb'⟩

end Sys2Proof.Machine
end

section
/-! f32 codes by their fields, and the sums and products of finite and infinite operands (R72, R322). -/

namespace Sys2Proof.Machine

/-! The fields of a lane. -/

/-- The exponent field. -/
def expOf (x : Lane) : Nat := (x.extractLsb' 23 8).toNat

/-- The fraction field. -/
def fracOf (x : Lane) : Nat := (x.extractLsb' 0 23).toNat

theorem expOf_lt (x : Lane) : expOf x < 2 ^ 8 := (x.extractLsb' 23 8).isLt

theorem fracOf_lt (x : Lane) : fracOf x < 2 ^ 23 := (x.extractLsb' 0 23).isLt

theorem lane_toNat (x : Lane) : x.toNat = f32.signCode x.msb + (expOf x * 2 ^ 23 + fracOf x) := by
  have hx := x.isLt
  unfold expOf fracOf FFmt.signCode
  rw [BitVec.msb_eq_decide, BitVec.extractLsb'_toNat, BitVec.extractLsb'_toNat, Nat.shiftRight_eq_div_pow,
    Nat.shiftRight_eq_div_pow]
  simp only [f32, decide_eq_true_eq]
  split <;> lia

theorem f32Of_eq (x : Lane) :
    f32Of x = if expOf x = 255 then (if fracOf x = 0 then .inf x.msb else .nan)
      else .fin x.msb (if expOf x = 0 then fracOf x else fracOf x + 2 ^ 23) (f32.place (expOf x)) := by
  unfold f32Of
  rw [lane_toNat]
  exact decode_fields (f := f32) x.msb (expOf_lt x) (fracOf_lt x)

theorem low31_toNat (x : Lane) : (x.setWidth 31).toNat = expOf x * 2 ^ 23 + fracOf x := by
  have hx := expOf_lt x
  have hf := fracOf_lt x
  rw [BitVec.toNat_setWidth, lane_toNat]
  unfold FFmt.signCode
  simp only [f32]
  split <;> lia

theorem low31_eq_zero (x : Lane) : x.setWidth 31 = 0 ↔ expOf x = 0 ∧ fracOf x = 0 := by
  rw [← BitVec.toNat_inj, low31_toNat, show (0 : BitVec 31).toNat = 0 from rfl]
  lia

theorem f32Of_nan_iff (x : Lane) : f32Of x = .nan ↔ expOf x = 255 ∧ fracOf x ≠ 0 := by
  rw [f32Of_eq]
  split
  · split <;> simp_all
  · simp_all

theorem f32Of_inf_iff (x : Lane) (n : Bool) : f32Of x = .inf n ↔ expOf x = 255 ∧ fracOf x = 0 ∧ x.msb = n := by
  rw [f32Of_eq]
  split
  · split <;> simp_all
  · simp_all

theorem f32Of_isZero (x : Lane) : (f32Of x).isZero = true ↔ x.setWidth 31 = 0 := by
  rw [low31_eq_zero, f32Of_eq]
  split
  · rename_i h
    split <;> simp [h]
  · rw [FVal.isZero_fin, decide_eq_true_eq]
    split
    · simp [*]
    · simp [*]

theorem f32Of_sign (x : Lane) (h : f32Of x ≠ .nan) : (f32Of x).sign = x.msb := by
  rw [f32Of_eq] at h ⊢
  split
  · split
    · rfl
    · simp_all
  · rfl

theorem f32Of_fin (x : Lane) {n : Bool} {m : Nat} {q : Int} (h : f32Of x = .fin n m q) :
    expOf x ≠ 255 ∧ n = x.msb ∧ m = (if expOf x = 0 then fracOf x else fracOf x + 2 ^ 23) ∧ q = f32.place (expOf x) := by
  rw [f32Of_eq] at h
  split at h
  · split at h <;> cases h
  · cases h
    exact ⟨‹_›, rfl, rfl, rfl⟩

/-- A lane is its sign and its low bits. -/
theorem lane_ext {x y : Lane} (hs : x.msb = y.msb) (he : expOf x = expOf y) (hf : fracOf x = fracOf y) : x = y := by
  apply BitVec.eq_of_toNat_eq
  rw [lane_toNat x, lane_toNat y, hs, he, hf]

/-! The sign bit turned. -/

theorem signBit_low : ∀ j < 31, (0x80000000 : Lane).getLsbD j = false := by decide

theorem flip_msb (x : Lane) : (x ^^^ 0x80000000).msb = !x.msb := by
  rw [BitVec.msb_xor, show (0x80000000 : Lane).msb = true from by decide, Bool.xor_true]

theorem flip_low (x : Lane) {i n : Nat} (h : i + n ≤ 31) : (x ^^^ 0x80000000).extractLsb' i n = x.extractLsb' i n := by
  ext j hj
  rw [BitVec.getElem_extractLsb', BitVec.getElem_extractLsb', BitVec.getLsbD_xor, signBit_low _ (by lia), Bool.xor_false]

theorem flip_exp (x : Lane) : expOf (x ^^^ 0x80000000) = expOf x := congrArg BitVec.toNat (flip_low x (by decide))

theorem flip_frac (x : Lane) : fracOf (x ^^^ 0x80000000) = fracOf x := congrArg BitVec.toNat (flip_low x (by decide))

theorem f32Of_flip (x : Lane) : f32Of (x ^^^ 0x80000000) = (f32Of x).neg := by
  rw [f32Of_eq, f32Of_eq x, flip_msb, flip_exp, flip_frac]
  split
  · split <;> rfl
  · rfl

/-- The lane of a sign and a magnitude code. -/
theorem signed_code (x : Lane) (n : Bool) (c : Nat) (hn : x.msb = n) (hc : expOf x * 2 ^ 23 + fracOf x = c) :
    BitVec.ofNat 32 (f32.signCode n + c) = x := by
  apply BitVec.eq_of_toNat_eq
  rw [BitVec.toNat_ofNat, ← hn, ← hc, ← lane_toNat, Nat.mod_eq_of_lt x.isLt]

theorem inf_code {x : Lane} {n : Bool} (h : f32Of x = .inf n) : BitVec.ofNat 32 (f32.signCode n + f32.infCode) = x := by
  obtain ⟨he, hf, hn⟩ := (f32Of_inf_iff x n).mp h
  exact signed_code x n _ hn (by rw [he, hf]; rfl)

theorem zero_code {x : Lane} (h : (f32Of x).isZero = true) : BitVec.ofNat 32 (f32.signCode x.msb) = x := by
  obtain ⟨he, hf⟩ := (low31_eq_zero x).mp ((f32Of_isZero x).mp h)
  exact signed_code x x.msb 0 rfl (by rw [he, hf]; rfl)

/-! Sums of two terms. -/

theorem mem_pair {u v w : Option FVal} : w ∈ [u, v] ↔ w = u ∨ w = v := by simp

section
variable (rm : RMode) {u v : FVal}

/-- The exact sum of two finite terms. -/
theorem sum_pair (hu : ∃ n m q, u = .fin n m q) (hv : ∃ n m q, v = .fin n m q) :
    f32.sum rm [some u, some v] =
      f32.roundDy rm false (zeroSign rm [u, v]) ((Dy.zero.add u.dy).add v.dy) := by
  obtain ⟨n, m, q, rfl⟩ := hu
  obtain ⟨k, o, p, rfl⟩ := hv
  rw [sum_finite (by simp) (by simp) (by simp)]
  rfl

theorem sum_pair_rounds (hu : ∃ n m q, u = .fin n m q) (hv : ∃ n m q, v = .fin n m q) {x : Dy}
    (hx : x.rat = u.dy.rat + v.dy.rat) (h0 : x.m ≠ 0) :
    RoundsTo f32 false rm x ((lane32 (f32.sum rm [some u, some v])).1.toNat, (lane32 (f32.sum rm [some u, some v])).2) := by
  have hrat : ((Dy.zero.add u.dy).add v.dy).rat = x.rat := by rw [Dy.rat_add, Dy.rat_add, Dy.rat_zero, zero_add, hx]
  rw [sum_pair rm hu hv, lane32_toNat (roundDy_lt ..)]
  refine (roundDy_roundsTo f32_wide rm false _ ?_).of_rat hrat
  rwa [ne_eq, Dy.m_eq_zero_iff, hrat, ← Dy.m_eq_zero_iff]

/-- An exact zero of two finite terms. -/
theorem sum_pair_zero (hu : ∃ n m q, u = .fin n m q) (hv : ∃ n m q, v = .fin n m q) (h0 : u.dy.rat + v.dy.rat = 0) :
    f32.sum rm [some u, some v] = (f32.signCode (zeroSign rm [u, v]), 0) := by
  rw [sum_pair rm hu hv, FFmt.roundDy, if_pos]
  rw [Dy.m_eq_zero_iff, Dy.rat_add, Dy.rat_add, Dy.rat_zero, zero_add, h0]

end

theorem zeroSign_pair (rm : RMode) {u v : FVal} :
    zeroSign rm [u, v] = if u.isZero = true ∧ v.isZero = true ∧ u.sign = v.sign then u.sign else rm == .rdn := by
  unfold zeroSign
  cases hu : u.isZero <;> cases hv : v.isZero <;> cases hs : u.sign <;> cases ht : v.sign <;> simp [hu, hv, hs, ht]

/-- The lane of an exact zero (R322). -/
noncomputable def zeroLane (rm : RMode) : Lane := if rm = .rdn then 0x80000000 else 0

theorem lane32_zero (rm : RMode) : lane32 (f32.signCode (rm == .rdn), 0) = (zeroLane rm, 0) := by cases rm <;> rfl

/-- The value of a finite lane that is not zero is not zero. -/
theorem rat_eq_zero_iff {u : FVal} (hu : ∃ n m q, u = .fin n m q) : u.dy.rat = 0 ↔ u.isZero = true := by
  obtain ⟨n, m, q, rfl⟩ := hu
  rw [FVal.dy_rat, FVal.isZero_fin, decide_eq_true_eq, mul_eq_zero, or_iff_left (by positivity : (2 : ℚ) ^ q ≠ 0)]
  cases n <;> simp

section
variable (rm : RMode) {a b c : Lane} (ha : ∃ n m q, f32Of a = .fin n m q) (hb : ∃ n m q, f32Of b = .fin n m q)
  (hc : ∃ n m q, f32Of c = .fin n m q)

theorem fin_ne_nan {u : FVal} (hu : ∃ n m q, u = .fin n m q) : u ≠ .nan := by
  obtain ⟨n, m, q, rfl⟩ := hu
  exact FVal.noConfusion

theorem fin_flip (hb : ∃ n m q, f32Of b = .fin n m q) : ∃ n m q, f32Of (b ^^^ 0x80000000) = .fin n m q := by
  obtain ⟨n, m, q, h⟩ := hb
  rw [f32Of_flip, h]
  exact ⟨_, _, _, rfl⟩

theorem fsub_eq (a b : Lane) : fsub rm a b = fadd rm a (b ^^^ 0x80000000) := by
  unfold fsub fadd
  rw [f32Of_flip]

theorem neg_rat (u : FVal) : u.neg.dy.rat = -u.dy.rat := by
  cases u with
  | nan => simp [FVal.neg, FVal.dy, Dy.rat_zero]
  | inf n => simp [FVal.neg, FVal.dy, Dy.rat_zero]
  | fin n m q =>
    rw [FVal.neg, FVal.dy_rat, FVal.dy_rat]
    cases n <;> simp

include ha hb

theorem fadd_zero (h0 : ((f32Of a).dy.add (f32Of b).dy).m = 0) : fadd rm a b = (if a = b then a else zeroLane rm, 0) := by
  rw [Dy.m_eq_zero_iff, Dy.rat_add] at h0
  rw [fadd, sum_pair_zero rm ha hb h0, zeroSign_pair, f32Of_sign a (fin_ne_nan ha), f32Of_sign b (fin_ne_nan hb)]
  by_cases hab : a = b
  · subst hab
    have hz : (f32Of a).isZero = true := (rat_eq_zero_iff ha).mp (by grind)
    rw [if_pos ⟨hz, hz, rfl⟩, if_pos rfl, lane32, zero_code hz]
  · rw [if_neg hab, if_neg, lane32_zero]
    rintro ⟨hza, hzb, hs⟩
    obtain ⟨he, hf⟩ := (low31_eq_zero a).mp ((f32Of_isZero a).mp hza)
    obtain ⟨he', hf'⟩ := (low31_eq_zero b).mp ((f32Of_isZero b).mp hzb)
    exact hab (lane_ext hs (he.trans he'.symm) (hf.trans hf'.symm))

theorem fsub_zero (h0 : ((f32Of a).dy.sub (f32Of b).dy).m = 0) :
    fsub rm a b = (if a = b ^^^ 0x80000000 then a else zeroLane rm, 0) := by
  rw [fsub_eq]
  refine fadd_zero rm ha (fin_flip hb) ?_
  rw [Dy.m_eq_zero_iff, Dy.rat_sub] at h0
  rw [Dy.m_eq_zero_iff, Dy.rat_add, f32Of_flip, neg_rat, ← sub_eq_add_neg, h0]

theorem fmul_sum : f32.sum rm [prodTerm (f32Of a) (f32Of b)] =
    f32.roundDy rm false (zeroSign rm [(f32Of a).times (f32Of b)]) (Dy.zero.add ((f32Of a).times (f32Of b)).dy) := by
  rw [prodTerm_finite ha hb]
  obtain ⟨n, m, q, ha⟩ := ha
  obtain ⟨k, o, p, hb⟩ := hb
  rw [ha, hb, sum_finite (by simp [FVal.times]) (by simp) (by simp [FVal.times])]
  rfl

theorem fmul_zero (h0 : ((f32Of a).dy.mul (f32Of b).dy).m = 0) :
    fmul rm a b = (if a.msb = b.msb then 0 else 0x80000000, 0) := by
  rw [Dy.m_eq_zero_iff, Dy.rat_mul] at h0
  have hz : ((f32Of a).times (f32Of b)).isZero = true := by
    rw [times_isZero ha hb, ← rat_eq_zero_iff ha, ← rat_eq_zero_iff hb]
    exact mul_eq_zero.mp h0
  rw [fmul, fmul_sum rm ha hb, FFmt.roundDy, if_pos]
  · unfold zeroSign
    simp only [List.all_cons, List.all_nil, hz, times_sign ha hb, f32Of_sign a (fin_ne_nan ha), f32Of_sign b (fin_ne_nan hb),
      Bool.true_and, Bool.and_true]
    cases a.msb <;> cases b.msb <;> rfl
  · rw [Dy.m_eq_zero_iff, Dy.rat_add, Dy.rat_zero, times_rat ha hb, h0, zero_add]

theorem fmul_rounds {x : Dy} (hx : x.rat = (f32Of a).dy.rat * (f32Of b).dy.rat) (h0 : x.m ≠ 0) :
    RoundsTo f32 false rm x ((fmul rm a b).1.toNat, (fmul rm a b).2) := by
  have hrat : (Dy.zero.add ((f32Of a).times (f32Of b)).dy).rat = x.rat := by
    rw [Dy.rat_add, Dy.rat_zero, times_rat ha hb, zero_add, hx]
  rw [fmul, fmul_sum rm ha hb, lane32_toNat (roundDy_lt ..)]
  refine (roundDy_roundsTo f32_wide rm false _ ?_).of_rat hrat
  rwa [ne_eq, Dy.m_eq_zero_iff, hrat, ← Dy.m_eq_zero_iff]

theorem times_fin : ∃ n m q, (f32Of a).times (f32Of b) = .fin n m q := by
  obtain ⟨n, m, q, ha⟩ := ha
  obtain ⟨k, o, p, hb⟩ := hb
  rw [ha, hb]
  exact ⟨_, _, _, rfl⟩

include hc

theorem ffma_zero (h0 : (((f32Of a).dy.mul (f32Of b).dy).add (f32Of c).dy).m = 0) :
    ffma rm a b c = (if ((f32Of a).dy.mul (f32Of b).dy).m = 0 ∧ c.msb = (a.msb != b.msb) then c else zeroLane rm, 0) := by
  rw [Dy.m_eq_zero_iff, Dy.rat_add, Dy.rat_mul, ← times_rat ha hb] at h0
  have hp := times_fin ha hb
  have hprod : ((f32Of a).dy.mul (f32Of b).dy).m = 0 ↔ ((f32Of a).times (f32Of b)).isZero = true := by
    rw [Dy.m_eq_zero_iff, Dy.rat_mul, ← times_rat ha hb, rat_eq_zero_iff hp]
  have hcz : ((f32Of a).times (f32Of b)).isZero = true → (f32Of c).isZero = true := fun h => by
    rw [← rat_eq_zero_iff hp] at h
    rw [← rat_eq_zero_iff hc]
    grind
  rw [ffma, prodTerm_finite ha hb, sum_pair_zero rm hp hc h0, zeroSign_pair, times_sign ha hb,
    f32Of_sign a (fin_ne_nan ha), f32Of_sign b (fin_ne_nan hb), f32Of_sign c (fin_ne_nan hc)]
  simp only [hprod]
  by_cases h : ((f32Of a).times (f32Of b)).isZero = true ∧ c.msb = (a.msb != b.msb)
  · obtain ⟨hz, hs⟩ := h
    rw [if_pos ⟨hz, hcz hz, hs.symm⟩, if_pos ⟨hz, hs⟩, ← hs, lane32, zero_code (hcz hz)]
  · rw [if_neg h, if_neg, lane32_zero]
    exact fun ⟨hz, _, hs⟩ => h ⟨hz, hs.symm⟩

end

/-! Infinities. -/

section
variable (rm : RMode) {a b : Lane} {n : Bool} (ha : f32Of a = .inf n)
include ha

theorem fadd_inf_invalid (h : f32Of b = .inf (!n)) : fadd rm a b = (0x7FC00000, flNV) := by
  rw [fadd, ha, h, sum_invalid (by simp) (.inr (by cases n <;> simp))]
  rfl

theorem fmul_inf_zero (h : b.setWidth 31 = 0) : fmul rm a b = (0x7FC00000, flNV) ∧ fmul rm b a = (0x7FC00000, flNV) := by
  have hz := (f32Of_isZero b).mpr h
  have h1 : prodTerm (f32Of a) (f32Of b) = none := prodTerm_none.mpr (.inl ⟨by rw [ha]; rfl, hz⟩)
  have h2 : prodTerm (f32Of b) (f32Of a) = none := prodTerm_none.mpr (.inr ⟨hz, by rw [ha]; rfl⟩)
  unfold fmul
  rw [h1, h2, sum_invalid (by simp) (.inl (by simp))]
  exact ⟨rfl, rfl⟩

variable (hb : f32Of b ≠ .nan)
include hb

theorem fadd_inf (h : f32Of b ≠ .inf (!n)) : fadd rm a b = (a, 0) := by
  rw [fadd, ha, sum_inf (n := n) (by simpa using hb.symm) (by simp) (by simp)
    (by cases n <;> simpa [eq_comm] using h), lane32, inf_code ha]

theorem fmul_inf (h : b.setWidth 31 ≠ 0) : fmul rm a b = (if b.msb then a ^^^ 0x80000000 else a, 0) := by
  have hz := mt (f32Of_isZero b).mp h
  have hbad : ¬ badProduct (f32Of a) (f32Of b) := by
    rintro (⟨-, hz'⟩ | ⟨hz', -⟩)
    · exact hz hz'
    · rw [ha] at hz'
      exact Bool.noConfusion hz'
  have hp : prodTerm (f32Of a) (f32Of b) = some (.inf (n != b.msb)) :=
    (prodTerm_inf (by simp [ha]) hb hbad _).mpr ⟨.inl (by rw [ha]; rfl), by rw [f32Of_sign b hb, ha]; rfl⟩
  rw [fmul, hp, sum_inf (n := n != b.msb) (by simp) (by simp) (by simp) (by simp)]
  obtain ⟨he, hf, hn⟩ := (f32Of_inf_iff a n).mp ha
  cases hm : b.msb
  · rw [if_neg Bool.false_ne_true, Bool.bne_false, lane32, inf_code ha]
  · have hflip : f32Of (a ^^^ 0x80000000) = .inf (n != true) := by rw [f32Of_flip, ha]; cases n <;> rfl
    rw [if_pos rfl, lane32, inf_code hflip]

end

theorem flip_ne_nan {b : Lane} (hb : f32Of b ≠ .nan) : f32Of (b ^^^ 0x80000000) ≠ .nan := by
  rw [f32Of_flip]
  cases h : f32Of b with
  | nan => exact absurd h hb
  | inf k => exact FVal.noConfusion
  | fin k m q => exact FVal.noConfusion

theorem flip_inf_iff (b : Lane) (k : Bool) : f32Of (b ^^^ 0x80000000) = .inf (!k) ↔ f32Of b = .inf k := by
  rw [f32Of_flip]
  cases h : f32Of b <;> simp [FVal.neg]

section
variable (rm : RMode) {a b : Lane} {n : Bool} (ha : f32Of a = .inf n)
include ha

theorem fsub_inf_invalid (h : f32Of b = .inf n) : fsub rm a b = (0x7FC00000, flNV) := by
  rw [fsub_eq]
  exact fadd_inf_invalid rm ha ((flip_inf_iff b n).mpr h)

theorem fsub_inf (hb : f32Of b ≠ .nan) (h : f32Of b ≠ .inf n) : fsub rm a b = (a, 0) := by
  rw [fsub_eq]
  exact fadd_inf rm ha (flip_ne_nan hb) (mt (flip_inf_iff b n).mp h)

end

/-! NaNs (R72). -/

theorem decode_lt_infCode {f : FFmt} (neg : Bool) {c : Nat} (hc : c ≤ f.infCode) :
    f.decode (f.signCode neg + c) ≠ .nan := by
  have hB : 0 < 2 ^ f.fb := by positivity
  have hE : 0 < 2 ^ f.eb := by positivity
  rw [infCode_eq] at hc
  have hex : c / 2 ^ f.fb ≤ 2 ^ f.eb - 1 := Nat.div_le_of_le_mul (by rwa [Nat.mul_comm])
  have hdiv : c = c / 2 ^ f.fb * 2 ^ f.fb + c % 2 ^ f.fb := (Nat.div_add_mod' c (2 ^ f.fb)).symm
  rw [hdiv, decode_fields neg (by lia) (Nat.mod_lt _ hB)]
  split
  · rename_i h
    rw [if_pos]
    · exact FVal.noConfusion
    · rw [h] at hdiv
      lia
  · exact FVal.noConfusion

theorem round_not_nan {f : FFmt} (rm : RMode) (neg : Bool) {m : Nat} (hm : m ≠ 0) (e : Int) (st : Bool) :
    f.decode (f.round rm false neg m e st).1 ≠ .nan := by
  rw [round_eq f rm false neg hm e st]
  dsimp only
  split
  · rw [if_neg Bool.false_ne_true]
    exact decode_lt_infCode neg (by split <;> omega)
  · rename_i h
    exact decode_lt_infCode neg (by omega)

theorem roundDy_not_nan {f : FFmt} (rm : RMode) (z : Bool) (x : Dy) :
    f.decode (f.roundDy rm false z x).1 ≠ .nan := by
  unfold FFmt.roundDy
  split
  · exact decode_lt_infCode z (Nat.zero_le _)
  · exact round_not_nan rm _ (Int.natAbs_ne_zero.mpr ‹_›) _ _

/-- A NaN sum is the canonical one. -/
theorem sum_nan_code (rm : RMode) (terms : List (Option FVal)) (h : f32Of (lane32 (f32.sum rm terms)).1 = .nan) :
    (lane32 (f32.sum rm terms)).1 = 0x7FC00000 := by
  have hcode {r : Nat × Flags} (hr : r.1 < 2 ^ 32) : f32Of (lane32 r).1 = f32.decode r.1 := by
    rw [f32Of, lane32, BitVec.toNat_ofNat, Nat.mod_eq_of_lt hr]
  revert h
  unfold FFmt.sum
  dsimp only
  split
  · exact fun _ => rfl
  · split
    · exact fun _ => rfl
    · split
      · exact fun h => absurd h (by decide)
      · split
        · exact fun h => absurd h (by decide)
        · intro h
          rw [hcode (roundDy_lt ..)] at h
          exact absurd h (roundDy_not_nan rm _ _)

section
variable (rm : RMode) {a b : Lane} (c : Lane) (h : f32Of a = .nan ∨ f32Of b = .nan)
include h

theorem fadd_nan : fadd rm a b = (0x7FC00000, 0) := by
  rw [fadd, sum_nan (by simpa [eq_comm] using h)]
  rfl

theorem fsub_nan : fsub rm a b = (0x7FC00000, 0) := by
  have hn : some FVal.nan ∈ [some (f32Of a), some (f32Of b).neg] := by
    rcases h with h | h <;> simp [h, FVal.neg]
  rw [fsub, sum_nan hn]
  rfl

theorem fmul_nan : fmul rm a b = (0x7FC00000, 0) := by
  rw [fmul, prodTerm_nan.mpr h, sum_nan (by simp)]
  rfl

theorem ffma_nan : ffma rm a b c = (0x7FC00000, 0) := by
  rw [ffma, prodTerm_nan.mpr h, sum_nan (by simp)]
  rfl

end

end Sys2Proof.Machine
end

section
/-! Reciprocal, square roots and scaling (R74, R322): an integer with the sticky bit stands for the exact value. -/

namespace Sys2Proof.Machine

/-- The step rounds an f32 lane. -/
theorem round_rounded (rm : RMode) (neg : Bool) {m : Nat} {e : Int} {st : Bool} {x : ℝ} (hm : m ≠ 0)
    (h : StandsFor m e st x) (hst : st = true → 2 ^ 24 ≤ m) {le ge : Dy → Prop}
    (hle : ∀ t, 0 ≤ t.m → (le t ↔ t.real ≤ x)) (hge : ∀ t, 0 ≤ t.m → (ge t ↔ x ≤ t.real)) :
    Rounded rm neg le ge (lane32 (f32.round rm false neg m e st)) := by
  unfold Rounded
  rw [lane32_toNat (round_lt f32 rm false neg hm e st)]
  exact round_roundedIn f32_wide rm false neg hm h hst hle hge

theorem Dy.real_nonneg {t : Dy} (h : 0 ≤ t.m) : 0 ≤ t.real := by
  unfold Dy.real
  have : (0 : ℝ) ≤ t.m := by exact_mod_cast h
  positivity

theorem Dy.real_mul (x y : Dy) : (x.mul y).real = x.real * y.real := by
  rw [Dy.real_eq_rat, Dy.rat_mul, Dy.real_eq_rat, Dy.real_eq_rat]
  push_cast
  rfl

theorem Dy.real_one : Dy.real { m := 1, e := 0 } = 1 := by simp [Dy.real]

theorem Dy.real_pos {m : Nat} (hm : m ≠ 0) (e : Int) : 0 < Dy.real { m := m, e := e } := by
  unfold Dy.real
  have : (0 : ℝ) < m := by exact_mod_cast Nat.pos_of_ne_zero hm
  push_cast
  positivity

theorem Dy.real_nat (m : Nat) (e : Int) : Dy.real { m := m, e := e } = m * 2 ^ e := by
  unfold Dy.real
  push_cast
  rfl

/-- The quotient of two naturals stands for the exact one. -/
theorem standsFor_quot {n d : Nat} (hd : d ≠ 0) (e : Int) :
    StandsFor (n / d) e (decide (n % d ≠ 0)) ((n : ℝ) / d * 2 ^ e) := by
  have hE : (0 : ℝ) < 2 ^ e := by positivity
  have hD : (0 : ℝ) < d := by exact_mod_cast Nat.pos_of_ne_zero hd
  have hn : (n : ℝ) = d * (n / d : Nat) + (n % d : Nat) := by exact_mod_cast (Nat.div_add_mod n d).symm
  have hr : ((n % d : Nat) : ℝ) + 1 ≤ d := by exact_mod_cast Nat.mod_lt n (Nat.pos_of_ne_zero hd)
  unfold StandsFor
  by_cases h0 : n % d = 0
  · rw [if_neg (by simp [h0]), mul_left_inj' hE.ne', div_eq_iff hD.ne', hn, h0]
    push_cast
    ring
  · have hpos : (1 : ℝ) ≤ (n % d : Nat) := by exact_mod_cast Nat.one_le_iff_ne_zero.mpr h0
    rw [if_pos (by simp [h0]), mul_lt_mul_iff_left₀ hE, mul_lt_mul_iff_left₀ hE, lt_div_iff₀ hD, div_lt_iff₀ hD]
    constructor <;> grind

/-! 1/x. -/

theorem frcp_rounded (rm : RMode) {x : Lane} {n : Bool} {m : Nat} {q : Int} (h : f32Of x = .fin n m q) (hm : m ≠ 0) :
    Rounded rm n (fun t => (t.mul { m := m, e := q }).le { m := 1, e := 0 } = true)
      (fun t => Dy.le { m := 1, e := 0 } (t.mul { m := m, e := q }) = true) (frcp rm x) := by
  have hv := Dy.real_pos hm q
  have hM : (0 : ℝ) < m := by exact_mod_cast Nat.pos_of_ne_zero hm
  obtain ⟨k, hk⟩ : ∃ k, k = m.log2 + 64 := ⟨_, rfl⟩
  have hlt := Nat.lt_log2_self (n := m)
  have hbig : 2 ^ 24 ≤ 2 ^ k / m := by
    rw [Nat.le_div_iff_mul_le (Nat.pos_of_ne_zero hm), hk, show m.log2 + 64 = (m.log2 + 1) + 63 by ring, pow_add]
    calc 2 ^ 24 * m ≤ 2 ^ 63 * 2 ^ (m.log2 + 1) := Nat.mul_le_mul (by decide) hlt.le
      _ = 2 ^ (m.log2 + 1) * 2 ^ 63 := Nat.mul_comm _ _
  have hx : ((2 ^ k : Nat) : ℝ) / m * 2 ^ (-q - k) = 1 / Dy.real { m := m, e := q } := by
    rw [Dy.real_nat, zpow_sub₀ two_ne_zero, zpow_neg, zpow_natCast]
    push_cast
    field_simp
  have hst := standsFor_quot (n := 2 ^ k) hm (-q - k)
  rw [hx] at hst
  have hrcp : frcp rm x = lane32 (f32.round rm false n (2 ^ k / m) (-q - k) (decide (2 ^ k % m ≠ 0))) := by
    obtain ⟨j, rfl⟩ := Nat.exists_eq_succ_of_ne_zero hm
    unfold frcp
    rw [h, hk]
    rfl
  rw [hrcp]
  refine round_rounded rm n (by lia) hst (fun _ => hbig) (fun t _ => ?_) fun t _ => ?_
  · rw [Dy.le_iff_real, Dy.real_mul, Dy.real_one, le_div_iff₀ hv]
  · rw [Dy.le_iff_real, Dy.real_mul, Dy.real_one, div_le_iff₀ hv]

/-! Square roots. -/

theorem isqrtFrom_spec {n k r : Nat} (h1 : r * r ≤ n) (h2 : n < (r + 2 ^ k) * (r + 2 ^ k)) :
    isqrtFrom n k r * isqrtFrom n k r ≤ n ∧ n < (isqrtFrom n k r + 1) * (isqrtFrom n k r + 1) := by
  induction k generalizing r with
  | zero => exact ⟨h1, h2⟩
  | succ k ih =>
    unfold isqrtFrom
    dsimp only
    split
    · exact ih ‹_› (by rwa [add_assoc, ← Nat.two_mul, ← pow_succ'])
    · exact ih h1 (by omega)

theorem isqrt_spec (n : Nat) : isqrt n * isqrt n ≤ n ∧ n < (isqrt n + 1) * (isqrt n + 1) := by
  refine isqrtFrom_spec (Nat.zero_le _) (Nat.lt_log2_self.trans_le ?_)
  rw [Nat.zero_add, ← pow_add]
  exact Nat.pow_le_pow_right (by decide) (by lia)

/-- The integer square root stands for the square root of a number that lies between the integer's neighbours. -/
theorem standsFor_isqrt {n : Nat} {y : ℝ} {st : Bool} (h1 : (n : ℝ) ≤ y) (h2 : y < n + 1)
    (hst : st = false ↔ ((isqrt n * isqrt n : Nat) : ℝ) = y) (e : Int) : StandsFor (isqrt n) e st (√y * 2 ^ e) := by
  have hE : (0 : ℝ) < 2 ^ e := by positivity
  obtain ⟨hlo, hhi⟩ := isqrt_spec n
  have hloR : ((isqrt n : Nat) : ℝ) * isqrt n ≤ y := le_trans (by exact_mod_cast hlo) h1
  have hhiR : y < ((isqrt n : Nat) + 1 : ℝ) * (isqrt n + 1) := h2.trans_le (by exact_mod_cast hhi)
  have hr : (0 : ℝ) ≤ isqrt n := Nat.cast_nonneg _
  have hy : 0 ≤ y := le_trans (Nat.cast_nonneg _) h1
  unfold StandsFor
  cases st with
  | false =>
    have heq := hst.mp rfl
    push_cast at heq
    rw [if_neg Bool.false_ne_true, mul_left_inj' hE.ne', ← heq, Real.sqrt_mul_self hr]
  | true =>
    have hne : ((isqrt n : Nat) : ℝ) * isqrt n ≠ y := fun heq => by
      have := hst.mpr (by exact_mod_cast heq)
      exact absurd this (by decide)
    rw [if_pos rfl, mul_lt_mul_iff_left₀ hE, mul_lt_mul_iff_left₀ hE, Real.lt_sqrt hr, Real.sqrt_lt' (by positivity), sq, sq]
    exact ⟨lt_of_le_of_ne hloR hne, hhiR⟩

theorem isqrt_big {n k : Nat} (h : 2 ^ (2 * k) ≤ n) : 2 ^ k ≤ isqrt n := by
  by_contra hlt
  have h1 : isqrt n + 1 ≤ 2 ^ k := by lia
  have h2 := (isqrt_spec n).2
  have h3 := Nat.mul_le_mul h1 h1
  rw [← pow_add, ← Nat.two_mul] at h3
  lia

/-- An even exponent, with the integer that goes with it. -/
theorem even_exponent (m : Nat) (q : Int) :
    let h := (if q % 2 ≠ 0 then q - 1 else q) / 2
    (m : ℝ) * 2 ^ q = ((if q % 2 ≠ 0 then 2 * m else m : Nat) : ℝ) * (2 ^ h) ^ 2 := by
  intro h
  have hsq : ((2 : ℝ) ^ h) ^ 2 = 2 ^ (2 * h) := by rw [← zpow_natCast, ← zpow_mul, mul_comm]; rfl
  rw [hsq]
  by_cases hq : q % 2 ≠ 0
  · have : q = 2 * h + 1 := by simp only [h]; lia
    rw [if_pos hq, this, zpow_add_one₀ two_ne_zero]
    push_cast
    ring
  · have : q = 2 * h := by simp only [h, hq, if_false]; lia
    rw [if_neg hq, ← this]

theorem fsqrt_rounded (rm : RMode) {x : Lane} {m : Nat} {q : Int} (h : f32Of x = .fin false m q) (hm : m ≠ 0) :
    Rounded rm false (fun t => (t.mul t).le { m := m, e := q } = true) (fun t => Dy.le { m := m, e := q } (t.mul t) = true)
      (fsqrt rm x) := by
  obtain ⟨g, hg⟩ : ∃ g, g = ((if q % 2 ≠ 0 then q - 1 else q) - 128) / 2 := ⟨_, rfl⟩
  obtain ⟨m', hm'⟩ : ∃ m', m' = if q % 2 ≠ 0 then 2 * m else m := ⟨_, rfl⟩
  obtain ⟨n, hn⟩ : ∃ n, n = m' * 2 ^ 128 := ⟨_, rfl⟩
  have hm1 : 1 ≤ m' := by rw [hm']; split <;> lia
  have hbig : 2 ^ 64 ≤ isqrt n := isqrt_big (by rw [hn]; exact Nat.le_mul_of_pos_left _ hm1)
  have hx : √(n : ℝ) * 2 ^ g = √(Dy.real { m := m, e := q }) := by
    have hv : Dy.real { m := m, e := q } = n * (2 ^ g) ^ 2 := by
      have hgh : (if q % 2 ≠ 0 then q - 1 else q) / 2 = g + 64 := by rw [hg]; lia
      rw [Dy.real_nat, even_exponent, hgh, ← hm', hn, zpow_add₀ two_ne_zero, mul_pow]
      push_cast
      ring
    rw [hv, Real.sqrt_mul (Nat.cast_nonneg n), Real.sqrt_sq (by positivity)]
  have hst := standsFor_isqrt (n := n) (y := n) (st := decide (isqrt n * isqrt n ≠ n)) le_rfl (by grind)
    (by rw [decide_eq_false_iff_not, not_not]; exact_mod_cast Iff.rfl) g
  rw [hx] at hst
  have hsq : fsqrt rm x = lane32 (f32.round rm false false (isqrt n) g (decide (isqrt n * isqrt n ≠ n))) := by
    obtain ⟨j, rfl⟩ := Nat.exists_eq_succ_of_ne_zero hm
    unfold fsqrt
    rw [h, hn, hg, hm']
    rfl
  rw [hsq]
  refine round_rounded rm false (by lia) hst (fun _ => le_trans (by decide) hbig) (fun t ht => ?_) fun t ht => ?_
  · rw [Dy.le_iff_real, Dy.real_mul, Real.le_sqrt (Dy.real_nonneg ht), sq]
    exact (Dy.real_pos hm q).le
  · rw [Dy.le_iff_real, Dy.real_mul, Real.sqrt_le_left (Dy.real_nonneg ht), sq]

theorem frsqrt_rounded (rm : RMode) {x : Lane} {m : Nat} {q : Int} (h : f32Of x = .fin false m q) (hm : m ≠ 0) :
    Rounded rm false (fun t => ((t.mul t).mul { m := m, e := q }).le { m := 1, e := 0 } = true)
      (fun t => Dy.le { m := 1, e := 0 } ((t.mul t).mul { m := m, e := q }) = true) (frsqrt rm x) := by
  obtain ⟨g, hg⟩ : ∃ g, g = (if q % 2 ≠ 0 then q - 1 else q) / 2 := ⟨_, rfl⟩
  obtain ⟨m', hm'⟩ : ∃ m', m' = if q % 2 ≠ 0 then 2 * m else m := ⟨_, rfl⟩
  obtain ⟨k, hk⟩ : ∃ k, k = m'.log2 / 2 + 64 := ⟨_, rfl⟩
  have hm1 : m' ≠ 0 := by rw [hm']; split <;> lia
  have hM : (0 : ℝ) < m' := by exact_mod_cast Nat.pos_of_ne_zero hm1
  have hv := Dy.real_pos hm q
  have hbig : 2 ^ 62 ≤ isqrt (2 ^ (2 * k) / m') := by
    refine isqrt_big ((Nat.le_div_iff_mul_le (Nat.pos_of_ne_zero hm1)).mpr ?_)
    calc 2 ^ (2 * 62) * m' ≤ 2 ^ 124 * 2 ^ (m'.log2 + 1) := Nat.mul_le_mul_left _ Nat.lt_log2_self.le
      _ = 2 ^ (124 + (m'.log2 + 1)) := (pow_add ..).symm
      _ ≤ 2 ^ (2 * k) := Nat.pow_le_pow_right (by decide) (by lia)
  obtain ⟨y, hy⟩ : ∃ y : ℝ, y = ((2 ^ (2 * k) : Nat) : ℝ) / m' := ⟨_, rfl⟩
  have hx : √y * 2 ^ (-g - k) = √(1 / Dy.real { m := m, e := q }) := by
    have h1 : 1 / Dy.real { m := m, e := q } = y * (2 ^ (-g - (k : Int))) ^ 2 := by
      rw [Dy.real_nat, even_exponent, ← hg, ← hm', hy, zpow_sub₀ two_ne_zero, zpow_neg, zpow_natCast]
      push_cast
      field_simp
      rw [pow_mul, pow_right_comm]
    rw [h1, Real.sqrt_mul (by rw [hy]; positivity), Real.sqrt_sq (by positivity)]
  obtain ⟨hb1, hb2⟩ := (standsFor_quot (n := 2 ^ (2 * k)) hm1 0).bounds
  simp only [zpow_zero, mul_one] at hb1 hb2
  have hst := standsFor_isqrt (n := 2 ^ (2 * k) / m') (y := y)
    (st := decide (isqrt (2 ^ (2 * k) / m') * isqrt (2 ^ (2 * k) / m') * m' ≠ 2 ^ (2 * k))) (by rw [hy]; exact hb1)
    (by rw [hy]; exact hb2) (by
      rw [decide_eq_false_iff_not, not_not, hy, eq_div_iff hM.ne']
      exact_mod_cast Iff.rfl) (-g - k)
  rw [hx] at hst
  have hsq : frsqrt rm x = lane32 (f32.round rm false false (isqrt (2 ^ (2 * k) / m')) (-g - k)
      (decide (isqrt (2 ^ (2 * k) / m') * isqrt (2 ^ (2 * k) / m') * m' ≠ 2 ^ (2 * k)))) := by
    obtain ⟨j, rfl⟩ := Nat.exists_eq_succ_of_ne_zero hm
    unfold frsqrt
    rw [h, hk, hg, hm']
    rfl
  rw [hsq]
  refine round_rounded rm false (by lia) hst (fun _ => le_trans (by decide) hbig) (fun t ht => ?_) fun t ht => ?_
  · rw [Dy.le_iff_real, Dy.real_mul, Dy.real_mul, Dy.real_one, Real.le_sqrt (Dy.real_nonneg ht), sq, le_div_iff₀ hv]
    exact (one_div_pos.mpr hv).le
  · rw [Dy.le_iff_real, Dy.real_mul, Dy.real_mul, Dy.real_one, Real.sqrt_le_left (Dy.real_nonneg ht), sq, div_le_iff₀ hv]

/-! Exponents far out of range. -/

/-- The numbers that rounding compares with. -/
def FFmt.Spans (f : FFmt) (t : Dy) : Prop :=
  t.real = 0 ∨ ((2 : ℝ) ^ (-(f.bias : Int) - f.fb) ≤ t.real ∧ t.real ≤ 2 ^ (2 ^ f.eb - 1 - (f.bias : Int)))

theorem spans_place {f : FFmt} {m : Nat} {q : Int} (hq : -(f.bias : Int) - f.fb ≤ q)
    (hm : (m : ℝ) * 2 ^ q ≤ 2 ^ (2 ^ f.eb - 1 - (f.bias : Int))) : f.Spans { m := m, e := q } := by
  unfold FFmt.Spans
  rw [Dy.real_nat]
  rcases Nat.eq_zero_or_pos m with rfl | h
  · left; simp
  · right
    refine ⟨(zpow_le_zpow_right₀ (by simp) hq).trans ?_, hm⟩
    have : (1 : ℝ) ≤ m := by exact_mod_cast h
    exact le_mul_of_one_le_left (by positivity) this

/-- A finite code lies below the bound of the range. -/
theorem decode_lt_bound {f : FFmt} {c m : Nat} {n : Bool} {q : Int} (hf : f.Wide) (h : f.decode c = .fin n m q) :
    (m : ℝ) * 2 ^ q ≤ 2 ^ (2 ^ f.eb - 1 - (f.bias : Int)) := by
  obtain ⟨hm, -⟩ := decode_range h
  have hq : q + f.fb + 1 ≤ 2 ^ f.eb - 1 - (f.bias : Int) := by
    have hlt : c / 2 ^ f.fb % 2 ^ f.eb < 2 ^ f.eb := Nat.mod_lt _ (by positivity)
    have heb : 4 ≤ 2 ^ f.eb := Nat.pow_le_pow_right (n := 2) (by decide) hf.exp
    have hcast : ((2 ^ f.eb : Nat) : Int) = 2 ^ f.eb := by push_cast; rfl
    rw [← hcast]
    unfold FFmt.decode at h
    simp only at h
    split at h
    · split at h <;> cases h
    · split at h <;> cases h <;> lia
  have hmR : (m : ℝ) ≤ 2 ^ (f.fb + 1) := by exact_mod_cast hm.le
  calc (m : ℝ) * 2 ^ q ≤ 2 ^ (f.fb + 1) * 2 ^ q := mul_le_mul_of_nonneg_right hmR (by positivity)
    _ = 2 ^ (q + f.fb + 1) := by
      rw [add_assoc, zpow_add₀ two_ne_zero, mul_comm]
      norm_cast
    _ ≤ _ := zpow_le_zpow_right₀ (by norm_num) hq

theorem spans_code {f : FFmt} (hf : f.Wide) {c m : Nat} {n : Bool} {q : Int} (h : f.decode c = .fin n m q) :
    f.Spans { m := m, e := q } :=
  spans_place (by have := (decode_range h).2; lia) (decode_lt_bound hf h)

theorem spans_mid {f : FFmt} (hf : f.Wide) {c c' m m' : Nat} {n n' : Bool} {q q' : Int} (h : f.decode c = .fin n m q)
    (h' : f.decode c' = .fin n' m' q') : f.Spans (Dy.mid { m := m, e := q } { m := m', e := q' }) := by
  have hs := spans_code hf h
  have hs' := spans_code hf h'
  unfold FFmt.Spans
  rw [Dy.real_mid]
  have hcode {c m : Nat} {n : Bool} {q : Int} (h : f.decode c = .fin n m q) :
      Dy.real { m := m, e := q } = 0 ∨ (2 : ℝ) ^ (1 - (f.bias : Int) - f.fb) ≤ Dy.real { m := m, e := q } := by
    rw [Dy.real_nat]
    rcases Nat.eq_zero_or_pos m with rfl | hm
    · left; simp
    · right
      have : (1 : ℝ) ≤ m := by exact_mod_cast hm
      exact (zpow_le_zpow_right₀ (by norm_num) (decode_range h).2).trans (le_mul_of_one_le_left (by positivity) this)
  have h2 : (2 : ℝ) ^ (1 - (f.bias : Int) - f.fb) = 2 * 2 ^ (-(f.bias : Int) - f.fb) := by
    rw [show (1 : Int) - f.bias - f.fb = 1 + (-(f.bias : Int) - f.fb) by ring, zpow_add₀ two_ne_zero, zpow_one]
  have hb := decode_lt_bound hf h
  have hb' := decode_lt_bound hf h'
  rw [← Dy.real_nat] at hb hb'
  have hp := Dy.real_nonneg (t := { m := m, e := q }) (Int.natCast_nonneg m)
  have hp' := Dy.real_nonneg (t := { m := m', e := q' }) (Int.natCast_nonneg m')
  rcases hcode h with h0 | h0 <;> rcases hcode h' with h0' | h0'
  · left; rw [h0, h0']; norm_num
  · right; constructor <;> linarith
  · right; constructor <;> linarith
  · right; constructor <;> linarith

/-- A row of ones. -/
theorem spans_ones {f : FFmt} {n : Nat} {e : Int} (h1 : -(f.bias : Int) - f.fb ≤ n + e)
    (h2 : n + 1 + e ≤ 2 ^ f.eb - 1 - (f.bias : Int)) : f.Spans { m := 2 ^ (n + 1) - 1, e := e } := by
  have hK : (1 : ℝ) ≤ 2 ^ n := one_le_pow₀ (by simp)
  have hE : (0 : ℝ) < 2 ^ e := by positivity
  have hv : Dy.real { m := 2 ^ (n + 1) - 1, e := e } = (2 * 2 ^ n - 1) * 2 ^ e := by
    unfold Dy.real
    push_cast
    rw [pow_succ']
  right
  rw [hv]
  constructor
  · calc (2 : ℝ) ^ (-(f.bias : Int) - f.fb) ≤ 2 ^ ((n : Int) + e) := zpow_le_zpow_right₀ (by simp) h1
      _ = 2 ^ n * 2 ^ e := by rw [zpow_add₀ two_ne_zero, zpow_natCast]
      _ ≤ (2 * 2 ^ n - 1) * 2 ^ e := mul_le_mul_of_nonneg_right (by grind) hE.le
  · calc ((2 : ℝ) * 2 ^ n - 1) * 2 ^ e ≤ 2 ^ (n + 1) * 2 ^ e :=
        mul_le_mul_of_nonneg_right (by rw [pow_succ']; grind) hE.le
      _ = 2 ^ ((n : Int) + 1 + e) := by
        rw [zpow_add₀ two_ne_zero]
        norm_cast
      _ ≤ _ := zpow_le_zpow_right₀ (by simp) h2

/-- Rounding sees no more of a number than its comparisons with the numbers that it spans. -/
theorem RoundedIn.congr {f : FFmt} (hf : f.Wide) {sat : Bool} {rm : RMode} {neg : Bool} {le ge le' ge' : Dy → Prop}
    {r : Nat × Flags} (hle : ∀ t, 0 ≤ t.m → f.Spans t → (le t ↔ le' t)) (hge : ∀ t, 0 ≤ t.m → f.Spans t → (ge t ↔ ge' t))
    (h : RoundedIn f sat rm neg le ge r) : RoundedIn f sat rm neg le' ge' r := by
  have heb : (4 : Int) ≤ 2 ^ f.eb := by exact_mod_cast (Nat.pow_le_pow_right (n := 2) (by decide) hf.exp : 2 ^ 2 ≤ 2 ^ f.eb)
  have hb1 : 2 ≤ 2 ^ (f.eb - 1) := Nat.pow_le_pow_right (n := 2) (by decide) (by have := hf.exp; lia : 1 ≤ f.eb - 1)
  have hbias : (f.bias : Int) + 1 ≤ 2 ^ f.eb := by
    have h1 : 2 ^ f.eb = 2 * 2 ^ (f.eb - 1) := by rw [← pow_succ', Nat.sub_add_cancel (by have := hf.exp; lia)]
    have h2 := hf.bias
    have h3 : f.bias + 1 ≤ 2 ^ f.eb := by lia
    exact_mod_cast h3
  have hone (e : Int) (h1 : -(f.bias : Int) - f.fb ≤ e) (h2 : e ≤ 2 ^ f.eb - 1 - (f.bias : Int)) :
      f.Spans { m := 1, e := e } := by
    right
    rw [show Dy.real { m := 1, e := e } = 2 ^ e by simp [Dy.real]]
    exact ⟨zpow_le_zpow_right₀ (by norm_num) h1, zpow_le_zpow_right₀ (by norm_num) h2⟩
  have hfr := hf.frac
  have c1 := hle { m := 2 ^ (f.fb + 1 + 1) - 1, e := 2 ^ f.eb - 2 - f.bias - (f.fb + 1 : Nat) } (bounds_nonneg _)
    (spans_ones (by push_cast; lia) (by push_cast; lia))
  have c2 := hle { m := 1, e := 2 ^ f.eb - 2 - f.bias + 1 } Int.one_nonneg (hone _ (by lia) (by lia))
  have c3 := hge { m := 2 ^ (f.fb + 1) - 1, e := 2 ^ f.eb - 2 - f.bias - f.fb } (bounds_nonneg _)
    (spans_ones (by lia) (by lia))
  have c4 := hle { m := 2 ^ (f.fb + 1 + 1) - 1, e := 1 - (f.bias : Int) - (f.fb + 1 : Nat) - 1 } (bounds_nonneg _)
    (spans_ones (by push_cast; lia) (by push_cast; lia))
  have c5 := hle { m := 1, e := 1 - (f.bias : Int) } Int.one_nonneg (hone _ (by lia) (by lia))
  have c6 := hge { m := 2 ^ (f.fb + 1) - 1, e := 1 - (f.bias : Int) - (f.fb + 1 : Nat) } (bounds_nonneg _)
    (spans_ones (by push_cast; lia) (by push_cast; lia))
  unfold RoundedIn at h ⊢
  dsimp only at h ⊢
  rw [c1, c2, c3] at h
  obtain ⟨hpast, hin⟩ := h
  refine ⟨hpast, fun hp => ?_⟩
  obtain ⟨hlt, m, q, hdec, hz, ha, hn, hx, hu, ho⟩ := hin hp
  have hk (k : Nat) (z : Int) : 0 ≤ ({ m := k, e := z } : Dy).m := Int.natCast_nonneg k
  have hmid0 (k : Nat) (z : Int) : 0 ≤ (Dy.mid { m := m, e := q } { m := k, e := z }).m :=
    add_nonneg (mul_nonneg (hk m q) (by positivity)) (mul_nonneg (hk k z) (by positivity))
  have hlm := hle _ (hk m q) (spans_code hf hdec)
  have hgm := hge _ (hk m q) (spans_code hf hdec)
  rw [hlm, hgm] at hx hu
  rw [c4, c5, c6] at hu
  refine ⟨hlt, m, q, hdec, fun hrm => ?_, fun hrm => ?_, fun hrm c k z hd => ?_, hx, hu, ho⟩
  · obtain ⟨h1, h2⟩ := hz hrm
    exact ⟨hlm.mp h1, fun c k z hd hl => h2 c k z hd ((hle _ (hk k z) (spans_code hf hd)).mpr hl)⟩
  · obtain ⟨h1, h2⟩ := ha hrm
    exact ⟨hgm.mp h1, fun c k z hd hl => h2 c k z hd ((hge _ (hk k z) (spans_code hf hd)).mpr hl)⟩
  · obtain ⟨h1, h2, h3⟩ := hn hrm c k z hd
    have hl := hle _ (hmid0 k z) (spans_mid hf hdec hd)
    have hg := hge _ (hmid0 k z) (spans_mid hf hdec hd)
    exact ⟨fun h => hl.mp (h1 h), fun h => hg.mp (h2 h), fun h h' h'' => h3 h (hl.mpr h') (hg.mpr h'')⟩

/-- Two numbers that lie alike to the numbers that rounding spans: one and the same, both past the range, or both below
the middle of the least. -/
def Alike (f : FFmt) (x y : ℝ) : Prop :=
  x = y ∨ ((2 : ℝ) ^ (2 ^ f.eb - 1 - (f.bias : Int)) < x ∧ (2 : ℝ) ^ (2 ^ f.eb - 1 - (f.bias : Int)) < y) ∨
    ((0 < x ∧ x < 2 ^ (-(f.bias : Int) - f.fb)) ∧ 0 < y ∧ y < 2 ^ (-(f.bias : Int) - f.fb))

theorem alike_compare {f : FFmt} {x y : ℝ} (h : Alike f x y) {t : Dy} (ht : f.Spans t) :
    (t.real ≤ x ↔ t.real ≤ y) ∧ (x ≤ t.real ↔ y ≤ t.real) := by
  have hlow : (0 : ℝ) < 2 ^ (-(f.bias : Int) - f.fb) := by positivity
  have hhigh : (0 : ℝ) < 2 ^ (2 ^ f.eb - 1 - (f.bias : Int)) := by positivity
  rcases h with rfl | ⟨h1, h2⟩ | ⟨⟨h1, h2⟩, h3, h4⟩
  · exact ⟨Iff.rfl, Iff.rfl⟩
  · rcases ht with h0 | ⟨-, hb⟩
    · rw [h0]
      exact ⟨iff_of_true (by grind) (by grind), iff_of_false (by grind) (by grind)⟩
    · exact ⟨iff_of_true (by grind) (by grind), iff_of_false (by grind) (by grind)⟩
  · rcases ht with h0 | ⟨hb, -⟩
    · rw [h0]
      exact ⟨iff_of_true h1.le h3.le, iff_of_false (by grind) (by grind)⟩
    · exact ⟨iff_of_false (by grind) (by grind), iff_of_true (by grind) (by grind)⟩

/-- The step rounds any number that lies as its own does. -/
theorem round_rounded_alike (rm : RMode) (neg : Bool) {m : Nat} {e : Int} {st : Bool} {x y : ℝ} (hm : m ≠ 0)
    (h : StandsFor m e st x) (hst : st = true → 2 ^ 24 ≤ m) (hxy : Alike f32 x y) {le ge : Dy → Prop}
    (hle : ∀ t, 0 ≤ t.m → (le t ↔ t.real ≤ y)) (hge : ∀ t, 0 ≤ t.m → (ge t ↔ y ≤ t.real)) :
    Rounded rm neg le ge (lane32 (f32.round rm false neg m e st)) :=
  RoundedIn.congr f32_wide (fun t ht hs => (alike_compare hxy hs).1.trans (hle t ht).symm)
    (fun t ht hs => (alike_compare hxy hs).2.trans (hge t ht).symm)
    (round_rounded (le := fun t => t.real ≤ x) (ge := fun t => x ≤ t.real) rm neg hm h hst (fun _ _ => Iff.rfl)
      fun _ _ => Iff.rfl)

/-! a × 2^k. -/

theorem fscale_rounded (rm : RMode) {x : Lane} {n : Bool} {m : Nat} {q : Int} (h : f32Of x = .fin n m q) (hm : m ≠ 0)
    (k : Int) :
    Rounded rm n (fun t => t.le (Dy.scale { m := m, e := q } k) = true)
      (fun t => (Dy.scale { m := m, e := q } k).le t = true) (fscale rm x k) := by
  obtain ⟨j, hj⟩ : ∃ j, j = max (-1000) (min k 1000) := ⟨_, rfl⟩
  obtain ⟨hm24, hq⟩ := decode_range (f := f32) h
  have hbound := decode_lt_bound f32_wide (f := f32) h
  have hMlt : (m : ℝ) < 2 ^ 24 := by exact_mod_cast hm24
  have hM1 : (1 : ℝ) ≤ m := by exact_mod_cast Nat.one_le_iff_ne_zero.mpr hm
  have hq' : -149 ≤ q := hq
  have hqle : q ≤ 128 := by
    by_contra hlt
    have : (2 : ℝ) ^ (129 : Int) ≤ m * 2 ^ q :=
      (zpow_le_zpow_right₀ (by norm_num) (by lia : (129 : Int) ≤ q)).trans (le_mul_of_one_le_left (by positivity) hM1)
    have h2 : (2 : ℝ) ^ (129 : Int) ≤ 2 ^ (128 : Int) := this.trans hbound
    norm_num at h2
  have hfs : fscale rm x k = lane32 (f32.round rm false n m (q + j) false) := by
    obtain ⟨i, rfl⟩ := Nat.exists_eq_succ_of_ne_zero hm
    unfold fscale
    rw [h, hj]
    rfl
  have hst : StandsFor m (q + j) false (m * 2 ^ (q + j)) := by
    rw [StandsFor, if_neg Bool.false_ne_true]
  have halike : Alike f32 ((m : ℝ) * 2 ^ (q + j)) (m * 2 ^ (q + k)) := by
    rcases lt_trichotomy j k with hlt | heq | hgt
    · right; left
      have hj' : j = 1000 := by lia
      have hbig (i : Int) (hi : 1000 ≤ i) : (2 : ℝ) ^ (128 : Int) < m * 2 ^ (q + i) :=
        (zpow_lt_zpow_right₀ (by norm_num) (by lia : (128 : Int) < q + i)).trans_le
          (le_mul_of_one_le_left (by positivity) hM1)
      exact ⟨hbig j hj'.ge, hbig k (by lia)⟩
    · left; rw [heq]
    · right; right
      have hj' : j = -1000 := by lia
      have hsmall (i : Int) (hi : i ≤ -1000) : 0 < (m : ℝ) * 2 ^ (q + i) ∧ (m : ℝ) * 2 ^ (q + i) < 2 ^ (-150 : Int) := by
        refine ⟨by positivity, ?_⟩
        calc (m : ℝ) * 2 ^ (q + i) < 2 ^ 24 * 2 ^ (q + i) := mul_lt_mul_of_pos_right hMlt (by positivity)
          _ = 2 ^ (24 + (q + i)) := by rw [zpow_add₀ two_ne_zero 24]; rfl
          _ ≤ 2 ^ (-150 : Int) := zpow_le_zpow_right₀ (by norm_num) (by lia)
      exact ⟨hsmall j hj'.le, hsmall k (by lia)⟩
  have hreal : (Dy.scale { m := m, e := q } k).real = m * 2 ^ (q + k) := Dy.real_nat m (q + k)
  rw [hfs]
  refine round_rounded_alike rm n hm hst (fun h => absurd h Bool.false_ne_true) halike (fun t _ => ?_) fun t _ => ?_
  · rw [Dy.le_iff_real, hreal]
  · rw [Dy.le_iff_real, hreal]

end Sys2Proof.Machine
end

section
/-! The functions' special operands, the order of the lanes, and their classes (R72, R74, R322). -/

namespace Sys2Proof.Machine

/-! Special operands. -/

theorem frcp_special (rm : RMode) :
    frcp rm 0 = (0x7F800000, flDZ) ∧ frcp rm 0x80000000 = (0xFF800000, flDZ) ∧ frcp rm 0x7F800000 = (0, 0) ∧
      frcp rm 0xFF800000 = (0x80000000, 0) := ⟨rfl, rfl, rfl, rfl⟩

theorem frsqrt_special (rm : RMode) :
    frsqrt rm 0 = (0x7F800000, flDZ) ∧ frsqrt rm 0x80000000 = (0xFF800000, flDZ) ∧ frsqrt rm 0x7F800000 = (0, 0) ∧
      frsqrt rm 0xFF800000 = (0x7FC00000, flNV) := ⟨rfl, rfl, rfl, rfl⟩

theorem fsqrt_special (rm : RMode) :
    fsqrt rm 0 = (0, 0) ∧ fsqrt rm 0x80000000 = (0x80000000, 0) ∧ fsqrt rm 0x7F800000 = (0x7F800000, 0) ∧
      fsqrt rm 0xFF800000 = (0x7FC00000, flNV) := ⟨rfl, rfl, rfl, rfl⟩

theorem flg2_special (u : Lane) :
    flg2 u 0 = (0xFF800000, flDZ) ∧ flg2 u 0x80000000 = (0xFF800000, flDZ) ∧ flg2 u 0x3F800000 = (0, 0) ∧
      flg2 u 0x7F800000 = (0x7F800000, 0) ∧ flg2 u 0xFF800000 = (0x7FC00000, flNV) := ⟨rfl, rfl, rfl, rfl, rfl⟩

theorem fsin_special (u : Lane) (z : Bool) :
    fsin u z 0 = (0, 0) ∧ fsin u z 0x80000000 = (0x80000000, 0) ∧ fsin u z 0x7F800000 = (0x7FC00000, flNV) ∧
      fsin u z 0xFF800000 = (0x7FC00000, flNV) := ⟨rfl, rfl, rfl, rfl⟩

theorem fscale_special (rm : RMode) (k : Int) (x : Lane) (h : x = 0 ∨ x = 0x80000000 ∨ x = 0x7F800000 ∨ x = 0xFF800000) :
    fscale rm x k = (x, 0) := by
  rcases h with rfl | rfl | rfl | rfl <;> rfl

theorem functions_nan (rm : RMode) (u : Lane) (z : Bool) (k : Int) {x : Lane} (h : f32Of x = .nan) :
    frcp rm x = (0x7FC00000, 0) ∧ frsqrt rm x = (0x7FC00000, 0) ∧ fsqrt rm x = (0x7FC00000, 0) ∧
      fex2 u x = (0x7FC00000, 0) ∧ flg2 u x = (0x7FC00000, 0) ∧ fsin u z x = (0x7FC00000, 0) ∧
      fcos u x = (0x7FC00000, 0) ∧ fscale rm x k = (0x7FC00000, 0) := by
  unfold frcp frsqrt fsqrt fex2 flg2 fsin fcos fscale
  simp only [h]
  exact ⟨rfl, rfl, rfl, rfl, rfl, rfl, rfl, rfl⟩

theorem negative_invalid (rm : RMode) {x : Lane} {m : Nat} {q : Int} (h : f32Of x = .fin true m q) (hm : m ≠ 0) :
    fsqrt rm x = (0x7FC00000, flNV) ∧ frsqrt rm x = (0x7FC00000, flNV) ∧ ∀ u, flg2 u x = (0x7FC00000, flNV) := by
  obtain ⟨j, rfl⟩ := Nat.exists_eq_succ_of_ne_zero hm
  unfold fsqrt frsqrt flg2
  rw [h]
  exact ⟨rfl, rfl, fun _ => rfl⟩

/-! Values that are integers or quarters. -/

theorem natAbs_signed (n : Bool) (v : Nat) : (if n then -(v : Int) else v).natAbs = v := by cases n <;> simp

section
variable {x : Lane} {n : Bool} {m : Nat} {q k : Int} (h : f32Of x = .fin n m q)
include h

theorem place_ge : -149 ≤ q := (decode_range (f := f32) h).2

/-- A finite lane in fixed point. -/
theorem fxOf_rat : (fxOf m q : ℚ) = m * 2 ^ q * 2 ^ 256 := by
  have hq := place_ge h
  unfold fxOf
  push_cast
  rw [mul_assoc, ← zpow_natCast (2 : ℚ) (q + 256).toNat, ← zpow_natCast (2 : ℚ) 256, ← zpow_add₀ two_ne_zero,
    Int.toNat_of_nonneg (by lia)]
  rfl

/-- The signed fixed point of a finite lane. -/
theorem fxOf_signed : (((if n then -(fxOf m q : Int) else fxOf m q : Int)) : ℚ) = (f32Of x).dy.rat * 2 ^ 256 := by
  rw [h, FVal.dy_rat]
  cases n
  · simp only [Bool.false_eq_true, if_false]
    push_cast
    exact fxOf_rat h
  · simp only [if_true]
    push_cast
    rw [fxOf_rat h]
    ring

/-- The fixed point of a multiple of 2^-d. -/
theorem fxOf_multiple {d : Nat} (hd : d ≤ 256) (hv : (((f32Of x).dy.scale d).sub (Dy.ofInt k)).m = 0) :
    (if n then -(fxOf m q : Int) else fxOf m q : Int) = k * 2 ^ (256 - d) := by
  rw [Dy.m_eq_zero_iff, Dy.rat_sub, Dy.rat_scale, Dy.rat_ofInt, sub_eq_zero, zpow_natCast] at hv
  have hpow : (2 : ℚ) ^ 256 = 2 ^ d * 2 ^ (256 - d) := by rw [← pow_add, Nat.add_sub_cancel' hd]
  have hfx := fxOf_signed h
  rw [hpow, ← mul_assoc, hv] at hfx
  exact_mod_cast hfx

/-- The magnitude of an integer in fixed point. -/
theorem fxOf_integer (hv : ((f32Of x).dy.sub (Dy.ofInt k)).m = 0) : fxOf m q = k.natAbs * 2 ^ 256 := by
  have hk := fxOf_multiple h (d := 0) (by decide) (by simpa [Dy.scale] using hv)
  have h2 := congrArg Int.natAbs hk
  rw [Int.natAbs_mul] at h2
  have h3 : ((2 : Int) ^ (256 - 0)).natAbs = 2 ^ 256 := rfl
  rw [h3] at h2
  rw [← h2, natAbs_signed]

theorem fex2_integer (u : Lane) (hv : ((f32Of x).dy.sub (Dy.ofInt k)).m = 0) :
    Rounded .rne false (fun t => t.le { m := 1, e := k } = true) (fun t => Dy.le { m := 1, e := k } t = true) (fex2 u x) := by
  have hk := fxOf_multiple h (d := 0) (by decide) (by simpa [Dy.scale] using hv)
  rw [show (256 - 0 : Nat) = 256 from rfl] at hk
  have hone : ((fxOne : Nat) : Int) = 2 ^ 256 := by unfold fxOne; push_cast
  obtain ⟨j, hj⟩ : ∃ j, j = max (-400) (min 400 k) := ⟨_, rfl⟩
  have hfex : fex2 u x = lane32 (f32.round .rne false false 1 j false) := by
    unfold fex2
    rw [h]
    dsimp only
    rw [hk, hone, Int.mul_ediv_cancel _ (by positivity), Int.mul_emod_left, ← hj]
    rfl
  have hst : StandsFor 1 j false ((2 : ℝ) ^ j) := by
    rw [StandsFor, if_neg Bool.false_ne_true]
    simp
  have halike : Alike f32 ((2 : ℝ) ^ j) (2 ^ k) := by
    have hbig (i : Int) (hi : 400 ≤ i) : (2 : ℝ) ^ (128 : Int) < 2 ^ i := zpow_lt_zpow_right₀ (by simp) (by omega)
    have hsmall (i : Int) (hi : i ≤ -400) : 0 < (2 : ℝ) ^ i ∧ (2 : ℝ) ^ i < 2 ^ (-150 : Int) :=
      ⟨by positivity, zpow_lt_zpow_right₀ (by simp) (by omega)⟩
    rcases lt_trichotomy j k with hlt | heq | hgt
    · exact .inr (.inl ⟨hbig j (by omega), hbig k (by omega)⟩)
    · exact .inl (by rw [heq])
    · exact .inr (.inr ⟨hsmall j (by omega), hsmall k (by omega)⟩)
  have hreal : Dy.real { m := 1, e := k } = 2 ^ k := by simp [Dy.real]
  rw [hfex]
  refine round_rounded_alike .rne false one_ne_zero hst (fun h => absurd h Bool.false_ne_true) halike (fun t _ => ?_)
    fun t _ => ?_
  · rw [Dy.le_iff_real, hreal]
  · rw [Dy.le_iff_real, hreal]

theorem fsin_integer (u : Lane) (z : Bool) (hv : ((f32Of x).dy.sub (Dy.ofInt k)).m = 0) :
    fsin u z x = (if n then 0x80000000 else 0, 0) := by
  have h0 : fxOf m q % fxOne = 0 := by rw [fxOf_integer h hv]; exact Nat.mul_mod_left _ _
  unfold fsin
  rw [h]
  dsimp only
  rw [if_pos h0]

theorem fcos_quarter (u : Lane) (hv : (((f32Of x).dy.scale 2).sub (Dy.ofInt (2 * k + 1))).m = 0) : fcos u x = (0, 0) := by
  have hk := fxOf_multiple h (d := 2) (by decide) (by exact_mod_cast hv)
  have hf : fxOf m q = (2 * k + 1).natAbs * 2 ^ 254 := by
    have h2 := congrArg Int.natAbs hk
    rw [Int.natAbs_mul, show ((2 : Int) ^ (256 - 2)).natAbs = 2 ^ 254 from rfl] at h2
    rw [← h2, natAbs_signed]
  have h0 : (fxOf m q + fxOne / 4) % fxOne = 0 ∨ (fxOf m q + fxOne / 4) % fxOne = fxOne / 2 := by
    rw [hf]
    unfold fxOne
    lia
  unfold fcos
  rw [h]
  dsimp only
  rw [if_pos h0]

end

/-! The order (R72). -/

/-- The magnitude of a code with `fb` fraction bits and a bias. -/
noncomputable def fieldMag (fb : Nat) (bias : Int) (c : Nat) : ℝ :=
  ((if c / 2 ^ fb = 0 then c % 2 ^ fb else c % 2 ^ fb + 2 ^ fb : Nat) : ℝ) *
    2 ^ ((if c / 2 ^ fb = 0 then 1 else ((c / 2 ^ fb : Nat) : Int)) - bias - fb)

theorem fieldMag_strictMono (fb : Nat) (bias : Int) : StrictMono (fieldMag fb bias) := by
  refine strictMono_nat_of_lt_succ fun c => ?_
  have hB : 0 < 2 ^ fb := by positivity
  have hlt := Nat.mod_lt c hB
  have hdm := Nat.div_add_mod c (2 ^ fb)
  unfold fieldMag
  by_cases hc : c % 2 ^ fb + 1 < 2 ^ fb
  · have h1 : (c + 1) / 2 ^ fb = c / 2 ^ fb := by
      rw [← hdm, add_assoc, Nat.mul_add_div hB, Nat.div_eq_of_lt hc, Nat.mul_add_div hB, Nat.div_eq_of_lt hlt]
    have h2 : (c + 1) % 2 ^ fb = c % 2 ^ fb + 1 := by
      conv_lhs => rw [← hdm, add_assoc, Nat.mul_add_mod, Nat.mod_eq_of_lt hc]
    rw [h1, h2]
    refine mul_lt_mul_of_pos_right ?_ (by positivity)
    exact_mod_cast (by split <;> lia)
  · have h3 : c % 2 ^ fb + 1 = 2 ^ fb := by lia
    have hnext : c + 1 = (c / 2 ^ fb + 1) * 2 ^ fb := by rw [Nat.add_mul, Nat.mul_comm]; lia
    have h1 : (c + 1) / 2 ^ fb = c / 2 ^ fb + 1 := by rw [hnext, Nat.mul_div_cancel _ hB]
    have h2 : (c + 1) % 2 ^ fb = 0 := by rw [hnext, Nat.mul_mod_left]
    have h3R : ((c % 2 ^ fb : Nat) : ℝ) = 2 ^ fb - 1 := by
      have : ((c % 2 ^ fb + 1 : Nat) : ℝ) = ((2 ^ fb : Nat) : ℝ) := by rw [h3]
      push_cast at this
      grind
    rw [h1, h2]
    generalize c / 2 ^ fb = ex
    simp only [Nat.succ_ne_zero, if_false]
    by_cases h0 : ex = 0
    · subst h0
      have hp : (0 : ℝ) < 2 ^ ((1 : Int) - bias - fb) := by positivity
      simp only [if_true, zero_add, Nat.cast_one, h3R]
      exact mul_lt_mul_of_pos_right (by push_cast; grind) hp
    · have hp : (0 : ℝ) < 2 ^ ((ex : Int) - bias - fb) := by positivity
      rw [if_neg h0, if_neg h0, show ((ex + 1 : Nat) : Int) - bias - fb = ((ex : Int) - bias - fb) + 1 by
        push_cast; ring, zpow_add_one₀ two_ne_zero]
      push_cast
      rw [h3R]
      grind

theorem fieldMag_zero (fb : Nat) (bias : Int) : fieldMag fb bias 0 = 0 := by simp [fieldMag]

/-- The magnitude of an f32 code. -/
noncomputable def codeMag : Nat → ℝ := fieldMag 23 f32.bias

theorem codeMag_strictMono : StrictMono codeMag := fieldMag_strictMono 23 f32.bias

theorem codeMag_zero : codeMag 0 = 0 := fieldMag_zero 23 f32.bias

/-- The bits of a lane below its sign. -/
def lowOf (x : Lane) : Nat := (x.setWidth 31).toNat

theorem lowOf_eq (x : Lane) : lowOf x = expOf x * 2 ^ 23 + fracOf x := low31_toNat x

theorem fin_real {x : Lane} {n : Bool} {m : Nat} {q : Int} (h : f32Of x = .fin n m q) :
    (f32Of x).dy.real = if x.msb then -codeMag (lowOf x) else codeMag (lowOf x) := by
  obtain ⟨-, hn, hm, hq⟩ := f32Of_fin x h
  have h1 : lowOf x / 2 ^ 23 = expOf x := by have := fracOf_lt x; rw [lowOf_eq]; lia
  have h2 : lowOf x % 2 ^ 23 = fracOf x := by have := fracOf_lt x; rw [lowOf_eq]; lia
  have hplace : (if expOf x = 0 then 1 else (expOf x : Int)) - f32.bias - (23 : Nat) = q := hq.symm
  unfold codeMag fieldMag
  rw [h1, h2, ← hm, hplace, h, ← hn]
  unfold FVal.dy Dy.real
  cases n <;> simp

/-- The place of a lane in the order of R72. -/
noncomputable def rankOf (x : Lane) : Int := if x.msb then -(lowOf x : Int) - 1 else x.toNat

theorem rankOf_eq (x : Lane) : rankOf x = if x.msb then -(lowOf x : Int) - 1 else lowOf x := by
  unfold rankOf
  split
  · rfl
  · rename_i h
    rw [lane_toNat, lowOf_eq]
    simp [FFmt.signCode, h]

theorem rankOf_inj {x y : Lane} (h : rankOf x = rankOf y) : x = y := by
  rw [rankOf_eq, rankOf_eq, lowOf_eq, lowOf_eq] at h
  have := fracOf_lt x
  have := fracOf_lt y
  have hs : x.msb = y.msb := by
    cases hx : x.msb <;> cases hy : y.msb <;> simp only [hx, hy, Bool.false_eq_true, if_true, if_false] at h
    · rfl
    · lia
    · lia
    · rfl
  refine lane_ext hs ?_ ?_ <;> cases hx : x.msb <;> simp only [hx, ← hs, Bool.false_eq_true, if_true, if_false] at h <;> lia

theorem lowOf_zero (x : Lane) : (f32Of x).isZero = true ↔ lowOf x = 0 := by
  rw [f32Of_isZero, ← BitVec.toNat_inj]
  rfl

theorem lowOf_fin {x : Lane} {n : Bool} {m : Nat} {q : Int} (h : f32Of x = .fin n m q) : lowOf x < 255 * 2 ^ 23 := by
  obtain ⟨he, -⟩ := f32Of_fin x h
  have := expOf_lt x
  have := fracOf_lt x
  rw [lowOf_eq]
  lia

theorem lowOf_inf {x : Lane} {n : Bool} (h : f32Of x = .inf n) : lowOf x = 255 * 2 ^ 23 ∧ x.msb = n := by
  obtain ⟨he, hf, hs⟩ := (f32Of_inf_iff x n).mp h
  rw [lowOf_eq, he, hf]
  exact ⟨rfl, hs⟩

/-- Finite lanes, not both zero, lie in the order of their values. -/
theorem lt_iff_rank {a b : Lane} {n k : Bool} {m o : Nat} {q p : Int} (ha : f32Of a = .fin n m q) (hb : f32Of b = .fin k o p)
    (h0 : ¬ (lowOf a = 0 ∧ lowOf b = 0)) : (f32Of a).dy.lt (f32Of b).dy = true ↔ rankOf a < rankOf b := by
  have hmono := codeMag_strictMono
  have hpos (c : Nat) : 0 ≤ codeMag c := codeMag_zero ▸ hmono.monotone (Nat.zero_le c)
  have hpos' {c : Nat} (hc : c ≠ 0) : 0 < codeMag c := codeMag_zero ▸ hmono (Nat.pos_of_ne_zero hc)
  rw [Dy.lt_iff_real, fin_real ha, fin_real hb, rankOf_eq, rankOf_eq]
  cases a.msb <;> cases b.msb <;> simp only [Bool.false_eq_true, if_true, if_false]
  · rw [hmono.lt_iff_lt]
    lia
  · exact iff_of_false (by linarith [hpos (lowOf a), hpos (lowOf b)]) (by lia)
  · refine iff_of_true ?_ (by lia)
    rcases Nat.eq_zero_or_pos (lowOf a) with ha0 | ha0
    · linarith [hpos (lowOf a), hpos' (show lowOf b ≠ 0 by lia)]
    · linarith [hpos' ha0.ne', hpos (lowOf b)]
  · rw [neg_lt_neg_iff, hmono.lt_iff_lt]
    lia

theorem fless_iff {a b : Lane} (ha : f32Of a ≠ .nan) (hb : f32Of b ≠ .nan) :
    fless (f32Of a) (f32Of b) = true ↔ rankOf a < rankOf b := by
  cases hA : f32Of a with
  | nan => exact absurd hA ha
  | inf n =>
    obtain ⟨hla, hsa⟩ := lowOf_inf hA
    cases hB : f32Of b with
    | nan => exact absurd hB hb
    | inf k =>
      obtain ⟨hlb, hsb⟩ := lowOf_inf hB
      rw [rankOf_eq, rankOf_eq, hla, hlb, hsa, hsb]
      cases n <;> cases k <;> decide
    | fin k o p =>
      have hlb := lowOf_fin hB
      rw [rankOf_eq, rankOf_eq, hla, hsa]
      unfold fless
      cases n <;> cases b.msb <;> simp <;> lia
  | fin n m q =>
    have hla := lowOf_fin hA
    cases hB : f32Of b with
    | nan => exact absurd hB hb
    | inf k =>
      obtain ⟨hlb, hsb⟩ := lowOf_inf hB
      rw [rankOf_eq, rankOf_eq, hlb, hsb]
      unfold fless
      cases k <;> cases a.msb <;> simp <;> lia
    | fin k o p =>
      have hza := lowOf_zero a
      have hzb := lowOf_zero b
      rw [hA] at hza
      rw [hB] at hzb
      have hsa : n = a.msb := (f32Of_fin a hA).2.1
      have hsb : k = b.msb := (f32Of_fin b hB).2.1
      by_cases h0 : lowOf a = 0 ∧ lowOf b = 0
      · unfold fless
        simp only [hza.mpr h0.1, hzb.mpr h0.2, Bool.and_self, if_true, FVal.sign]
        rw [rankOf_eq, rankOf_eq, h0.1, h0.2, ← hsa, ← hsb]
        cases n <;> cases k <;> decide
      · have hz : ((FVal.fin n m q).isZero && (FVal.fin k o p).isZero) = false := by
          rw [Bool.and_eq_false_iff, ← Bool.not_eq_true, ← Bool.not_eq_true, hza, hzb]
          lia
        unfold fless
        simp only [hz, Bool.false_eq_true, if_false]
        have := lt_iff_rank hA hB h0
        rwa [hA, hB] at this

section
variable {a b : Lane}

theorem fmin_nan_left (ha : f32Of a = .nan) : fmin a b = (if f32Of b = .nan then 0x7FC00000 else b, 0) := by
  unfold fmin
  rw [ha]
  cases f32Of b <;> rfl

theorem fmax_nan_left (ha : f32Of a = .nan) : fmax a b = (if f32Of b = .nan then 0x7FC00000 else b, 0) := by
  unfold fmax
  rw [ha]
  cases f32Of b <;> rfl

theorem fmin_nan_right (ha : f32Of a ≠ .nan) (hb : f32Of b = .nan) : fmin a b = (a, 0) := by
  unfold fmin
  rw [hb]
  cases h : f32Of a with
  | nan => exact absurd h ha
  | inf n => rfl
  | fin n m q => rfl

theorem fmax_nan_right (ha : f32Of a ≠ .nan) (hb : f32Of b = .nan) : fmax a b = (a, 0) := by
  unfold fmax
  rw [hb]
  cases h : f32Of a with
  | nan => exact absurd h ha
  | inf n => rfl
  | fin n m q => rfl

theorem fcompare_nan (h : f32Of a = .nan ∨ f32Of b = .nan) : fcompare a b = none := by
  unfold fcompare
  rcases h with h | h
  · rw [h]
  · rw [h]
    cases f32Of a <;> rfl

variable (ha : f32Of a ≠ .nan) (hb : f32Of b ≠ .nan)
include ha hb

theorem fmin_rank : fmin a b = (if rankOf b < rankOf a then b else a, 0) := by
  have h := fless_iff hb ha
  unfold fmin
  cases hA : f32Of a with
  | nan => exact absurd hA ha
  | inf n =>
    cases hB : f32Of b with
    | nan => exact absurd hB hb
    | inf k => simp only [← hA, ← hB, h]
    | fin k o p => simp only [← hA, ← hB, h]
  | fin n m q =>
    cases hB : f32Of b with
    | nan => exact absurd hB hb
    | inf k => simp only [← hA, ← hB, h]
    | fin k o p => simp only [← hA, ← hB, h]

theorem fmax_rank : fmax a b = (if rankOf a < rankOf b then b else a, 0) := by
  have h := fless_iff ha hb
  unfold fmax
  cases hA : f32Of a with
  | nan => exact absurd hA ha
  | inf n =>
    cases hB : f32Of b with
    | nan => exact absurd hB hb
    | inf k => simp only [← hA, ← hB, h]
    | fin k o p => simp only [← hA, ← hB, h]
  | fin n m q =>
    cases hB : f32Of b with
    | nan => exact absurd hB hb
    | inf k => simp only [← hA, ← hB, h]
    | fin k o p => simp only [← hA, ← hB, h]

theorem fcompare_rank :
    fcompare a b = some (if a.setWidth 31 = 0 ∧ b.setWidth 31 = 0 then .eq else compare (rankOf a) (rankOf b)) := by
  have h1 := fless_iff ha hb
  have h2 := fless_iff hb ha
  have hz : ((f32Of a).isZero && (f32Of b).isZero) = true ↔ a.setWidth 31 = 0 ∧ b.setWidth 31 = 0 := by
    rw [Bool.and_eq_true, f32Of_isZero, f32Of_isZero]
  have hcmp : (if ((f32Of a).isZero && (f32Of b).isZero) = true then some Ordering.eq
      else if fless (f32Of a) (f32Of b) = true then some .lt
      else if fless (f32Of b) (f32Of a) = true then some .gt else some .eq) =
      some (if a.setWidth 31 = 0 ∧ b.setWidth 31 = 0 then .eq else compare (rankOf a) (rankOf b)) := by
    simp only [hz, h1, h2]
    split
    · rfl
    · rcases lt_trichotomy (rankOf a) (rankOf b) with hlt | heq | hgt
      · rw [if_pos hlt, compare_lt_iff_lt.mpr hlt]
      · rw [if_neg heq.not_lt, if_neg heq.not_gt, compare_eq_iff_eq.mpr heq]
      · rw [if_neg hgt.not_gt, if_pos hgt, compare_gt_iff_gt.mpr hgt]
  rw [← hcmp]
  unfold fcompare
  cases hA : f32Of a with
  | nan => exact absurd hA ha
  | inf n =>
    cases hB : f32Of b with
    | nan => exact absurd hB hb
    | inf k => rfl
    | fin k o p => rfl
  | fin n m q =>
    cases hB : f32Of b with
    | nan => exact absurd hB hb
    | inf k => rfl
    | fin k o p => rfl

end

/-! Classes (R322). -/

theorem fclass_fields (x : Lane) :
    fclass x =
      if expOf x = 255 ∧ fracOf x ≠ 0 then 0x100
      else if expOf x = 255 then (if x.msb then 0x01 else 0x80)
      else if expOf x = 0 ∧ fracOf x = 0 then (if x.msb then 0x08 else 0x10)
      else if expOf x = 0 then (if x.msb then 0x04 else 0x20)
      else if x.msb then 0x02 else 0x40 := by
  have hlt := fracOf_lt x
  unfold fclass
  rw [f32Of_eq]
  by_cases he : expOf x = 255
  · by_cases hf : fracOf x = 0
    · simp only [he, hf, if_true, ne_eq, not_true, and_false, if_false]
      cases x.msb <;> rfl
    · simp only [he, hf, if_true, if_false, ne_eq, not_false_eq_true, and_true]
      rfl
  · simp only [he, if_false, false_and]
    by_cases h0 : expOf x = 0
    · simp only [h0, if_true, true_and]
      obtain hf | ⟨j, hf⟩ : fracOf x = 0 ∨ ∃ j, fracOf x = j + 1 :=
        (Nat.eq_zero_or_pos _).imp_right fun h => ⟨_, (Nat.sub_add_cancel h).symm⟩
      · rw [hf]
        cases x.msb <;> rfl
      · rw [hf] at hlt ⊢
        simp only [hlt, if_true, Nat.succ_ne_zero, if_false]
        cases x.msb <;> rfl
    · simp only [h0, if_false, false_and]
      obtain ⟨j, hj⟩ : ∃ j, fracOf x + 2 ^ 23 = j + 1 := ⟨fracOf x + 2 ^ 23 - 1, by lia⟩
      have hge : ¬ j + 1 < 2 ^ 23 := by lia
      rw [hj]
      simp only [hge, if_false]
      cases x.msb <;> rfl

/-- The fields of a lane in the statement's terms. -/
theorem fields_iff (x : Lane) :
    (x.extractLsb' 23 8 = 0xFF ↔ expOf x = 255) ∧ (x.extractLsb' 23 8 = 0 ↔ expOf x = 0) ∧
      (x.extractLsb' 0 23 = 0 ↔ fracOf x = 0) := by
  unfold expOf fracOf
  rw [← BitVec.toNat_inj, ← BitVec.toNat_inj, ← BitVec.toNat_inj]
  exact ⟨Iff.rfl, Iff.rfl, Iff.rfl⟩

/-! The statement's clauses. -/

theorem exact_results_round (rm : RMode) (a b c : Lane) (x : Dy) (r : Lane × Flags) (ha : ∃ n m q, f32Of a = .fin n m q)
    (hb : ∃ n m q, f32Of b = .fin n m q) (hc : ∃ n m q, f32Of c = .fin n m q)
    (h : (x = (f32Of a).dy.add (f32Of b).dy ∧ r = fadd rm a b) ∨ (x = (f32Of a).dy.sub (f32Of b).dy ∧ r = fsub rm a b) ∨
       (x = (f32Of a).dy.mul (f32Of b).dy ∧ r = fmul rm a b) ∨
       (x = ((f32Of a).dy.mul (f32Of b).dy).add (f32Of c).dy ∧ r = ffma rm a b c))
    (h0 : x.m ≠ 0) : RoundsTo f32 false rm x (r.1.toNat, r.2) := by
  rcases h with ⟨rfl, rfl⟩ | ⟨rfl, rfl⟩ | ⟨rfl, rfl⟩ | ⟨rfl, rfl⟩
  · exact sum_pair_rounds rm ha hb (Dy.rat_add ..) h0
  · rw [fsub_eq]
    exact sum_pair_rounds rm ha (fin_flip hb) (by rw [Dy.rat_sub, f32Of_flip, neg_rat, sub_eq_add_neg]) h0
  · exact fmul_rounds rm ha hb (Dy.rat_mul ..) h0
  · rw [ffma, prodTerm_finite ha hb]
    exact sum_pair_rounds rm (times_fin ha hb) hc (by rw [Dy.rat_add, Dy.rat_mul, times_rat ha hb]) h0

theorem nan_results (rm : RMode) (a b c : Lane) (r : Lane × Flags)
    (h : r = fadd rm a b ∨ r = fsub rm a b ∨ r = fmul rm a b ∨ r = ffma rm a b c) :
    (f32Of r.1 = .nan → r.1 = 0x7FC00000) ∧ (f32Of a = .nan ∨ f32Of b = .nan → r = (0x7FC00000, 0)) := by
  rcases h with rfl | rfl | rfl | rfl
  · exact ⟨sum_nan_code rm _, fadd_nan rm⟩
  · exact ⟨sum_nan_code rm _, fsub_nan rm⟩
  · exact ⟨sum_nan_code rm _, fmul_nan rm⟩
  · exact ⟨sum_nan_code rm _, ffma_nan rm c⟩

theorem functions_round (rm : RMode) (x : Lane) (n : Bool) (m : Nat) (q : Int) (h : f32Of x = .fin n m q) (hm : m ≠ 0) :
    let v : Dy := { m := m, e := q }
    let one : Dy := { m := 1, e := 0 }
    Rounded rm n (fun t => (t.mul v).le one = true) (fun t => one.le (t.mul v) = true) (frcp rm x) ∧
     (n = false → Rounded rm false (fun t => (t.mul t).le v = true) (fun t => v.le (t.mul t) = true) (fsqrt rm x) ∧
       Rounded rm false (fun t => ((t.mul t).mul v).le one = true) (fun t => one.le ((t.mul t).mul v) = true)
         (frsqrt rm x)) ∧
     (n = true → fsqrt rm x = (0x7FC00000, flNV) ∧ frsqrt rm x = (0x7FC00000, flNV) ∧
       ∀ u, flg2 u x = (0x7FC00000, flNV)) ∧
     ∀ k : Int, Rounded rm n (fun t => t.le (v.scale k) = true) (fun t => (v.scale k).le t = true) (fscale rm x k) := by
  refine ⟨frcp_rounded rm h hm, fun hn => ?_, fun hn => ?_, fscale_rounded rm h hm⟩
  · subst hn
    exact ⟨fsqrt_rounded rm h hm, frsqrt_rounded rm h hm⟩
  · subst hn
    exact negative_invalid rm h hm

/-- Settles O11: each result is an exact value rounded once, or the special one of its operands. -/
theorem floatRounding : Obligations.FloatRounding := by
  refine ⟨fun rm z x hx => roundDy_roundsTo f32_wide rm false z hx, exact_results_round, fun rm a b c ha hb hc => ?_,
    fun rm a b n ha hb => ?_, nan_results, functions_round, fun rm u z k => ?_, fun x u z n m q k h => ?_, fun a b => ?_,
    fun x => ?_⟩
  · exact ⟨fadd_zero rm ha hb, fsub_zero rm ha hb, fmul_zero rm ha hb, ffma_zero rm ha hb hc⟩
  · exact ⟨fadd_inf_invalid rm ha, fadd_inf rm ha hb, fsub_inf_invalid rm ha, fsub_inf rm ha hb, fmul_inf_zero rm ha,
      fmul_inf rm ha hb⟩
  · obtain ⟨r1, r2, r3, r4⟩ := frcp_special rm
    obtain ⟨q1, q2, q3, q4⟩ := frsqrt_special rm
    obtain ⟨s1, s2, s3, s4⟩ := fsqrt_special rm
    obtain ⟨l1, l2, l3, l4, l5⟩ := flg2_special u
    obtain ⟨i1, i2, i3, i4⟩ := fsin_special u z
    exact ⟨r1, r2, r3, r4, q1, q2, q3, q4, s1, s2, s3, s4, rfl, rfl, l1, l2, l3, l4, l5, i1, i2, i3, i4, rfl, rfl,
      fscale_special rm k, fun x h => functions_nan rm u z k h⟩
  · exact ⟨fun hv => ⟨fex2_integer h u hv, fun _ => fsin_integer h u z hv⟩, fcos_quarter h u⟩
  · refine ⟨fun ha hb => ?_, fun ha hb => ?_, fun ha hb => ⟨fmin_nan_right ha hb, fmax_nan_right ha hb⟩,
      fun ha hb => ⟨fmin_rank ha hb, fmax_rank ha hb, fcompare_rank ha hb⟩, fcompare_nan⟩
    · rw [fmin_nan_left ha, fmax_nan_left ha, if_pos hb]
      exact ⟨rfl, rfl⟩
    · rw [fmin_nan_left ha, fmax_nan_left ha, if_neg hb]
      exact ⟨rfl, rfl⟩
  · obtain ⟨h1, h2, h3⟩ := fields_iff x
    simp only [ne_eq, h1, h2, h3]
    exact ⟨f32Of_nan_iff x, fclass_fields x⟩

end Sys2Proof.Machine
end

section
/-! Conversions (R79, R320). -/

namespace Sys2Proof.Machine

/-! Values to a wide format. -/

theorem ofVal_roundsTo {f : FFmt} (hf : f.Wide) (rm : RMode) (sat n : Bool) {m : Nat} (q : Int) (hm : m ≠ 0) :
    RoundsTo f sat rm (FVal.fin n m q).dy (f.ofVal rm sat (.fin n m q)) := by
  obtain ⟨j, rfl⟩ := Nat.exists_eq_succ_of_ne_zero hm
  have hne : (FVal.fin n (j + 1) q).dy.m ≠ 0 := by unfold FVal.dy; cases n <;> simp <;> lia
  have h := round_roundsTo hf rm sat hne
  have hneg : decide ((FVal.fin n (j + 1) q).dy.m < 0) = n := by
    unfold FVal.dy
    cases n <;> simp <;> lia
  have habs : (FVal.fin n (j + 1) q).dy.m.natAbs = j + 1 := by
    unfold FVal.dy
    cases n
    · rfl
    · exact Int.natAbs_neg _
  rw [hneg, habs] at h
  exact h

theorem ofIntVal_roundsTo {f : FFmt} (hf : f.Wide) (rm : RMode) (sat : Bool) {z : Int} (hz : z ≠ 0) :
    RoundsTo f sat rm { m := z, e := 0 } (f.ofIntVal rm sat z) :=
  roundDy_roundsTo hf rm sat false (x := { m := z, e := 0 }) hz

theorem ofVal_special (f : FFmt) (rm : RMode) (sat n : Bool) (q : Int) :
    f.ofVal rm sat .nan = (f.nanCode, 0) ∧ f.ofVal rm sat (.inf n) = (f.signCode n + f.infCode, 0) ∧
      f.ofVal rm sat (.fin n 0 q) = (f.signCode n, 0) ∧ f.ofIntVal rm sat 0 = (0, 0) := ⟨rfl, rfl, rfl, rfl⟩

/-- A code by its fields, in the statement's terms. -/
theorem decode_statement (f : FFmt) (sg : Bool) (ex fr : Nat) (hex : ex < 2 ^ f.eb) (hfr : fr < 2 ^ f.fb) :
    f.decode ((if sg then 2 ^ (f.eb + f.fb) else 0) + ex * 2 ^ f.fb + fr) =
      if ex = 2 ^ f.eb - 1 then (if fr = 0 then .inf sg else .nan)
      else if ex = 0 then .fin sg fr (1 - (f.bias : Int) - f.fb)
      else .fin sg (2 ^ f.fb + fr) (ex - (f.bias : Int) - f.fb) := by
  rw [add_assoc]
  refine (decode_fields (f := f) sg hex hfr).trans ?_
  unfold FFmt.place
  split
  · rfl
  · split
    · rfl
    · rw [add_comm]

/-! Values to an integer. -/

/-- The exact number of a finite value. -/
theorem fin_rat_real (n : Bool) (m : Nat) (q : Int) :
    (FVal.fin n m q).dy.real = (if n then -((m : ℝ) * 2 ^ q) else m * 2 ^ q) := by
  unfold FVal.dy Dy.real
  cases n <;> simp

theorem Dy.real_ofInt (z : Int) : (Dy.ofInt z).real = z := by simp [Dy.real, Dy.ofInt]

theorem Dy.real_scale_one (x : Dy) : (x.scale 1).real = 2 * x.real := by
  unfold Dy.real Dy.scale
  rw [zpow_add_one₀ two_ne_zero]
  ring

theorem Dy.sub_zero_iff_real (x y : Dy) : (x.sub y).m = 0 ↔ x.real = y.real := by
  rw [Dy.m_eq_zero_iff, Dy.rat_sub, sub_eq_zero, Dy.real_eq_rat, Dy.real_eq_rat, Rat.cast_inj]

/-- The integer that a mode rounds a number to. -/
def RoundsToInt (rm : RMode) (n : Bool) (x : Dy) (z : Int) : Prop :=
  (rm = .rdn ∨ (rm = .rz ∧ n = false) → (Dy.ofInt z).le x = true ∧ x.lt (Dy.ofInt (z + 1)) = true) ∧
  (rm = .rup ∨ (rm = .rz ∧ n = true) → (Dy.ofInt (z - 1)).lt x = true ∧ x.le (Dy.ofInt z) = true) ∧
  (rm = .rne → (Dy.ofInt (2 * z - 1)).le (x.scale 1) = true ∧ (x.scale 1).le (Dy.ofInt (2 * z + 1)) = true ∧
    (∀ k : Int, ((x.scale 1).sub (Dy.ofInt (2 * k + 1))).m = 0 → z % 2 = 0))

theorem roundsToInt_iff (rm : RMode) (n : Bool) (x : Dy) (z : Int) :
    RoundsToInt rm n x z ↔
      (rm = .rdn ∨ (rm = .rz ∧ n = false) → (z : ℝ) ≤ x.real ∧ x.real < z + 1) ∧
      (rm = .rup ∨ (rm = .rz ∧ n = true) → (z : ℝ) - 1 < x.real ∧ x.real ≤ z) ∧
      (rm = .rne → 2 * (z : ℝ) - 1 ≤ 2 * x.real ∧ 2 * x.real ≤ 2 * z + 1 ∧
        (∀ k : Int, 2 * x.real = 2 * k + 1 → z % 2 = 0)) := by
  unfold RoundsToInt
  simp only [Dy.le_iff_real, Dy.lt_iff_real, Dy.real_ofInt, Dy.real_scale_one, Dy.sub_zero_iff_real]
  push_cast
  rfl

/-- A magnitude rounded on the grid of the integers gives the integer of its sign. -/
theorem roundsToInt_of_onGrid {rm : RMode} {n : Bool} {m : Nat} {q : Int} {a : Nat}
    (h : OnGrid rm n ((m : ℝ) * 2 ^ q) a) : RoundsToInt rm n (FVal.fin n m q).dy (if n then -(a : Int) else a) := by
  obtain ⟨hz, ha, hn⟩ := h
  rw [roundsToInt_iff, fin_rat_real]
  generalize (m : ℝ) * 2 ^ q = y at *
  have htie (k : Int) (hk : 2 * y = 2 * k + 1) (hr : rm = .rne) : a % 2 = 0 := by
    obtain ⟨h1, h2, h3⟩ := hn hr
    refine h3 ?_
    have hlo : (a : ℝ) - 1 ≤ k := by grind
    have hhi : (k : ℝ) ≤ a := by grind
    have hlo' : (a : Int) - 1 ≤ k := by exact_mod_cast hlo
    have hhi' : k ≤ a := by exact_mod_cast hhi
    rcases (by lia : k = a - 1 ∨ k = a) with hk' | hk'
    · left
      have : (k : ℝ) = a - 1 := by exact_mod_cast hk'
      grind
    · right
      have : (k : ℝ) = a := by exact_mod_cast hk'
      grind
  cases n
  · simp only [Bool.false_eq_true, if_false, Int.cast_natCast]
    refine ⟨fun hr => ?_, fun hr => ?_, fun hr => ?_⟩
    · exact hz (by rcases hr with rfl | ⟨rfl, -⟩ <;> rfl)
    · exact ha (by rcases hr with rfl | ⟨rfl, h⟩; · rfl
                   · exact h.elim)
    · obtain ⟨h1, h2, -⟩ := hn hr
      exact ⟨by grind, by grind, fun k hk => by have := htie k hk hr; lia⟩
  · simp only [if_true, Int.cast_neg, Int.cast_natCast]
    refine ⟨fun hr => ?_, fun hr => ?_, fun hr => ?_⟩
    · obtain ⟨h1, h2⟩ := ha (by rcases hr with rfl | ⟨rfl, h⟩; · rfl
                                · exact Bool.noConfusion h)
      constructor <;> grind
    · obtain ⟨h1, h2⟩ := hz (by rcases hr with rfl | ⟨rfl, -⟩ <;> rfl)
      constructor <;> grind
    · obtain ⟨h1, h2, -⟩ := hn hr
      refine ⟨by grind, by grind, fun k hk => ?_⟩
      have := htie (-k - 1) (by push_cast; grind) hr
      lia

theorem intOfVal_fin {f : FFmt} (hf : (f.bias : Int) + f.fb ≤ 300) (rm : RMode) (lo hi : Int) {c : Nat} {n : Bool} {m : Nat}
    {q : Int} (h : f.decode c = .fin n m q) :
    ∃ z : Int, RoundsToInt rm n (f.decode c).dy z ∧
      intOfVal rm lo hi (f.decode c) =
        if z < lo then (lo, flNV) else if hi < z then (hi, flNV)
        else (z, if ((f.decode c).dy.sub (Dy.ofInt z)).m = 0 then 0 else flNX) := by
  have hq : max q (-400) = q := max_eq_left (by have := (decode_range h).2; lia)
  obtain ⟨hgrid, hix⟩ := roundAt_onGrid (m := m) (e := q) (st := false) (x := (m : ℝ) * 2 ^ q) (q := 0) rm n
    (by rw [StandsFor, if_neg Bool.false_ne_true]) (fun h => absurd h Bool.false_ne_true)
  rw [zpow_zero, div_one] at hgrid hix
  rw [h]
  refine ⟨_, roundsToInt_of_onGrid hgrid, ?_⟩
  have hflag : flIf (roundAt rm n m q false 0).2 flNX =
      if ((FVal.fin n m q).dy.sub (Dy.ofInt (if n then -((roundAt rm n m q false 0).1 : Int)
        else (roundAt rm n m q false 0).1))).m = 0 then 0 else flNX := by
    have hex : ((FVal.fin n m q).dy.sub (Dy.ofInt (if n then -((roundAt rm n m q false 0).1 : Int)
        else (roundAt rm n m q false 0).1))).m = 0 ↔ ¬ (roundAt rm n m q false 0).2 = true := by
      rw [Dy.sub_zero_iff_real, fin_rat_real, Dy.real_ofInt, hix, not_not]
      cases n
      · simp
      · simp
    unfold flIf
    cases hb : (roundAt rm n m q false 0).2
    · rw [if_neg Bool.false_ne_true, if_pos (hex.mpr (by simp [hb]))]
    · rw [if_pos rfl, if_neg fun h0 => hex.mp h0 hb]
  unfold intOfVal roundInt
  simp only [hq, hflag]

/-! The word. -/

/-- An integer clamped to a type, with SAT. -/
theorem clamp_eq (ty : Nat) (sat : Bool) (x : Int) :
    let t := intTy ty
    (if sat && decide (x < t.min) then (t.wrap t.min, flSAT)
      else if sat && decide (t.max < x) then (t.wrap t.max, flSAT) else (t.wrap x, (0 : Flags))) =
      (t.wrap (if sat then max t.min (min t.max x) else x), flIf (sat && (decide (x < t.min) || decide (t.max < x))) flSAT) := by
  intro t
  have hle : t.min ≤ t.max := by
    show (intTy ty).min ≤ (intTy ty).max
    unfold intTy IntTy.min IntTy.max
    split <;> simp
  cases sat
  · rfl
  · simp only [Bool.true_and, decide_eq_true_eq, if_true]
    split
    · rename_i h
      rw [min_eq_right (h.le.trans hle), max_eq_left h.le, decide_eq_true h]
      rfl
    · rename_i h
      split
      · rename_i h'
        rw [min_eq_left h'.le, max_eq_right hle, decide_eq_true h', Bool.or_true]
        rfl
      · rename_i h'
        rw [min_eq_right (not_lt.mp h'), max_eq_right (not_lt.mp h), decide_eq_false h, decide_eq_false h']
        rfl

/-- A lane's code as one lane of the word. -/
theorem putCode_laneStep (g : Group) (d l : Nat) {r : Nat × Flags} {x : Nat → Nat × Flags} (h : r = x l) :
    (g.setV d l (BitVec.ofNat 32 r.1)).raise r.2 =
      laneStep false d (fun l => BitVec.ofNat 64 (x l).1) (fun l => (x l).2) l g := by
  have hc : (BitVec.ofNat 64 (x l).1).extractLsb' 0 32 = BitVec.ofNat 32 (x l).1 := by
    apply BitVec.eq_of_toNat_eq
    rw [BitVec.extractLsb'_toNat, BitVec.toNat_ofNat, BitVec.toNat_ofNat, Nat.shiftRight_zero]
    lia
  rw [h]
  unfold laneStep Group.putWord
  simp only [Bool.false_eq_true, if_false, hc]

section
variable {s : State} {e : Env} {f : VF}

/-- The bits that `vcvt` reads of a lane. -/
noncomputable def Env.cvtBits (e : Env) (f : VF) (l : Nat) : Word :=
  let sty := (intTyOfCode f.c.toNat).getD 1
  if wide sty then (Opnd.reg f.a.toNat).pair e.gr l else ((Opnd.reg f.a.toNat).lo e.gr l).setWidth 64

/-- What `vcvt` makes of a lane. -/
noncomputable def Env.cvt (e : Env) (f : VF) (l : Nat) : Nat × Flags :=
  convert (RMode.of f.mod) f.sat f.ty.toNat f.c.toNat (e.cvtBits f l)

section
variable (h : Issues s e (.vcvt f)) (hd : e.badReg f.ty.toNat f.d.toNat = false)
  (ha : e.badOpnd ((intTyOfCode f.c.toNat).getD 1) (.reg f.a.toNat) = false)
  (hc : ((wideOfCode f.c.toNat).isNone && (intTyOfCode f.c.toNat).isNone) = false)
include h hd ha hc

theorem vcvt_to_float {x : Nat → Nat × Flags} (ht : (wideOfTy f.ty.toNat).isSome = true) (hx : ∀ l, e.cvt f l = x l) :
    TakesLanes s e (.vcvt f) false (oneArm (e.active (Instr.vcvt f).guard) f.d.toNat)
      (fun _ l => BitVec.ofNat 64 (x l).1) (fun _ l => (x l).2) := by
  refine takes_forLanes (step := fun l g => (g.setV f.d.toNat l (BitVec.ofNat 32 (e.cvt f l).1)).raise (e.cvt f l).2)
    rfl rfl ?_ (fun l _ _ g => putCode_laneStep g f.d.toNat l (hx l)) h
  simp only [hd, ha, hc, ht, Bool.or_self, Bool.false_eq_true, if_false, if_true]
  rfl

theorem vcvt_to_int {x : Nat → Int × Flags} (ht : (wideOfTy f.ty.toNat).isSome = false)
    (hx : ∀ l, e.cvt f l = ((intTy f.ty.toNat).wrap (x l).1, (x l).2)) :
    TakesLanes s e (.vcvt f) (wide f.ty.toNat) (oneArm (e.active (Instr.vcvt f).guard) f.d.toNat)
      (fun _ l => tyBits f.ty.toNat (x l).1) (fun _ l => (x l).2) := by
  refine takes_forLanes (step := fun l g => (g.putInt f.ty.toNat f.d.toNat l (e.cvt f l).1).raise (e.cvt f l).2)
    rfl rfl ?_ (fun l _ _ g => putInt_laneStep (x := fun l => (x l).1) (fl := fun l => (x l).2) (hx l) g) h
  simp only [hd, ha, hc, ht, Bool.or_self, Bool.false_eq_true, if_false]
  rfl

end

/-- The integer that an integer source holds. -/
theorem cvtBits_int {sty : Nat} (hs : intTyOfCode f.c.toNat = some sty) (l : Nat) :
    (intTy ((intTyOfCode f.c.toNat).getD 0)).val ((e.cvtBits f l).toNat % 2 ^ (intTy ((intTyOfCode f.c.toNat).getD 0)).w) =
      (Opnd.reg f.a.toNat).int sty e.gr l := by
  unfold Env.cvtBits Opnd.int Opnd.num
  rw [hs]
  simp only [Option.getD_some]
  by_cases hw : wide sty = true
  · have h64 : (intTy sty).w = 64 := by
      rcases intTy_cases sty with ⟨-, h⟩ | ⟨h, -⟩
      · exact h
      · exact absurd hw (by simp [h])
    simp only [hw, if_true, h64]
    rw [Nat.mod_eq_of_lt (BitVec.isLt _)]
  · simp only [hw, Bool.false_eq_true, if_false]
    rw [BitVec.toNat_setWidth, Nat.mod_eq_of_lt (show ((Opnd.reg f.a.toNat).lo e.gr l).toNat < 2 ^ 64 by
      have := ((Opnd.reg f.a.toNat).lo e.gr l).isLt; lia)]

theorem wideOfCode_int {c sty : Nat} (h : intTyOfCode c = some sty) : wideOfCode c = none := by
  unfold intTyOfCode at h
  split at h <;> first | rfl | cases h

theorem intTyOfCode_wide {c : Nat} {src : FFmt} (h : wideOfCode c = some src) : intTyOfCode c = none := by
  cases hi : intTyOfCode c with
  | none => rfl
  | some sty => rw [wideOfCode_int hi] at h; cases h

end

theorem vcvt_kinds {s : State} {e : Env} {f : VF} (h : Issues s e (.vcvt f))
    (hd : e.badReg f.ty.toNat f.d.toNat = false)
    (ha : e.badOpnd ((intTyOfCode f.c.toNat).getD 1) (.reg f.a.toNat) = false) :
    let ty := f.ty.toNat
    let c := f.c.toNat
    let sty := (intTyOfCode c).getD 1
    let va : Opnd := .reg f.a.toNat
    let m := e.active (Instr.vcvt f).guard
    let raw (l : Nat) : Word := if wide sty then va.pair e.gr l else (va.lo e.gr l).setWidth 64
    ((intTyOfCode c).isSome = true → wideOfTy ty = none →
      let t := intTy ty
      let v (l : Nat) : Int := va.int sty e.gr l
      TakesLanes s e (.vcvt f) (wide ty) (oneArm m f.d.toNat)
        (fun _ l => tyBits ty (if f.sat then max t.min (min t.max (v l)) else v l))
        (fun _ l => flIf (f.sat && (decide (v l < t.min) || decide (t.max < v l))) flSAT)) ∧
    ((intTyOfCode c).isSome = true → ∀ dst, wideOfTy ty = some dst →
      TakesLanes s e (.vcvt f) false (oneArm m f.d.toNat)
        (fun _ l => BitVec.ofNat 64 (dst.ofIntVal (RMode.of f.mod) f.sat (va.int sty e.gr l)).1)
        (fun _ l => (dst.ofIntVal (RMode.of f.mod) f.sat (va.int sty e.gr l)).2)) ∧
    (∀ src, wideOfCode c = some src → wideOfTy ty = none →
      let t := intTy ty
      let x (l : Nat) : Int × Flags :=
        intOfVal (RMode.of f.mod) t.min t.max (src.decode ((raw l).toNat % 2 ^ src.width))
      TakesLanes s e (.vcvt f) (wide ty) (oneArm m f.d.toNat) (fun _ l => tyBits ty (x l).1) (fun _ l => (x l).2)) ∧
    (∀ src dst, wideOfCode c = some src → wideOfTy ty = some dst → src ≠ dst →
      let x (l : Nat) : Nat × Flags :=
        dst.ofVal (RMode.of f.mod) f.sat (src.decode ((raw l).toNat % 2 ^ src.width))
      TakesLanes s e (.vcvt f) false (oneArm m f.d.toNat) (fun _ l => BitVec.ofNat 64 (x l).1) (fun _ l => (x l).2)) ∧
    (∀ src, wideOfCode c = some src → wideOfTy ty = some src →
      TakesLanes s e (.vcvt f) false (oneArm m f.d.toNat)
        (fun _ l => BitVec.ofNat 64 (if src.decode ((raw l).toNat % 2 ^ src.width) = .nan then src.nanCode
          else (raw l).toNat % 2 ^ src.width))
        (fun _ _ => 0)) := by
  intro ty c sty va m raw
  have hsome {src : FFmt} (hs : wideOfCode c = some src) : ((wideOfCode c).isNone && (intTyOfCode c).isNone) = false := by
    rw [hs]
    rfl
  refine ⟨fun hi ht => ?_, fun hi dst ht => ?_, fun src hs ht => ?_, fun src dst hs ht hne => ?_, fun src hs ht => ?_⟩
  · obtain ⟨k, hk⟩ := Option.isSome_iff_exists.mp hi
    have hst : sty = k := by show (intTyOfCode c).getD 1 = k; rw [hk]; rfl
    intro t v
    refine vcvt_to_int (x := fun l => (if f.sat then max t.min (min t.max (v l)) else v l,
      flIf (f.sat && (decide (v l < t.min) || decide (t.max < v l))) flSAT)) h hd ha
      (by rw [hk]; exact Bool.and_false _) (by rw [ht]; rfl) fun l => Eq.trans ?_ (clamp_eq ty f.sat (v l))
    have hv : v l = va.int k e.gr l := by rw [← hst]
    unfold Env.cvt convert
    rw [wideOfCode_int hk, ht, hv]
    dsimp only
    rw [cvtBits_int hk]
  · obtain ⟨k, hk⟩ := Option.isSome_iff_exists.mp hi
    have hst : sty = k := by show (intTyOfCode c).getD 1 = k; rw [hk]; rfl
    refine vcvt_to_float h hd ha (by rw [hk]; exact Bool.and_false _) (by rw [ht]; rfl) fun l => ?_
    unfold Env.cvt convert
    rw [wideOfCode_int hk, ht, hst]
    dsimp only
    rw [cvtBits_int hk]
  · refine vcvt_to_int (x := fun l => intOfVal _ _ _ _) h hd ha (hsome hs) (by rw [ht]; rfl) fun l => ?_
    unfold Env.cvt convert
    rw [hs, ht]
    rfl
  · refine vcvt_to_float h hd ha (hsome hs) (by rw [ht]; rfl) fun l => ?_
    unfold Env.cvt convert
    rw [hs, ht]
    exact if_neg hne
  · refine vcvt_to_float (x := fun l => (_, 0)) h hd ha (hsome hs) (by rw [ht]; rfl) fun l => ?_
    unfold Env.cvt convert
    rw [hs, ht]
    exact if_pos rfl

/-- Settles O13: the exact values rounded once, and the word lane by lane. -/
theorem conversions : Obligations.Conversions := by
  refine ⟨fun f hf => ?_, fun s e f h hd ha => vcvt_kinds h hd ha⟩
  have hw : f.Wide := by rcases hf with rfl | rfl | rfl; exacts [f32_wide, f16_wide, e8m7_wide]
  have hb : (f.bias : Int) + f.fb ≤ 300 := by rcases hf with rfl | rfl | rfl <;> decide
  refine ⟨fun rm sat n m q z => ?_, decode_statement f, fun rm lo hi c => ⟨fun hc => ?_, fun n hc => ?_, fun n m q hc => ?_⟩⟩
  · obtain ⟨h1, h2, h3, h4⟩ := ofVal_special f rm sat n q
    refine ⟨?_, h2, h3, h4, fun hm => ofVal_roundsTo hw rm sat n q hm, fun hz => ofIntVal_roundsTo hw rm sat hz⟩
    rw [h1]
    rcases hf with rfl | rfl | rfl <;> rfl
  · rw [hc]
    rfl
  · rw [hc]
    rfl
  · obtain ⟨z, ⟨h1, h2, h3⟩, h4⟩ := intOfVal_fin hb rm lo hi hc
    exact ⟨z, h1, h2, h3, h4⟩

end Sys2Proof.Machine
end

section
/-! The binary8 formats (R75 to R80): codes by their fields, and encoding as one rounding. -/

namespace Sys2Proof.Machine

section
variable {b : B8}

/-! Codes. -/

/-- A code without its sign by its fields. -/
theorem mag_fields (b : B8) {x t : Nat} (ht : t < 2 ^ (b.p - 1)) :
    b.mag (x * 2 ^ (b.p - 1) + t) =
      (if x = 0 then t else t + 2 ^ (b.p - 1), (if x = 0 then 1 else (x : Int)) - b.bias - (b.p - 1 : Nat)) := by
  have hB : 0 < 2 ^ (b.p - 1) := by positivity
  have hdiv : (x * 2 ^ (b.p - 1) + t) / 2 ^ (b.p - 1) = x := by
    rw [Nat.mul_comm, Nat.mul_add_div hB, Nat.div_eq_of_lt ht, Nat.add_zero]
  have hmod : (x * 2 ^ (b.p - 1) + t) % 2 ^ (b.p - 1) = t := by
    rw [Nat.mul_comm, Nat.mul_add_mod, Nat.mod_eq_of_lt ht]
  unfold B8.mag
  rw [hdiv, hmod]

/-- The magnitude of a code as an exact number. -/
theorem mag_real (b : B8) (c : Nat) :
    Dy.real { m := (b.mag c).1, e := (b.mag c).2 } = fieldMag (b.p - 1) b.bias c := by
  rw [Dy.real_nat]
  rfl

/-- The value of the fields of a code. -/
noncomputable def B8.ofFields (b : B8) (n : Bool) (x t : Nat) : FVal :=
  if x = 0 then .fin n t (1 - b.bias - (b.p - 1 : Nat))
  else .fin n (2 ^ (b.p - 1) + t) (x - b.bias - (b.p - 1 : Nat))

theorem ofFields_eq (b : B8) (n : Bool) {x t : Nat} (ht : t < 2 ^ (b.p - 1)) :
    FVal.fin n (b.mag (x * 2 ^ (b.p - 1) + t)).1 (b.mag (x * 2 ^ (b.p - 1) + t)).2 = b.ofFields n x t := by
  rw [mag_fields b ht]
  unfold B8.ofFields
  by_cases hx : x = 0
  · simp only [hx, if_true]
  · simp only [hx, if_false, add_comm]

theorem decode8_unsigned (hu : b.uns = true) {c : Nat} :
    b.decode c = if c = 0xFF then .nan else if b.inf = true ∧ c = 0xFE then .inf false
      else .fin false (b.mag c).1 (b.mag c).2 := by
  unfold B8.decode
  simp only [hu, if_true, Bool.and_eq_true, decide_eq_true_eq]

theorem decode8_signed (hu : b.uns = false) {n : Bool} {c : Nat} (hc : c < 128) :
    b.decode ((if n then 128 else 0) + c) =
      if (if n then 128 else 0) + c = 0x80 then .nan
      else if b.inf = true ∧ c = 0x7F then .inf n else .fin n (b.mag c).1 (b.mag c).2 := by
  have hmod : ((if n then 128 else 0) + c) % 128 = c := by cases n <;> simp [Nat.mod_eq_of_lt hc]
  have hneg : decide (128 ≤ (if n then 128 else 0) + c) = n := by cases n <;> simp [hc]
  unfold B8.decode
  simp only [hu, Bool.false_eq_true, if_false, hmod, hneg, Bool.and_eq_true, decide_eq_true_eq]

theorem decode8_fields (b : B8) {n : Bool} {x t : Nat} (hn : b.uns = true → n = false) (ht : t < 2 ^ (b.p - 1))
    (hc : x * 2 ^ (b.p - 1) + t < if b.uns then 256 else 128) :
    let code := (if n then 128 else 0) + (x * 2 ^ (b.p - 1) + t)
    b.decode code =
      if code = (if b.uns then 0xFF else 0x80) then .nan
      else if b.inf = true ∧ code = (if b.uns then 0xFE else if n then 0xFF else 0x7F) then .inf n
      else b.ofFields n x t := by
  intro code
  cases hu : b.uns
  · rw [hu, if_neg Bool.false_ne_true] at hc
    rw [if_neg Bool.false_ne_true, if_neg Bool.false_ne_true, decode8_signed hu hc, ofFields_eq b n ht]
    have hinf : (x * 2 ^ (b.p - 1) + t = 0x7F) = (code = if n then 0xFF else 0x7F) := by
      rw [eq_iff_iff]
      cases n
      · simp only [code, Bool.false_eq_true, if_false]; lia
      · simp only [code, if_true]; lia
    simp only [hinf]
    rfl
  · have hn' := hn hu
    subst hn'
    have hcode : code = x * 2 ^ (b.p - 1) + t := Nat.zero_add _
    rw [if_pos rfl, if_pos rfl, decode8_unsigned hu, hcode, ofFields_eq b false ht]

/-! The largest finite code. -/

theorem maxCode_eq (b : B8) : b.maxCode = (if b.uns then 0xFE else 0x7F) - (if b.inf then 1 else 0) := rfl

/-- A code up to the largest finite one, with a sign, is finite. -/
theorem decode8_finite (b : B8) {n : Bool} {c : Nat} (hn : b.uns = true → n = false) (h0 : n = true → c ≠ 0)
    (hc : c ≤ b.maxCode) :
    b.decode ((if n then 128 else 0) + c) = .fin n (b.mag c).1 (b.mag c).2 := by
  rw [maxCode_eq] at hc
  cases hu : b.uns
  · rw [hu, if_neg Bool.false_ne_true] at hc
    rw [decode8_signed hu (by omega), if_neg, if_neg]
    · rintro ⟨hi, h7⟩
      rw [hi, if_pos rfl] at hc
      omega
    · cases n
      · simp only [Bool.false_eq_true, if_false]; omega
      · have := h0 rfl
        simp only [if_true]; omega
  · rw [hu, if_pos rfl] at hc
    have hn' := hn hu
    subst hn'
    simp only [Bool.false_eq_true, if_false, Nat.zero_add]
    rw [decode8_unsigned hu, if_neg (by omega), if_neg]
    rintro ⟨hi, h7⟩
    rw [hi, if_pos rfl] at hc
    omega

theorem decode8_max_real (b : B8) : (b.decode b.maxCode).dy.real = fieldMag (b.p - 1) b.bias b.maxCode := by
  have h := decode8_finite b (n := false) (c := b.maxCode) (fun _ => rfl) (fun h => absurd h Bool.false_ne_true) le_rfl
  simp only [Bool.false_eq_true, if_false, Nat.zero_add] at h
  rw [h, fin_rat_real, ← mag_real, Dy.real_nat]
  rfl

/-! Encoding. -/

theorem encode_nan (b : B8) (sat : Bool) :
    b.encode sat .nan = { code := if b.uns then 0xFF else 0x80, fl := 0, stop := true } := rfl

theorem encode_zero (b : B8) (sat n : Bool) (q : Int) :
    b.encode sat (.fin n 0 q) = { code := 0, fl := 0, stop := false } := rfl

theorem maxCode_pos (b : B8) : b.maxCode ≠ 0 := by
  rw [maxCode_eq]
  split <;> split <;> decide

theorem signed_max (b : B8) {n : Bool} (h : ¬ (n = true ∧ b.uns = true)) :
    b.signed n b.maxCode = (if n then 128 else 0) + b.maxCode := by
  have h0 := maxCode_pos b
  unfold B8.signed
  cases n
  · simp
  · have hu : b.uns = false := by simpa using h
    simp [h0, hu, add_comm]

theorem encode_inf (b : B8) (sat n : Bool) :
    b.encode sat (.inf n) =
      if n = true ∧ b.uns = true then { code := 0, fl := flSAT, stop := true }
      else if b.inf = true ∧ sat = false then { code := b.infCode n, fl := 0, stop := true }
      else { code := (if n then 128 else 0) + b.maxCode, fl := flSAT, stop := true } := by
  by_cases h : n = true ∧ b.uns = true
  · obtain ⟨hn, hu⟩ := h
    unfold B8.encode
    simp [hn, hu]
  · have hb : (n && b.uns) = false := by rw [← Bool.not_eq_true, Bool.and_eq_true]; exact h
    rw [if_neg h, ← signed_max b h]
    unfold B8.encode
    cases hi : b.inf <;> cases sat <;> simp [hb]

/-- The multiple of the spacing that a magnitude is nearest to. -/
structure Encodes (b : B8) (n : Bool) (m : Nat) (q : Int) (k : Nat) (ix : Bool) (z : Int) : Prop where
  step : roundAt .rne n m q false z = (k, ix)
  near : OnGrid .rne n ((m : ℝ) * 2 ^ q / 2 ^ z) k
  inexact : ix = true ↔ (m : ℝ) * 2 ^ q ≠ k * 2 ^ z

/-- The code that the step forms. -/
noncomputable def B8.formed (b : B8) (z : Int) (k : Nat) : Nat := (z + (b.p - 1 : Nat) + b.bias - 1).toNat * 2 ^ (b.p - 1) + k

theorem encode_fin (b : B8) (sat n : Bool) {m : Nat} (hm : m ≠ 0) (q : Int) :
    let z := max ((m.log2 : Int) + q) (1 - b.bias) - (b.p - 1 : Nat)
    ∃ k ix, Encodes b n m q k ix z ∧
      b.encode sat (.fin n m q) =
        if n && b.uns then
          (if k = 0 then { code := 0, fl := 0, stop := false } else { code := 0, fl := flSAT, stop := true })
        else if b.maxCode < b.formed z k then
          (if b.inf && !sat then { code := b.infCode n, fl := flOF ||| flNX, stop := true }
          else { code := b.signed n b.maxCode, fl := flSAT, stop := true })
        else { code := b.signed n (b.formed z k),
               fl := flIf ix flNX ||| flIf (ix && Dy.lt { m := k, e := z } { m := 1, e := 1 - b.bias }) flUF,
               stop := false } := by
  intro z
  obtain ⟨hgrid, hix⟩ := roundAt_onGrid (m := m) (e := q) (st := false) (x := (m : ℝ) * 2 ^ q) (q := z) .rne n
    (by rw [StandsFor, if_neg Bool.false_ne_true]) (fun h => absurd h Bool.false_ne_true)
  rw [ne_eq, div_eq_iff (by positivity)] at hix
  refine ⟨(roundAt .rne n m q false z).1, (roundAt .rne n m q false z).2, ⟨rfl, hgrid, hix⟩, ?_⟩
  obtain ⟨j, rfl⟩ := Nat.exists_eq_succ_of_ne_zero hm
  rfl

/-- A formed code holds its multiple of the spacing. -/
theorem formed_mag (b : B8) {ex k : Nat} (h0 : ex = 0 ∨ 2 ^ (b.p - 1) ≤ k) (hk : k ≤ 2 ^ (b.p - 1 + 1)) :
    fieldMag (b.p - 1) b.bias (ex * 2 ^ (b.p - 1) + k) = k * 2 ^ ((ex : Int) + 1 - b.bias - (b.p - 1 : Nat)) := by
  have hB : 0 < 2 ^ (b.p - 1) := by positivity
  have h2 : 2 ^ (b.p - 1 + 1) = 2 * 2 ^ (b.p - 1) := pow_succ' 2 _
  have hfm {x t : Nat} (ht : t < 2 ^ (b.p - 1)) : fieldMag (b.p - 1) b.bias (x * 2 ^ (b.p - 1) + t) =
      ((if x = 0 then t else t + 2 ^ (b.p - 1) : Nat) : ℝ) *
        2 ^ ((if x = 0 then 1 else (x : Int)) - b.bias - (b.p - 1 : Nat)) := by
    rw [← mag_real, mag_fields b ht, Dy.real_nat]
  rcases Nat.lt_or_ge k (2 ^ (b.p - 1)) with hlt | hge
  · have hex : ex = 0 := h0.resolve_right (by lia)
    subst hex
    rw [hfm hlt, if_pos rfl, if_pos rfl, Nat.cast_zero, zero_add]
  · rcases Nat.lt_or_ge k (2 ^ (b.p - 1 + 1)) with hlt | hge2
    · rw [show ex * 2 ^ (b.p - 1) + k = (ex + 1) * 2 ^ (b.p - 1) + (k - 2 ^ (b.p - 1)) by rw [Nat.add_mul]; lia,
        hfm (by lia), if_neg (by lia), if_neg (by lia), Nat.sub_add_cancel hge]
      push_cast
      rfl
    · have hkR : (k : ℝ) = 2 * 2 ^ (b.p - 1) := by
        have : k = 2 * 2 ^ (b.p - 1) := by lia
        exact_mod_cast this
      rw [show ex * 2 ^ (b.p - 1) + k = (ex + 2) * 2 ^ (b.p - 1) + 0 by rw [Nat.add_mul]; lia, hfm hB,
        if_neg (by lia), if_neg (by lia), hkR]
      push_cast
      rw [show (ex : Int) + 2 - b.bias - (b.p - 1 : Nat) = (ex + 1 - b.bias - (b.p - 1 : Nat)) + 1 by ring,
        zpow_add_one₀ two_ne_zero]
      ring

/-- The wide format whose last places are those of a binary8 format. -/
noncomputable def B8.shape (b : B8) : FFmt := { eb := 8, fb := b.p - 1, bias := b.bias.toNat }

theorem bias8_nonneg (b : B8) : (b.shape.bias : Int) = b.bias := by
  have : 0 ≤ b.bias := by unfold B8.bias; positivity
  exact Int.toNat_of_nonneg this

/-- The formed code is placed. -/
theorem formed_placed (b : B8) {n : Bool} {m : Nat} (hm : m ≠ 0) (q : Int) {k : Nat} {ix : Bool} {z : Int}
    (hz : z = max ((m.log2 : Int) + q) (1 - b.bias) - (b.p - 1 : Nat)) (h : Encodes b n m q k ix z) :
    ∃ ex : Nat, b.formed z k = ex * 2 ^ (b.p - 1) + k ∧ z = (ex : Int) + 1 - b.bias - (b.p - 1 : Nat) ∧
      (ex = 0 ∨ 2 ^ (b.p - 1) ≤ k) ∧ k ≤ 2 ^ (b.p - 1 + 1) := by
  have hst : StandsFor m q false ((m : ℝ) * 2 ^ q) := by rw [StandsFor, if_neg Bool.false_ne_true]
  obtain ⟨-, hp, -⟩ := placed_of_standsFor (f := b.shape) .rne n hm hst (fun h => absurd h Bool.false_ne_true)
  rw [bias8_nonneg] at hp
  have hmant : (b.shape.mantAt .rne n m q false z).1 = k := by
    unfold FFmt.mantAt
    rw [if_neg Bool.false_ne_true, h.step]
  change Placed b.shape .rne n _ (max ((m.log2 : Int) + q) (1 - b.bias) - (b.p - 1 : Nat) + (b.p - 1 : Nat) + b.bias - 1).toNat
    (b.shape.mantAt .rne n m q false (max ((m.log2 : Int) + q) (1 - b.bias) - (b.p - 1 : Nat))).1 at hp
  rw [← hz, hmant] at hp
  refine ⟨_, rfl, ?_, hp.mant_low, hp.mant_high⟩
  rw [Int.toNat_of_nonneg (by omega)]
  ring

/-- The bounds of the numbers nearest to a multiple. -/
theorem half_bounds (k : Nat) (z : Int) :
    Dy.real { m := 2 * (k : Int) - 1, e := z - 1 } = (k - 1 / 2) * 2 ^ z ∧
      Dy.real { m := 2 * k + 1, e := z - 1 } = (k + 1 / 2) * 2 ^ z := by
  unfold Dy.real
  push_cast
  rw [zpow_sub_one₀ two_ne_zero]
  constructor <;> ring

theorem Encodes.nearest {n : Bool} {m : Nat} {q : Int} {k : Nat} {ix : Bool} {z : Int} (h : Encodes b n m q k ix z) :
    let x : Dy := { m := m, e := q }
    let lo : Dy := { m := 2 * (k : Int) - 1, e := z - 1 }
    let hi : Dy := { m := 2 * k + 1, e := z - 1 }
    lo.le x = true ∧ x.le hi = true ∧ (x.le lo = true ∨ hi.le x = true → k % 2 = 0) := by
  intro x lo hi
  have hU : (0 : ℝ) < 2 ^ z := by positivity
  obtain ⟨h1, h2, h3⟩ := h.near.2.2 rfl
  obtain ⟨hlo, hhi⟩ := half_bounds k z
  rw [le_div_iff₀ hU] at h1
  rw [div_le_iff₀ hU] at h2
  rw [eq_div_iff hU.ne', div_eq_iff hU.ne'] at h3
  rw [Dy.le_iff_real, Dy.le_iff_real, Dy.le_iff_real, Dy.le_iff_real, hlo, hhi, Dy.real_nat]
  exact ⟨h1, h2, fun h => h3 (h.imp (fun h => le_antisymm h1 h) fun h => le_antisymm h2 h)⟩

theorem Encodes.exact {n : Bool} {m : Nat} {q : Int} {k : Nat} {ix : Bool} {z : Int} (h : Encodes b n m q k ix z) :
    ix = !((Dy.sub { m := m, e := q } { m := k, e := z }).m == 0) := by
  have hex : (Dy.sub { m := m, e := q } { m := k, e := z }).m = 0 ↔ ¬ ix = true := by
    rw [Dy.sub_zero_iff_real, Dy.real_nat, Dy.real_nat, h.inexact, not_not]
  cases ix
  · rw [beq_iff_eq.mpr (hex.mpr Bool.false_ne_true)]
    rfl
  · rw [beq_false_of_ne fun h0 => hex.mp h0 rfl]
    rfl

/-- What a value `x` that is no zero encodes as (R80): the code of the nearest multiple of the spacing, or the largest. -/
abbrev EncodesAs (b : B8) (sat n : Bool) (x : Dy) (r : Enc) : Prop :=
  ∃ (k : Nat) (w z : Int),
    Dy.le { m := 1, e := w } x = true ∧ x.lt { m := 1, e := w + 1 } = true ∧ z = max w (1 - b.bias) - (b.p - 1 : Nat) ∧
    let y : Dy := { m := k, e := z }
    let lo : Dy := { m := 2 * (k : Int) - 1, e := z - 1 }
    let hi : Dy := { m := 2 * k + 1, e := z - 1 }
    lo.le x = true ∧ x.le hi = true ∧ (x.le lo = true ∨ hi.le x = true → k % 2 = 0) ∧
    let exact : Bool := (x.sub y).m == 0
    (n = true → b.uns = true →
      r = if k = 0 then { code := 0, fl := 0, stop := false } else { code := 0, fl := flSAT, stop := true }) ∧
    (n = false ∨ b.uns = false →
      ((b.decode b.maxCode).dy.lt y = true →
        r = if b.inf = true ∧ sat = false then { code := b.infCode n, fl := flOF ||| flNX, stop := true }
          else { code := (if n then 128 else 0) + b.maxCode, fl := flSAT, stop := true }) ∧
      (y.le (b.decode b.maxCode).dy = true →
        r.stop = false ∧ r.code < 256 ∧ (k = 0 → r.code = 0) ∧
        (∃ o z', b.decode r.code = .fin (n && k != 0) o z' ∧ (Dy.sub { m := o, e := z' } y).m = 0) ∧
        r.fl = flIf (!exact) flNX ||| flIf (!exact && y.lt { m := 1, e := 1 - b.bias }) flUF))

theorem encode_spec (b : B8) (sat n : Bool) {m : Nat} (q : Int) (hm : m ≠ 0) :
    EncodesAs b sat n { m := m, e := q } (b.encode sat (.fin n m q)) := by
  obtain ⟨k, ix, henc, hr⟩ := encode_fin b sat n hm q
  obtain ⟨z, hz⟩ : ∃ z, z = max ((m.log2 : Int) + q) (1 - b.bias) - (b.p - 1 : Nat) := ⟨_, rfl⟩
  rw [← hz] at henc hr
  have hst : StandsFor m q false ((m : ℝ) * 2 ^ q) := by rw [StandsFor, if_neg Bool.false_ne_true]
  obtain ⟨htop1, htop2⟩ := hst.top hm
  obtain ⟨hlo, hhi, htie⟩ := henc.nearest
  obtain ⟨ex, hformed, hzex, hlow, hhigh⟩ := formed_placed b hm q hz henc
  have hone (i : Int) : Dy.real { m := 1, e := i } = 2 ^ i := by simp [Dy.real]
  have hy : Dy.real { m := k, e := z } = fieldMag (b.p - 1) b.bias (b.formed z k) := by
    rw [hformed, formed_mag b hlow hhigh, Dy.real_nat, hzex]
  have hmono := fieldMag_strictMono (b.p - 1) b.bias
  have hform0 : b.formed z k = 0 ↔ k = 0 := by
    rw [hformed]
    refine ⟨fun h => by lia, fun h => ?_⟩
    have hB : 0 < 2 ^ (b.p - 1) := by positivity
    have : ex = 0 := hlow.resolve_right (by lia)
    rw [this, h]
    simp
  refine ⟨k, (m.log2 : Int) + q, z, ?_, ?_, hz, hlo, hhi, htie, fun hn hu => ?_, fun hnu => ⟨fun hlt => ?_, fun hle => ?_⟩⟩
  · rw [Dy.le_iff_real, hone, Dy.real_nat]
    exact htop1
  · rw [Dy.lt_iff_real, hone, Dy.real_nat]
    exact htop2
  · show b.encode sat (.fin n m q) = _
    rw [hr, hn, hu]
    rfl
  all_goals
    have hs : (n && b.uns) = false := by rcases hnu with h | h <;> simp [h]
    have hns : ¬ (n = true ∧ b.uns = true) := by rcases hnu with h | h <;> simp [h]
  · rw [Dy.lt_iff_real, decode8_max_real, hy, hmono.lt_iff_lt] at hlt
    show b.encode sat (.fin n m q) = _
    rw [hr, hs, if_neg Bool.false_ne_true, if_pos hlt, signed_max b hns]
    cases b.inf <;> cases sat <;> rfl
  · rw [Dy.le_iff_real, decode8_max_real, hy, hmono.le_iff_le] at hle
    have henc' : b.encode sat (.fin n m q) = Enc.mk (b.signed n (b.formed z k))
        (flIf ix flNX ||| flIf (ix && Dy.lt { m := k, e := z } { m := 1, e := 1 - b.bias }) flUF) false := by
      rw [hr, hs, if_neg Bool.false_ne_true, if_neg (not_lt.mpr hle)]
    have hmax : b.maxCode < if b.uns then 255 else 128 := by rw [maxCode_eq]; split <;> split <;> decide
    have hsigned : b.signed n (b.formed z k) = (if n && k != 0 then 128 else 0) + b.formed z k := by
      unfold B8.signed
      have h0 := hform0
      by_cases hk : k = 0
      · rw [h0.mpr hk, hk]
        simp
      · have hf : b.formed z k ≠ 0 := mt h0.mp hk
        cases n
        · simp
        · have hu : b.uns = false := by simpa using hs
          simp [hk, hf, hu, add_comm]
    have hdec := decode8_finite b (n := n && k != 0) (c := b.formed z k)
      (fun hu => by rcases hnu with h | h; · simp [h]
                    · rw [h] at hu; exact Bool.noConfusion hu)
      (fun h => by simp only [Bool.and_eq_true, bne_iff_ne] at h; exact mt hform0.mp h.2) hle
    rw [henc']
    refine ⟨rfl, ?_, fun hk => ?_, ⟨(b.mag (b.formed z k)).1, (b.mag (b.formed z k)).2, ?_, ?_⟩, ?_⟩
    · show b.signed n (b.formed z k) < 256
      rw [hsigned]
      cases hu : b.uns
      · rw [hu, if_neg Bool.false_ne_true] at hmax
        split <;> lia
      · have hn : n = false := by rcases hnu with h | h; · exact h
                                  · rw [h] at hu; exact Bool.noConfusion hu
        rw [hu, if_pos rfl] at hmax
        simp only [hn, Bool.false_and, Bool.false_eq_true, if_false]
        lia
    · show b.signed n (b.formed z k) = 0
      rw [hsigned, hform0.mpr hk, hk]
      simp
    · show b.decode (b.signed n (b.formed z k)) = _
      rw [hsigned]
      exact hdec
    · rw [Dy.sub_zero_iff_real, mag_real, hy]
    · show flIf ix flNX ||| flIf (ix && _) flUF = _
      rw [henc.exact]

end

/-! Elements with a scale and a residual (R82). -/

theorem Dy.real_add (x y : Dy) : (x.add y).real = x.real + y.real := by
  rw [Dy.real_eq_rat, Dy.rat_add, Dy.real_eq_rat, Dy.real_eq_rat]
  push_cast
  rfl

theorem Dy.real_sub (x y : Dy) : (x.sub y).real = x.real - y.real := by
  rw [Dy.real_eq_rat, Dy.rat_sub, Dy.real_eq_rat, Dy.real_eq_rat]
  push_cast
  rfl

theorem Dy.real_zero_of {x : Dy} (h : x.m = 0) : x.real = 0 := by simp [Dy.real, h]

theorem ofDy_real (x : Dy) : (FVal.ofDy x).dy.real = x.real := by
  unfold FVal.ofDy FVal.dy Dy.real
  by_cases h : x.m < 0
  · simp only [h, decide_true, if_true]
    rw [show ((x.m.natAbs : Int)) = -x.m by omega, neg_neg]
  · simp only [h, decide_false, Bool.false_eq_true, if_false]
    rw [show ((x.m.natAbs : Int)) = x.m by omega]

/-- What `narrowOne` encodes of a finite value. -/
noncomputable def narrowed (sc : Int) (res : Dy) (v : FVal) : FVal :=
  match v with
  | .fin n 0 e => if res.m = 0 then .fin n 0 e else FVal.ofDy res
  | .fin _ _ _ => FVal.ofDy ((v.dy.scale (-sc)).add res)
  | w => w

theorem narrowOne_eq (b : B8) (sat ef : Bool) (sc : Int) (res : Dy) (v : FVal) :
    narrowOne b sat ef sc res v =
      let r := b.encode sat (narrowed sc res v)
      (r, if ef then (if r.stop then Dy.zero else (narrowed sc res v).dy.sub (b.decode r.code).dy) else Dy.zero) := rfl

theorem narrowed_fin (sc : Int) (res : Dy) (n : Bool) (m : Nat) (q : Int) :
    (∃ n' m' q', narrowed sc res (.fin n m q) = .fin n' m' q') ∧
      (narrowed sc res (.fin n m q)).dy.real = (((FVal.fin n m q).dy.scale (-sc)).add res).real := by
  cases m with
  | zero =>
    have hz : (((FVal.fin n 0 q).dy.scale (-sc)).add res).real = res.real := by
      rw [Dy.real_add, Dy.real_zero_of, zero_add]
      cases n <;> rfl
    rw [hz]
    change (∃ n' m' q', (if res.m = 0 then FVal.fin n 0 q else FVal.ofDy res) = .fin n' m' q') ∧
      (if res.m = 0 then FVal.fin n 0 q else FVal.ofDy res).dy.real = _
    by_cases h : res.m = 0
    · rw [if_pos h, Dy.real_zero_of h, fin_rat_real]
      exact ⟨⟨_, _, _, rfl⟩, by cases n <;> simp⟩
    · rw [if_neg h]
      exact ⟨⟨_, _, _, rfl⟩, ofDy_real res⟩
  | succ m => exact ⟨⟨_, _, _, rfl⟩, ofDy_real _⟩

theorem narrowOne_spec (b : B8) (sat ef : Bool) (sc : Int) (res : Dy) (v : FVal) :
    let r := narrowOne b sat ef sc res v
    ((∀ n m q, v ≠ .fin n m q) → r = (b.encode sat v, Dy.zero)) ∧
    (∀ n m q, v = .fin n m q → ∃ x : FVal, (∃ n' m' q', x = .fin n' m' q') ∧
      (x.dy.sub ((v.dy.scale (-sc)).add res)).m = 0 ∧ r.1 = b.encode sat x ∧
      (ef = false ∨ r.1.stop = true → r.2 = Dy.zero) ∧
      (ef = true → r.1.stop = false → ((r.2.add (b.decode r.1.code).dy).sub x.dy).m = 0)) := by
  intro r
  refine ⟨fun hv => ?_, fun n m q hv => ?_⟩
  · have hstop : (b.encode sat v).stop = true := by
      cases v with
      | nan => rfl
      | inf n =>
        rw [encode_inf]
        split
        · rfl
        · split <;> rfl
      | fin n m q => exact absurd rfl (hv n m q)
    have hnar : narrowed sc res v = v := by
      cases v with
      | nan => rfl
      | inf n => rfl
      | fin n m q => exact absurd rfl (hv n m q)
    show narrowOne b sat ef sc res v = _
    rw [narrowOne_eq, hnar]
    simp only [hstop, if_true, ite_self]
  · subst hv
    obtain ⟨hfin, hreal⟩ := narrowed_fin sc res n m q
    have hr : r = narrowOne b sat ef sc res (.fin n m q) := rfl
    rw [narrowOne_eq] at hr
    refine ⟨_, hfin, (Dy.sub_zero_iff_real _ _).mpr hreal, by rw [hr], fun h => ?_, fun hef hst => ?_⟩
    · rw [hr] at h ⊢
      dsimp only at h ⊢
      rcases h with h | h
      · rw [h]; rfl
      · rw [h]; simp only [if_true, ite_self]
    · rw [hr] at hst ⊢
      dsimp only at hst ⊢
      rw [hef, hst, if_pos rfl, if_neg Bool.false_ne_true, Dy.sub_zero_iff_real, Dy.real_add, Dy.real_sub, sub_add_cancel]

/-! `vnarw` and `vwide`. -/

theorem raise_raise (g : Group) (p q : Flags) : (g.raise p).raise q = g.raise (p ||| q) :=
  congrArg (fun k => ({ g with gstat := k } : Group)) (BitVec.or_assoc ..)

noncomputable def Group.withG (g : Group) (m : AMap Word) : Group := { g with g := m }

noncomputable def Group.withH (g : Group) (m : AMap Word) : Group := { g with h := m }

theorem setG_eq (g : Group) (inH : Bool) (n : Nat) (x : Word) : g.setG inH n x =
    if inH && decide (56 ≤ n) then g.withH (AMap.set 0 g.h (n - 56) x) else g.withG (AMap.set 0 g.g n x) := rfl

theorem putG_raise (e : Env) (n : Nat) (x : Word) (g : Group) (p : Flags) : e.putG n x (g.raise p) = (e.putG n x g).raise p := by
  unfold Env.putG
  rw [setG_eq, setG_eq]
  exact (apply_ite (Group.raise · p) ((e.fr.inH && decide (56 ≤ n)) = true) (g.withH (AMap.set 0 g.h (n - 56) x))
    (g.withG (AMap.set 0 g.g n x))).symm

noncomputable def Group.withLanes (g : Group) (v : AMap Lane) : Group := { g with v := v }

/-- Lanes of one register with flags, as one change of the group. -/
theorem foldl_setV_raise (d : Nat) (x : Nat → Lane) (fl : Nat → Flags) (ls : List Nat) (g : Group) (p : Flags) :
    ls.foldl (fun g l => (g.setV d l (x l)).raise (fl l)) (g.raise p) =
      (g.withLanes (setLanes g.v d x ls)).raise (ls.foldl (fun f l => f ||| fl l) p) := by
  induction ls generalizing g p with
  | nil => rfl
  | cons l ls ih => exact (congrArg (List.foldl _ · ls) (raise_raise (g.setV d l (x l)) p (fl l))).trans (ih _ _)

section
variable (b : B8) (sat ef : Bool) (sc : Int) (src : Group) (a d : Nat)

theorem narrowLanes_append (xs ys : List Nat) (g : Group) (res : Dy) :
    narrowLanes b sat ef sc src a d (xs ++ ys) g res =
      narrowLanes b sat ef sc src a d ys (narrowLanes b sat ef sc src a d xs g res).1
        (narrowLanes b sat ef sc src a d xs g res).2 := by
  induction xs generalizing g res with
  | nil => rfl
  | cons l xs ih => exact ih _ _

/-- The residual that reaches a lane: each active lane below it passes its own on (R82). -/
noncomputable def residual (m : Word) (res : Dy) : Nat → Dy
  | 0 => res
  | l + 1 =>
    if m.getLsbD l then (narrowOne b sat ef sc (residual m res l) (f32Of (src.vReg a l))).2 else residual m res l

theorem residual_succ (m : Word) (res : Dy) (l : Nat) :
    residual b sat ef sc src a m res (l + 1) =
      if m.getLsbD l then (narrowOne b sat ef sc (residual b sat ef sc src a m res l) (f32Of (src.vReg a l))).2
      else residual b sat ef sc src a m res l := rfl

/-- The code and flags that an active lane takes. -/
noncomputable def narrowAt (m : Word) (res : Dy) (l : Nat) : Enc :=
  (narrowOne b sat ef sc (residual b sat ef sc src a m res l) (f32Of (src.vReg a l))).1

theorem narrowLanes_eq (m : Word) (g : Group) (res : Dy) (n : Nat) :
    narrowLanes b sat ef sc src a d ((List.range n).filter m.getLsbD) g res =
      (((List.range n).filter m.getLsbD).foldl (fun g l =>
        (g.setV d l (BitVec.ofNat 32 (narrowAt b sat ef sc src a m res l).code)).raise (narrowAt b sat ef sc src a m res l).fl) g,
        residual b sat ef sc src a m res n) := by
  induction n with
  | zero => rfl
  | succ n ih =>
    rw [List.range_succ, List.filter_append, narrowLanes_append, ih, List.foldl_append, residual_succ]
    by_cases hn : m.getLsbD n = true
    · rw [List.filter_cons_of_pos hn, if_pos hn]
      rfl
    · rw [List.filter_cons_of_neg hn, if_neg hn]
      rfl

end

section
variable {s : State} {e : Env} {f : VF}

theorem vnarw_plain {b : B8} (hb : b8OfSub f.sub = some b) (hd : e.over f.d.toNat = false) (ha : e.over f.a.toNat = false)
    (h : Issues s e (.vnarw f)) (hef : f.mod.getLsbD 2 = false) :
    let r (l : Nat) : Enc :=
      (narrowOne b f.sat false (clampScale (e.g f.b.toNat)) Dy.zero (f32Of (e.gr.vReg f.a.toNat l))).1
    TakesLanes s e (.vnarw f) false (oneArm (e.active (Instr.vnarw f).guard) f.d.toNat)
      (fun _ l => BitVec.ofNat 64 (r l).code) (fun _ l => (r l).fl) := by
  intro r
  have hlanes (ls : List Nat) (g : Group) : (narrowLanes b f.sat false (clampScale (e.g f.b.toNat)) e.gr f.a.toNat f.d.toNat ls g
      Dy.zero).1 = ls.foldl (fun g l => (g.setV f.d.toNat l (BitVec.ofNat 32 (r l).code)).raise (r l).fl) g := by
    induction ls generalizing g with
    | nil => rfl
    | cons l ls ih => exact ih _
  refine takes_forLanes (step := fun l g => (g.setV f.d.toNat l (BitVec.ofNat 32 (r l).code)).raise (r l).fl) rfl rfl ?_
    (fun l _ _ g => putCode_laneStep (x := fun l => ((r l).code, (r l).fl)) g f.d.toNat l rfl) h
  simp only [hd, ha, hb, hef, Bool.or_self, Bool.false_eq_true, if_false, Bool.false_and, hlanes]
  refine congrArg Res.done (congrArg _ (funext fun g => ?_))
  change forLanes _ _ (g.raise 0) = _
  rw [Group.raise_zero]
  rfl

/-- The residual that g[C] holds, and the flag that it raises where it holds none. -/
noncomputable def startResidual : FVal → Dy
  | .fin n m q => (FVal.fin n m q).dy
  | _ => Dy.zero

noncomputable def startFlag (v : FVal) : Flags := flIf (match v with | .fin _ _ _ => false | _ => true) flNV

theorem vnarw_feedback {b : B8} (hb : b8OfSub f.sub = some b) (hd : e.over f.d.toNat = false) (ha : e.over f.a.toNat = false)
    (h : Issues s e (.vnarw f)) (hef : f.mod.getLsbD 2 = true) :
    let x (l : Nat) : FVal := f32Of (e.gr.vReg f.a.toNat l)
    let e0 := f32Of ((e.g f.c.toNat).setWidth 32)
    let sc := clampScale (e.g f.b.toNat)
    let m := e.active (Instr.vnarw f).guard
    ∃ res : Nat → Dy,
      (∀ v, e0 = v → res 0 = (match v with | .fin _ _ _ => v.dy | _ => Dy.zero)) ∧
      (∀ l, l < 64 → res (l + 1) = if m.getLsbD l then (narrowOne b f.sat true sc (res l) (x l)).2 else res l) ∧
      let q := f32.roundDy .rne false false (res 64)
      let fl := flIf (match e0 with | .fin _ _ _ => false | _ => true) flNV |||
        armFlags (oneArm m f.d.toNat) (fun _ l => (narrowOne b f.sat true sc (res l) (x l)).1.fl) ||| q.2
      ∃ V : AMap Lane,
        exec (.vnarw f) s = .next (s.wrote e (.vnarw f) (fun g =>
          (e.putG f.c.toNat (BitVec.ofNat 64 q.1) { g with v := V }).raise fl)) ∧
        ∀ r l, l < 64 → AMap.get 0 V (64 * r + l) = laneAfter e.gr false (oneArm m f.d.toNat)
          (fun _ l => BitVec.ofNat 64 (narrowOne b f.sat true sc (res l) (x l)).1.code) r l := by
  intro x e0 sc m
  have he0 : f32Of ((e.g f.c.toNat).setWidth 32) = e0 := rfl
  clear_value e0
  refine ⟨residual b f.sat true sc e.gr f.a.toNat m (startResidual e0), fun v hv => ?_, fun l _ => rfl, ?_⟩
  · rw [← hv]
    exact by cases e0 <;> rfl
  intro q fl
  let code (l : Nat) : Lane := BitVec.ofNat 32 (narrowAt b f.sat true sc e.gr f.a.toNat m (startResidual e0) l).code
  have hlow : (e.g f.c.toNat).extractLsb' 0 32 = (e.g f.c.toNat).setWidth 32 := by
    ext i hi
    simp
  refine ⟨setLanes e.gr.v f.d.toNat code (lanesOf m), ?_, fun r l hl => ?_⟩
  · have hbody (g : Group) : (e.putG f.c.toNat (BitVec.ofNat 64 q.1) (narrowLanes b f.sat true sc e.gr f.a.toNat f.d.toNat
        (lanesOf m) (g.raise (startFlag e0)) (startResidual e0)).1).raise q.2 =
        (e.putG f.c.toNat (BitVec.ofNat 64 q.1) (g.withLanes (setLanes g.v f.d.toNat code (lanesOf m)))).raise fl := by
      rw [lanesOf, narrowLanes_eq, foldl_setV_raise, putG_raise, raise_raise, foldl_or]
      rfl
    refine (issue_done (t := (s.begun e).modGrp e.who fun g => (e.putG f.c.toNat (BitVec.ofNat 64 q.1)
      (g.withLanes (setLanes g.v f.d.toNat code (lanesOf m)))).raise fl) h rfl ?_).trans ?_
    rotate_left
    · rw [State.wrote]
      congr 2
      exact modGrp_congr h.env fun _ _ => rfl
    simp only [hd, ha, hb, hef, Bool.or_self, Bool.false_eq_true, if_false, if_true, hlow, he0]
    refine congrArg Res.done (congrArg _ (funext fun g => Eq.trans ?_ (hbody g)))
    have hq : q = f32.roundDy .rne false false (narrowLanes b f.sat true sc e.gr f.a.toNat f.d.toNat (lanesOf m)
        (g.raise (startFlag e0)) (startResidual e0)).2 := by rw [lanesOf, narrowLanes_eq]
    rw [hq]
    cases e0 <;> rfl
  · rw [get_setLanes _ _ _ _ (fun l hl => (mem_lanesOf.mp hl).1) r l hl]
    unfold laneAfter oneArm
    rw [List.find?_cons]
    cases hm : m.getLsbD l with
    | false => simp [hm, mem_lanesOf, Group.vReg]
    | true =>
      have hcode (n : Nat) : (BitVec.ofNat 64 n).extractLsb' 0 32 = BitVec.ofNat 32 n := by
        apply BitVec.eq_of_toNat_eq
        rw [BitVec.extractLsb'_toNat, BitVec.toNat_ofNat, BitVec.toNat_ofNat, Nat.shiftRight_zero]
        lia
      simp only [mem_lanesOf, hl, hm, and_true, hcode, Bool.false_and, Bool.false_eq_true, if_false]
      rfl

theorem vwide_takes {b : B8} (hb : b8OfSub f.sub = some b) (hd : e.over f.d.toNat = false) (ha : e.over f.a.toNat = false)
    {dst : FFmt} (h : Issues s e (.vwide f)) (hdst : wideOfTy f.ty.toNat = some dst) :
    let sc := if f.bg then clampScale (e.g f.b.toNat) else 0
    let v (l : Nat) : FVal :=
      match b.decode ((e.gr.vReg f.a.toNat l).toNat / 256 ^ f.c.toNat % 256) with
      | .fin n m q => .fin n m (q + sc)
      | y => y
    TakesLanes s e (.vwide f) false (oneArm (e.active (Instr.vwide f).guard) f.d.toNat)
      (fun _ l => BitVec.ofNat 64 (dst.ofVal .rne false (v l)).1) (fun _ l => (dst.ofVal .rne false (v l)).2) := by
  intro sc v
  refine takes_forLanes (step := fun l g => (g.setV f.d.toNat l (BitVec.ofNat 32 (dst.ofVal .rne false (v l)).1)).raise
    (dst.ofVal .rne false (v l)).2) rfl rfl ?_ (fun l _ _ g => putCode_laneStep g f.d.toNat l rfl) h
  simp only [hd, ha, hb, hdst, Bool.or_self, Bool.false_eq_true, if_false]
  rfl

/-! `vpack`. -/

/-- A digit of a number given by its digits. -/
theorem digit_of_digits {w m : Nat} {y : Nat → Nat} (hw : 0 < w) (hy : ∀ j, y j < 2 ^ w) {j : Nat} (hj : j < m) :
    (∑ j ∈ Finset.range m, y j * 2 ^ (w * j)) / 2 ^ (w * j) % 2 ^ w = y j := by
  refine Nat.eq_of_testBit_eq fun i => ?_
  rw [Nat.testBit_mod_two_pow, Nat.testBit_div_two_pow, testBit_digits hw hy]
  by_cases hi : i < w
  · have h1 : (i + w * j) / w = j := by rw [Nat.add_mul_div_left _ _ hw, Nat.div_eq_of_lt hi, Nat.zero_add]
    have h2 : (i + w * j) % w = i := by rw [Nat.add_mul_mod_self_left, Nat.mod_eq_of_lt hi]
    rw [h1, h2, decide_eq_true hi, decide_eq_true hj, Bool.true_and, Bool.true_and]
  · rw [decide_eq_false hi, Bool.false_and]
    exact (Nat.testBit_lt_two_pow (lt_of_lt_of_le (hy j) (Nat.pow_le_pow_right (by lia) (by lia)))).symm

theorem foldl_sum_or (y : Nat → Nat) (p : Nat → Bool) (fl : Flags) (n : Nat) :
    (List.range n).foldl (fun (acc : Nat × Flags) j => (acc.1 + y j, acc.2 ||| flIf (p j) fl)) (0, 0) =
      (∑ j ∈ Finset.range n, y j, flIf ((List.range n).any p) fl) := by
  induction n with
  | zero => rfl
  | succ n ih =>
    rw [List.range_succ, List.foldl_append, ih, Finset.sum_range_succ, List.any_append]
    refine Prod.ext rfl ?_
    change flIf _ fl ||| flIf (p n) fl = flIf (_ || (p n || false)) fl
    unfold flIf
    cases (List.range n).any p <;> cases p n <;> simp

/-- The integer that `vpack` reads of a lane, and what it puts. -/
noncomputable def Env.packed (e : Env) (f : VF) (l j : Nat) : Int :=
  if (intTy f.ty.toNat).signed then (e.gr.vReg (f.a.toNat + j) l).toInt else (e.gr.vReg (f.a.toNat + j) l).toNat

noncomputable def Env.clamped (e : Env) (f : VF) (l j : Nat) : Int :=
  if f.sat then max (intTy f.ty.toNat).min (min (intTy f.ty.toNat).max (e.packed f l j)) else e.packed f l j

theorem narrow_ty {f : VF} (h : 3 ≤ f.ty ∧ f.ty ≤ 6) :
    0 < (intTy f.ty.toNat).w ∧ (intTy f.ty.toNat).w * packCount f.ty.toNat = 32 ∧ wide f.ty.toNat = false := by
  obtain ⟨h1, h2⟩ := h
  have : f.ty = 3 ∨ f.ty = 4 ∨ f.ty = 5 ∨ f.ty = 6 := by bv_omega
  rcases this with h | h | h | h <;> rw [h] <;> decide

theorem wrap_packed {e : Env} {f : VF} (ht : 3 ≤ f.ty ∧ f.ty ≤ 6) (l j : Nat) :
    (e.gr.vReg (f.a.toNat + j) l).toNat % 2 ^ (intTy f.ty.toNat).w = (intTy f.ty.toNat).wrap (e.packed f l j) := by
  obtain ⟨-, hw, -⟩ := narrow_ty ht
  have hle : (intTy f.ty.toNat).w ≤ 32 := Nat.le_of_dvd (by decide) ⟨_, hw.symm⟩
  have hdvd : ((2 ^ (intTy f.ty.toNat).w : Nat) : Int) ∣ ((2 ^ 32 : Nat) : Int) := by exact_mod_cast pow_dvd_pow 2 hle
  have hint (x : Lane) : x.toInt % ((2 ^ (intTy f.ty.toNat).w : Nat) : Int) = (x.toNat : Int) % (2 ^ (intTy f.ty.toNat).w : Nat) := by
    rw [← Int.emod_emod_of_dvd x.toInt hdvd, BitVec.toInt_eq_toNat_bmod, Int.bmod_emod, Int.emod_emod_of_dvd _ hdvd]
  unfold IntTy.wrap Env.packed
  rw [show ((2 : Int) ^ (intTy f.ty.toNat).w) = ((2 ^ (intTy f.ty.toNat).w : Nat) : Int) by push_cast; rfl]
  split
  · rw [hint, ← Int.natCast_emod, Int.toNat_natCast]
  · rw [← Int.natCast_emod, Int.toNat_natCast]

/-- One digit of `vpack`. -/
noncomputable def Env.packDigit (e : Env) (f : VF) (l j : Nat) : Nat × Flags :=
  if f.sat && decide (e.packed f l j < (intTy f.ty.toNat).min) then ((intTy f.ty.toNat).wrap (intTy f.ty.toNat).min, flSAT)
  else if f.sat && decide ((intTy f.ty.toNat).max < e.packed f l j) then
    ((intTy f.ty.toNat).wrap (intTy f.ty.toNat).max, flSAT)
  else ((e.gr.vReg (f.a.toNat + j) l).toNat % 2 ^ (intTy f.ty.toNat).w, 0)

theorem packDigit_eq {e : Env} {f : VF} (ht : 3 ≤ f.ty ∧ f.ty ≤ 6) (l j : Nat) :
    e.packDigit f l j =
      ((intTy f.ty.toNat).wrap (e.clamped f l j), flIf (f.sat && e.packed f l j != e.clamped f l j) flSAT) := by
  have hle : (intTy f.ty.toNat).min ≤ (intTy f.ty.toNat).max := by
    unfold intTy IntTy.min IntTy.max
    split <;> simp
  rw [Env.packDigit, wrap_packed ht, clamp_eq]
  refine Prod.ext rfl (congrArg (flIf · flSAT) ?_)
  unfold Env.clamped
  cases f.sat
  · rfl
  · rw [Bool.true_and, Bool.true_and, if_pos rfl, Bool.eq_iff_iff, bne_iff_ne, Bool.or_eq_true, decide_eq_true_eq,
      decide_eq_true_eq]
    omega

theorem vpack_takes (h : Issues s e (.vpack f)) (hd : e.over f.d.toNat = false)
    (ha : f.a.toNat % packCount f.ty.toNat = 0) (hn : e.over (f.a.toNat + packCount f.ty.toNat - 1) = false) :
    ∃ r : Nat → Lane,
      TakesLanes s e (.vpack f) false (oneArm (e.active (Instr.vpack f).guard) f.d.toNat)
        (fun _ l => (r l).setWidth 64)
        (fun _ l => flIf (f.sat && (List.range (packCount f.ty.toNat)).any (fun j => e.packed f l j != e.clamped f l j)) flSAT) ∧
      ∀ l j, l < 64 → j < packCount f.ty.toNat →
        (((r l).toNat / 2 ^ ((intTy f.ty.toNat).w * j) % 2 ^ (intTy f.ty.toNat).w : Nat) : Int) =
          e.clamped f l j % 2 ^ (intTy f.ty.toNat).w := by
  have ht : 3 ≤ f.ty ∧ f.ty ≤ 6 := by
    have := fieldsOk_of_issues h
    simp only [Instr.fieldsOk, Bool.and_eq_true, decide_eq_true_eq] at this
    exact ⟨this.1.1.1.1.1, this.1.1.1.1.2⟩
  obtain ⟨hw, hw32, -⟩ := narrow_ty ht
  have hlt (l j : Nat) : (intTy f.ty.toNat).wrap (e.clamped f l j) < 2 ^ (intTy f.ty.toNat).w := by
    unfold IntTy.wrap
    have := Int.emod_lt_of_pos (e.clamped f l j) (show (0 : Int) < 2 ^ (intTy f.ty.toNat).w by positivity)
    have h0 := Int.emod_nonneg (e.clamped f l j) (show (2 : Int) ^ (intTy f.ty.toNat).w ≠ 0 by positivity)
    zify
    rw [Int.toNat_of_nonneg h0]
    exact this
  let sum (l : Nat) : Nat := ∑ j ∈ Finset.range (packCount f.ty.toNat),
    (intTy f.ty.toNat).wrap (e.clamped f l j) * 2 ^ ((intTy f.ty.toNat).w * j)
  have hsum (l : Nat) : sum l < 2 ^ 32 := hw32 ▸ digits_lt (hlt l)
  refine ⟨fun l => BitVec.ofNat 32 (sum l), ?_, fun l j _ hj => ?_⟩
  · refine takes_forLanes (step := fun l g => (g.setV f.d.toNat l (BitVec.ofNat 32 (sum l))).raise (flIf (f.sat &&
      (List.range (packCount f.ty.toNat)).any (fun j => e.packed f l j != e.clamped f l j)) flSAT)) rfl rfl ?_
      (fun l _ _ g => ?_) h
    · simp only [hd, ha, hn, Bool.or_self, bne_self_eq_false, Bool.false_eq_true, if_false]
      refine congrArg Res.done (congrArg _ (congrArg (forLanes _) (funext fun l => funext fun g => ?_)))
      have hfold : (List.range (packCount f.ty.toNat)).foldl (fun (acc : Nat × Flags) j =>
          (acc.1 + (e.packDigit f l j).1 * 2 ^ ((intTy f.ty.toNat).w * j), acc.2 ||| (e.packDigit f l j).2)) (0, 0) =
          (sum l, flIf (f.sat && (List.range (packCount f.ty.toNat)).any (fun j => e.packed f l j != e.clamped f l j)) flSAT) := by
        simp only [packDigit_eq ht]
        rw [foldl_sum_or, ← List.and_any_distrib_left]
      change (g.setV _ l (BitVec.ofNat 32 (List.foldl (fun (acc : Nat × Flags) j =>
          (acc.1 + (e.packDigit f l j).1 * 2 ^ ((intTy f.ty.toNat).w * j), acc.2 ||| (e.packDigit f l j).2)) (0, 0) _).1)).raise
          (List.foldl (fun (acc : Nat × Flags) j =>
          (acc.1 + (e.packDigit f l j).1 * 2 ^ ((intTy f.ty.toNat).w * j), acc.2 ||| (e.packDigit f l j).2)) (0, 0) _).2 = _
      rw [hfold]
    · exact putFlt_laneStep g f.d.toNat l (x := fun l => (BitVec.ofNat 32 (sum l), flIf (f.sat &&
        (List.range (packCount f.ty.toNat)).any (fun j => e.packed f l j != e.clamped f l j)) flSAT)) rfl
  · show (((BitVec.ofNat 32 (sum l)).toNat / _ % _ : Nat) : Int) = _
    rw [BitVec.toNat_ofNat, Nat.mod_eq_of_lt (hsum l), digit_of_digits hw (hlt l) hj, IntTy.wrap, Int.toNat_of_nonneg]
    exact Int.emod_nonneg _ (by positivity)

end

/-! Registers of a block, lane by lane. -/

/-- Writes at places, one after another. -/
noncomputable def setPlaces {β : Type} (v : AMap Lane) (key : β → Nat) (val : β → Lane) (ks : List β) : AMap Lane :=
  ks.foldl (fun v k => AMap.set 0 v (key k) (val k)) v

theorem get_setPlaces_of_not_mem {β : Type} {key : β → Nat} {val : β → Lane} {ks : List β} {p : Nat} (v : AMap Lane)
    (h : ∀ k ∈ ks, key k ≠ p) : AMap.get 0 (setPlaces v key val ks) p = AMap.get 0 v p := by
  induction ks generalizing v with
  | nil => rfl
  | cons k ks ih =>
    refine (ih _ fun k' hk' => h k' (List.mem_cons_of_mem _ hk')).trans ?_
    rw [AMap.get_set, if_neg (h k (List.mem_cons_self ..)).symm]

theorem get_setPlaces_of_mem {β : Type} {key : β → Nat} {val : β → Lane} {ks : List β} {p : Nat} {y : Lane} (v : AMap Lane)
    (hk : ∃ k ∈ ks, key k = p) (h : ∀ k ∈ ks, key k = p → val k = y) : AMap.get 0 (setPlaces v key val ks) p = y := by
  induction ks generalizing v with
  | nil =>
    obtain ⟨k, hk, -⟩ := hk
    cases hk
  | cons k ks ih =>
    by_cases hmem : ∃ k' ∈ ks, key k' = p
    · exact ih _ hmem fun k' hk' => h k' (List.mem_cons_of_mem _ hk')
    · obtain ⟨k', hk', rfl⟩ := hk
      rcases List.mem_cons.mp hk' with rfl | hin
      · refine (get_setPlaces_of_not_mem _ fun k2 hk2 he => hmem ⟨k2, hk2, he⟩).trans ?_
        rw [AMap.get_set, if_pos rfl]
        exact h _ hk' rfl
      · exact absurd ⟨k', hin, rfl⟩ hmem

/-- The places of a block of `n` registers from `d` in some lanes. -/
noncomputable def blockPlaces (n : Nat) (ls : List Nat) : List (Nat × Nat) := ls.flatMap (fun l => (List.range n).map (fun j => (l, j)))

theorem foldl_blockPlaces (g : Group) (d n : Nat) (x : Nat → Nat → Lane) (ls : List Nat) :
    ls.foldl (fun g l => (List.range n).foldl (fun g j => g.setV (d + j) l (x l j)) g) g =
      { g with v := setPlaces g.v (fun p => 64 * (d + p.2) + p.1) (fun p => x p.1 p.2) (blockPlaces n ls) } := by
  have hflat (ks : List (Nat × Nat)) (g : Group) : ks.foldl (fun g p => g.setV (d + p.2) p.1 (x p.1 p.2)) g =
      { g with v := setPlaces g.v (fun p => 64 * (d + p.2) + p.1) (fun p => x p.1 p.2) ks } := by
    induction ks generalizing g with
    | nil => rfl
    | cons k ks ih => exact ih _
  rw [← hflat, blockPlaces, List.foldl_flatMap]
  simp only [List.foldl_map]

theorem get_blockPlaces (v : AMap Lane) (d n : Nat) (x : Nat → Nat → Lane) {ls : List Nat} (hls : ∀ l ∈ ls, l < 64) (r : Nat)
    {l : Nat} (hl : l < 64) :
    AMap.get 0 (setPlaces v (fun p => 64 * (d + p.2) + p.1) (fun p => x p.1 p.2) (blockPlaces n ls)) (64 * r + l) =
      if l ∈ ls ∧ d ≤ r ∧ r < d + n then x l (r - d) else AMap.get 0 v (64 * r + l) := by
  have hmem (p : Nat × Nat) : p ∈ blockPlaces n ls ↔ p.1 ∈ ls ∧ p.2 < n := by
    obtain ⟨a, b⟩ := p
    simp only [blockPlaces, List.mem_flatMap, List.mem_map, List.mem_range, Prod.mk.injEq]
    exact ⟨fun ⟨_, h1, _, h2, h3, h4⟩ => ⟨h3 ▸ h1, h4 ▸ h2⟩, fun ⟨h1, h2⟩ => ⟨a, h1, b, h2, rfl, rfl⟩⟩
  split
  · rename_i h
    obtain ⟨h1, h2, h3⟩ := h
    have hkey : 64 * r + l = (fun p : Nat × Nat => 64 * (d + p.2) + p.1) (l, r - d) := by
      show _ = 64 * (d + (r - d)) + l
      lia
    rw [hkey]
    refine get_setPlaces_of_mem v ⟨(l, r - d), (hmem _).mpr ⟨h1, by show r - d < n; lia⟩, rfl⟩ fun p hp he => ?_
    have hp1 := hls _ ((hmem p).mp hp).1
    change 64 * (d + p.2) + p.1 = 64 * (d + (r - d)) + l at he
    rw [show p.1 = l by lia, show p.2 = r - d by lia]
  · rename_i h
    refine get_setPlaces_of_not_mem v fun p hp he => h ?_
    obtain ⟨h1, h2⟩ := (hmem p).mp hp
    have hp1 := hls _ h1
    have : p.1 = l := by lia
    exact ⟨this ▸ h1, by lia, by lia⟩

/-! `vunpk`. -/

theorem val_eq_tyNorm (ty : Nat) {n : Nat} (h : n < 2 ^ (intTy ty).w) : (intTy ty).val n = tyNorm ty n := by
  have hw : (intTy ty).w = 8 ∨ (intTy ty).w = 16 ∨ (intTy ty).w = 32 ∨ (intTy ty).w = 64 := by
    rcases intTy_cases ty with ⟨-, h⟩ | ⟨-, h | h | h⟩ <;> simp [h]
  have := tyNorm_cast_wrap (intTy ty) hw n
  rwa [wrap_of_lt _ _ h] at this

theorem vunpk_unpacks {s : State} {e : Env} {f : VF} (h : Issues s e (.vunpk f)) (ha : e.over f.a.toNat = false)
    (hd : f.d.toNat % packCount f.ty.toNat = 0) (hn : e.over (f.d.toNat + packCount f.ty.toNat - 1) = false) :
    ∃ V : AMap Lane,
      exec (.vunpk f) s = .next (s.wrote e (.vunpk f) (fun g => { g with v := V })) ∧
      ∀ r l, l < 64 → AMap.get 0 V (64 * r + l) =
        if (e.active (Instr.vunpk f).guard).getLsbD l ∧ f.d.toNat ≤ r ∧ r < f.d.toNat + packCount f.ty.toNat then
          BitVec.ofInt 32 (tyNorm f.ty.toNat
            ((e.gr.vReg f.a.toNat l).toNat / 2 ^ ((intTy f.ty.toNat).w * (r - f.d.toNat)) % 2 ^ (intTy f.ty.toNat).w : Nat))
        else e.gr.vReg r l := by
  have ht : 3 ≤ f.ty ∧ f.ty ≤ 6 := by
    have := fieldsOk_of_issues h
    simp only [Instr.fieldsOk, Bool.and_eq_true, decide_eq_true_eq] at this
    exact ⟨this.1.1.1.1, this.1.1.1.2⟩
  obtain ⟨-, -, hw⟩ := narrow_ty ht
  let x (l j : Nat) : Lane := BitVec.ofInt 32 (tyNorm f.ty.toNat
    ((e.gr.vReg f.a.toNat l).toNat / 2 ^ ((intTy f.ty.toNat).w * j) % 2 ^ (intTy f.ty.toNat).w : Nat))
  let ls := lanesOf (e.active (Instr.vunpk f).guard)
  have hput (g : Group) (j l : Nat) : g.putInt f.ty.toNat (f.d.toNat + j) l
      ((e.gr.vReg f.a.toNat l).toNat / 2 ^ ((intTy f.ty.toNat).w * j) % 2 ^ (intTy f.ty.toNat).w) =
      g.setV (f.d.toNat + j) l (x l j) := by
    unfold Group.putInt
    rw [hw, if_neg Bool.false_ne_true, val_eq_tyNorm _ (Nat.mod_lt _ (by positivity))]
  refine ⟨setPlaces e.gr.v (fun p => 64 * (f.d.toNat + p.2) + p.1) (fun p => x p.1 p.2) (blockPlaces (packCount f.ty.toNat) ls),
    ?_, fun r l hl => ?_⟩
  · show execVunpk f s = _
    unfold execVunpk
    rw [issue_done h rfl (t := (s.begun e).modGrp e.who fun g => { g with
      v := setPlaces g.v (fun p => 64 * (f.d.toNat + p.2) + p.1) (fun p => x p.1 p.2)
        (blockPlaces (packCount f.ty.toNat) ls) }), State.wrote]
    · congr 2
      exact modGrp_congr h.env fun _ _ => rfl
    · simp only [ha, hd, hn, Bool.or_self, bne_self_eq_false, Bool.false_eq_true, if_false, hput]
      exact congrArg Res.done (congrArg _ (funext fun g => foldl_blockPlaces g _ _ x ls))
  · rw [get_blockPlaces _ _ _ x (fun l hl => (mem_lanesOf.mp hl).1) r hl]
    simp only [mem_lanesOf, hl, true_and]
    rfl

/-- Settles O15: the codes and their rounding, one element, and the four words lane by lane. -/
theorem narrowForms : Obligations.NarrowForms := by
  refine ⟨fun b hp1 hp7 => ?_, fun s e f b hb hd ha => ?_, fun s e f => ⟨fun h hd ha hn => ?_, fun h ha hd hn => ?_⟩⟩
  · exact ⟨fun n x t hn ht hc => decode8_fields b hn ht hc, fun sat => encode_nan b sat, fun sat n => encode_inf b sat n,
      fun sat n q => encode_zero b sat n q, fun sat n m q hm => encode_spec b sat n q hm,
      fun sat ef sc res v => narrowOne_spec b sat ef sc res v⟩
  · exact ⟨fun h hef => vnarw_plain hb hd ha h hef, fun h hef => vnarw_feedback hb hd ha h hef,
      fun dst h hdst => vwide_takes hb hd ha h hdst⟩
  · exact vpack_takes h hd ha hn
  · exact vunpk_unpacks h ha hd hn

end Sys2Proof.Machine
end

section
/-! Transfers (R267, R268, R271, R303): where control goes, and what a bad target traps. -/

namespace Sys2Proof.Machine

section
variable {s : State} {e : Env} {i : Instr} {body : Env → State → Res} {va w : Word}

/-- A word whose meaning traps. -/
theorem issue_trapped {ti : TrapInfo} (h : Issues s e i) (hf : trapFence i = false)
    (hb : body e (s.begun e) = .trap ti (s.begun e)) : s.issue i body = .next (s.trapped e i ti) := by
  rw [issue_of_issues h hf, hb]
  rfl

theorem transfer_of_error {ti : TrapInfo} (hc : s.checkTarget e va = .error ti) (k : State → State) :
    e.transfer va (s.begun e) k = .trap ti (s.begun e) := by
  simp [Env.transfer, State.begun, hc]

theorem checkTarget_misaligned (ha : va.toNat % 8 ≠ 0) : s.checkTarget e va = .error (e.trapOf (.instr .notHeader)) := by
  simp [State.checkTarget, ha]

theorem checkTarget_fetch_error {ti : TrapInfo} (ha : va.toNat % 8 = 0) (hf : s.fetch e va = .error ti) :
    s.checkTarget e va = .error ti := by
  simp [State.checkTarget, ha, hf]

theorem checkTarget_of_bad_header (ha : va.toNat % 8 = 0) (hw : s.fetch e va = .ok w) (hh : isHeader w = true)
    (hok : (HF.unpack w).ok = false) : s.checkTarget e va = .error (e.trapOf (.instr .badHeader)) := by
  simp [State.checkTarget, ha, hw, hh, hok]

/-- What each bad target traps, for a word whose meaning is a transfer (R267). -/
theorem issue_bad_target {k : State → State} (h : Issues s e i) (hf : trapFence i = false)
    (hb : body e (s.begun e) = e.transfer va (s.begun e) k) :
    (∀ ti, va.toNat % 8 = 0 → s.fetch e va = .error ti → s.issue i body = .next (s.trapped e i ti)) ∧
    (va.toNat % 8 ≠ 0 → s.issue i body = .next (s.trapped e i (e.trapOf (.instr .notHeader)))) ∧
    (va.toNat % 8 = 0 → s.fetch e va = .ok w → isHeader w = false →
      s.issue i body = .next (s.trapped e i (e.trapOf (.instr .notHeader)))) ∧
    (va.toNat % 8 = 0 → s.fetch e va = .ok w → isHeader w = true → (HF.unpack w).ok = false →
      s.issue i body = .next (s.trapped e i (e.trapOf (.instr .badHeader)))) := by
  have hbad {ti : TrapInfo} (hc : s.checkTarget e va = .error ti) : s.issue i body = .next (s.trapped e i ti) :=
    issue_trapped h hf (hb.trans (transfer_of_error hc k))
  exact ⟨fun ti ha he => hbad (checkTarget_fetch_error ha he), fun ha => hbad (checkTarget_misaligned ha),
    fun ha hw hh => hbad (checkTarget_of_not_header ha hw hh),
    fun ha hw hh hok => hbad (checkTarget_of_bad_header ha hw hh hok)⟩

/-- A transfer to a header. -/
theorem issue_transfer {k : State → State} (h : Issues s e i) (hf : trapFence i = false)
    (hb : body e (s.begun e) = e.transfer va (s.begun e) k) (ht : HeaderAt s e va) :
    s.issue i body = .next ((k (s.begun e)).jumped s e i va) :=
  issue_go h hf (hb.trans (transfer_of_headerAt ht k))

end

/-! Each word's transfer. -/

section
variable {s : State} {e : Env} {f : CF}

/-- A call's return address as g62 takes it (R271, R63). -/
def Env.linkOf (e : Env) (n : Nat) : Word :=
  BitVec.ofNat 3 e.floor ++ (if Config.linkExtended n then (e.afterClause.extractLsb' 0 56).signExtend 61
    else e.afterClause.extractLsb' 0 61)

theorem link_eq (e : Env) (n : Nat) : e.link n e.afterClause = e.linkOf n := by
  unfold Env.link Env.linkOf
  by_cases h : e.afterClause.extractLsb' 0 61 = (e.afterClause.extractLsb' 0 56).signExtend 61
  · simp [h]
  · simp [h]

theorem callFrom_eq (s : State) (e : Env) : State.callFrom s e e.afterClause =
    s.modGrp e.who (fun g => e.putMeld e.meld e.depth (e.putG 62 (e.linkOf s.fresh) g)) := by
  unfold State.callFrom
  rw [link_eq]

theorem bra_goes (h : Issues s e (.bra f)) (ht : HeaderAt s e (e.offTarget f)) :
    exec (.bra f) s = .next ((s.begun e).jumped s e (.bra f) (e.offTarget f)) := issue_transfer (k := id) h rfl rfl ht

theorem bri_goes (h : Issues s e (.bri f)) (ht : HeaderAt s e (e.g (auxReg f))) :
    exec (.bri f) s = .next ((s.begun e).jumped s e (.bri f) (e.g (auxReg f))) := issue_transfer (k := id) h rfl rfl ht

theorem call_goes (h : Issues s e (.call f)) (ht : HeaderAt s e (e.offTarget f)) :
    exec (.call f) s = .next (((s.begun e).callFrom e e.afterClause).jumped s e (.call f) (e.offTarget f)) :=
  issue_transfer (k := fun s => s.callFrom e e.afterClause) h rfl rfl ht

theorem calli_goes (h : Issues s e (.calli f)) (ht : HeaderAt s e (e.g (auxReg f))) :
    exec (.calli f) s = .next (((s.begun e).callFrom e e.afterClause).jumped s e (.calli f) (e.g (auxReg f))) :=
  issue_transfer (k := fun s => s.callFrom e e.afterClause) h rfl rfl ht

/-- `brg` is taken where its predicate is not the bit named (R268). -/
def Env.brgTaken (e : Env) (f : CF) : Prop := e.gr.gpReg (f.aux.extractLsb' 0 3).toNat ≠ f.aux.getLsbD 3

theorem brg_goes (h : Issues s e (.brg f)) (hp : e.brgTaken f) (ht : HeaderAt s e (e.offTarget f)) :
    exec (.brg f) s = .next ((s.begun e).jumped s e (.brg f) (e.offTarget f)) :=
  issue_transfer (k := id) h rfl (if_pos (bne_iff_ne.mpr hp)) ht

theorem brg_falls (h : Issues s e (.brg f)) (hp : ¬ e.brgTaken f) :
    exec (.brg f) s = .next ((s.begun e).issued s e (.brg f)) :=
  issue_done h rfl (if_neg (mt bne_iff_ne.mp hp))

/-- The place that `ret` names (R271). -/
noncomputable def Env.returnTo (e : Env) : Word := ((e.g 62).extractLsb' 0 56).signExtend 64

/-- The return has no level open above FLOOR and names a FLOOR within DEPTH (R303). -/
def Env.mayReturn (e : Env) : Prop := e.depth = e.floor ∧ bits (e.g 62) 63 61 ≤ e.depth

theorem not_mayReturn {e : Env} : (e.depth ≠ e.floor ∨ e.depth < bits (e.g 62) 63 61) ↔ ¬ e.mayReturn := by
  unfold Env.mayReturn
  omega

theorem ret_goes (h : Issues s e (.ret f)) (hr : e.mayReturn) (ht : HeaderAt s e e.returnTo) :
    exec (.ret f) s = .next (((s.begun e).modGrp e.who (e.putMeld e.meld (bits (e.g 62) 63 61))).jumped s e (.ret f)
      e.returnTo) :=
  issue_transfer (k := fun s => s.modGrp e.who (e.putMeld e.meld (bits (e.g 62) 63 61))) h rfl
    (if_neg (mt not_mayReturn.mp (not_not.mpr hr))) ht

theorem ret_traps (h : Issues s e (.ret f)) (hr : ¬ e.mayReturn) :
    exec (.ret f) s = .next (s.trapped e (.ret f) (e.trapOf (.instr .meldDepth))) :=
  issue_instr h rfl (if_pos (not_mayReturn.mpr hr))

/-- A bad target of each word that transfers (R267). -/
theorem bad_target {i : Instr} {t w : Word}
    (hi : (i = .bra f ∧ t = e.offTarget f) ∨ (i = .bri f ∧ t = e.g (auxReg f)) ∨ (i = .call f ∧ t = e.offTarget f) ∨
      (i = .calli f ∧ t = e.g (auxReg f)) ∨ (i = .brg f ∧ e.brgTaken f ∧ t = e.offTarget f) ∨
      (i = .ret f ∧ e.depth = e.floor ∧ bits (e.g 62) 63 61 ≤ e.depth ∧ t = e.returnTo) ∨
      (i = .yield f ∧ t = e.afterClause)) (h : Issues s e i) :
    (∀ ti, t.toNat % 8 = 0 → s.fetch e t = .error ti → exec i s = .next (s.trapped e i ti)) ∧
    (t.toNat % 8 ≠ 0 → exec i s = .next (s.trapped e i (e.trapOf (.instr .notHeader)))) ∧
    (t.toNat % 8 = 0 → s.fetch e t = .ok w → isHeader w = false →
      exec i s = .next (s.trapped e i (e.trapOf (.instr .notHeader)))) ∧
    (t.toNat % 8 = 0 → s.fetch e t = .ok w → isHeader w = true → (HF.unpack w).ok = false →
      exec i s = .next (s.trapped e i (e.trapOf (.instr .badHeader)))) := by
  obtain ⟨rfl, rfl⟩ | ⟨rfl, rfl⟩ | ⟨rfl, rfl⟩ | ⟨rfl, rfl⟩ | ⟨rfl, hp, rfl⟩ | ⟨rfl, hd, hfl, rfl⟩ | ⟨rfl, rfl⟩ := hi
  · exact issue_bad_target h rfl (k := id) rfl
  · exact issue_bad_target h rfl (k := id) rfl
  · exact issue_bad_target h rfl (k := fun s => s.callFrom e e.afterClause) rfl
  · exact issue_bad_target h rfl (k := fun s => s.callFrom e e.afterClause) rfl
  · exact issue_bad_target h rfl (k := id) (if_pos (bne_iff_ne.mpr hp))
  · exact issue_bad_target h rfl (k := fun s => s.modGrp e.who (e.putMeld e.meld (bits (e.g 62) 63 61)))
      (if_neg (mt not_mayReturn.mp (not_not.mpr ⟨hd, hfl⟩)))
  · exact issue_bad_target h rfl (k := fun s => (s.modFrag e.who (fun fr => { fr with yielded := true })).modSlice
      e.gr.core e.gr.slice (fun l => { l with rest := some e.who })) rfl

end

/-- Settles O16: each word's transfer, its target's check and the traps of `ret`. -/
theorem transfers : Obligations.Transfers := by
  refine ⟨fun s e f => ?_, fun s e f i t w hi h => bad_target hi h, fun s e f h hr => ret_traps h (not_mayReturn.mp hr)⟩
  intro t r s0 called goes p fl
  have hcalled : (s.begun e).callFrom e e.afterClause = called := callFrom_eq _ e
  have haux : (f.aux.setWidth 6).toNat = auxReg f := by
    unfold auxReg
    congr 1
  have hr : r = e.g (auxReg f) := by show e.g _ = _; rw [haux]
  refine ⟨fun h ht => bra_goes h ht, fun h ht => ?_, fun h ht => ?_, fun h ht => ?_, fun hp h ht => brg_goes h hp ht,
    fun hp h => brg_falls h (not_not.mpr hp), fun hd hfl h ht => ret_goes h ⟨hd, hfl⟩ ht⟩
  · rw [hr] at ht ⊢
    exact bri_goes h ht
  · rw [← hcalled]
    exact call_goes h ht
  · rw [hr] at ht ⊢
    rw [← hcalled]
    exact calli_goes h ht

end Sys2Proof.Machine
end

section
/-! Splits (R34, R35, R39, R269, R270): the words, the parts of `briv`, and what a split leaves of the group. -/

namespace Sys2Proof.Machine

/-! Carousel entries that are held: a change of a group's marks alone leaves their number. -/

theorem AMap.foldl_modify {α β : Type} {F : β → Nat × α → β} {k : Nat} {f : α → α}
    (h : ∀ a x, F a (k, f x) = F a (k, x)) (m : AMap α) (a : β) : (AMap.modify m k f).foldl F a = m.foldl F a := by
  induction m generalizing a with
  | nil => rfl
  | cons y m ih =>
    obtain ⟨j, x⟩ := y
    unfold AMap.modify
    split
    · rename_i hj
      subst hj
      rw [List.foldl_cons, List.foldl_cons, h]
    · rw [List.foldl_cons, List.foldl_cons, ih]

/-- The entries that a group holds. -/
noncomputable def Group.entries (g : Group) : Nat := (g.frags.filter (fun f => f.2.entry)).length + (g.splits.filter (fun r => r.home)).length

theorem State.entriesFree_modGrp (s : State) (w : Sel) {u : Group → Group}
    (hu : ∀ g, (u g).core = g.core ∧ (u g).slice = g.slice ∧ (u g).entries = g.entries) (core slice : Nat) :
    (s.modGrp w u).entriesFree core slice = s.entriesFree core slice := by
  unfold State.entriesFree State.entriesHeld
  refine congrArg (64 - ·) (AMap.foldl_modify (fun a t => ?_) s.teams 0)
  change (if t.onCore core then _ else a) = if t.onCore core then _ else a
  split
  · refine AMap.foldl_modify (fun a g => ?_) t.groups a
    obtain ⟨h1, h2, h3⟩ := hu g
    dsimp only
    rw [h1, h2]
    unfold Group.entries at h3
    rw [Nat.add_assoc, h3, ← Nat.add_assoc]
  · rfl

theorem entries_used (g : Group) (k : Again) : (g.used k).entries = g.entries := by
  have hcount (m : AMap Frag) : ((AMap.modify m k.frag Frag.used).filter (fun f => f.2.entry)).length =
      (m.filter (fun f => f.2.entry)).length := by
    rw [← List.countP_eq_length_filter, ← List.countP_eq_length_filter]
    induction m with
    | nil => rfl
    | cons y m ih =>
      obtain ⟨j, x⟩ := y
      unfold AMap.modify
      split
      · rw [List.countP_cons, List.countP_cons]
        rfl
      · rw [List.countP_cons, List.countP_cons, ih]
  exact congrArg (· + _) (hcount g.frags)

theorem State.entriesFree_begun (s : State) (e : Env) (core slice : Nat) :
    (s.begun e).entriesFree core slice = s.entriesFree core slice :=
  s.entriesFree_modGrp e.who (u := (·.used e.key)) (fun g => ⟨rfl, rfl, entries_used g e.key⟩) core slice

/-! `brv` (R269). -/

section
variable {s : State} {e : Env} {f : CF}

theorem joinAt_of {s : State} {e : Env} {j : Word} (h : JoinAt s e j) : s.joinAt e j = .ok true := by
  obtain ⟨-, w, hw, hop⟩ := h
  unfold State.joinAt
  rw [hw]
  change Except.ok (opcOf w == 0x009) = _
  rw [hop]
  rfl

theorem joinThen_of {s : State} {e : Env} {j : Word} (h : JoinAt s e j) (k : State → Res) : s.joinThen e j k = k s := by
  unfold State.joinThen
  rw [joinAt_of h]

theorem State.joinAt_modGrp (s : State) (w : Sel) (u : Group → Group) (e : Env) (j : Word) :
    (s.modGrp w u).joinAt e j = s.joinAt e j := by
  simp [State.joinAt]

/-- The lanes that `brv` takes. -/
noncomputable def Env.brvTaken (e : Env) (f : CF) : Word :=
  e.active (Instr.brv f).guard &&&
    (if f.aux.getLsbD 3 then ~~~e.gr.pReg (f.aux.extractLsb' 0 3).toNat else e.gr.pReg (f.aux.extractLsb' 0 3).toNat)

/-- The address of the join that `brv` names. -/
noncomputable def Env.brvJoin (e : Env) (f : CF) : Word := e.header + BitVec.ofInt 64 (8 * (f.aux.extractLsb' 4 20).toInt)

/-- What `brv` does once its targets are headers and its join begins with `join`. -/
noncomputable def Env.brvBody (e : Env) (f : CF) (s : State) : Res :=
  let t := e.brvTaken f
  if t = e.fr.exec then .go s (e.offTarget f)
  else if t = 0 then .go s e.afterClause
  else if 16 ≤ e.splits.length then e.instr .meldSplit s
  else
    let free := s.entriesFree e.gr.core e.gr.slice
    .gone (s.modGrp e.who (fun g =>
      if 0 < free then g.split e (e.brvJoin f) (e.whole &&& ~~~t, e.afterClause) [(t, e.offTarget f)] 1 false
      else g.split e (e.brvJoin f) (t, e.offTarget f) [(e.whole &&& ~~~t, e.afterClause)] 0 true))

theorem brv_finish (h : Issues s e (.brv f)) (ht : HeaderAt s e (e.offTarget f)) (hj : JoinAt s e (e.brvJoin f)) :
    exec (.brv f) s = .next (s.finish e (.brv f) (e.brvBody f (s.begun e))).tick := by
  obtain ⟨w, hw⟩ := checkTarget_of_headerAt ht
  obtain ⟨w', hw'⟩ := checkTarget_of_headerAt hj.1
  have hc : (s.begun e).checkTarget e (e.offTarget f) = .ok w := by rw [State.begun, State.checkTarget_modGrp, hw]
  have hc' : (s.begun e).checkTarget e (e.brvJoin f) = .ok w' := by rw [State.begun, State.checkTarget_modGrp, hw']
  have hjt : (s.begun e).joinAt e (e.brvJoin f) = .ok true := by rw [State.begun, State.joinAt_modGrp, joinAt_of hj]
  show execBrv f s = _
  unfold execBrv
  rw [issue_of_issues h rfl]
  refine congrArg (fun r => Host.Outcome.next (s.finish e (.brv f) r).tick) ?_
  change (match (s.begun e).checkTarget e (e.offTarget f) with
    | .error t => Res.trap t (s.begun e)
    | .ok _ =>
      match (s.begun e).checkTarget e (e.brvJoin f) with
      | .error t => .trap t (s.begun e)
      | .ok _ => (s.begun e).joinThen e (e.brvJoin f) (e.brvBody f)) = _
  rw [hc]
  change (match (s.begun e).checkTarget e (e.brvJoin f) with
      | .error t => Res.trap t (s.begun e)
      | .ok _ => (s.begun e).joinThen e (e.brvJoin f) (e.brvBody f)) = _
  rw [hc']
  change (s.begun e).joinThen e (e.brvJoin f) (e.brvBody f) = _
  unfold State.joinThen
  rw [hjt]

section
variable (h : Issues s e (.brv f)) (ht : HeaderAt s e (e.offTarget f)) (hj : JoinAt s e (e.brvJoin f))
include h ht hj

theorem brv_all (hm : e.brvTaken f = e.fr.exec) :
    exec (.brv f) s = .next ((s.begun e).jumped s e (.brv f) (e.offTarget f)) := by
  rw [brv_finish h ht hj, Env.brvBody]
  simp only [hm, if_true]
  rfl

theorem brv_none (hm : e.brvTaken f ≠ e.fr.exec) (h0 : e.brvTaken f = 0) :
    exec (.brv f) s = .next ((s.begun e).jumped s e (.brv f) e.afterClause) := by
  rw [brv_finish h ht hj, Env.brvBody]
  simp only [h0 ▸ hm, h0, if_true, if_false]
  rfl

theorem brv_splits (hm : e.brvTaken f ≠ e.fr.exec) (h0 : e.brvTaken f ≠ 0) (hl : e.splits.length < 16) :
    exec (.brv f) s = .next (((s.begun e).modGrp e.who (fun g =>
      if 0 < s.entriesFree e.gr.core e.gr.slice then
        g.split e (e.brvJoin f) (e.whole &&& ~~~e.brvTaken f, e.afterClause) [(e.brvTaken f, e.offTarget f)] 1 false
      else g.split e (e.brvJoin f) (e.brvTaken f, e.offTarget f) [(e.whole &&& ~~~e.brvTaken f, e.afterClause)] 0 true)).left
      s e (.brv f)) := by
  rw [brv_finish h ht hj, Env.brvBody]
  simp only [hm, h0, Nat.not_le.mpr hl, if_false, State.entriesFree_begun]
  rfl

theorem brv_full (hm : e.brvTaken f ≠ e.fr.exec) (h0 : e.brvTaken f ≠ 0) (hl : 16 ≤ e.splits.length) :
    exec (.brv f) s = .next (s.trapped e (.brv f) (e.trapOf (.instr .meldSplit))) := by
  rw [brv_finish h ht hj, Env.brvBody]
  simp only [hm, h0, hl, if_false, if_true]
  rfl

end

/-! `briv` (R270). -/

/-- The word's register, its table, and its indices. -/
noncomputable def brivReg (f : CF) : Nat := (f.aux.extractLsb' 0 8).toNat
noncomputable def brivTable (f : CF) : Nat := (f.aux.extractLsb' 8 6).toNat
noncomputable def Env.brivIx (e : Env) (f : CF) (l : Nat) : Nat := (e.gr.vReg (brivReg f) l).toNat

/-- The lanes whose index lies at or above the count. -/
noncomputable def Env.brivBad (e : Env) (f : CF) (cnt : Nat) : Word :=
  maskIf (fun l => (e.active (Instr.briv f).guard).getLsbD l && decide (cnt ≤ e.brivIx f l))

/-- The indices in use, ascending. -/
noncomputable def Env.brivUsed (e : Env) (f : CF) (cnt : Nat) : List Nat :=
  ascending cnt ((lanesOf (e.active (Instr.briv f).guard)).map (e.brivIx f))

/-- What `briv` does with its targets. -/
noncomputable def Env.brivParted (e : Env) (j : Word) (parts : List (Word × Word)) (s : State) : Res :=
  match parts with
  | [] => .go s e.afterClause
  | [x] => .go s x.2
  | x :: xs =>
    if 16 ≤ e.splits.length then e.instr .meldSplit s
    else .gone (s.modGrp e.who (fun g => g.split e j x xs (s.entriesFree e.gr.core e.gr.slice) false))

/-- What `briv` does once its table's count and join are read. -/
noncomputable def Env.brivCounted (e : Env) (f : CF) (tb cnt j : Word) (s : State) : Res :=
  if cnt.toNat = 0 ∨ 64 < cnt.toNat then e.instr .pttIndex s
  else if e.active (Instr.briv f).guard = 0 then .go s e.afterClause
  else if e.brivBad f cnt.toNat ≠ 0 then .trap { e.trapOf (.instr .pttTarget) with lanes := e.brivBad f cnt.toNat } s
  else
    s.loadThen e ((e.brivUsed f cnt.toNat).map (fun n => tb + BitVec.ofNat 64 (16 + 8 * n))) (fun tgts s =>
      match s.checkAll e (j :: tgts) with
      | .error x => .trap x s
      | .ok _ => s.joinThen e j (e.brivParted j (e.brivParts (e.active (Instr.briv f).guard) ((e.brivUsed f cnt.toNat).headD 0)
          (e.brivIx f) ((e.brivUsed f cnt.toNat).zip tgts))))

theorem loadThen_of {s s1 : State} {e : Env} {as ws : List Word} (h : State.loadWords e as s = .ok (ws, s1))
    (k : List Word → State → Res) : s.loadThen e as k = k ws s1 := by
  unfold State.loadThen
  rw [h]

theorem checkAll_of {s : State} {e : Env} {as : List Word} (h : ∀ a ∈ as, HeaderAt s e a) : s.checkAll e as = .ok () := by
  induction as with
  | nil => rfl
  | cons a as ih =>
    obtain ⟨w, hw⟩ := checkTarget_of_headerAt (h a (List.mem_cons_self ..))
    unfold State.checkAll
    rw [hw]
    exact ih fun b hb => h b (List.mem_cons_of_mem _ hb)

section
variable {tb cnt j : Word} {s1 s2 : State} (h : Issues s e (.briv f)) (hr : e.over (brivReg f) = false)
  (hn : brivTable f < e.tm.desc.ptn)
  (h1 : State.loadWords e [e.tm.desc.ptt + BitVec.ofNat 64 (8 * brivTable f)] (s.begun e) = .ok ([tb], s1))
  (h2 : State.loadWords e [tb, tb + 8] s1 = .ok ([cnt, j], s2)) (hc : cnt.toNat ≠ 0) (hc' : cnt.toNat ≤ 64)
include h hr hn h1 h2

theorem briv_finish : exec (.briv f) s = .next (s.finish e (.briv f) (e.brivCounted f tb cnt j s2)).tick := by
  show execBriv f s = _
  unfold execBriv
  rw [issue_of_issues h rfl]
  refine congrArg (fun r => Host.Outcome.next (s.finish e (.briv f) r).tick) ?_
  change (if e.over (brivReg f) then e.instr .regRange (s.begun e)
    else if e.tm.desc.ptn ≤ brivTable f then e.instr .pttIndex (s.begun e)
    else (s.begun e).loadThen e [e.tm.desc.ptt + BitVec.ofNat 64 (8 * brivTable f)] (fun tbs s =>
      s.loadThen e [tbs.getD 0 0, tbs.getD 0 0 + 8] (fun ws s =>
        e.brivCounted f (tbs.getD 0 0) (ws.getD 0 0) (ws.getD 1 0) s))) = _
  rw [hr, if_neg Bool.false_ne_true, if_neg (by lia), loadThen_of h1]
  exact loadThen_of h2 _

include hc hc'

theorem briv_inactive (ha : e.active (Instr.briv f).guard = 0) :
    exec (.briv f) s = .next (s2.jumped s e (.briv f) e.afterClause) := by
  rw [briv_finish h hr hn h1 h2, Env.brivCounted, if_neg (by lia), if_pos ha]
  rfl

theorem briv_bad {l : Nat} (hl : (e.active (Instr.briv f).guard).getLsbD l = true) (hx : cnt.toNat ≤ e.brivIx f l) :
    exec (.briv f) s = .next ((s2.chargeIssue e (.briv f)).takeTrap e
      { e.trapOf (.instr .pttTarget) with lanes := e.brivBad f cnt.toNat } e.fr.pos e.after).tick := by
  have ha : e.active (Instr.briv f).guard ≠ 0 := fun h0 => by rw [h0] at hl; simp at hl
  have hb : e.brivBad f cnt.toNat ≠ 0 := fun h0 => by
    have hbit : (e.brivBad f cnt.toNat).getLsbD l = true := by
      rw [Env.brivBad, getLsbD_maskIf, hl, decide_eq_true hx, decide_eq_true (BitVec.lt_of_getLsbD hl)]
      rfl
    rw [h0] at hbit
    simp at hbit
  rw [briv_finish h hr hn h1 h2, Env.brivCounted, if_neg (by lia), if_neg ha, if_pos hb]
  rfl

theorem briv_parted {tgts : List Word} {s3 : State} (ha : e.active (Instr.briv f).guard ≠ 0)
    (hx : ∀ l, (e.active (Instr.briv f).guard).getLsbD l = true → e.brivIx f l < cnt.toNat)
    (h3 : State.loadWords e ((e.brivUsed f cnt.toNat).map (fun k => tb + BitVec.ofNat 64 (16 + 8 * k))) s2 = .ok (tgts, s3))
    (ht : ∀ t, t ∈ tgts → HeaderAt s3 e t) (hj : JoinAt s3 e j) :
    exec (.briv f) s = .next (s.finish e (.briv f) (e.brivParted j (e.brivParts (e.active (Instr.briv f).guard)
      ((e.brivUsed f cnt.toNat).headD 0) (e.brivIx f) ((e.brivUsed f cnt.toNat).zip tgts)) s3)).tick := by
  have hb : e.brivBad f cnt.toNat = 0 := by
    refine BitVec.eq_of_getLsbD_eq fun l _ => ?_
    rw [Env.brivBad, getLsbD_maskIf]
    cases hl : (e.active (Instr.briv f).guard).getLsbD l with
    | false => simp
    | true => simp [Nat.not_le.mpr (hx l hl)]
  have hall : s3.checkAll e (j :: tgts) = .ok () := checkAll_of fun a hm => by
    rcases List.mem_cons.mp hm with rfl | hm
    · exact hj.1
    · exact ht a hm
  rw [briv_finish h hr hn h1 h2, Env.brivCounted, if_neg (by lia), if_neg ha, if_neg (not_not.mpr hb), loadThen_of h3, hall]
  change Host.Outcome.next (s.finish e (.briv f) (s3.joinThen e j _)).tick = _
  rw [joinThen_of hj]

end

end

/-! The parts of `briv`. -/

theorem brivParts_targets (e : Env) (a : Word) (low : Nat) (ix : Nat → Nat) (tgts : List (Nat × Word)) :
    (e.brivParts a low ix tgts).map (·.2) = (tgts.map (·.2)).eraseDups := by
  unfold Env.brivParts
  rw [List.map_map]
  exact List.map_id _

theorem nodup_eraseDups {α : Type} [BEq α] [LawfulBEq α] (xs : List α) : xs.eraseDups.Nodup := by
  induction hn : xs.length using Nat.strong_induction_on generalizing xs with
  | _ n ih =>
    cases xs with
    | nil => simp
    | cons x xs =>
      rw [List.eraseDups_cons, List.nodup_cons]
      refine ⟨fun hx => ?_, ih _ ?_ _ rfl⟩
      · rw [List.mem_eraseDups, List.mem_filter] at hx
        simp at hx
      · rw [← hn, List.length_cons]
        exact Nat.lt_succ_of_le (List.length_filter_le _ _)

theorem brivParts_spec (e : Env) (a : Word) (low : Nat) (ix : Nat → Nat) (tgts : List (Nat × Word)) :
    let parts := e.brivParts a low ix tgts
    (parts.map (·.2)).Nodup ∧ (∀ v, v ∈ parts.map (·.2) ↔ v ∈ tgts.map (·.2)) ∧
    (∀ l k v, l < 64 → tgts.find? (fun x => x.1 == if a.getLsbD l then ix l else low) = some (k, v) →
      ∀ p, p ∈ parts → p.1.getLsbD l = (e.whole.getLsbD l && p.2 == v)) ∧
    (∀ k v rest, tgts = (k, v) :: rest → ∃ m ps, parts = (m, v) :: ps) := by
  intro parts
  refine ⟨?_, fun v => ?_, fun l k v hl hf p hp => ?_, fun k v rest ht => ?_⟩
  · rw [brivParts_targets]
    exact nodup_eraseDups _
  · rw [brivParts_targets, List.mem_eraseDups]
  · obtain ⟨u, -, rfl⟩ := List.mem_map.mp hp
    rw [getLsbD_maskIf, decide_eq_true hl, Bool.true_and]
    dsimp only
    rw [hf]
    exact congrArg (e.whole.getLsbD l && ·) BEq.comm
  · subst ht
    show ∃ m ps, e.brivParts a low ix ((k, v) :: rest) = (m, v) :: ps
    unfold Env.brivParts
    rw [List.map_cons, List.eraseDups_cons, List.map_cons]
    exact ⟨_, _, rfl⟩

/-! What a split leaves of its group. -/

theorem find_foldl_insert {α : Type} {key : α → Nat} {xs : List α} {k : Nat} (m : AMap α) (h : ∀ x ∈ xs, key x ≠ k) :
    AMap.find (xs.foldl (fun m x => AMap.insert m (key x) x) m) k = AMap.find m k := by
  induction xs generalizing m with
  | nil => rfl
  | cons x xs ih =>
    refine (ih _ fun y hy => h y (List.mem_cons_of_mem _ hy)).trans ?_
    rw [AMap.find_insert, if_neg (h x (List.mem_cons_self ..)).symm]

theorem find_foldl_insert_mem {α : Type} {key : α → Nat} {xs : List α} (m : AMap α)
    (hn : (xs.map key).Nodup) {x : α} (hx : x ∈ xs) :
    AMap.find (xs.foldl (fun m x => AMap.insert m (key x) x) m) (key x) = some x := by
  induction xs generalizing m with
  | nil => cases hx
  | cons y ys ih =>
    rw [List.map_cons, List.nodup_cons] at hn
    rcases List.mem_cons.mp hx with rfl | hx
    · refine (find_foldl_insert (xs := ys) (AMap.insert m (key x) x) fun z hz he => hn.1 ?_).trans ?_
      · exact he ▸ List.mem_map_of_mem hz
      · rw [AMap.find_insert, if_pos rfl]
    · exact ih _ hn.2 hx

section
variable (g : Group) (e : Env) (j : Word) (first : Word × Word) (rest : List (Word × Word)) (free : Nat) (serial : Bool)

/-- A part of a split as a fragment. -/
noncomputable def Group.part (g : Group) (e : Env) (x : Word × Word) (k : Nat) (run entry : Bool) : Frag :=
  { key := k, pos := { pc := x.2 }, exec := x.1, mask := x.1, st := if run then .running else .waiting,
    entry := entry, split := some g.nextRec, inH := e.fr.inH }

/-- The parts of a split that leave the issue context. -/
noncomputable def Group.others (g : Group) (e : Env) (rest : List (Word × Word)) (free : Nat) : List Frag :=
  (rest.zip (List.range rest.length)).map (fun xi =>
    g.part e xi.1 (g.nextKey + xi.2) (decide (xi.2 < free)) (decide (xi.2 < free)))

theorem split_frags : (g.split e j first rest free serial).frags =
    (g.others e rest free).foldl (fun m f => AMap.insert m f.key f)
      (AMap.insert g.frags e.who.frag (g.part e first e.who.frag true false)) := rfl

theorem others_keys : (g.others e rest free).map (·.key) = (List.range rest.length).map (g.nextKey + ·) := by
  unfold Group.others
  rw [List.map_map]
  change (rest.zip (List.range rest.length)).map ((g.nextKey + ·) ∘ Prod.snd) = _
  rw [← List.map_map, List.map_snd_zip (by rw [List.length_range])]

theorem split_spec (hk : e.who.frag < g.nextKey) (ma ta : Word) :
    let g' := g.split e j (ma, ta) rest free serial
    (∃ f, AMap.find g'.frags e.who.frag = some f ∧ f.exec = ma ∧ f.pos = { pc := ta } ∧ f.st = .running ∧
      f.entry = false ∧ f.split = some g.nextRec) ∧
    (∀ k m t, rest[k]? = some (m, t) →
      ∃ f, AMap.find g'.frags (g.nextKey + k) = some f ∧ f.exec = m ∧ f.pos = { pc := t } ∧
        f.split = some g.nextRec ∧ f.entry = decide (k < free) ∧
        f.st = if k < free then .running else .waiting) ∧
    (∃ r, g'.splits = g.splits ++ [r] ∧ r.id = g.nextRec ∧ r.join = j ∧ r.lanes = e.whole ∧
      r.parent = e.fr.split ∧ r.home = e.fr.entry ∧ r.key = e.who.frag ∧ r.serial = serial) ∧
    g'.v = g.v ∧ g'.p = g.p ∧ g'.g = g.g ∧ g'.live = g.live := by
  intro g'
  refine ⟨⟨g.part e (ma, ta) e.who.frag true false, ?_, rfl, rfl, rfl, rfl, rfl⟩, fun k m t hk' => ⟨g.part e (m, t) (g.nextKey + k) (decide (k < free))
    (decide (k < free)), ?_, rfl, rfl, rfl, rfl, ?_⟩, ⟨_, rfl, rfl, rfl, rfl, rfl, rfl, rfl, rfl⟩, rfl, rfl, rfl, rfl⟩
  · rw [split_frags, find_foldl_insert _ fun x hx he => ?_, AMap.find_insert, if_pos rfl]
    have hmem : x.key ∈ (g.others e rest free).map (·.key) := List.mem_map_of_mem hx
    rw [others_keys, List.mem_map] at hmem
    obtain ⟨i, -, hi⟩ := hmem
    lia
  · have hmem : g.part e (m, t) (g.nextKey + k) (decide (k < free)) (decide (k < free)) ∈ g.others e rest free := by
      refine List.mem_map.mpr ⟨((m, t), k), ?_, rfl⟩
      obtain ⟨hlt, hget⟩ := List.getElem?_eq_some_iff.mp hk'
      refine List.mem_iff_getElem.mpr ⟨k, by rw [List.length_zip, List.length_range, Nat.min_self]; exact hlt, ?_⟩
      rw [List.getElem_zip, List.getElem_range, hget]
    rw [split_frags]
    refine find_foldl_insert_mem (key := (·.key)) _ ?_ hmem
    rw [others_keys]
    exact List.Nodup.map (fun a b h => Nat.add_left_cancel h) List.nodup_range
  · show (if decide (k < free) = true then FragSt.running else .waiting) = _
    simp only [decide_eq_true_eq]

end

/-- Settles O20: the two words, the parts of `briv`, and the fragments of a split. -/
theorem splits : Obligations.Splits := by
  refine ⟨fun s e f => ⟨?_, ?_⟩, fun e a low ix tgts => brivParts_spec e a low ix tgts,
    fun g e j ma ta rest free serial hk => split_spec g e j rest free serial hk ma ta⟩
  · intro i t j p m free h ht hj
    refine ⟨fun hm => brv_all h ht hj hm, fun hm h0 => brv_none h ht hj hm h0, fun hm h0 hl hf => ?_, fun hm h0 hl hf => ?_,
      fun hm h0 hl => brv_full h ht hj hm h0 hl⟩
    · have := brv_splits h ht hj hm h0 hl
      simp only [show 0 < s.entriesFree e.gr.core e.gr.slice from hf, if_true] at this
      exact this
    · have := brv_splits h ht hj hm h0 hl
      simp only [show s.entriesFree e.gr.core e.gr.slice = 0 from hf, Nat.lt_irrefl, if_false] at this
      exact this
  · intro i r n a ix tb cnt j s1 s2 h hr hn h1 h2 hc hc'
    refine ⟨fun ha => briv_inactive h hr hn h1 h2 hc hc' ha, fun ⟨l, hl, hx⟩ => ⟨e.brivBad f cnt.toNat, fun l hl => ?_,
      briv_bad h hr hn h1 h2 hc hc' hl hx⟩, ?_⟩
    · rw [Env.brivBad, getLsbD_maskIf, decide_eq_true hl]
      rfl
    · intro used tgts s3 ha hx h3 ht hj parts
      have hp := briv_parted h hr hn h1 h2 hc hc' ha hx h3 ht hj
      refine ⟨fun x hpx => ?_, fun x y ys hpx => ⟨fun hl => ?_, fun hl => ?_⟩⟩
      all_goals
        rw [show exec i s = exec (.briv f) s from rfl, hp]
        change Host.Outcome.next (s.finish e (.briv f) (e.brivParted j parts s3)).tick = _
        rw [hpx]
      · rfl
      · change Host.Outcome.next (s.finish e (.briv f) (if 16 ≤ e.splits.length then _ else _)).tick = _
        rw [if_neg (by lia)]
        rfl
      · change Host.Outcome.next (s.finish e (.briv f) (if 16 ≤ e.splits.length then _ else _)).tick = _
        rw [if_pos hl]
        rfl

end Sys2Proof.Machine
end

section
/-! Maps in their canonical order: what a key finds is what the list holds. -/

namespace Sys2Proof.Machine

section
variable {α : Type} {m : AMap α} {k : Nat} {x : α}

theorem AMap.mem_of_find (h : AMap.find m k = some x) : (k, x) ∈ m := by
  induction m with
  | nil => cases h
  | cons c m ih =>
    obtain ⟨i, y⟩ := c
    rw [AMap.find] at h
    split at h
    · rename_i hi
      rw [hi, Option.some.inj h]
      exact List.mem_cons_self ..
    · exact List.mem_cons_of_mem _ (ih h)

theorem AMap.find_of_mem (hs : AMap.sorted m = true) (h : (k, x) ∈ m) : AMap.find m k = some x := by
  rw [AMap.sorted_iff_pairwise] at hs
  induction m with
  | nil => cases h
  | cons c m ih =>
    obtain ⟨i, y⟩ := c
    rw [List.pairwise_cons] at hs
    rcases List.mem_cons.mp h with he | h
    · cases he
      exact if_pos rfl
    · rw [AMap.find, if_neg (hs.1 _ h).ne]
      exact ih hs.2 h

theorem AMap.find_filter (hs : AMap.sorted m = true) (p : Nat × α → Bool) (h : AMap.find m k = some x) :
    AMap.find (m.filter p) k = if p (k, x) then some x else none := by
  split
  · rename_i hp
    exact AMap.find_of_mem (AMap.sorted_filter p hs) (List.mem_filter.mpr ⟨AMap.mem_of_find h, hp⟩)
  · rename_i hp
    cases hf : AMap.find (m.filter p) k with
    | none => rfl
    | some y =>
      obtain ⟨hy, hpy⟩ := List.mem_filter.mp (AMap.mem_of_find hf)
      rw [AMap.find_of_mem hs hy] at h
      exact absurd (Option.some.inj h ▸ hpy) hp

/-- The first entry of a map in order that has a property is the one of the lowest key. -/
theorem AMap.find?_lowest (hs : AMap.sorted m = true) {p : Nat × α → Bool} (h : m.find? p = some (k, x)) :
    AMap.find m k = some x ∧ p (k, x) = true ∧ ∀ j y, j < k → AMap.find m j = some y → p (j, y) = false := by
  obtain ⟨hp, as, bs, rfl, hno⟩ := List.find?_eq_some_iff_append.mp h
  refine ⟨AMap.find_of_mem hs (by simp), hp, fun j y hj hy => ?_⟩
  have hmem := AMap.mem_of_find hy
  rw [AMap.sorted_iff_pairwise, List.pairwise_append, List.pairwise_cons] at hs
  rcases List.mem_append.mp hmem with hin | hin
  · simpa using hno _ hin
  · rcases List.mem_cons.mp hin with he | hin
    · cases he
      exact absurd hj (Nat.lt_irrefl _)
    · exact absurd hj (Nat.not_lt.mpr (hs.2.1.1 _ hin).le)

end

end Sys2Proof.Machine
end

section
/-! Joins (R36, R269). -/

namespace Sys2Proof.Machine

/-! The word. -/

/-- What `join` at the innermost record's join makes of its group. -/
noncomputable def Group.joined (r : SplitRec) (e : Env) (g : Group) : Group :=
  if ((g.members r.id).filter (fun x => x.1 != e.who.frag)).all (fun x => x.2.split == some r.id && x.2.st == .joined) then
    g.fuse r e.fr e.after
  else
    let g1 := g.modFrag e.who.frag (fun f => { f with st := .joined, stall := none })
    (g1.startWaiting r.id e.fr).getD g1

section
variable {s : State} {e : Env} {f : CF}

theorem join_alone (h : Issues s e (.join f)) (hr : e.gr.recs e.fr = []) :
    exec (.join f) s = .next ((s.begun e).issued s e (.join f)) := by
  refine issue_done h rfl ?_
  dsimp only
  rw [hr]

section
variable {r : SplitRec} {outer : List SplitRec} (h : Issues s e (.join f)) (hr : e.gr.recs e.fr = r :: outer)
include h hr

theorem join_finish : exec (.join f) s = .next (s.finish e (.join f) (
    if r.join = e.header then
      .gone (State.fillEntries e.gr.core e.gr.slice 64 ((s.begun e).modGrp e.who (Group.joined r e)))
    else if outer.any (fun x => x.join == e.header) then e.instr .meldSplit (s.begun e)
    else .done (s.begun e))).tick := by
  show execJoin f s = _
  unfold execJoin
  rw [issue_of_issues h rfl]
  dsimp only
  rw [hr]
  rfl

theorem join_elsewhere (hj : r.join ≠ e.header) (ho : outer.any (fun x => x.join == e.header) = false) :
    exec (.join f) s = .next ((s.begun e).issued s e (.join f)) := by
  rw [join_finish h hr, if_neg hj, ho, if_neg Bool.false_ne_true]
  rfl

theorem join_outer (hj : r.join ≠ e.header) (ho : outer.any (fun x => x.join == e.header) = true) :
    exec (.join f) s = .next (s.trapped e (.join f) (e.trapOf (.instr .meldSplit))) := by
  rw [join_finish h hr, if_neg hj, if_pos ho]
  rfl

theorem join_own (hj : r.join = e.header) :
    exec (.join f) s = .next ((State.fillEntries e.gr.core e.gr.slice 64
      ((s.begun e).modGrp e.who (Group.joined r e))).left s e (.join f)) := by
  rw [join_finish h hr, if_pos hj]
  rfl

end

end

/-! The fusion of a record, and the start of a part that waits. -/

theorem getLsbD_foldl_or {α : Type} (m : α → Word) (xs : List α) (a : Word) (l : Nat) :
    (xs.foldl (fun a x => a ||| m x) a).getLsbD l = (a.getLsbD l || xs.any (fun x => (m x).getLsbD l)) := by
  induction xs generalizing a with
  | nil => simp
  | cons x xs ih => rw [List.foldl_cons, ih, BitVec.getLsbD_or, List.any_cons, Bool.or_assoc]

theorem fuse_spec (g : Group) (r : SplitRec) (base : Frag) (pos : Pos) :
    let g' := g.fuse r base pos
    (∃ f, AMap.find g'.frags r.key = some f ∧ f.pos = pos ∧ f.split = r.parent ∧ f.st = .running ∧ f.entry = r.home ∧
      f.re = [] ∧ ∀ l, f.exec.getLsbD l =
        ((g.members r.id).any (fun x => x.2.mask.getLsbD l) && g.live.getLsbD l)) ∧
    (AMap.sorted g.frags = true → ∀ k f, k ≠ r.key → AMap.find g.frags k = some f →
      AMap.find g'.frags k = if (g.recs f).any (fun x => x.id == r.id) then none else some f) ∧
    (∀ x, x ∈ g'.splits ↔ x ∈ g.splits ∧ x.id ≠ r.id) ∧ g'.v = g.v ∧ g'.g = g.g ∧ g'.live = g.live := by
  intro g'
  refine ⟨⟨_, (AMap.find_insert _ r.key _ r.key).trans (if_pos rfl), rfl, rfl, rfl, rfl, rfl, fun l => ?_⟩,
    fun hs k f hk hf => ?_, fun x => ?_, rfl, rfl, rfl⟩
  · show BitVec.getLsbD (_ &&& g.live) l = _
    rw [BitVec.getLsbD_and, getLsbD_foldl_or (fun x : Nat × Frag => x.2.mask)]
    simp
  · show AMap.find (AMap.insert _ r.key _) k = _
    rw [AMap.find_insert, if_neg hk, AMap.find_filter hs _ hf]
    cases (g.recs f).any (fun x => x.id == r.id) <;> rfl
  · show x ∈ g.splits.filter (fun x => x.id != r.id) ↔ _
    rw [List.mem_filter, bne_iff_ne]

theorem startWaiting_spec (g : Group) (id : Nat) (giver : Frag) (hs : AMap.sorted g.frags = true) :
    let waits (f : Frag) : Prop := f.split = some id ∧ f.st = .waiting
    (g.startWaiting id giver = none ↔ ∀ x, x ∈ g.frags → ¬waits x.2) ∧
    (∀ g', g.startWaiting id giver = some g' → ∃ k f f', AMap.find g.frags k = some f ∧ waits f ∧
      (∀ j h, j < k → AMap.find g.frags j = some h → ¬waits h) ∧ AMap.find g'.frags k = some f' ∧
      f'.st = .running ∧ f'.entry = giver.entry ∧ f'.pos = f.pos ∧ f'.exec = f.exec ∧ f'.split = f.split) := by
  intro waits
  have hw (f : Frag) : (f.split == some id && f.st == .waiting) = true ↔ waits f := by
    rw [Bool.and_eq_true, beq_iff_eq, beq_iff_eq]
  unfold Group.startWaiting
  cases hf : g.frags.find? (fun f => f.2.split == some id && f.2.st == .waiting) with
  | none =>
    refine ⟨⟨fun _ x hx hwx => List.find?_eq_none.mp hf x hx ((hw x.2).mpr hwx), fun _ => rfl⟩, fun g' hg => ?_⟩
    cases hg
  | some y =>
    obtain ⟨k, f⟩ := y
    obtain ⟨hk, hp, hlow⟩ := AMap.find?_lowest hs hf
    refine ⟨⟨fun h => ?_, fun h => absurd ((hw f).mp hp) (h _ (AMap.mem_of_find hk))⟩, fun g' hg => ?_⟩
    · cases h
    · cases hg
      refine ⟨k, f, { (if k = giver.key then { f with entry := false } else f) with
        st := .running, late := false, entry := giver.entry }, hk, (hw f).mp hp, fun j h hj hh hwh => ?_, ?_, rfl, rfl, ?_⟩
      · have := hlow j h hj hh
        rw [(hw h).mpr hwh] at this
        cases this
      · show AMap.find (AMap.modify (AMap.modify g.frags giver.key _) k _) k = _
        rw [AMap.find_modify, if_pos rfl, AMap.find_modify, hk]
        split <;> rfl
      · split <;> exact ⟨rfl, rfl, rfl⟩

/-- Settles O21: the word in each of its cases, the fusion, and the start of a waiting part. -/
theorem joins : Obligations.Joins := by
  refine ⟨fun s e f h => ⟨fun hr => join_alone h hr, fun r outer hr => ⟨fun hj ho => join_elsewhere h hr hj ho,
    fun hj ho => join_outer h hr hj ho, fun hj => ⟨Group.joined r e, join_own h hr hj, fun g => ?_⟩⟩⟩,
    fun g r base pos => fuse_spec g r base pos, fun g id giver hs => startWaiting_spec g id giver hs⟩
  exact ⟨fun ha => if_pos ha, fun ha => ⟨_, rfl, if_neg (by rw [ha]; exact Bool.false_ne_true)⟩⟩

end Sys2Proof.Machine
end

section
/-! What a change of the state can do to teams and groups, told for every name at once. -/

namespace Sys2Proof.Machine

/-- Every team of `s` is a team of `t` as `T` says, and every group of it a group there as `R` says. -/
def Through (T : Team → Team → Prop) (R : Group → Group → Prop) (s t : State) : Prop :=
  ∀ tid x, AMap.find s.teams tid = some x → ∃ y, AMap.find t.teams tid = some y ∧ T x y ∧
    ∀ n g, AMap.find x.groups n = some g → ∃ h, AMap.find y.groups n = some h ∧ R g h

section
variable {T : Team → Team → Prop} {R : Group → Group → Prop} {s t u : State}

theorem Through.grp? (h : Through T R s t) {w : Sel} {g : Group} (hg : s.grp? w = some g) :
    ∃ g', t.grp? w = some g' ∧ R g g' := by
  unfold State.grp? at hg ⊢
  cases hx : AMap.find s.teams w.tid with
  | none => rw [hx] at hg; cases hg
  | some x =>
    rw [hx] at hg
    obtain ⟨y, hy, -, hgr⟩ := h _ _ hx
    obtain ⟨g', h1, h2⟩ := hgr _ _ hg
    rw [hy]
    exact ⟨g', h1, h2⟩

theorem Through.of_teams (hT : ∀ x, T x x) (hR : ∀ g, R g g) (h : t.teams = s.teams) : Through T R s t :=
  fun _ x hx => ⟨x, h ▸ hx, hT x, fun _ g hg => ⟨g, hg, hR g⟩⟩

theorem Through.refl (hT : ∀ x, T x x) (hR : ∀ g, R g g) (s : State) : Through T R s s := .of_teams hT hR rfl

theorem Through.trans (hT : ∀ x y z, T x y → T y z → T x z) (hR : ∀ g h k, R g h → R h k → R g k)
    (h : Through T R s t) (k : Through T R t u) : Through T R s u := by
  intro tid x hx
  obtain ⟨y, hy, hxy, hgr⟩ := h tid x hx
  obtain ⟨z, hz, hyz, hgr'⟩ := k tid y hy
  refine ⟨z, hz, hT _ _ _ hxy hyz, fun n g hg => ?_⟩
  obtain ⟨g', h1, h2⟩ := hgr n g hg
  obtain ⟨g'', h3, h4⟩ := hgr' n g' h1
  exact ⟨g'', h3, hR _ _ _ h2 h4⟩

theorem Through.mono {T' : Team → Team → Prop} {R' : Group → Group → Prop} (hT : ∀ x y, T x y → T' x y)
    (hR : ∀ g h, R g h → R' g h) (h : Through T R s t) : Through T' R' s t := by
  intro tid x hx
  obtain ⟨y, hy, hxy, hgr⟩ := h tid x hx
  refine ⟨y, hy, hT _ _ hxy, fun n g hg => ?_⟩
  obtain ⟨g', h1, h2⟩ := hgr n g hg
  exact ⟨g', h1, hR _ _ h2⟩

theorem Through.of_modTeam {f : Team → Team} {tid : Nat} (hT : ∀ x, T x x) (hR : ∀ g, R g g)
    (h : ∀ x, AMap.find s.teams tid = some x → T x (f x) ∧
      ∀ n g, AMap.find x.groups n = some g → ∃ g', AMap.find (f x).groups n = some g' ∧ R g g') :
    Through T R s (s.modTeam tid f) := by
  intro k x hx
  rw [State.find_modTeam, hx]
  split
  · rename_i hk
    subst hk
    exact ⟨f x, rfl, h x hx⟩
  · exact ⟨x, rfl, hT x, fun _ g hg => ⟨g, hg, hR g⟩⟩

theorem Through.of_modGrp {f : Group → Group} {w : Sel} (hT : ∀ x gs, T x { x with groups := gs }) (hR : ∀ g, R g g)
    (h : ∀ g, R g (f g)) : Through T R s (s.modGrp w f) := by
  refine .of_modTeam (fun x => hT x x.groups) hR fun x _ => ⟨hT x _, fun n g hg => ?_⟩
  rw [Team.find_modGrp, hg]
  split
  · exact ⟨f g, rfl, h g⟩
  · exact ⟨g, rfl, hR g⟩

theorem Through.of_quiet (hT : ∀ x, T x x) (hR : ∀ g, R g g) (h : Quiet s t) : Through T R s t := .of_teams hT hR h.teams

theorem Through.of_settles (hT : ∀ x sc, T x { x with scr := sc }) (hR : ∀ g, R g g) (h : Settles s t) : Through T R s t := by
  intro tid x hx
  obtain ⟨sc, hsc⟩ := h.team tid
  rw [hx] at hsc
  exact ⟨_, hsc, hT x _, fun n g hg => ⟨g, hg, hR g⟩⟩

theorem Through.foldl {α : Type} {f : State → α → State} (hT : ∀ x, T x x) (hR : ∀ g, R g g)
    (hTt : ∀ x y z, T x y → T y z → T x z) (hRt : ∀ g h k, R g h → R h k → R g k) {xs : List α}
    (h : ∀ s, ∀ a ∈ xs, Through T R s (f s a)) (s : State) : Through T R s (xs.foldl f s) := by
  induction xs generalizing s with
  | nil => exact .refl hT hR s
  | cons a xs ih =>
    exact (h s a (List.mem_cons_self ..)).trans hTt hRt (ih (fun s b hb => h s b (List.mem_cons_of_mem _ hb)) _)

end

/-! Records and traces leave every team as it is. -/

@[simp] theorem State.teams_ringWrite (s : State) (r : FRec) : (s.ringWrite r).teams = s.teams := by
  obtain ⟨m, l, a, z, h⟩ := onlyBytes_wrBytes s (hostKey (s.host.hfqbase.toNat + 64 * (s.host.hfqtail.toNat % 2 ^ s.host.hfqS)))
    ((r.words.map (fun w => leBytes 8 w.toNat)).flatten)
  unfold State.ringWrite State.raised
  dsimp only
  rw [h]

@[simp] theorem State.teams_post (s : State) (r : FRec) : (s.post r).teams = s.teams := by
  unfold State.post
  split
  · exact s.teams_ringWrite r
  · split
    · rfl
    · split <;> rfl

theorem teams_foldl {α : Type} {f : State → α → State} (h : ∀ s a, (f s a).teams = s.teams) (xs : List α) (s : State) :
    (xs.foldl f s).teams = s.teams := by
  induction xs generalizing s with
  | nil => rfl
  | cons a xs ih => exact (ih _).trans (h s a)

@[simp] theorem State.teams_emit (s : State) (core : Nat) (srcs : List Nat) (r : Option TRec) :
    (s.emit core srcs r).teams = s.teams := (emit_quiet s core srcs r).teams

@[simp] theorem State.teams_noteArrival (s : State) (w : Sel) (n k : Nat) : (s.noteArrival w n k).teams = s.teams := by
  unfold State.noteArrival
  split
  · exact s.teams_emit _ _ _
  · rfl

/-! The entries of a slice that are given out. -/

/-- A fragment stands where it stood, with its lanes. -/
def SamePlace (f f' : Frag) : Prop := f'.pos = f.pos ∧ f'.exec = f.exec ∧ f'.re = f.re

/-- Every fragment stands where it stood, and none has come. -/
def SamePlaces (m m' : AMap Frag) : Prop :=
  (∀ k f, AMap.find m k = some f → ∃ f', AMap.find m' k = some f' ∧ SamePlace f f') ∧ (m = [] → m' = [])

theorem SamePlaces.refl (m : AMap Frag) : SamePlaces m m := ⟨fun _ f hf => ⟨f, hf, rfl, rfl, rfl⟩, id⟩

theorem SamePlaces.trans {m n o : AMap Frag} (h : SamePlaces m n) (k : SamePlaces n o) : SamePlaces m o := by
  refine ⟨fun i f hf => ?_, fun he => k.2 (h.2 he)⟩
  obtain ⟨f', h1, h2, h3, h4⟩ := h.1 i f hf
  obtain ⟨f'', k1, k2, k3, k4⟩ := k.1 i f' h1
  exact ⟨f'', k1, k2.trans h2, k3.trans h3, k4.trans h4⟩

theorem samePlaces_modify (m : AMap Frag) (k : Nat) {f : Frag → Frag} (h : ∀ x, SamePlace x (f x)) :
    SamePlaces m (AMap.modify m k f) := by
  refine ⟨fun i x hx => ?_, fun he => by rw [he]; rfl⟩
  rw [AMap.find_modify, hx]
  split
  · exact ⟨f x, rfl, h x⟩
  · exact ⟨x, rfl, rfl, rfl, rfl⟩

noncomputable def Group.withFrags (g : Group) (fr : AMap Frag) : Group := { g with frags := fr }

/-- A group but for marks of its fragments, their places as they were. -/
def FragsOnly (g h : Group) : Prop := ∃ fr, h = g.withFrags fr ∧ SamePlaces g.frags fr

theorem FragsOnly.refl (g : Group) : FragsOnly g g := ⟨g.frags, rfl, .refl _⟩

theorem FragsOnly.trans (g h k : Group) (a : FragsOnly g h) (b : FragsOnly h k) : FragsOnly g k := by
  obtain ⟨fr, rfl, h1⟩ := a
  obtain ⟨fr', rfl, h2⟩ := b
  exact ⟨fr', rfl, h1.trans h2⟩

noncomputable def Team.withGroups (x : Team) (gs : AMap Group) : Team := { x with groups := gs }

/-- A team but for its groups. -/
def GroupsOnly (x y : Team) : Prop := ∃ gs, y = x.withGroups gs

theorem GroupsOnly.refl (x : Team) : GroupsOnly x x := ⟨_, rfl⟩

theorem GroupsOnly.trans (x y z : Team) (h : GroupsOnly x y) (k : GroupsOnly y z) : GroupsOnly x z := by
  obtain ⟨_, rfl⟩ := h
  obtain ⟨_, rfl⟩ := k
  exact ⟨_, rfl⟩

theorem fillEntries_through (core slice n : Nat) (s : State) : Through GroupsOnly FragsOnly s (State.fillEntries core slice n s) := by
  induction n generalizing s with
  | zero => exact .refl GroupsOnly.refl FragsOnly.refl s
  | succ n ih =>
    unfold State.fillEntries
    split
    · exact .refl GroupsOnly.refl FragsOnly.refl s
    · split
      · exact .refl GroupsOnly.refl FragsOnly.refl s
      · refine Through.trans GroupsOnly.trans FragsOnly.trans (.of_modGrp (fun _ _ => ⟨_, rfl⟩) FragsOnly.refl fun g => ?_) (ih _)
        exact ⟨_, rfl, samePlaces_modify _ _ fun x => ⟨rfl, rfl, rfl⟩⟩

theorem fillEntries_only (core slice n : Nat) (s : State) : ∃ tm, State.fillEntries core slice n s = { s with teams := tm } := by
  induction n generalizing s with
  | zero => exact ⟨_, rfl⟩
  | succ n ih =>
    unfold State.fillEntries
    split
    · exact ⟨_, rfl⟩
    · split
      · exact ⟨_, rfl⟩
      · obtain ⟨tm, h⟩ := ih (s.modFrag _ _)
        exact ⟨tm, h⟩

/-! Deferred faults that no live lane is left for. -/

noncomputable def Group.withFaults (g : Group) (d : List Deferred) (p : Bool) : Group :=
  { g with deferred := d, posting := p }

/-- A group but for its deferred faults and the record that it waits with. -/
def FaultsOnly (g h : Group) : Prop := ∃ d p, h = g.withFaults d p

theorem FaultsOnly.refl (g : Group) : FaultsOnly g g := ⟨_, _, rfl⟩

theorem FaultsOnly.trans (g h k : Group) (a : FaultsOnly g h) (b : FaultsOnly h k) : FaultsOnly g k := by
  obtain ⟨_, _, rfl⟩ := a
  obtain ⟨_, _, rfl⟩ := b
  exact ⟨_, _, rfl⟩

theorem postDead_through (s : State) (w : Sel) : Through GroupsOnly FaultsOnly s (s.postDead w) := by
  have hmod (t : State) {f : Group → Group} (h : ∀ g, FaultsOnly g (f g)) : Through GroupsOnly FaultsOnly t (t.modGrp w f) :=
    .of_modGrp (fun _ _ => ⟨_, rfl⟩) FaultsOnly.refl h
  have hposts (ds : List Deferred) (r : Deferred → FRec) (t : State) :
      Through GroupsOnly FaultsOnly t (ds.foldl (fun s d => s.post (r d)) t) :=
    .of_teams GroupsOnly.refl FaultsOnly.refl (teams_foldl (fun s d => s.teams_post (r d)) ds t)
  unfold State.postDead
  split
  · exact .refl GroupsOnly.refl FaultsOnly.refl s
  · split
    · exact .refl GroupsOnly.refl FaultsOnly.refl s
    · dsimp only
      split
      · exact .refl GroupsOnly.refl FaultsOnly.refl s
      · rename_i x _ _ g _ _
        have h2 := (hmod s (f := fun g => { g with deferred := g.deferred.filter (fun d => d.info.lanes &&& g.live != 0) })
          fun g => ⟨_, _, rfl⟩).trans GroupsOnly.trans FaultsOnly.trans (hposts
          (g.deferred.filter (fun d => d.info.lanes &&& g.live == 0))
          (fun d => haltRecord x w g d.info.cause.code 0 { d.info with lanes := 0 }) _)
        split
        · exact h2.trans GroupsOnly.trans FaultsOnly.trans (hmod _ fun g => ⟨_, _, rfl⟩)
        · exact h2

theorem postDead_none {s : State} {w : Sel} {g : Group} (hg : s.grp? w = some g)
    (h : ∀ d, d ∈ g.deferred → d.info.lanes &&& g.live ≠ 0) : s.postDead w = s := by
  unfold State.grp? at hg
  unfold State.postDead
  cases hx : AMap.find s.teams w.tid with
  | none => rfl
  | some x =>
    rw [hx] at hg
    dsimp only at hg ⊢
    rw [hg]
    have : g.deferred.filter (fun d => d.info.lanes &&& g.live == 0) = [] :=
      List.filter_eq_nil_iff.mpr fun d hd => by simpa using h d hd
    dsimp only
    rw [this]
    exact if_pos rfl

end Sys2Proof.Machine
end

section
/-! The phases of a barrier (R165): one completes, and those that held engine arrivals alone complete follow. -/

namespace Sys2Proof.Machine

/-! One barrier. -/

/-- The phases of a barrier that complete one after another. -/
noncomputable def Bar.settle : Nat → Bar → Bar
  | 0, b => b
  | k + 1, b => if b.full then settle k b.next else b

theorem Bar.settle_of_not_full {b : Bar} (h : b.full = false) (k : Nat) : Bar.settle k b = b := by
  cases k with
  | zero => rfl
  | succ k => rw [Bar.settle, h, if_neg Bool.false_ne_true]

theorem Bar.full_next_iff (b : Bar) : b.next.full = true ↔ b.grp ≤ b.fewer ∧ 0 < b.eng ∧ b.eng ≤ b.held := by
  unfold Bar.full Bar.next
  simp only [List.length_nil, Bool.and_eq_true, beq_iff_eq, decide_eq_true_eq]
  lia

/-- No group is left to expect, and engine arrivals alone complete the phase: what the phases that follow leave. -/
theorem Bar.settle_engine (k : Nat) (b : Bar) (hb : b.full = true) (hg : b.grp ≤ b.fewer) (he : 0 < b.eng)
    (hk : b.held / b.eng + 1 ≤ k) :
    Bar.settle k b = { ph := b.ph != decide (b.held / b.eng % 2 = 0), grp := 0, eng := b.eng, arr := []
                       earr := b.held % b.eng, held := 0, fewer := 0 } := by
  induction k generalizing b with
  | zero => exact absurd hk (Nat.not_succ_le_zero _)
  | succ k ih =>
    rw [Bar.settle, if_pos hb]
    have hgrp : b.next.grp = 0 := Nat.sub_eq_zero_of_le hg
    by_cases hh : b.eng ≤ b.held
    · have hdiv : b.held / b.eng = (b.held - b.eng) / b.eng + 1 := Nat.div_eq_sub_div he hh
      have hmod : (b.held - b.eng) % b.eng = b.held % b.eng := (Nat.mod_eq_sub_mod hh).symm
      rw [ih b.next ((Bar.full_next_iff b).mpr ⟨hg, he, hh⟩) (by rw [hgrp]; exact Nat.zero_le _) he (by
        show (b.held - b.eng) / b.eng + 1 ≤ k
        lia)]
      change Bar.mk ((!b.ph) != decide ((b.held - b.eng) / b.eng % 2 = 0)) 0 b.eng [] ((b.held - b.eng) % b.eng) 0 0 = _
      rw [hmod, hdiv]
      congr 1
      generalize (b.held - b.eng) / b.eng = q
      rcases Nat.mod_two_eq_zero_or_one q with h | h
      · have : (q + 1) % 2 = 1 := by lia
        simp [h, this]
      · have : (q + 1) % 2 = 0 := by lia
        simp [h, this]
    · have hf : b.next.full = false := by
        rw [← Bool.not_eq_true, Bar.full_next_iff]
        lia
      rw [Bar.settle_of_not_full hf]
      unfold Bar.next
      rw [Nat.div_eq_of_lt (by lia), Nat.mod_eq_of_lt (a := b.held) (by lia), Nat.min_eq_left (by lia),
        Nat.sub_eq_zero_of_le hg, Nat.sub_eq_zero_of_le (by lia)]
      simp

theorem Bar.settle_full {b : Bar} (hb : b.full = true) : Bar.settle (b.held + 2) b = b.through := by
  unfold Bar.through
  split
  · rename_i h
    have hf : b.next.full = false := by
      rw [← Bool.not_eq_true, Bar.full_next_iff]
      lia
    rw [Bar.settle, if_pos hb, Bar.settle_of_not_full hf]
    rfl
  · rename_i h
    refine Bar.settle_engine _ b hb (by lia) (by lia) ?_
    have := Nat.div_le_self b.held b.eng
    lia

end Sys2Proof.Machine
end

section
/-! A phase of a barrier that completes in its team (R165), and the carve request that it decides (R43, R44). -/

namespace Sys2Proof.Machine

theorem AMap.find_mapVal {α : Type} (m : AMap α) (f : Nat → α → α) (k : Nat) :
    AMap.find (AMap.mapVal m f) k = (AMap.find m k).map (f k) := by
  unfold AMap.mapVal
  induction m with
  | nil => rfl
  | cons c m ih =>
    obtain ⟨i, x⟩ := c
    rw [List.map_cons, AMap.find, AMap.find]
    dsimp only
    split
    · rename_i h
      rw [h]
      rfl
    · exact ih

/-! With the trace off, nothing of this moves a byte. -/

/-- With the trace off, memory stays and the trace stays off. -/
def KeepsMem (s t : State) : Prop := s.host.trcEn = false → t.host.trcEn = false ∧ t.mem = s.mem

theorem KeepsMem.refl (s : State) : KeepsMem s s := fun h => ⟨h, rfl⟩

theorem KeepsMem.trans {s t u : State} (h : KeepsMem s t) (k : KeepsMem t u) : KeepsMem s u := fun hs =>
  ⟨(k (h hs).1).1, (k (h hs).1).2.trans (h hs).2⟩

theorem KeepsMem.of_quiet {s t : State} (h : Quiet s t) : KeepsMem s t := fun hs => by
  obtain ⟨m, l, a, z, ho, tr, ms, cs, rfl, h1, h2, -⟩ := h
  exact ⟨h1.trans hs, (h2 hs).1⟩

theorem KeepsMem.foldl {α : Type} {f : State → α → State} (h : ∀ s a, KeepsMem s (f s a)) (xs : List α) (s : State) :
    KeepsMem s (xs.foldl f s) := by
  induction xs generalizing s with
  | nil => exact .refl s
  | cons a xs ih => exact (h s a).trans (ih _)

theorem keepsMem_noteArrival (s : State) (w : Sel) (n k : Nat) : KeepsMem s (s.noteArrival w n k) := by
  unfold State.noteArrival
  split
  · exact .of_quiet (emit_quiet ..)
  · exact .refl s

/-! One barrier's phases in its team. -/

noncomputable def Team.withBars (x : Team) (bs : AMap Bar) : Team := { x with bars := bs }

/-- A team but for its barriers. -/
def BarsOnly (x y : Team) : Prop := ∃ bs, y = x.withBars bs

theorem BarsOnly.refl (x : Team) : BarsOnly x x := ⟨_, rfl⟩

theorem BarsOnly.trans (x y z : Team) (h : BarsOnly x y) (k : BarsOnly y z) : BarsOnly x z := by
  obtain ⟨_, rfl⟩ := h
  obtain ⟨_, rfl⟩ := k
  exact ⟨_, rfl⟩

theorem fullBar_eq {s : State} {tid n : Nat} {x : Team} {b : Bar} (hx : AMap.find s.teams tid = some x)
    (hb : AMap.find x.bars n = some b) : s.fullBar tid n = if b.full then some (x, b) else none := by
  unfold State.fullBar
  rw [hx]
  dsimp only
  rw [hb]

/-- The records of a completed phase. -/
noncomputable def State.notePhase (s : State) (t : Team) (n by_ : Nat) (ph : Bool) : State :=
  t.cores.foldl (fun s c =>
    s.emit c [] (some { kind := 0x04, core := c, slot := t.slotOn c, launch := t.launch
                        payload := [BitVec.ofNat 64 n, if ph then 1 else 0, BitVec.ofNat 64 by_] })) s

theorem teams_notePhase (s : State) (t : Team) (n by_ : Nat) (ph : Bool) : (s.notePhase t n by_ ph).teams = s.teams :=
  teams_foldl (fun _ _ => State.teams_emit ..) _ s

theorem keepsMem_notePhase (s : State) (t : Team) (n by_ : Nat) (ph : Bool) : KeepsMem s (s.notePhase t n by_ ph) :=
  .foldl (fun _ _ => .of_quiet (emit_quiet ..)) _ s

theorem flipBar_step (s : State) (tid n by_ k : Nat) : State.flipBar tid n by_ (k + 1) s =
    match s.fullBar tid n with
    | none => s
    | some (t, b) => State.flipBar tid n by_ k
        ((s.modTeam tid (fun t => { t with bars := AMap.insert t.bars n b.next })).notePhase t n by_ b.ph) := rfl

theorem keepsMem_flipBar (tid n by_ k : Nat) (s : State) : KeepsMem s (State.flipBar tid n by_ k s) := by
  induction k generalizing s with
  | zero => exact .refl s
  | succ k ih =>
    rw [flipBar_step]
    split
    · exact .refl s
    · exact (keepsMem_notePhase (s.modTeam tid _) _ n by_ _).trans (ih _)

theorem flipBar_through (tid n by_ k : Nat) (s : State) : Through BarsOnly Eq s (State.flipBar tid n by_ k s) := by
  induction k generalizing s with
  | zero => exact .refl BarsOnly.refl (fun _ => rfl) s
  | succ k ih =>
    rw [flipBar_step]
    split
    · exact .refl BarsOnly.refl (fun _ => rfl) s
    · rename_i t b _
      refine Through.trans (t := s.modTeam tid (fun t => { t with bars := AMap.insert t.bars n b.next })) BarsOnly.trans
        (fun _ _ _ => Eq.trans) ?_ ((Through.of_teams BarsOnly.refl (fun _ => rfl) (teams_notePhase ..)).trans BarsOnly.trans
          (fun _ _ _ => Eq.trans) (ih _))
      exact .of_modTeam BarsOnly.refl (fun _ => rfl) fun x _ => ⟨⟨_, rfl⟩, fun m g hg => ⟨g, hg, rfl⟩⟩

/-- The phases of one barrier in its team, the other barriers as they were. -/
theorem flipBar_bars {s : State} {tid : Nat} {x : Team} (hx : AMap.find s.teams tid = some x) (n by_ k : Nat) :
    ∃ bs, AMap.find (State.flipBar tid n by_ k s).teams tid = some { x with bars := bs } ∧
      ∀ m b, AMap.find x.bars m = some b → AMap.find bs m = some (if m = n then Bar.settle k b else b) := by
  induction k generalizing s x with
  | zero => exact ⟨x.bars, hx, fun m b hb => by rw [hb]; split <;> rfl⟩
  | succ k ih =>
    rw [flipBar_step]
    cases hn : AMap.find x.bars n with
    | none =>
      have : s.fullBar tid n = none := by
        unfold State.fullBar
        rw [hx]
        dsimp only
        rw [hn]
      rw [this]
      refine ⟨x.bars, hx, fun m b hb => ?_⟩
      rw [hb, if_neg]
      rintro rfl
      rw [hn] at hb
      cases hb
    | some b =>
      rw [fullBar_eq hx hn]
      cases hf : b.full with
      | false =>
        refine ⟨x.bars, hx, fun m b' hb => ?_⟩
        rw [hb]
        split
        · rename_i hm
          rw [hm, hn] at hb
          rw [← Option.some.inj hb, Bar.settle_of_not_full hf]
        · rfl
      | true =>
        have hx' : AMap.find ((s.modTeam tid (fun t => { t with bars := AMap.insert t.bars n b.next })).notePhase x n by_ b.ph).teams
            tid = some { x with bars := AMap.insert x.bars n b.next } := by
          rw [teams_notePhase, State.find_modTeam, if_pos rfl, hx]
          rfl
        obtain ⟨bs, h1, h2⟩ := ih hx'
        refine ⟨bs, h1, fun m b' hb => ?_⟩
        by_cases hm : m = n
        · have hbb : b = b' := by
            rw [hm, hn] at hb
            exact Option.some.inj hb
          rw [h2 m b.next (by rw [hm]; exact (AMap.find_insert _ _ _ _).trans (if_pos rfl)), if_pos hm, if_pos hm, ← hbb,
            Bar.settle, if_pos hf]
        · rw [h2 m b' ((AMap.find_insert _ _ _ _).trans (by rw [if_neg hm]; exact hb)), if_neg hm, if_neg hm]

/-! All barriers whose phases are complete. -/

/-- A barrier once its complete phases are over. -/
noncomputable def Bar.settled (b : Bar) : Bar := if b.full then b.through else b

/-- The barriers of a list go on. -/
noncomputable def State.flipBars (tid by_ : Nat) (ns : List Nat) (s : State) : State :=
  ns.foldl (fun s n => State.flipBar tid n by_ (((s.fullBar tid n).elim 0 (·.2.held)) + 2) s) s

theorem flipBars_bars {tid : Nat} (by_ : Nat) {ns : List Nat} (hn : ns.Nodup) {s : State} {x : Team}
    (hx : AMap.find s.teams tid = some x) :
    ∃ bs, AMap.find (State.flipBars tid by_ ns s).teams tid = some { x with bars := bs } ∧
      ∀ m b, AMap.find x.bars m = some b → AMap.find bs m = some (if m ∈ ns then b.settled else b) := by
  induction ns generalizing s x with
  | nil => exact ⟨x.bars, hx, fun m b hb => hb⟩
  | cons n ns ih =>
    rw [List.nodup_cons] at hn
    obtain ⟨bs, h1, h2⟩ := flipBar_bars hx n by_ (((s.fullBar tid n).elim 0 (·.2.held)) + 2)
    obtain ⟨bs', h3, h4⟩ := ih hn.2 h1
    refine ⟨bs', h3, fun m b hb => ?_⟩
    rw [h4 m _ (h2 m b hb)]
    by_cases hm : m = n
    · have hsettle : Bar.settle (((s.fullBar tid n).elim 0 (·.2.held)) + 2) b = b.settled := by
        subst hm
        rw [fullBar_eq hx hb]
        unfold Bar.settled
        cases hf : b.full with
        | false => exact Bar.settle_of_not_full hf _
        | true => exact Bar.settle_full hf
      rw [if_pos hm, hsettle, if_neg (by rw [hm]; exact hn.1), if_pos (by rw [hm]; exact List.mem_cons_self ..)]
    · rw [if_neg hm]
      simp only [List.mem_cons, hm, false_or]

theorem flipBars_through (tid by_ : Nat) (ns : List Nat) (s : State) : Through BarsOnly Eq s (State.flipBars tid by_ ns s) :=
  .foldl BarsOnly.refl (fun _ => rfl) BarsOnly.trans (fun _ _ _ => Eq.trans) (fun s n _ => flipBar_through tid n by_ _ s) s

theorem keepsMem_flipBars (tid by_ : Nat) (ns : List Nat) (s : State) : KeepsMem s (State.flipBars tid by_ ns s) :=
  .foldl (fun s n => keepsMem_flipBar tid n by_ _ s) ns s

/-! The carve request. -/

noncomputable def Group.withCarve (g : Group) (gp : AMap Bool) (c : Option Nat) (z : Bool) : Group :=
  { g with gp := gp, carveGp := c, hzn := z }

/-- A group but for its marks of a carve, and its predicates where a carve is asked for. -/
def CarveOnly (g h : Group) : Prop := ∃ gp c z, h = g.withCarve gp c z

theorem CarveOnly.refl (g : Group) : CarveOnly g g := ⟨_, _, _, rfl⟩

theorem CarveOnly.trans (g h k : Group) (a : CarveOnly g h) (b : CarveOnly h k) : CarveOnly g k := by
  obtain ⟨_, _, _, rfl⟩ := a
  obtain ⟨_, _, _, rfl⟩ := b
  exact ⟨_, _, _, rfl⟩

/-- The barriers of the team are as they were. -/
def SameBars (x y : Team) : Prop := y.bars = x.bars

theorem SameBars.refl (x : Team) : SameBars x x := rfl

theorem SameBars.trans (x y z : Team) (h : SameBars x y) (k : SameBars y z) : SameBars x z := Eq.trans k h

theorem Team.endGrant_only (t : Team) (n : Nat) : (t.endGrant n).bars = t.bars ∧ (t.endGrant n).groups = t.groups := by
  unfold Team.endGrant
  split
  · exact ⟨rfl, rfl⟩
  · exact ⟨rfl, rfl⟩

theorem Team.endGrants_only (ns : List Nat) (t : Team) :
    (ns.foldl Team.endGrant t).bars = t.bars ∧ (ns.foldl Team.endGrant t).groups = t.groups := by
  induction ns generalizing t with
  | nil => exact ⟨rfl, rfl⟩
  | cons n ns ih => exact ⟨(ih _).1.trans (t.endGrant_only n).1, (ih _).2.trans (t.endGrant_only n).2⟩

/-- A team that a pre-emption stops. -/
noncomputable def Team.stopped (t : Team) (reason : Nat) (frame : Option SaveFrame) : Team :=
  { (List.range 4).foldl Team.endGrant t with
      stopping := true, undo := [], why := reason, frame := frame
      groups := AMap.mapVal t.groups (fun n g =>
        { g with hzn := g.hzn || t.undo.any (fun u => u.grp == n && !u.opened) }) }

/-- The records of a team that stops. -/
noncomputable def State.noteStop (s : State) (t : Team) (reason : Nat) (frame : Option SaveFrame) : State :=
  t.cores.foldl (fun s c =>
    s.emit c [] (some { kind := 0x07, core := c, slot := t.slotOn c, launch := t.launch
                        payload := [BitVec.ofNat 64 reason, frameWord frame] })) s

theorem stopTeam_eq (s : State) (reason tid : Nat) : s.stopTeam reason tid =
    match AMap.find s.teams tid with
    | none => s
    | some t =>
      if t.place.isNone || t.stopping then s
      else (s.modTeam tid (·.stopped reason (s.frameFor t))).noteStop t reason (s.frameFor t) := rfl

theorem teams_noteStop (s : State) (t : Team) (reason : Nat) (frame : Option SaveFrame) :
    (s.noteStop t reason frame).teams = s.teams := teams_foldl (fun _ _ => State.teams_emit ..) _ s

theorem stopTeam_through (s : State) (reason tid : Nat) : Through SameBars CarveOnly s (s.stopTeam reason tid) := by
  rw [stopTeam_eq]
  split
  · exact .refl SameBars.refl CarveOnly.refl s
  · split
    · exact .refl SameBars.refl CarveOnly.refl s
    · rename_i t _ _
      refine Through.trans (t := s.modTeam tid (·.stopped reason (s.frameFor t))) SameBars.trans CarveOnly.trans
        (.of_modTeam SameBars.refl CarveOnly.refl fun x _ => ⟨(x.endGrants_only _).1, fun n g hg => ?_⟩)
        (.of_teams SameBars.refl CarveOnly.refl (teams_noteStop ..))
      refine ⟨{ g with hzn := g.hzn || x.undo.any (fun u => u.grp == n && !u.opened) }, ?_, _, _, _, rfl⟩
      exact (AMap.find_mapVal x.groups (fun n g => { g with hzn := g.hzn || x.undo.any (fun u => u.grp == n && !u.opened) })
        n).trans (by rw [hg]; rfl)

/-- The reply to a group that asked for a carve (R43). -/
noncomputable def Group.replied (b : Bool) (g : Group) : Group :=
  match g.carveGp with
  | none => g
  | some d => { g.setGp d b with carveGp := none }

theorem replied_only (b : Bool) (g : Group) : CarveOnly g (g.replied b) := by
  unfold Group.replied
  split
  · exact .refl g
  · unfold Group.setGp
    split <;> exact ⟨_, _, _, rfl⟩

theorem reply_find (t : Team) (b : Bool) {n : Nat} {g : Group} (hg : AMap.find t.groups n = some g) :
    ∃ h, AMap.find (t.reply b).groups n = some h ∧ CarveOnly g h := by
  have h : AMap.find (t.reply b).groups n = (AMap.find t.groups n).map (Group.replied b) :=
    AMap.find_mapVal t.groups (fun _ g => g.replied b) n
  exact ⟨g.replied b, by rw [h, hg]; rfl, replied_only b g⟩

theorem decideCarve_through (s : State) (tid : Nat) : Through SameBars CarveOnly s (s.decideCarve tid) := by
  unfold State.decideCarve
  split
  · exact .refl SameBars.refl CarveOnly.refl s
  · split
    · exact .refl SameBars.refl CarveOnly.refl s
    · dsimp only
      split
      · rename_i out _
        refine Through.trans (t := out.foldl (fun s v => s.stopTeam 1 v) s) SameBars.trans CarveOnly.trans
          (.foldl SameBars.refl CarveOnly.refl SameBars.trans CarveOnly.trans (fun s v _ => stopTeam_through s 1 v) s) ?_
        exact .of_modTeam SameBars.refl CarveOnly.refl fun x _ => ⟨rfl, fun n g hg => reply_find x true hg⟩
      · exact .of_modTeam SameBars.refl CarveOnly.refl fun x _ => ⟨rfl, fun n g hg => reply_find x false hg⟩

theorem decideCarve_none {s : State} {tid : Nat} {x : Team} (hx : AMap.find s.teams tid = some x) (hc : x.carve = none) :
    s.decideCarve tid = s := by
  unfold State.decideCarve
  rw [hx]
  dsimp only
  rw [hc]

/-! The fragments that wait. -/

/-- A fragment that waited at a barrier and is freed. -/
noncomputable def Frag.freed (f : Frag) (n : Nat) : Frag := if f.stall == some (.bar n) then { f with stall := some (.freed n) } else f

theorem freed_place (f : Frag) (n : Nat) : SamePlace f (f.freed n) := by
  unfold Frag.freed
  split <;> exact ⟨rfl, rfl, rfl⟩

theorem freeBar_through (t : Team) (n : Nat) : GroupsOnly t (t.freeBar n) ∧
    ∀ k g, AMap.find t.groups k = some g → ∃ h, AMap.find (t.freeBar n).groups k = some h ∧ FragsOnly g h := by
  have hmark (j : Nat) (m : AMap Frag) (f : Frag) (hf : AMap.find m j = some f) :
      AMap.find (AMap.mapVal m (fun _ f => f.freed n)) j = some (f.freed n) := by
    rw [AMap.find_mapVal, hf]
    rfl
  refine ⟨⟨_, rfl⟩, fun k g hg => ⟨{ g with frags := AMap.mapVal g.frags (fun _ f => f.freed n) }, ?_, _, rfl,
    fun j f hf => ⟨_, hmark j _ f hf, freed_place f n⟩, fun he => ?_⟩⟩
  · exact (AMap.find_mapVal t.groups (fun _ g => { g with frags := AMap.mapVal g.frags (fun _ f => f.freed n) }) k).trans
      (by rw [hg]; rfl)
  · rw [he]
    rfl

theorem freeBars_through (ns : List Nat) (t : Team) : GroupsOnly t (ns.foldl Team.freeBar t) ∧
    ∀ k g, AMap.find t.groups k = some g → ∃ h, AMap.find (ns.foldl Team.freeBar t).groups k = some h ∧ FragsOnly g h := by
  induction ns generalizing t with
  | nil => exact ⟨.refl t, fun k g hg => ⟨g, hg, .refl g⟩⟩
  | cons n ns ih =>
    obtain ⟨h1, h2⟩ := freeBar_through t n
    obtain ⟨h3, h4⟩ := ih (t.freeBar n)
    refine ⟨h1.trans _ _ _ h3, fun k g hg => ?_⟩
    obtain ⟨g', hg', ha⟩ := h2 k g hg
    obtain ⟨g'', hg'', hb⟩ := h4 k g' hg'
    exact ⟨g'', hg'', ha.trans _ _ _ hb⟩

/-! What settling leaves of teams and groups. -/

noncomputable def Group.withMarks (g : Group) (gp : AMap Bool) (fr : AMap Frag) (c : Option Nat) (z : Bool) : Group :=
  { g with gp := gp, frags := fr, carveGp := c, hzn := z }

/-- A group but for marks of its fragments and of a carve, its predicates kept where `keep` holds. -/
def BarrierOnly (keep : Prop) (g h : Group) : Prop :=
  ∃ gp fr c z, h = g.withMarks gp fr c z ∧ SamePlaces g.frags fr ∧ (keep → gp = g.gp)

theorem BarrierOnly.refl (keep : Prop) (g : Group) : BarrierOnly keep g g := ⟨_, _, _, _, rfl, .refl _, fun _ => rfl⟩

theorem BarrierOnly.trans (keep : Prop) (g h k : Group) (a : BarrierOnly keep g h) (b : BarrierOnly keep h k) :
    BarrierOnly keep g k := by
  obtain ⟨_, _, _, _, rfl, h1, h2⟩ := a
  obtain ⟨_, _, _, _, rfl, h3, h4⟩ := b
  exact ⟨_, _, _, _, rfl, h1.trans h3, fun hk => (h4 hk).trans (h2 hk)⟩

theorem settleBars_eq (s : State) (tid by_ : Nat) (ns : List Nat) :
    let done := ns.filter (fun n => (s.fullBar tid n).isSome)
    (done = [] ∧ s.settleBars tid by_ ns = s) ∨
      s.settleBars tid by_ ns = ((State.flipBars tid by_ done s).decideCarve tid).modTeam tid (fun t => done.foldl Team.freeBar t) := by
  intro done
  have hs : s.settleBars tid by_ ns = match done with
    | [] => s
    | done => ((State.flipBars tid by_ done s).decideCarve tid).modTeam tid (fun t => done.foldl Team.freeBar t) := rfl
  rw [hs]
  cases done with
  | nil => exact .inl ⟨rfl, rfl⟩
  | cons n ns => exact .inr rfl

/-- What settling leaves of every team and group (R165): the barriers of the team itself, its waiting fragments and the
marks of a carve apart, nothing differs. -/
theorem settleBars_through {s : State} {tid : Nat} {x : Team} (hx : AMap.find s.teams tid = some x) (by_ : Nat) (ns : List Nat) :
    Through (fun _ _ => True) (BarrierOnly (x.carve = none)) s (s.settleBars tid by_ ns) := by
  rcases settleBars_eq s tid by_ ns with ⟨-, h⟩ | h
  · rw [h]
    exact .refl (fun _ => trivial) (BarrierOnly.refl _) s
  rw [h]
  obtain ⟨done, hdone⟩ : ∃ done, done = ns.filter (fun n => (s.fullBar tid n).isSome) := ⟨_, rfl⟩
  rw [← hdone]
  have hT (x y z : Team) (_ : True) (_ : True) : True := trivial
  have h1 : Through (fun _ _ => True) (BarrierOnly (x.carve = none)) s (State.flipBars tid by_ done s) :=
    Through.mono (fun _ _ _ => trivial) (fun g h (he : g = h) => he ▸ .refl _ g)
      (flipBars_through tid by_ done s)
  have h2 : Through (fun _ _ => True) (BarrierOnly (x.carve = none)) (State.flipBars tid by_ done s)
      ((State.flipBars tid by_ done s).decideCarve tid) := by
    by_cases hc : x.carve = none
    · obtain ⟨y, hy, ⟨bs, hbs⟩, -⟩ := flipBars_through tid by_ done s tid x hx
      rw [decideCarve_none hy (by rw [hbs]; exact hc)]
      exact .refl (fun _ => trivial) (BarrierOnly.refl _) _
    · refine Through.mono (fun _ _ _ => trivial) (fun g h => ?_) (decideCarve_through _ tid)
      rintro ⟨gp, c, z, rfl⟩
      exact ⟨gp, g.frags, c, z, rfl, .refl _, fun hk => absurd hk hc⟩
  refine (h1.trans hT (BarrierOnly.trans _) h2).trans hT (BarrierOnly.trans _)
    (.of_modTeam (fun _ => trivial) (BarrierOnly.refl _) fun x _ => ⟨trivial, fun n g hg => ?_⟩)
  obtain ⟨h, h1, fr, h2, h3⟩ := (freeBars_through done x).2 n g hg
  exact ⟨h, h1, _, fr, _, _, h2, h3, fun _ => rfl⟩

/-- What settling leaves of the team's barriers: those of the list go on where their phases are complete. -/
theorem settleBars_bars {s : State} {tid : Nat} {x : Team} (hx : AMap.find s.teams tid = some x) (by_ : Nat) {ns : List Nat}
    (hns : ns.Nodup) {m : Nat} {b : Bar} (hb : AMap.find x.bars m = some b) :
    ∃ y, AMap.find (s.settleBars tid by_ ns).teams tid = some y ∧
      AMap.find y.bars m = some (if m ∈ ns then b.settled else b) := by
  obtain ⟨done, hdone⟩ : ∃ done, done = ns.filter (fun n => (s.fullBar tid n).isSome) := ⟨_, rfl⟩
  have hmem : m ∈ done ↔ m ∈ ns ∧ b.full = true := by
    rw [hdone, List.mem_filter, fullBar_eq hx hb]
    cases b.full <;> simp
  have hres : (if m ∈ done then b.settled else b) = if m ∈ ns then b.settled else b := by
    unfold Bar.settled
    by_cases hm : m ∈ ns <;> cases hf : b.full <;> simp [hmem, hm, hf]
  rcases settleBars_eq s tid by_ ns with ⟨hd, h⟩ | h
  · rw [h]
    rw [← hdone] at hd
    refine ⟨x, hx, ?_⟩
    rw [← hres, hd, hb]
    rfl
  · rw [h, ← hdone]
    obtain ⟨bs, h1, h2⟩ := flipBars_bars by_ (hdone ▸ hns.filter _) hx
    obtain ⟨y, h3, h4, -⟩ := decideCarve_through (State.flipBars tid by_ done s) tid tid _ h1
    refine ⟨done.foldl Team.freeBar y, by rw [State.find_modTeam, if_pos rfl, h3]; rfl, ?_⟩
    obtain ⟨gs, h5⟩ := (freeBars_through done y).1
    rw [h5]
    show AMap.find y.bars m = _
    rw [h4, ← hres]
    exact h2 m b hb

/-- With no carve asked for and the trace off, settling moves no byte. -/
theorem keepsMem_settleBars {s : State} {tid : Nat} {x : Team} (hx : AMap.find s.teams tid = some x) (hc : x.carve = none)
    (by_ : Nat) (ns : List Nat) : KeepsMem s (s.settleBars tid by_ ns) := by
  rcases settleBars_eq s tid by_ ns with ⟨-, h⟩ | h
  · rw [h]
    exact .refl s
  · rw [h]
    obtain ⟨y, hy, ⟨bs, hbs⟩, -⟩ := flipBars_through tid by_ (ns.filter (fun n => (s.fullBar tid n).isSome)) s tid x hx
    rw [decideCarve_none hy (by rw [hbs]; exact hc)]
    exact keepsMem_flipBars tid by_ _ s

end Sys2Proof.Machine
end

section
/-! The end of lanes and of groups (R37, R46, R295). -/

namespace Sys2Proof.Machine

/-! What a fragment that leaves can change in its group. -/

/-- What a group has beside its fragments, its records and its handler. -/
noncomputable def Group.ctx (g : Group) : Group := { g with frags := [], splits := [], hnd := none, hmeld := [], hfloor := 0 }

/-- A group but for its fragments, its records and its handler. -/
def CtxOnly (g h : Group) : Prop := h.ctx = g.ctx

theorem CtxOnly.refl (g : Group) : CtxOnly g g := rfl

theorem CtxOnly.trans {g h k : Group} (a : CtxOnly g h) (b : CtxOnly h k) : CtxOnly g k := Eq.trans b a

theorem CtxOnly.get {α : Type} {g h : Group} (a : CtxOnly g h) (p : Group → α) : p h.ctx = p g.ctx := congrArg p a

theorem ctx_startWaiting {g g' : Group} {r : Nat} {f : Frag} (h : g.startWaiting r f = some g') : CtxOnly g g' := by
  unfold Group.startWaiting at h
  split at h
  · cases h
  · cases h
    rfl

theorem ctx_vanish (n : Nat) (g : Group) (f : Frag) (r : Option Nat) : CtxOnly g (g.vanish f n r) := by
  induction n generalizing g f r with
  | zero => exact .refl g
  | succ n ih =>
    cases r with
    | none => exact .refl g
    | some id =>
      unfold Group.vanish
      split
      · exact .refl g
      · dsimp only
        split
        · split
          · rfl
          · exact CtxOnly.trans rfl (ih ..)
        · split
          · rename_i h
            exact ctx_startWaiting h
          · split
            · split
              · exact .refl g
              · rfl
            · exact .refl g

theorem ctx_remove (g : Group) (f : Frag) : CtxOnly g (g.remove f) :=
  CtxOnly.trans (h := { g with frags := AMap.erase g.frags f.key }) rfl (ctx_vanish ..)

theorem ctx_exitHandler (g : Group) (h : Handler) : CtxOnly g (g.exitHandler h) := by
  unfold Group.exitHandler
  dsimp only
  split <;> rfl

/-! The end of a group's lanes. -/

/-- The lanes end. -/
noncomputable def Group.lanesEnd (g : Group) (e : Env) (m : Word) : Group :=
  ({ g with live := g.live &&& ~~~m }).modFrag e.who.frag (fun f =>
    { f with exec := e.whole &&& ~~~m, pos := { pc := e.afterClause }, re := [], stall := none })

/-- A fragment with no live lane leaves, and the handler in which none remains (R37, R198). -/
noncomputable def Group.fragEnd (g : Group) (e : Env) : Group :=
  match g.hnd with
  | some h =>
    if e.fr.inH then
      if h.entry &&& g.live = 0 then
        let g1 := g.exitHandler h
        if h.frag.split.isSome && h.frag.mask &&& g.live == 0 then g1.remove h.frag else g1
      else if e.fr.split.isSome && e.fr.mask &&& g.live == 0 then g.remove e.fr
      else g
    else if e.fr.split.isSome && e.fr.mask &&& g.live == 0 then g.remove e.fr else g
  | none => if e.fr.split.isSome && e.fr.mask &&& g.live == 0 then g.remove e.fr else g

theorem ctx_fragEnd (g : Group) (e : Env) : CtxOnly g (g.fragEnd e) := by
  have hrem (p : Bool) : CtxOnly g (if p then g.remove e.fr else g) := by
    cases p
    · exact .refl g
    · exact ctx_remove g e.fr
  unfold Group.fragEnd
  split
  · split
    · split
      · dsimp only
        split
        · exact (ctx_exitHandler ..).trans (ctx_remove ..)
        · exact ctx_exitHandler ..
      · exact hrem _
    · exact hrem _
  · exact hrem _

theorem fragEnd_plain {g : Group} {e : Env} (hh : g.hnd = none) (hs : e.fr.split = none) : g.fragEnd e = g := by
  unfold Group.fragEnd
  rw [hh, hs]
  rfl

section
variable {s : State} {e : Env} {m : Word} {g : Group} (hg : s.grp? e.who = some g)
include hg

theorem grp_lanesEnd : (s.modGrp e.who (·.lanesEnd e m)).grp? e.who = some (g.lanesEnd e m) := by
  rw [State.grp?_modGrp, if_pos ⟨rfl, rfl⟩, hg]
  rfl

theorem exitLanes_last (h0 : g.live &&& ~~~m = 0) : s.exitLanes e m =
    State.fillEntries e.gr.core e.gr.slice 64 ((s.modGrp e.who (·.lanesEnd e m)).endGroup e.who) := by
  have hx : s.exitLanes e m = match (s.modGrp e.who (·.lanesEnd e m)).grp? e.who with
    | none => s.modGrp e.who (·.lanesEnd e m)
    | some g =>
      if g.live = 0 then State.fillEntries e.gr.core e.gr.slice 64 ((s.modGrp e.who (·.lanesEnd e m)).endGroup e.who)
      else (State.fillEntries e.gr.core e.gr.slice 64 ((s.modGrp e.who (·.lanesEnd e m)).modGrp e.who (·.fragEnd e))).postDead
        e.who := rfl
  rw [hx, grp_lanesEnd hg]
  exact if_pos h0

theorem exitLanes_some (h0 : g.live &&& ~~~m ≠ 0) : s.exitLanes e m =
    (State.fillEntries e.gr.core e.gr.slice 64 ((s.modGrp e.who (·.lanesEnd e m)).modGrp e.who (·.fragEnd e))).postDead e.who := by
  have hx : s.exitLanes e m = match (s.modGrp e.who (·.lanesEnd e m)).grp? e.who with
    | none => s.modGrp e.who (·.lanesEnd e m)
    | some g =>
      if g.live = 0 then State.fillEntries e.gr.core e.gr.slice 64 ((s.modGrp e.who (·.lanesEnd e m)).endGroup e.who)
      else (State.fillEntries e.gr.core e.gr.slice 64 ((s.modGrp e.who (·.lanesEnd e m)).modGrp e.who (·.fragEnd e))).postDead
        e.who := rfl
  rw [hx, grp_lanesEnd hg]
  exact if_neg h0

/-- Lanes end and others go on: what is left of every group. -/
theorem exitLanes_some_groups (h0 : g.live &&& ~~~m ≠ 0) {w : Sel} {k : Group}
    (hk : ((s.modGrp e.who (·.lanesEnd e m)).modGrp e.who (·.fragEnd e)).grp? w = some k) :
    ∃ fr d p, (s.exitLanes e m).grp? w = some ((k.withFrags fr).withFaults d p) ∧ SamePlaces k.frags fr := by
  obtain ⟨k1, h1, fr, rfl, hfr⟩ := (fillEntries_through e.gr.core e.gr.slice 64 _).grp? hk
  obtain ⟨k2, h2, d, p, rfl⟩ := (postDead_through _ e.who).grp? h1
  rw [exitLanes_some hg h0]
  exact ⟨fr, d, p, h2, hfr⟩

end

/-! The end of a group. -/

/-- A group that ends (R37). -/
noncomputable def Group.gone (g : Group) : Group :=
  { g with ended := true, frags := [], splits := [], hnd := none, meld := [], hmeld := [], floor := 0, hfloor := 0
           wake := false }

/-- A barrier at which an exited group counts (R46). -/
noncomputable def Bar.exited (b : Bar) (n : Nat) : Bar :=
  { b with arr := if b.arr.contains n then b.arr else b.arr ++ [n], fewer := b.fewer + 1 }

/-- The stores that the exit of a group performs (R166). -/
noncomputable def State.exitDrain (s : State) (w : Sel) : State :=
  if s.barsLeft w == [] then s else s.drainStores ((s.grp? w).elim 0 (·.core)) w

theorem settles_exitDrain (s : State) (w : Sel) : Settles s (s.exitDrain w) := by
  unfold State.exitDrain
  split
  · exact .refl s
  · exact settles_drainStores s _ w

/-- The state in which an exited group's arrivals are settled. -/
noncomputable def State.exitNoted (s : State) (w : Sel) : State :=
  ((s.barsLeft w).foldl (fun s n => s.noteArrival w n w.grp) s).modTeam w.tid
    (fun t => { t with bars := AMap.mapVal t.bars (fun _ b => b.exited w.grp) })

theorem exitArrive_eq (s : State) (w : Sel) : s.exitArrive w = (s.exitNoted w).settleBars w.tid w.grp (List.range 16) := rfl

theorem endGroup_eq (s : State) (w : Sel) :
    s.endGroup w = (((s.exitDrain w).modGrp w Group.gone).exitArrive w).postDead w := rfl

theorem teams_exitNoted {s : State} {w : Sel} {x : Team} (hx : AMap.find s.teams w.tid = some x) :
    AMap.find (s.exitNoted w).teams w.tid = some (x.withBars (AMap.mapVal x.bars (fun _ b => b.exited w.grp))) := by
  unfold State.exitNoted
  rw [State.find_modTeam, if_pos rfl, teams_foldl (fun s n => s.teams_noteArrival w n w.grp), hx]
  rfl

theorem exitNoted_through (s : State) (w : Sel) : Through BarsOnly Eq s (s.exitNoted w) :=
  Through.trans BarsOnly.trans (fun _ _ _ => Eq.trans)
    (.of_teams BarsOnly.refl (fun _ => rfl) (teams_foldl (fun s n => s.teams_noteArrival w n w.grp) (s.barsLeft w) s))
    (.of_modTeam BarsOnly.refl (fun _ => rfl) fun _ _ => ⟨⟨_, rfl⟩, fun _ g hg => ⟨g, hg, rfl⟩⟩)

theorem keepsMem_exitNoted (s : State) (w : Sel) : KeepsMem s (s.exitNoted w) := by
  have h : KeepsMem s ((s.barsLeft w).foldl (fun s n => s.noteArrival w n w.grp) s) :=
    .foldl (fun s n => keepsMem_noteArrival s w n w.grp) _ s
  exact h

section
variable {s : State} {w : Sel} {x : Team} {g : Group} (hx : AMap.find s.teams w.tid = some x)
  (hg : AMap.find x.groups w.grp = some g)
include hx hg

omit hg in
/-- The team and the group once the exit has performed its stores and the group is gone. -/
theorem exit_gone : ∃ sc, AMap.find ((s.exitDrain w).modGrp w Group.gone).teams w.tid =
    some ({ x with scr := sc }.modGrp w.grp Group.gone) := by
  obtain ⟨sc, hsc⟩ := (settles_exitDrain s w).team w.tid
  refine ⟨sc x, ?_⟩
  show AMap.find ((s.exitDrain w).modTeam w.tid _).teams w.tid = _
  rw [State.find_modTeam, if_pos rfl, hsc, hx]
  rfl

theorem gone_grp : ((s.exitDrain w).modGrp w Group.gone).grp? w = some g.gone := by
  rw [State.grp?_modGrp, if_pos ⟨rfl, rfl⟩, (settles_exitDrain s w).grp?, State.grp?, hx]
  dsimp only
  rw [hg]
  rfl

theorem endGroup_group : ∃ gp c z d p, (s.endGroup w).grp? w =
      some ((g.gone.withMarks gp [] c z).withFaults d p) ∧
    (x.carve = none → gp = g.gp) := by
  obtain ⟨sc, hteam⟩ := exit_gone hx
  obtain ⟨g1, h1, rfl⟩ := (exitNoted_through ((s.exitDrain w).modGrp w Group.gone) w).grp? (gone_grp hx hg)
  obtain ⟨g2, h2, gp, fr, c, z, rfl, hfr, hgp⟩ :=
    (settleBars_through (teams_exitNoted hteam) w.grp (List.range 16)).grp? h1
  obtain ⟨g3, h3, d, p, rfl⟩ := (postDead_through _ w).grp? h2
  have hnil : fr = [] := hfr.2 rfl
  subst hnil
  rw [endGroup_eq, exitArrive_eq]
  exact ⟨gp, c, z, d, p, h3, hgp⟩

omit hg in
theorem endGroup_bars {n : Nat} {b : Bar} (hn : n < 16) (hb : AMap.find x.bars n = some b) :
    ∃ y, AMap.find (s.endGroup w).teams w.tid = some y ∧ AMap.find y.bars n = some (b.exited w.grp).settled := by
  obtain ⟨sc, hteam⟩ := exit_gone hx
  have hb' : AMap.find (AMap.mapVal ({ x with scr := sc }.modGrp w.grp Group.gone).bars (fun _ b => b.exited w.grp)) n =
      some (b.exited w.grp) := by
    rw [AMap.find_mapVal]
    exact congrArg _ hb
  obtain ⟨y, h1, h2⟩ := settleBars_bars (teams_exitNoted hteam) w.grp List.nodup_range hb'
  obtain ⟨z, h3, ⟨gs, rfl⟩, -⟩ := postDead_through (((s.exitDrain w).modGrp w Group.gone).exitArrive w) w w.tid y h1
  rw [endGroup_eq]
  refine ⟨_, h3, ?_⟩
  show AMap.find y.bars n = _
  rw [h2, if_pos (List.mem_range.mpr hn)]

/-- With the trace off, no carve asked for and no fault left without lanes, the end of a group moves what its drain
moves. -/
theorem endGroup_mem (ht : s.host.trcEn = false) (hc : x.carve = none)
    (hd : ∀ d, d ∈ g.deferred → d.info.lanes &&& g.live ≠ 0) : (s.endGroup w).mem = (s.exitDrain w).mem := by
  obtain ⟨sc, hteam⟩ := exit_gone hx
  obtain ⟨g1, h1, rfl⟩ := (exitNoted_through ((s.exitDrain w).modGrp w Group.gone) w).grp? (gone_grp hx hg)
  obtain ⟨g2, h2, gp, fr, c, z, rfl, -, -⟩ :=
    (settleBars_through (teams_exitNoted hteam) w.grp (List.range 16)).grp? h1
  have htr : ((s.exitDrain w).modGrp w Group.gone).host.trcEn = false := by
    obtain ⟨m, l, a, z, tm, cs, h⟩ := (settles_exitDrain s w).rest
    rw [h]
    exact ht
  have hk : KeepsMem ((s.exitDrain w).modGrp w Group.gone) (((s.exitDrain w).modGrp w Group.gone).exitArrive w) :=
    KeepsMem.trans (keepsMem_exitNoted _ w) (keepsMem_settleBars (teams_exitNoted hteam) hc w.grp (List.range 16))
  rw [endGroup_eq, exitArrive_eq, postDead_none h2 hd, ← exitArrive_eq, (hk htr).2]
  rfl

end

end Sys2Proof.Machine
end

section
/-! `exit` (R295). -/

namespace Sys2Proof.Machine

section
variable {s : State} {e : Env} {f : CF} (h : Issues s e (.exit f))
include h

theorem exit_some (hm : e.active (Instr.exit f).guard = 0 ∨ e.active (Instr.exit f).guard ≠ e.gr.live) :
    exec (.exit f) s = .next (((s.begun e).exitLanes e (e.active (Instr.exit f).guard)).left s e (.exit f)) := by
  show execExit f s = _
  unfold execExit
  rw [issue_of_issues h rfl]
  dsimp only
  rw [if_neg (by tauto)]
  rfl

omit h in
/-- With nothing of the group in flight but stores, the last exit waits for nothing. -/
theorem completeReads_none {s : State} {core slice : Nat} {w : Sel} (hp : s.piped core slice w = false)
    (ho : ∀ o, o ∈ (s.core core).ops → o.2.of w = true → o.2.gated = true) : s.completeReads core slice w = s := by
  unfold State.completeReads
  have hd (n : Nat) : State.drainPipe w core (pipeOf slice) n s = s := by
    cases n with
    | zero => rfl
    | succ n =>
      unfold State.drainPipe
      unfold State.piped at hp
      rw [hp, if_neg Bool.false_ne_true]
  have hf : (s.core core).ops.filter (fun o => o.2.of w && !o.2.gated) = [] := by
    refine List.filter_eq_nil_iff.mpr fun o hm => ?_
    cases hw : o.2.of w with
    | false => simp
    | true => simp [ho o hm hw]
  simp only [hd, hf]
  rfl

theorem exit_last (hm : e.active (Instr.exit f).guard ≠ 0) (hl : e.active (Instr.exit f).guard = e.gr.live)
    (hp : s.piped e.gr.core e.gr.slice e.who = false)
    (ho : ∀ o, o ∈ (s.core e.gr.core).ops → o.2.of e.who = true → o.2.gated = true)
    (hlo : (s.core e.gr.core).loops.any (fun l => l.2.who.tid == e.who.tid && l.2.who.grp == e.who.grp) = false) :
    exec (.exit f) s = .next (((s.begun e).exitLanes e (e.active (Instr.exit f).guard)).left s e (.exit f)) := by
  show execExit f s = _
  unfold execExit
  rw [issue_of_issues h rfl]
  have hc : (s.begun e).completeReads e.gr.core e.gr.slice e.who = s.begun e := completeReads_none hp ho
  have hp' : (s.begun e).piped e.gr.core e.gr.slice e.who = false := hp
  have hlo' : ((s.begun e).core e.gr.core).loops.any (fun l => l.2.who.tid == e.who.tid && l.2.who.grp == e.who.grp) = false := hlo
  dsimp only
  rw [if_pos ⟨hm, hl⟩, hc, hlo', hp']
  rfl

end

theorem Bar.settled_of_full {b : Bar} (h : b.full = true) : b.settled = b.through := if_pos h

theorem Bar.settled_of_not_full {b : Bar} (h : b.full = false) : b.settled = b := if_neg (by rw [h]; exact Bool.false_ne_true)

/-! What the end of lanes leaves of the issuer's group, of the other groups, of the barriers and of memory. -/

/-- What is left of the group once its lanes have ended. -/
def LeftOf (e : Env) (m : Word) (t : Team) (g g' : Group) : Prop :=
  let left := g.live &&& ~~~m
  g'.live = left ∧ g'.ended = (g.ended || decide (left = 0)) ∧ g'.v = g.v ∧
    g'.p = g.p ∧ g'.g = g.g ∧ (left ≠ 0 ∨ t.carve = none → g'.gp = g.gp) ∧ g'.k = g.k ∧ g'.gstat = g.gstat ∧
    (left = 0 → g'.frags = []) ∧
    (left ≠ 0 → g.hnd = none → e.fr.split = none → ∃ f', AMap.find g'.frags e.who.frag = some f' ∧
      f'.pos = { pc := e.afterClause } ∧ f'.exec = e.whole &&& ~~~m ∧ f'.re = [])

section
variable {s : State} {e : Env} {m : Word} {t : Team} {g : Group} (ht : AMap.find s.teams e.who.tid = some t)
  (hg : AMap.find t.groups e.who.grp = some g)
include ht hg

theorem grp_of_find : s.grp? e.who = some g := by
  unfold State.grp?
  rw [ht]
  exact hg

omit hg in
theorem lanesEnd_team : AMap.find (s.modGrp e.who (·.lanesEnd e m)).teams e.who.tid =
    some (t.modGrp e.who.grp (·.lanesEnd e m)) := by
  refine (State.find_modTeam ..).trans ((if_pos rfl).trans ?_)
  rw [ht]
  rfl

omit ht in
theorem lanesEnd_find : AMap.find (t.modGrp e.who.grp (·.lanesEnd e m)).groups e.who.grp = some (g.lanesEnd e m) := by
  rw [Team.find_modGrp, if_pos rfl, hg]
  rfl

theorem ended_group (h0 : g.live &&& ~~~m = 0) : ∃ g', (s.exitLanes e m).grp? e.who = some g' ∧ LeftOf e m t g g' := by
  obtain ⟨gp, c, z, d, p, h1, hgp⟩ := endGroup_group (lanesEnd_team (m := m) ht) (lanesEnd_find (m := m) hg)
  obtain ⟨g', h2, fr, rfl, hfr⟩ := (fillEntries_through e.gr.core e.gr.slice 64 _).grp? h1
  rw [exitLanes_last (grp_of_find ht hg) h0]
  have hend : true = (g.ended || decide (g.live &&& ~~~m = 0)) := by rw [decide_eq_true h0, Bool.or_true]
  exact ⟨_, h2, rfl, hend, rfl, rfl, rfl, fun hk => hgp (hk.resolve_left (not_not.mpr h0)), rfl, rfl,
    fun _ => hfr.2 rfl, fun h => absurd h0 h⟩

theorem ended_bars (h0 : g.live &&& ~~~m = 0) {n : Nat} {b : Bar} (hn : n < 16) (hb : AMap.find t.bars n = some b) :
    ∃ t', AMap.find (s.exitLanes e m).teams e.who.tid = some t' ∧
      AMap.find t'.bars n = some (b.exited e.who.grp).settled := by
  obtain ⟨y, h1, h2⟩ := endGroup_bars (lanesEnd_team (m := m) ht) hn hb
  obtain ⟨z, h3, ⟨gs, rfl⟩, -⟩ := fillEntries_through e.gr.core e.gr.slice 64 _ e.who.tid y h1
  rw [exitLanes_last (grp_of_find ht hg) h0]
  exact ⟨_, h3, h2⟩

theorem ended_mem (h0 : g.live &&& ~~~m = 0) (htr : s.host.trcEn = false) (hc : t.carve = none)
    (hd : ∀ d, d ∈ g.deferred → d.info.lanes &&& (g.live &&& ~~~m) ≠ 0) :
    (s.exitLanes e m).mem =
      (if s.barsLeft e.who == [] then s.modGrp e.who (·.lanesEnd e m)
        else (s.modGrp e.who (·.lanesEnd e m)).drainStores g.core e.who).mem := by
  obtain ⟨tm, hfill⟩ := fillEntries_only e.gr.core e.gr.slice 64 ((s.modGrp e.who (·.lanesEnd e m)).endGroup e.who)
  rw [exitLanes_last (grp_of_find ht hg) h0, hfill]
  refine (endGroup_mem (lanesEnd_team ht) (lanesEnd_find hg) htr hc hd).trans ?_
  have hbars : (s.modGrp e.who (·.lanesEnd e m)).barsLeft e.who = s.barsLeft e.who := by
    unfold State.barsLeft
    rw [lanesEnd_team ht, ht]
    rfl
  rw [State.exitDrain, hbars, grp_lanesEnd (grp_of_find ht hg)]
  rfl

theorem live_group (h0 : g.live &&& ~~~m ≠ 0) {f : Frag} (hf : AMap.find g.frags e.who.frag = some f) :
    ∃ g', (s.exitLanes e m).grp? e.who = some g' ∧ LeftOf e m t g g' := by
  have hgl : ((s.modGrp e.who (·.lanesEnd e m)).modGrp e.who (·.fragEnd e)).grp? e.who =
      some ((g.lanesEnd e m).fragEnd e) := by
    rw [State.grp?_modGrp, if_pos ⟨rfl, rfl⟩, grp_lanesEnd (grp_of_find ht hg)]
    rfl
  obtain ⟨fr, d, p, h1, hfr⟩ := exitLanes_some_groups (grp_of_find ht hg) h0 hgl
  have hctx := ctx_fragEnd (g.lanesEnd e m) e
  have hend : g.ended = (g.ended || decide (g.live &&& ~~~m = 0)) := by rw [decide_eq_false h0, Bool.or_false]
  refine ⟨_, h1, hctx.get Group.live, (hctx.get Group.ended).trans hend, hctx.get Group.v, hctx.get Group.p,
    hctx.get Group.g, fun _ => hctx.get Group.gp, hctx.get Group.k, hctx.get Group.gstat, fun h => absurd h h0,
    fun _ hh hs => ?_⟩
  rw [fragEnd_plain (g := g.lanesEnd e m) hh hs] at hfr
  obtain ⟨f', h2, h3, h4, h5⟩ := hfr.1 e.who.frag
    { f with exec := e.whole &&& ~~~m, pos := { pc := e.afterClause }, re := [], stall := none }
    ((Group.find_modFrag ..).trans ((if_pos rfl).trans (congrArg _ hf)))
  exact ⟨f', h2, h3, h4, h5⟩

theorem live_others (h0 : g.live &&& ~~~m ≠ 0) {w : Sel} {k : Group} (hw : w.tid ≠ e.who.tid ∨ w.grp ≠ e.who.grp)
    (hk : s.grp? w = some k) : ∃ k', (s.exitLanes e m).grp? w = some k' ∧ k'.v = k.v ∧ k'.k = k.k ∧ k'.gstat = k.gstat ∧
      SameScalars k k' := by
  have hne : ¬ (w.tid = e.who.tid ∧ w.grp = e.who.grp) := not_and_or.mpr hw
  obtain ⟨fr, d, p, h, -⟩ := exitLanes_some_groups (w := w) (k := k) (grp_of_find ht hg) h0
    ((State.grp?_modGrp ..).trans ((if_neg hne).trans ((State.grp?_modGrp ..).trans ((if_neg hne).trans hk))))
  exact ⟨_, h, rfl, rfl, rfl, ⟨rfl, rfl, rfl, rfl, rfl, rfl, ⟨rfl, rfl, rfl, rfl, rfl, rfl, rfl, rfl⟩, rfl, rfl, rfl⟩⟩

theorem live_mem (h0 : g.live &&& ~~~m ≠ 0) (hd : ∀ d, d ∈ g.deferred → d.info.lanes &&& (g.live &&& ~~~m) ≠ 0) :
    (s.exitLanes e m).mem = s.mem := by
  have hgl : ((s.modGrp e.who (·.lanesEnd e m)).modGrp e.who (·.fragEnd e)).grp? e.who =
      some ((g.lanesEnd e m).fragEnd e) := by
    rw [State.grp?_modGrp, if_pos ⟨rfl, rfl⟩, grp_lanesEnd (grp_of_find ht hg)]
    rfl
  have hctx := ctx_fragEnd (g.lanesEnd e m) e
  have hlive : ((g.lanesEnd e m).fragEnd e).live = g.live &&& ~~~m := hctx.get Group.live
  have hdef : ((g.lanesEnd e m).fragEnd e).deferred = g.deferred := hctx.get Group.deferred
  obtain ⟨k1, h2, fr', rfl, -⟩ := (fillEntries_through e.gr.core e.gr.slice 64 _).grp? hgl
  have hdead := postDead_none h2 (fun d => by rw [← hlive, ← hdef] at hd; exact hd d)
  obtain ⟨tm, hfill⟩ := fillEntries_only e.gr.core e.gr.slice 64
    ((s.modGrp e.who (·.lanesEnd e m)).modGrp e.who (·.fragEnd e))
  rw [exitLanes_some (grp_of_find ht hg) h0, hdead, hfill]
  rfl

end

/-- Settles O22: the word, and what the end of its lanes leaves. -/
theorem exits : Obligations.Exits := by
  refine ⟨fun _ _ _ h => ⟨exit_some h, exit_last h⟩, fun s e m t g f ht hg hf => ⟨?_, ?_, ?_, ?_⟩⟩
  · by_cases h0 : g.live &&& ~~~m = 0
    · exact ended_group ht hg h0
    · exact live_group ht hg h0 hf
  · exact fun h0 w k => live_others ht hg h0
  · intro h0 n b hn hb
    obtain ⟨t', h1, h2⟩ := ended_bars ht hg h0 hn hb
    exact ⟨fun hf => ⟨t', h1, h2.trans (congrArg some (Bar.settled_of_not_full hf))⟩,
      fun hf => ⟨t', h1, h2.trans (congrArg some (Bar.settled_of_full hf))⟩⟩
  · refine fun htr hc hd => ⟨fun hk => ?_, fun h0 hb => ⟨(·.lanesEnd e m), ?_⟩⟩
    · by_cases h0 : g.live &&& ~~~m = 0
      · refine (ended_mem ht hg h0 htr hc hd).trans ?_
        split
        · rfl
        · next hb =>
          rcases hk with hk | hk | hk
          · exact absurd h0 hk
          · rw [hk] at hb
            exact absurd rfl hb
          · exact (congrArg State.mem (drainStores_none (s := s.modGrp e.who (·.lanesEnd e m)) hk)).trans rfl
      · exact live_mem ht hg h0 hd
    · exact (ended_mem ht hg h0 htr hc hd).trans (congrArg State.mem (if_neg (by rw [beq_iff_eq]; exact hb)))

end Sys2Proof.Machine
end

section
/-! Taking a trap (R192, R195, R196, R199, R201). -/

namespace Sys2Proof.Machine

/-! The parts of a trap's entry. -/

theorem noteTrap_quiet (s : State) (e : Env) (ti : TrapInfo) : Quiet s (s.noteTrap e ti) := emit_quiet ..

theorem Quiet.held {s t : State} (h : Quiet s t) : t.hold = s.hold ∧ t.waiting = s.waiting ∧ t.fresh = s.fresh := by
  obtain ⟨_, _, _, _, _, _, _, _, rfl, -⟩ := h
  exact ⟨rfl, rfl, rfl⟩

theorem grp?_post (s : State) (r : FRec) (w : Sel) : (s.post r).grp? w = s.grp? w := by
  unfold State.grp?
  rw [State.teams_post]

/-- A group as its halt leaves it. -/
noncomputable def Group.haltedAt (g : Group) (k : Nat) (ti : TrapInfo) (word cont : Pos) : Group :=
  { g with halted := true, haltRec := some (ti, word, cont), haltKey := k }

/-- A halt, from a state that differs in nothing that it rests on. -/
theorem halts_halt {s t : State} {e : Env} {g : Group} (hg : t.grp? e.who = some g) (hh : t.hold = s.hold)
    (hw : t.waiting = s.waiting) (cause inner : Nat) (ti : TrapInfo) (word cont : Pos) :
    Halts s (t.halt e cause inner ti word cont) e cause inner ti word cont ∧
      (t.halt e cause inner ti word cont).grp? e.who = some (g.haltedAt e.who.frag ti word cont) := by
  have hg1 : (t.modGrp e.who (·.haltedAt e.who.frag ti word cont)).grp? e.who = some (g.haltedAt e.who.frag ti word cont) := by
    rw [State.grp?_modGrp, if_pos ⟨rfl, rfl⟩, hg]
    rfl
  have hpost : t.halt e cause inner ti word cont = (t.modGrp e.who (·.haltedAt e.who.frag ti word cont)).post
      (haltRecord e.tm e.who (g.haltedAt e.who.frag ti word cont) cause inner ti) := by
    have hx : t.halt e cause inner ti word cont = match (t.modGrp e.who (·.haltedAt e.who.frag ti word cont)).grp? e.who with
      | none => t.modGrp e.who (·.haltedAt e.who.frag ti word cont)
      | some g => (t.modGrp e.who (·.haltedAt e.who.frag ti word cont)).post (haltRecord e.tm e.who g cause inner ti) := rfl
    rw [hx, hg1]
  have hg2 : (t.halt e cause inner ti word cont).grp? e.who = some (g.haltedAt e.who.frag ti word cont) := by
    rw [hpost, grp?_post, hg1]
  exact ⟨⟨_, _, hg1, rfl, rfl, hpost, hh, hw, hg2⟩, hg2⟩

/-- The group that a trap's entry leaves. -/
noncomputable def Group.entered (g : Group) (e : Env) (n : Nat) (ti : TrapInfo) (word cont : Pos) : Group :=
  { (g.setTrap ti.cause ti).modFrag e.who.frag (fun f =>
      { f with inH := true, exec := e.entryExec ti, pos := { pc := g.tvec }, split := none, re := [],
               held := none, stall := none, retry := false }) with
    hnd := some { frag := e.fr, info := ti, entry := e.entryExec ti, word := word, cont := cont }
    h := (List.range 8).foldl (fun m k => AMap.set 0 m k (Config.freeWord n k)) []
    hmeld := [], hfloor := 0 }

theorem enter_eq (s : State) (e : Env) (ti : TrapInfo) (word cont : Pos) :
    s.enter e ti.cause ti word cont = s.modGrp e.who (·.entered e s.fresh ti word cont) := rfl

/-- DEFER in a status word (R192). -/
theorem and_statDefer (x : Word) : (x &&& statDefer = 0) ↔ bit x 4 = false := by
  have hdefer : ∀ i, i < 64 → statDefer.getLsbD i = decide (i = 4) := by decide
  refine ⟨fun h => ?_, fun h => BitVec.eq_of_getLsbD_eq fun i hi => ?_⟩
  · have h4 : (x &&& statDefer).getLsbD 4 = false := by rw [h]; rfl
    rw [BitVec.getLsbD_and, hdefer 4 (by decide)] at h4
    simpa [bit] using h4
  · rw [BitVec.getLsbD_and, hdefer i hi]
    by_cases h4 : i = 4
    · rw [h4]
      simpa [bit] using h
    · simp [h4]

/-- The handler's `exec` (R195, R340). -/
theorem entryExec_eq (e : Env) (ti : TrapInfo) : e.entryExec ti =
    match ti.cause with
    | .mem _ _ => ti.lanes
    | .instr .pttTarget => ti.lanes
    | _ => if bit ti.stat 4 then ti.lanes else e.fr.exec := by
  have hbit := and_statDefer ti.stat
  have hif : (if ti.stat &&& statDefer = 0 then e.fr.exec else ti.lanes) = if bit ti.stat 4 then ti.lanes else e.fr.exec := by
    cases hb : bit ti.stat 4 with
    | false => rw [if_pos (hbit.mpr hb), if_neg Bool.false_ne_true]
    | true => rw [if_neg (by rw [hbit, hb]; exact Bool.noConfusion), if_pos rfl]
  unfold Env.entryExec
  rw [hif] <;> rfl

theorem entered_spec {g : Group} {e : Env} {f : Frag} (hf : AMap.find g.frags e.who.frag = some f) (n : Nat) (ti : TrapInfo)
    (word cont : Pos) : Entered g (g.entered e n ti word cont) e.who.frag e.fr ti where
  cause := rfl
  pc := rfl
  va := rfl
  lanes := rfl
  stat := rfl
  next := rfl
  at_ := by
    refine ⟨{ f with inH := true, exec := e.entryExec ti, pos := { pc := g.tvec }, split := none, re := [],
                     held := none, stall := none, retry := false }, ?_, rfl, rfl, rfl, entryExec_eq e ti⟩
    show AMap.find (Group.modFrag (g.setTrap ti.cause ti) e.who.frag _).frags e.who.frag = _
    rw [Group.find_modFrag, if_pos rfl]
    show (AMap.find g.frags e.who.frag).map _ = _
    rw [hf]
    rfl
  aside := ⟨_, rfl, rfl, rfl⟩
  meld := ⟨rfl, rfl, rfl, rfl⟩
  kept := ⟨rfl, rfl, rfl, rfl, rfl, rfl, rfl, rfl, rfl, rfl⟩

/-! Each way of a trap. -/

/-- The trap is held. -/
noncomputable def State.holdTrap (s : State) (e : Env) (ti : TrapInfo) (word cont : Pos) : State :=
  s.modFrag e.who (fun f => { f with held := some (ti, word, cont), stall := none })

section
variable {s : State} {e : Env} {ti : TrapInfo} {word cont : Pos}

theorem takeTrap_of_stepOff (h : e.gr.stepOn = false) : s.takeTrap e ti word cont = s.enterTrap e ti word cont := by
  unfold State.takeTrap State.stepStop
  rw [h, if_neg Bool.false_ne_true]

theorem enterTrap_sibling {h : Handler} (hh : e.gr.hnd = some h) (hi : e.fr.inH = false) :
    s.enterTrap e ti word cont = s.holdTrap e ti word cont := by
  unfold State.enterTrap
  rw [hh]
  dsimp only
  rw [hi, if_neg Bool.false_ne_true]
  rfl

theorem enterTrap_inside {h : Handler} (hh : e.gr.hnd = some h) (hi : e.fr.inH = true) :
    s.enterTrap e ti word cont =
      (s.noteTrap e ti).halt e Cause.doubleFault.code h.info.cause.code h.info h.word h.cont := by
  unfold State.enterTrap
  rw [hh]
  dsimp only
  rw [hi, if_pos rfl]

section
variable (hh : e.gr.hnd = none)
include hh

theorem enterTrap_piped (hp : (s.complete e.gr.core e.gr.slice e.who).piped e.gr.core e.gr.slice e.who = true) :
    s.enterTrap e ti word cont = (s.complete e.gr.core e.gr.slice e.who).holdTrap e ti word cont := by
  unfold State.enterTrap
  rw [hh]
  dsimp only
  rw [hp, if_pos rfl]
  rfl

variable {s1 : State} {g : Group} (h1 : s.complete e.gr.core e.gr.slice e.who = s1)
  (hp : s1.piped e.gr.core e.gr.slice e.who = false) (hg : s1.grp? e.who = some g)
include h1 hp hg

/-- The trap once the group's earlier instructions have completed: it is counted, and the group halts or enters. -/
theorem enterTrap_done : s.enterTrap e ti word cont =
    let s3 := (s1.noteTrap e ti).modGrp e.who (fun k => { k with loops := e.loopCount g ti, lastTrap := some ti.key })
    if g.tvec = 0 then (s3.modGrp e.who (·.setTrap ti.cause ti)).halt e ti.cause.code 0 ti word cont
    else if 4 ≤ e.loopCount g ti then
      (s3.modGrp e.who (·.setTrap ti.cause ti)).halt e Cause.faultLoop.code ti.cause.code ti word cont
    else s3.enter e ti.cause ti word cont := by
  unfold State.enterTrap
  rw [hh]
  dsimp only
  rw [h1, hp, if_neg Bool.false_ne_true, hg]

omit hh h1 hp in
/-- The group with the trap counted. -/
theorem counted_grp (u : Group → Group) : (((s1.noteTrap e ti).modGrp e.who (fun k =>
    { k with loops := e.loopCount g ti, lastTrap := some ti.key })).modGrp e.who u).grp? e.who =
      some (u { g with loops := e.loopCount g ti, lastTrap := some ti.key }) := by
  rw [State.grp?_modGrp, if_pos ⟨rfl, rfl⟩, State.grp?_modGrp, if_pos ⟨rfl, rfl⟩, (noteTrap_quiet s1 e ti).grp?, hg]
  rfl

theorem enterTrap_enters {f : Frag} (hf : AMap.find g.frags e.who.frag = some f) (hv : g.tvec ≠ 0) (hn : e.loopCount g ti < 4) :
    ∃ g', (s.enterTrap e ti word cont).grp? e.who = some g' ∧ Entered g g' e.who.frag e.fr ti ∧ g'.halted = g.halted ∧
      ∀ w, w.tid ≠ e.who.tid ∨ w.grp ≠ e.who.grp → (s.enterTrap e ti word cont).grp? w = s1.grp? w := by
  rw [enterTrap_done hh h1 hp hg]
  dsimp only
  rw [if_neg hv, if_neg (Nat.not_le.mpr hn), enter_eq]
  refine ⟨_, counted_grp hg _, ?_, rfl, fun w hw => ?_⟩
  · obtain ⟨c1, c2, c3, c4, c5, c6, c7, c8, c9, c10⟩ :=
      entered_spec (g := { g with loops := e.loopCount g ti, lastTrap := some ti.key }) (e := e) hf
        ((s1.noteTrap e ti).modGrp e.who (fun k => { k with loops := e.loopCount g ti, lastTrap := some ti.key })).fresh ti word cont
    exact ⟨c1, c2, c3, c4, c5, c6, c7, c8, c9, c10⟩
  · have hne : ¬ (w.tid = e.who.tid ∧ w.grp = e.who.grp) := by tauto
    rw [State.grp?_modGrp, if_neg hne, State.grp?_modGrp, if_neg hne, (noteTrap_quiet s1 e ti).grp?]

omit hh h1 hp in
/-- The halt of a trap, with a cause. -/
theorem counted_halts (hs : s1.hold = s.hold ∧ s1.waiting = s.waiting) (cause inner : Nat) :
    let s3 := (s1.noteTrap e ti).modGrp e.who (fun k => { k with loops := e.loopCount g ti, lastTrap := some ti.key })
    let t := (s3.modGrp e.who (·.setTrap ti.cause ti)).halt e cause inner ti word cont
    Halts s t e cause inner ti word cont ∧ ∃ g', t.grp? e.who = some g' ∧ g'.tcause = BitVec.ofNat 64 ti.cause.code ∧
      g'.tpc = ti.pc ∧ g'.hnd = g.hnd := by
  intro s3 t
  obtain ⟨hq1, hq2, -⟩ := (noteTrap_quiet s1 e ti).held
  obtain ⟨h2, h3⟩ := halts_halt (s := s) (counted_grp hg (·.setTrap ti.cause ti)) (hq1.trans hs.1) (hq2.trans hs.2)
    cause inner ti word cont
  exact ⟨h2, _, h3, rfl, rfl, rfl⟩

end

end

/-! The record of a halt. -/

theorem mod_of_halfword {a : Nat} (h : Nat) (ha : a < 512) : (a + h * 2 ^ 16) % 512 = a := by
  have hm : h * 2 ^ 16 = h * 128 * 512 := (Nat.mul_assoc h 128 512).symm
  rw [hm, Nat.add_mul_mod_self_right, Nat.mod_eq_of_lt ha]

theorem div_of_halfword {a : Nat} (h : Nat) (ha : a < 512) : (a + h * 2 ^ 16) / 2 ^ 16 = h := by
  rw [Nat.add_mul_div_right _ _ (by decide), Nat.div_eq_of_lt (lt_trans ha (by decide)), Nat.zero_add]

theorem haltRecord_fields (cause inner n : Nat) (hc : cause < 512) (hi : inner < 512) :
    let x : Word := BitVec.ofNat 64 (cause + inner * 2 ^ 16 + n % 2 ^ 32 * 2 ^ 32)
    bits x 8 0 = cause ∧ bits x 24 16 = inner ∧ bits x 63 32 = n % 2 ^ 32 := by
  intro x
  have hn : n % 2 ^ 32 < 2 ^ 32 := Nat.mod_lt _ (by decide)
  have hsum : cause + inner * 2 ^ 16 + n % 2 ^ 32 * 2 ^ 32 = cause + (inner + n % 2 ^ 32 * 2 ^ 16) * 2 ^ 16 := by
    rw [Nat.add_mul, Nat.mul_assoc _ (2 ^ 16), Nat.add_assoc]
    rfl
  have hx : x.toNat = cause + (inner + n % 2 ^ 32 * 2 ^ 16) * 2 ^ 16 := by
    rw [BitVec.toNat_ofNat, hsum, Nat.mod_eq_of_lt (by lia)]
  have hmid : x.toNat / 2 ^ 16 = inner + n % 2 ^ 32 * 2 ^ 16 := by rw [hx, div_of_halfword _ hc]
  refine ⟨?_, ?_, ?_⟩ <;> refine (congrArg (· % _) (Nat.shiftRight_eq_div_pow ..)).trans ?_
  · rw [Nat.pow_zero, Nat.div_one, hx]
    exact mod_of_halfword _ hc
  · rw [hmid]
    exact mod_of_halfword _ hi
  · rw [Nat.pow_add 2 16 16, ← Nat.div_div_eq_div_mul, hmid, div_of_halfword _ hi]
    exact Nat.mod_mod ..

/-- Settles O23: the trap in each of its ways, and the words of a halt's record. -/
theorem trapEntry : Obligations.TrapEntry := by
  refine ⟨fun s e ti word cont henv hstep => ?_, fun t w g cause inner ti hc hi => ?_⟩
  · have hg : s.grp? e.who = some e.gr := State.envOf_grp henv
    have htake := takeTrap_of_stepOff (s := s) (e := e) (ti := ti) (word := word) (cont := cont) hstep
    refine ⟨fun hh hset hv hn => ?_, fun hh => ⟨fun hp => htake.trans (enterTrap_piped hh hp), fun g1 f1 hp hg1 hf1 hv hn => ?_⟩,
      fun hh hset hv => ?_, fun hh hset hv hre hst hlast hloops => ?_, fun h hh hi => ?_, fun hh hi => ?_⟩
    · rw [htake]
      exact enterTrap_enters hh (complete_settled hset) hset.1 hg (State.envOf_some henv).2.2.2 hv hn
    · rw [htake]
      obtain ⟨g', h1, h2, h3, -⟩ := enterTrap_enters (ti := ti) (word := word) (cont := cont) hh rfl hp hg1 hf1 hv hn
      exact ⟨g', h1, h2, h3⟩
    · rw [htake, enterTrap_done hh (complete_settled hset) hset.1 hg]
      dsimp only
      rw [if_pos hv]
      obtain ⟨h1, g', h2, h3, h4, -⟩ := counted_halts (ti := ti) (word := word) (cont := cont)
        hg ⟨rfl, rfl⟩ ti.cause.code 0
      exact ⟨h1, g', h2, h3, h4⟩
    · have hcount : e.loopCount e.gr ti = 4 := by
        unfold Env.loopCount
        have : ((e.fr.re != []) : Bool) = true := by simpa using hre
        simp [this, hst, hlast, hloops]
      rw [htake, enterTrap_done hh (complete_settled hset) hset.1 hg]
      dsimp only
      rw [if_neg hv, if_pos (by rw [hcount])]
      obtain ⟨h1, g', h2, -, -, h5⟩ := counted_halts (ti := ti) (word := word) (cont := cont)
        hg ⟨rfl, rfl⟩ Cause.faultLoop.code ti.cause.code
      exact ⟨h1, g', h2, h5.trans hh⟩
    · rw [htake, enterTrap_inside hh hi]
      obtain ⟨hq1, hq2, -⟩ := (noteTrap_quiet s e ti).held
      obtain ⟨h1, h2⟩ := halts_halt (s := s) (((noteTrap_quiet s e ti).grp? e.who).trans hg) hq1 hq2 Cause.doubleFault.code
        h.info.cause.code h.info h.word h.cont
      exact ⟨h1, _, h2, rfl, rfl⟩
    · obtain ⟨h, hh'⟩ := Option.ne_none_iff_exists'.mp hh
      exact htake.trans (enterTrap_sibling hh' hi)
  · obtain ⟨h1, h2, h3⟩ := haltRecord_fields cause inner t.launch hc hi
    exact ⟨h1, h2, h3, rfl, rfl, rfl, rfl, rfl, rfl⟩

end Sys2Proof.Machine
end

section
/-! Trap fences (R193), and the words `trap`, `tfence` and `brk` (R272). -/

namespace Sys2Proof.Machine

section
variable {s s1 : State} {e e1 : Env} {i : Instr} {body : Env → State → Res}

/-- A trap fence that passes, once its word issues. -/
theorem issue_of_passes (h : Passes s e i s1 e1) (hfl : e1.flagOf i = none) :
    s.issue i body = .next (s1.finish e1 i (body e1 (s1.begun e1))).tick := by
  obtain ⟨henv, hq, hf, hg, hp, hd, hi, hs, hc, hform, hguard, hready⟩ := h
  unfold State.issue
  rw [henv]
  dsimp only
  rw [attempt_of_quiet hq]
  unfold State.fenced State.fencedThen
  rw [hf, hg, hp]
  simp only [Bool.not_false, Bool.and_self, if_true]
  rw [← hd, hi, if_neg Bool.false_ne_true, hs]
  dsimp only
  have hclear : (decide (e1.gr.gstat &&& e1.gr.tarm ≠ 0) && !e.fr.inH) = false := by
    rcases hc with h | h <;> simp [h]
  rw [hclear, if_neg Bool.false_ne_true]
  unfold State.carryOut
  simp only [hform, guard_free hready, hguard, hready, Bool.not_true, Bool.and_false, Bool.false_eq_true, if_false, hfl]
  rfl

theorem passes_done {t : State} (h : Passes s e i s1 e1) (hfl : e1.flagOf i = none)
    (hb : body e1 (s1.begun e1) = .done t) : s.issue i body = .next (t.issued s1 e1 i) := by
  rw [issue_of_passes h hfl, hb]
  rfl

/-- A trap fence at which an armed flag stands. -/
theorem issue_of_fence (henv : s.env = some e) (hq : e.tested = true → s.matches e i = []) (hf : trapFence i = true)
    (hg : e.groupGuard i.guard = true) (hp : e.parked = false) (hd : s1 = s.complete e.gr.core e.gr.slice e.who)
    (hi : s1.piped e.gr.core e.gr.slice e.who = false) (hs : s1.envOf e.who = some e1) (hin : e.fr.inH = false)
    (hne : e1.gr.gstat &&& e1.gr.tarm ≠ 0) :
    s.issue i body = .next (((s1.chargeIssue e1 i).takeTrap e1
      { e1.trapOf (fenceCause (e1.gr.gstat &&& e1.gr.tarm)) with stat := 8 } e1.fr.pos e1.after).tick) := by
  unfold State.issue
  rw [henv]
  dsimp only
  rw [attempt_of_quiet hq]
  unfold State.fenced State.fencedThen
  rw [hf, hg, hp]
  simp only [Bool.not_false, Bool.and_self, if_true]
  rw [← hd, hi, if_neg Bool.false_ne_true, hs]
  dsimp only
  rw [hin, decide_eq_true hne]
  rfl

end

theorem trap_traps {s : State} {e : Env} {f : SF} (h : Issues s e (.trap f)) :
    exec (.trap f) s = .next (s.trapped e (.trap f) (e.trapOf (.soft (f.imm.extractLsb' 0 6)))) := issue_trapped h rfl rfl

theorem tfence_passes {s s1 : State} {e e1 : Env} {f : SF} (h : Passes s e (.tfence f) s1 e1) :
    exec (.tfence f) s = .next ((s1.begun e1).issued s1 e1 (.tfence f)) := passes_done h rfl rfl

theorem brk_stops {s : State} {e : Env} {f : SF} (h : Issues s e (.brk f)) :
    exec (.brk f) s = .next (((s.begun e).advance e).debugStop e 0x14F false).tick := by
  show s.issue (.brk f) _ = _
  rw [issue_of_issues h rfl]
  rfl

/-! The cause of a fence. -/

theorem low_flags (f : Flags) : f &&& 0x3F = 0 ↔ f.extractLsb' 0 6 = 0 := by
  revert f
  decide

theorem and_flOOB (f : Flags) : f &&& flOOB ≠ 0 ↔ f.getLsbD 6 = true := by
  revert f
  decide

theorem fenceCause_spec (f : Flags) :
    (f.extractLsb' 0 6 ≠ 0 → fenceCause f = .arith (f.extractLsb' 0 6) ∧
      (fenceCause f).code = 0x40 + (f.extractLsb' 0 6).toNat) ∧
    (f.extractLsb' 0 6 = 0 → f.getLsbD 6 = true → fenceCause f = .view .oob ∧ (fenceCause f).code = 0xC5) ∧
    (f.extractLsb' 0 6 = 0 → f.getLsbD 6 = false → fenceCause f = .view .xdrop ∧ (fenceCause f).code = 0xC6) := by
  refine ⟨fun h => ?_, fun h h6 => ?_, fun h h6 => ?_⟩
  · have : fenceCause f = .arith (f.extractLsb' 0 6) := if_pos (mt (low_flags f).mp h)
    rw [this]
    exact ⟨rfl, rfl⟩
  · have : fenceCause f = .view .oob :=
      (if_neg (not_not.mpr ((low_flags f).mpr h))).trans (if_pos ((and_flOOB f).mpr h6))
    rw [this]
    exact ⟨rfl, rfl⟩
  · have : fenceCause f = .view .xdrop :=
      (if_neg (not_not.mpr ((low_flags f).mpr h))).trans (if_neg (by rw [and_flOOB, h6]; exact Bool.false_ne_true))
    rw [this]
    exact ⟨rfl, rfl⟩

/-- Settles O24: the three words, the fence test and its cause. -/
theorem trapWords : Obligations.TrapWords := by
  refine ⟨fun s e f => ⟨fun h => ⟨trap_traps h, rfl⟩, fun s1 e1 h => tfence_passes h, fun h => brk_stops h⟩,
    fun s e e1 i s1 hi henv hq hg hp hd hpi hs hin hne => ?_, fun f _ => fenceCause_spec f⟩
  obtain ⟨f, rfl⟩ | ⟨f, rfl⟩ | ⟨f, rfl⟩ | ⟨f, rfl⟩ | ⟨f, rfl⟩ | ⟨f, rfl⟩ := hi
  · exact issue_of_fence henv hq rfl hg hp hd hpi hs hin hne
  · exact issue_of_fence henv hq rfl hg hp hd hpi hs hin hne
  · exact issue_of_fence henv hq rfl hg hp hd hpi hs hin hne
  · exact issue_of_fence henv hq rfl hg hp hd hpi hs hin hne
  · exact issue_of_fence henv hq rfl hg hp hd hpi hs hin hne
  · exact issue_of_fence henv hq rfl hg hp hd hpi hs hin hne

end Sys2Proof.Machine
end

section
/-! `trret` (R197). -/

namespace Sys2Proof.Machine

theorem State.wordAt_modGrp (s : State) (w : Sel) (u : Group → Group) (e : Env) (va : Word) :
    (s.modGrp w u).wordAt e va = s.wordAt e va := by
  unfold State.wordAt
  rw [State.fetch_modGrp]

theorem State.badTstat_begun (s : State) (e : Env) : (s.begun e).badTstat e = s.badTstat e := by
  unfold State.badTstat State.begun
  simp only [State.wordAt_modGrp]

/-- A written `%tpc` names a header. -/
noncomputable def State.tpcOk (s : State) (e : Env) : Bool := e.gr.tpc.toNat % 8 == 0 && (s.wordAt e e.gr.tpc).any isHeader

theorem State.tpcOk_iff (s : State) (e : Env) : s.tpcOk e = true ↔
    e.gr.tpc.toNat % 8 = 0 ∧ ∃ w, s.wordAt e e.gr.tpc = some w ∧ isHeader w = true := by
  unfold State.tpcOk
  rw [Bool.and_eq_true, beq_iff_eq, Option.any_eq_true]

theorem State.not_tpcOk {s : State} {e : Env}
    (h : e.gr.tpc.toNat % 8 ≠ 0 ∨ ∀ w, s.wordAt e e.gr.tpc = some w → isHeader w = false) : s.tpcOk e = false := by
  rw [← Bool.not_eq_true, State.tpcOk_iff]
  rintro ⟨h8, w, hw, hh⟩
  rcases h with h | h
  · exact h h8
  · rw [h w hw] at hh
    cases hh

section
variable {s : State} {e : Env} {f : SF} (h : Issues s e (.trret f))
include h

theorem trret_outside (hi : e.fr.inH = false) :
    exec (.trret f) s = .next (s.trapped e (.trret f) (e.trapOf (.instr .trretOutside))) := by
  refine issue_instr h rfl ?_
  rw [hi]

section
variable {k : Handler} (hi : e.fr.inH = true) (hh : e.gr.hnd = some k)
include hi hh

/-- `trret` in a handler: what it rules out in order, and what it does. -/
theorem trret_inside : exec (.trret f) s = .next (s.finish e (.trret f) (.gone (
    if s.badTstat e then (s.begun e).doubleFault e k .badTstat
    else if e.depth ≠ 0 then (s.begun e).doubleFault e k .meldDepth
    else if e.splits != [] then (s.begun e).doubleFault e k .meldSplit
    else if k.tpcWritten && !s.tpcOk e then (s.begun e).doubleFault e k .notHeader
    else (s.begun e).modGrp e.who (fun g => g.trret k)))).tick := by
  have hok : (s.begun e).tpcOk e = s.tpcOk e := by
    unfold State.tpcOk State.begun
    rw [State.wordAt_modGrp]
  show execTrret f s = _
  unfold execTrret
  rw [issue_of_issues h rfl, hi, hh]
  change Host.Outcome.next (s.finish e (.trret f) (if (s.begun e).badTstat e then _
    else if e.depth ≠ 0 then _ else if e.splits != [] then _ else if k.tpcWritten && !(s.begun e).tpcOk e then _ else _)).tick = _
  rw [hok, State.badTstat_begun, apply_ite Res.gone, apply_ite Res.gone, apply_ite Res.gone, apply_ite Res.gone]

theorem trret_badTstat (hb : s.badTstat e = true) :
    exec (.trret f) s = .next (((s.begun e).doubleFault e k .badTstat).left s e (.trret f)) := by
  rw [trret_inside h hi hh, if_pos hb]
  rfl

variable (hb : s.badTstat e = false)
include hb

theorem trret_meldDepth (hd : e.depth ≠ 0) :
    exec (.trret f) s = .next (((s.begun e).doubleFault e k .meldDepth).left s e (.trret f)) := by
  rw [trret_inside h hi hh, hb, if_neg Bool.false_ne_true, if_pos hd]
  rfl

variable (hd : e.depth = 0)
include hd

theorem trret_meldSplit (hs : e.splits ≠ []) :
    exec (.trret f) s = .next (((s.begun e).doubleFault e k .meldSplit).left s e (.trret f)) := by
  rw [trret_inside h hi hh, hb, if_neg Bool.false_ne_true, if_neg (not_not.mpr hd), if_pos (bne_iff_ne.mpr hs)]
  rfl

variable (hs : e.splits = [])
include hs

theorem trret_notHeader (hw : k.tpcWritten = true) (hok : s.tpcOk e = false) :
    exec (.trret f) s = .next (((s.begun e).doubleFault e k .notHeader).left s e (.trret f)) := by
  rw [trret_inside h hi hh, hb, if_neg Bool.false_ne_true, if_neg (not_not.mpr hd), if_neg (by rw [hs]; exact Bool.false_ne_true), hw, hok]
  rfl

theorem trret_leaves (hok : k.tpcWritten = true → s.tpcOk e = true) :
    exec (.trret f) s = .next (((s.begun e).modGrp e.who (fun g => g.trret k)).left s e (.trret f)) := by
  have hc : (k.tpcWritten && !s.tpcOk e) = false := by
    cases hw : k.tpcWritten with
    | false => rfl
    | true => rw [hok hw]; rfl
  rw [trret_inside h hi hh, hb, if_neg Bool.false_ne_true, if_neg (not_not.mpr hd), if_neg (by rw [hs]; exact Bool.false_ne_true), hc]
  rfl

end

end

/-! The group that is left. -/

theorem find_leave (g : Group) (h : Handler) (pos : Pos) (exec : Word) (re : List Re) :
    AMap.find (g.leave h pos exec re).frags h.frag.key =
      some { h.frag with exec := exec &&& g.live, pos := pos, re := re, stall := none, held := none } :=
  (AMap.find_insert _ _ _ _).trans (if_pos rfl)

/-- Where the fragment goes on after the word (R197, R340). -/
theorem contAt_eq (h : Handler) (g : Group) (pos : Pos) : h.contAt g pos =
    if bit g.tstat 4 then { pos with pc := g.tnext } else if bit h.info.stat 4 then h.word.next else pos := by
  have hdefer (x : Word) : (x &&& statDefer ≠ 0) ↔ bit x 4 = true := by
    rw [Ne, and_statDefer, Bool.not_eq_false]
  unfold Handler.contAt Handler.deferred
  simp only [hdefer, Bool.decide_eq_true]

/-- The word that is executed again, with what it goes back to (R197). -/
noncomputable def Handler.redo (h : Handler) (g : Group) : Re :=
  { exec := h.back.1, cont := h.contAt g h.back.2.1, step := if bit g.tstat 2 then some (bits g.tstat 63 32) else none }

theorem trret_group (g : Group) (h : Handler) :
    let g' := g.trret h
    let back := h.back
    g'.hnd = none ∧ g'.hmeld = [] ∧ g'.meld = g.meld ∧ g'.floor = g.floor ∧
    ∃ f', AMap.find g'.frags h.frag.key = some f' ∧
      (h.tpcWritten = true → f'.pos = { pc := g.tpc } ∧ f'.exec = h.whole &&& g.live ∧ f'.re = []) ∧
      (h.tpcWritten = false → h.word.cl.left = 0 → f'.pos = h.word ∧ f'.exec = back.1 &&& g.live ∧
        f'.re = back.2.2 ∧ f'.retry = true) ∧
      (h.tpcWritten = false → h.word.cl.left ≠ 0 → f'.pos = h.word ∧ f'.exec = g.tlanes &&& g.live ∧
        ∃ r, f'.re = r :: back.2.2 ∧ r.exec = back.1 ∧
          r.cont = (if bit g.tstat 4 then { back.2.1 with pc := g.tnext }
            else if bit h.info.stat 4 then h.word.next else back.2.1) ∧
          r.step = if bit g.tstat 2 then some (bits g.tstat 63 32) else none) := by
  intro g' back
  cases hw : h.tpcWritten with
  | true =>
    have hg : g' = g.leave h { pc := g.tpc } h.whole [] := if_pos hw
    rw [hg]
    exact ⟨rfl, rfl, rfl, rfl, _, find_leave .., fun _ => ⟨rfl, rfl, rfl⟩, fun h => Bool.noConfusion h,
      fun h => Bool.noConfusion h⟩
  | false =>
    by_cases hl : h.word.cl.left = 0
    · have hg : g' = (g.leave h h.word back.1 back.2.2).modFrag h.frag.key (fun f => { f with retry := true }) :=
        (if_neg (by rw [hw]; exact Bool.false_ne_true)).trans (if_pos hl)
      rw [hg]
      refine ⟨rfl, rfl, rfl, rfl, { h.frag with exec := back.1 &&& g.live, pos := h.word, re := back.2.2, stall := none
                                                held := none, retry := true }, ?_, fun h => Bool.noConfusion h, fun _ _ => ⟨rfl, rfl, rfl, rfl⟩, fun _ h => absurd hl h⟩
      rw [Group.find_modFrag, if_pos rfl, find_leave]
      rfl
    · have hg : g' = g.leave h h.word g.tlanes (h.redo g :: back.2.2) :=
        (if_neg (by rw [hw]; exact Bool.false_ne_true)).trans (if_neg hl)
      rw [hg]
      exact ⟨rfl, rfl, rfl, rfl, _, find_leave .., fun h => Bool.noConfusion h, fun _ h => absurd h hl,
        fun _ _ => ⟨rfl, rfl, _, rfl, rfl, contAt_eq h g _, rfl⟩⟩

/-- Settles O25: the word in each of its cases, and the group that it leaves. -/
theorem trapReturn : Obligations.TrapReturn := fun s e _ h =>
  ⟨fun hi => trret_outside h hi,
    fun _ hi hh => ⟨fun hb => trret_badTstat h hi hh hb, fun hb hd => trret_meldDepth h hi hh hb hd,
      fun hb hd hs => trret_meldSplit h hi hh hb hd hs⟩,
    fun _ hi hh hb hd hs hw hbad => trret_notHeader h hi hh hb hd hs hw (State.not_tpcOk hbad),
    fun _ hi hh hb hd hs hok => trret_leaves h hi hh hb hd hs fun hw => (State.tpcOk_iff s e).mpr (hok hw),
    trret_group⟩

end Sys2Proof.Machine
end

section
/-! What the completion of a group's earlier instructions (R193, R195) keeps of its fragments. -/

namespace Sys2Proof.Machine

/-! An `xlz` job goes from state to state by loads of bytes and stores that pass the gate, and by nothing else. -/

/-- What a step of an `xlz` job leaves, in each of its outcomes, has a property. -/
def XzEnd.Has (P : State → Prop) : XzEnd → Prop
  | .ended x => P x.s
  | .limit x => P x.s
  | .fault _ _ s => P s
  | .hold => True

/-- Likewise for a part of a step that answers some `α` with a state. -/
def xzHas {α : Type} (P : State → Prop) (st : α → State) : Except XzEnd α → Prop
  | .ok a => P (st a)
  | .error z => z.Has P

theorem xzHas_bind {α β : Type} {P : State → Prop} {st : α → State} {st' : β → State} {r : Except XzEnd α}
    {k : α → Except XzEnd β} (hr : xzHas P st r) (hk : ∀ a, P (st a) → xzHas P st' (k a)) : xzHas P st' (r >>= k) := by
  cases r with
  | ok a => exact hk a hr
  | error z => exact hr

section
variable {P : State → Prop} (hload : ∀ s who core poc p n, P s → P (State.load s who core poc p n).2)
  (hgate : ∀ s who core bytes, P s → P (State.passGate s who core bytes []))
variable {x : Xz} (j : Job) (core : Nat)

include hload in
theorem xzRead_has {s : State} (a : Word) (hs : P s) :
    ∀ b t, s.xzRead j core a = .ok (some (b, t)) → P t := by
  intro b t h
  unfold State.xzRead at h
  split at h
  · cases h
  · split at h
    · cases h
    · rename_i p _
      cases p with
      | scr o =>
        dsimp only at h
        split at h
        · cases h
        · cases h
          exact hload _ _ _ _ _ _ hs
      | mem ia keys =>
        simp only [Bool.false_eq_true, if_false, Except.ok.injEq, Option.some.injEq, Prod.mk.injEq] at h
        obtain ⟨-, rfl⟩ := h
        exact hload _ _ _ _ _ _ hs

include hgate in
theorem xzWrite_has {s : State} (a : Word) (v : Byte) (hs : P s) : ∀ t, s.xzWrite j core a v = .ok (some t) → P t := by
  intro t h
  unfold State.xzWrite at h
  split at h
  · cases h
  · split at h
    · cases h
    · rename_i p _
      cases p with
      | scr o =>
        dsimp only at h
        split at h
        · cases h
        · cases h
          exact hgate _ _ _ _ hs
      | mem ia keys =>
        simp only [Bool.false_eq_true, if_false, Except.ok.injEq, Option.some.injEq] at h
        subst h
        exact hgate _ _ _ _ hs

include hload in
theorem Xz.take_has (hs : P x.s) : xzHas P (fun r : Byte × Xz => r.2.s) (x.take j core) := by
  unfold Xz.take
  split
  · exact hs
  · split
    · exact hs
    · trivial
    · rename_i h
      exact xzRead_has hload j core _ hs _ _ h

include hload in
theorem Xz.offset_has (hs : P x.s) : xzHas P Xz.s (x.offset j core) := by
  unfold Xz.offset
  split
  · split <;> exact hs
  · refine xzHas_bind (Xz.take_has hload j core hs) fun r hr =>
      xzHas_bind (Xz.take_has hload j core hr) fun q hq => ?_
    dsimp only
    split <;> exact hq

include hload in
/-- A field of a token with the byte that extends it. -/
theorem Xz.extended_has {c : Prop} [Decidable c] (m n : Nat) {k : Nat × Xz → Except XzEnd Xz}
    (hk : ∀ q, P q.2.s → xzHas P Xz.s (k q)) (hs : P x.s) :
    xzHas P Xz.s (if c then (do let (b, y) ← x.take j core; return (m + b.toNat, y)) >>= k
      else pure (n, x) >>= k) := by
  have htake : xzHas P (fun q : Nat × Xz => q.2.s) (do let (b, y) ← x.take j core; return (m + b.toNat, y)) :=
    xzHas_bind (Xz.take_has hload j core hs) fun _ hr => hr
  split
  · exact xzHas_bind htake hk
  · exact hk _ hs

include hload in
theorem Xz.token_has (hs : P x.s) : xzHas P Xz.s (x.token j core) := by
  unfold Xz.token
  split
  · split <;> exact hs
  · refine xzHas_bind (Xz.take_has hload j core hs) fun r hr => Xz.extended_has hload j core 7 _ (fun q hq => ?_) hr
    refine Xz.extended_has hload j core 34 _ (fun w hw => ?_) hq
    exact hw

include hgate in
theorem Xz.put_has (b : Byte) (hs : P x.s) : xzHas P Xz.s (x.put j core b) := by
  unfold Xz.put
  split
  · exact hs
  · split
    · exact hs
    · trivial
    · rename_i h
      exact xzWrite_has hgate j core _ _ hs _ h

include hload hgate

theorem Xz.literal_has (hs : P x.s) : xzHas P Xz.s (x.literal j core) := by
  unfold Xz.literal
  split
  · exact hs
  · split
    · exact hs
    · exact xzHas_bind (Xz.take_has hload j core hs) fun r hr =>
        xzHas_bind (Xz.put_has hgate j core r.1 hr) fun _ hz => hz

theorem Xz.copy_has (hs : P x.s) : xzHas P Xz.s (x.copy j core) := by
  unfold Xz.copy
  split
  · exact hs
  · split
    · exact hs
    · trivial
    · rename_i h
      have := xzRead_has hload j core _ hs _ _ h
      exact xzHas_bind (st := Xz.s) (Xz.put_has hgate j core _ this) fun _ hz => hz

theorem Xz.step_has (hs : P x.s) : xzHas P Xz.s (x.step j core) := by
  unfold Xz.step
  split
  · exact Xz.literal_has hload hgate j core hs
  · split
    · split
      · exact Xz.copy_has hload hgate j core hs
      · exact Xz.offset_has hload j core hs
    · exact Xz.token_has hload j core hs

theorem Xz.run_has (n : Nat) (hs : P x.s) : (Xz.run j core n x).Has P := by
  induction n generalizing x with
  | zero => exact hs
  | succ n ih =>
    have hstep := Xz.step_has hload hgate j core hs
    unfold Xz.run
    cases h : x.step j core with
    | ok y => rw [h] at hstep; exact ih hstep
    | error z => rw [h] at hstep; exact hstep

end

/-! Loads settle stores and fill lines. -/

theorem settles_l1Drop (s : State) (core line : Nat) : Settles s (s.l1Drop core line) :=
  settles_modCore s core _ ⟨_, _, rfl⟩

theorem settles_l1Fill (s : State) (core ia key : Nat) : Settles s (s.l1Fill core ia key) := by
  unfold State.l1Fill
  split
  · exact .refl s
  · dsimp only
    split
    · exact (settles_settleLine s core ia).trans (settles_l1Drop _ _ _)
    · exact (settles_settleLine s core ia).trans (settles_modCore _ _ _ ⟨_, _, rfl⟩)

theorem settles_loadMem (s : State) (core : Nat) (poc : Bool) (ia : Nat) (keys : List Nat) :
    Settles s (s.loadMem core poc ia keys).2 := by
  unfold State.loadMem
  split
  · exact settles_foldl _ (fun s (ki : Nat × Nat) => settles_l1Fill s core (ia + ki.2) ki.1) _ s
  · dsimp only
    split
    · exact settles_foldl _ (fun s i => (settles_settleLine s core (ia + i)).trans (settles_l1Drop _ _ _)) _ s
    · exact .refl s

theorem settles_load (s : State) (who : Sel) (core : Nat) (poc : Bool) (p : Where) (n : Nat) :
    Settles s (s.load who core poc p n).2 := by
  cases p with
  | scr o => exact .refl s
  | mem ia keys =>
    simp only [State.load]
    split
    · exact (settles_loadMem s core poc ia keys).trans (settles_modCore _ _ _ ⟨_, _, rfl⟩)
    · exact settles_loadMem s core poc ia keys

theorem settles_passGate (s : State) (who : Sel) (core : Nat) (bytes : List StByte) (views : List View) :
    Settles s (s.passGate who core bytes views) :=
  ((settles_releaseWhere s core _).trans (settles_settleBytes _ core _)).trans (settles_perform _ who core bytes)

/-! The fragments of every group stay as they are. -/

/-- Every group keeps its fragments. -/
def SameFrags (s t : State) : Prop := Through (fun _ _ => True) (fun g h => h.frags = g.frags) s t

section
variable {s t u : State}

theorem SameFrags.of_teams (h : t.teams = s.teams) : SameFrags s t := Through.of_teams (fun _ => trivial) (fun _ => rfl) h

theorem SameFrags.refl (s : State) : SameFrags s s := .of_teams rfl

theorem SameFrags.trans (h : SameFrags s t) (k : SameFrags t u) : SameFrags s u :=
  Through.trans (fun _ _ _ _ _ => trivial) (fun _ _ _ a b => b.trans a) h k

theorem SameFrags.of_settles (h : Settles s t) : SameFrags s t :=
  Through.of_settles (fun _ _ => trivial) (fun _ => rfl) h

theorem SameFrags.modGrp (s : State) (w : Sel) {f : Group → Group} (h : ∀ g, (f g).frags = g.frags) :
    SameFrags s (s.modGrp w f) := Through.of_modGrp (fun _ _ => trivial) (fun _ => rfl) h

theorem SameFrags.foldl {α : Type} {f : State → α → State} (h : ∀ s a, SameFrags s (f s a)) (xs : List α) (s : State) :
    SameFrags s (xs.foldl f s) :=
  Through.foldl (T := fun _ _ => True) (R := fun g h => h.frags = g.frags) (fun _ => trivial) (fun _ => rfl)
    (fun _ _ _ _ _ => trivial) (fun _ _ _ a b => b.trans a) (fun s a _ => h s a) s

end

theorem frags_foldl {α : Type} {f : Group → α → Group} (h : ∀ g a, (f g a).frags = g.frags) (xs : List α) (g : Group) :
    (xs.foldl f g).frags = g.frags := by
  induction xs generalizing g with
  | nil => rfl
  | cons a xs ih => exact (ih _).trans (h g a)

@[simp] theorem Group.jobDone_frags (g : Group) (j : Job) : (g.jobDone j).frags = g.frags := Group.flagDown_frags _ _

theorem sameFrags_defer (s : State) (w : Sel) (d : Deferred) : SameFrags s (s.defer w d) := by
  refine (SameFrags.modGrp s w (f := fun g => { g with deferred := g.deferred ++ [d] }) fun _ => rfl).trans ?_
  refine Through.mono (fun _ _ _ => trivial) (fun g h hgh => ?_) (postDead_through _ w)
  obtain ⟨_, _, rfl⟩ := hgh
  rfl

theorem sameFrags_completed (s : State) (w : Sel) (inH : Bool) : SameFrags s (s.completed w inH) := by
  unfold State.completed
  split
  · exact .refl s
  · exact .modGrp s w fun _ => rfl

theorem sameFrags_runXlut {s t : State} {core : Nat} {j : Job} {d : Nat} (h : s.runXlut core j d = some t) : SameFrags s t := by
  unfold State.runXlut at h
  split at h
  · cases h
  · dsimp only at h
    split at h
    · cases h
    · rw [← Option.some.inj h]
      refine .modGrp s _ fun g => ?_
      rw [Group.jobDone_frags]
      refine frags_foldl (fun g l => ?_) _ _
      rfl

theorem sameFrags_runXunp (s : State) (j : Job) (d : Nat) (signed : Bool) : SameFrags s (s.runXunp j d signed) := by
  refine .modGrp s _ fun g => ?_
  rw [Group.jobDone_frags]
  refine frags_foldl (fun g l => ?_) _ _
  refine frags_foldl (fun g m => ?_) _ _
  rfl

/-- What holds of the state that a job leaves, where it leaves one. -/
def OfRun (p : State → Prop) : Option (State × Nat) → Prop
  | none => True
  | some u => p u.1

section
variable {p : State → Prop}

theorem OfRun.ite {c : Prop} [Decidable c] {a b : Option (State × Nat)} (ha : OfRun p a) (hb : OfRun p b) :
    OfRun p (if c then a else b) := by
  split
  · exact ha
  · exact hb

theorem OfRun.map {o : Option State} (h : ∀ t, o = some t → p t) : OfRun p (o.map (fun s => (s, 0))) := by
  cases o with
  | none => trivial
  | some t => exact h t rfl

theorem XzEnd.has_of_eq {x y : XzEnd} (h : x = y) (hx : x.Has p) : y.Has p := h ▸ hx

/-- What loads, stores and the end of a job keep, `xlz` keeps. -/
theorem runXlz_of {s : State} {core : Nat} {j : Job} {reg : Nat} {inH : Bool}
    (hload : ∀ s who core slice acq bytes, p s → p (s.load who core slice acq bytes).2)
    (hgate : ∀ s who core bytes, p s → p (s.passGate who core bytes []))
    (hfail : ∀ u d, p u → p ((u.modGrp j.who (fun gr => gr.jobDone j)).defer j.who d))
    (hclose : ∀ u (ws : List (Word × Nat)), p u → p ((u.modGrp j.who (fun gr =>
      (ws.foldl (fun gr wi => gr.setG inH (reg + wi.2) wi.1) gr).jobDone j)).completed j.who j.inH))
    (hs : p s) (hd : p (s.drainStores core j.who)) : OfRun p (s.runXlz core j reg inH) := by
  have hrun (x : Xz) (hx : p x.s) : (Xz.run j core 20000 x).Has p := Xz.run_has hload hgate j core _ hx
  refine OfRun.ite (hfail _ _ hs) (OfRun.ite (hfail _ _ hs) ?_)
  dsimp only
  split
  · rename_i hx
    exact hclose _ _ (XzEnd.has_of_eq hx (hrun _ hd))
  · rename_i hx
    exact hclose _ _ (XzEnd.has_of_eq hx (hrun _ hd))
  · rename_i hx
    exact hfail _ _ (XzEnd.has_of_eq hx (hrun _ hd))
  · trivial

end

theorem sameFrags_runXlz (s : State) (core : Nat) (j : Job) (reg : Nat) (inH : Bool) :
    OfRun (SameFrags s) (s.runXlz core j reg inH) := by
  refine runXlz_of (fun s' _ _ _ _ _ h => h.trans (.of_settles (settles_load s' _ _ _ _ _)))
    (fun s' _ _ _ h => h.trans (.of_settles (settles_passGate s' _ _ _ _)))
    (fun u d hu => (hu.trans (.modGrp u _ fun g => g.jobDone_frags j)).trans (sameFrags_defer _ _ _))
    (fun u ws hu => (hu.trans (.modGrp u _ fun g => ?_)).trans (sameFrags_completed _ _ _))
    (.refl s) (.of_settles (settles_drainStores s core j.who))
  rw [Group.jobDone_frags]
  exact frags_foldl (fun g wi => g.setG_frags ..) _ _

/-- What the head job of a pipe gives. -/
noncomputable def State.jobOutcome (s : State) (core : Nat) (j : Job) : Option (State × Nat) :=
  match j.instr with
  | .xlut f => (s.runXlut core j f.d.toNat).map (fun s => (s, 0))
  | .xunp f => some (s.runXunp j f.d.toNat (f.c == 1), 0)
  | .xlz f => s.runXlz core j f.gp.toNat j.inH
  | _ => some (s, 0)

theorem State.jobOutcome_cases {p : Option (State × Nat) → Prop} {s : State} {core : Nat} {j : Job}
    (hlut : ∀ d, p ((s.runXlut core j d).map (fun s => (s, 0)))) (hunp : ∀ d b, p (some (s.runXunp j d b, 0)))
    (hlz : ∀ r, p (s.runXlz core j r j.inH)) (hnone : p (some (s, 0))) : p (s.jobOutcome core j) := by
  unfold State.jobOutcome
  cases j.instr with
  | xlut f => exact hlut _
  | xunp f => exact hunp _ _
  | xlz f => exact hlz _
  | _ => exact hnone

theorem State.runJob_eq (s : State) (core pipe : Nat) : s.runJob core pipe =
    match AMap.get [] (s.core core).pipes pipe with
    | [] => s
    | j :: rest =>
      match s.jobOutcome core j with
      | none => s
      | some (s1, cause) =>
        (s1.modCore core (fun c => { c with pipes := AMap.set [] c.pipes pipe rest })).noteTask j.who core 0x02
          (1 + pipe) j.seq j.instr.opc j.pc [BitVec.ofNat 64 cause] := rfl

theorem sameFrags_jobOutcome (s : State) (core : Nat) (j : Job) : OfRun (SameFrags s) (s.jobOutcome core j) :=
  State.jobOutcome_cases (fun _ => .map fun _ h => sameFrags_runXlut h) (fun d b => sameFrags_runXunp s _ d b)
    (fun r => sameFrags_runXlz s core j r _) (.refl s)

/-- What every job and the reply keep, a pipe keeps. -/
theorem runJob_of {p : State → Prop} {s : State} {core pipe : Nat} (hs : p s)
    (hj : ∀ j, OfRun p (s.jobOutcome core j))
    (hend : ∀ u (f : Core → Core) w a b q o n l, p u → p ((u.modCore core f).noteTask w core a b q o n l)) :
    p (s.runJob core pipe) := by
  rw [State.runJob_eq]
  split
  · exact hs
  · rename_i j _ _
    have h := hj j
    split
    · exact hs
    · rename_i heq
      rw [heq] at h
      exact hend _ _ _ _ _ _ _ _ _ h

theorem sameFrags_runJob (s : State) (core pipe : Nat) : SameFrags s (s.runJob core pipe) :=
  runJob_of (.refl s) (sameFrags_jobOutcome s core)
    (fun _ _ _ _ _ _ _ _ _ hu => hu.trans (.of_teams (State.teams_emit ..)))

theorem sameFrags_drainPipe (w : Sel) (core pipe n : Nat) (s : State) : SameFrags s (State.drainPipe w core pipe n s) := by
  induction n generalizing s with
  | zero => exact .refl s
  | succ n ih =>
    unfold State.drainPipe
    dsimp only
    split
    · split
      · exact (sameFrags_runJob s core pipe).trans (ih _)
      · exact .refl s
    · exact .refl s

theorem sameFrags_completeOp (s : State) (core id : Nat) : SameFrags s (s.completeOp core id) := by
  unfold State.completeOp
  split
  · exact .refl s
  · rename_i o _
    have h : SameFrags s (((s.release core id).modCore core (fun c => { c with ops := AMap.erase c.ops id })).modGrp o.who
        (fun g => (g.settled id).flagDown o.flag)) :=
      ((SameFrags.of_settles (settles_release s core id)).trans (.of_teams rfl)).trans
        (.modGrp _ _ fun g => (g.settled id).flagDown_frags o.flag)
    dsimp only
    split
    · exact h.trans (.of_teams (State.teams_emit ..))
    · exact h

/-- The completion of a group's earlier instructions leaves every fragment as it was. -/
theorem sameFrags_complete (s : State) (core slice : Nat) (w : Sel) : SameFrags s (s.complete core slice w) :=
  (sameFrags_drainPipe w core _ _ s).trans (.foldl (fun s (o : Nat × Op) => sameFrags_completeOp s core o.1) _ _)

end Sys2Proof.Machine
end

section
/-! The barrier words (R164 to R166, R266), and the end of a phase. -/

namespace Sys2Proof.Machine

/-! The word's own view of its barrier. -/

section
variable {s s1 : State} {e e1 : Env} {i : Instr} {body : Env → State → Res}

theorem Passes.unparked (h : Passes s e i s1 e1) : e1.parked = false := by
  obtain ⟨-, -, -, hfr⟩ := State.envOf_some (State.env_some h.env).1
  obtain ⟨-, ht1, hg1, hfr1⟩ := State.envOf_some h.seen
  obtain ⟨g1, hs1, hsame⟩ := (h.done ▸ sameFrags_complete s e.gr.core e.gr.slice e.who).grp?
    (State.envOf_grp (State.env_some h.env).1)
  have : g1 = e1.gr := Option.some.inj (hs1.symm.trans (State.envOf_grp h.seen))
  rw [this] at hsame
  rw [hsame, hfr] at hfr1
  have hp := h.fresh
  unfold Env.parked at hp ⊢
  rwa [← Option.some.inj hfr1]

theorem Passes.who (h : Passes s e i s1 e1) : e1.who = e.who := (State.envOf_some h.seen).1

theorem Passes.seen' (h : Passes s e i s1 e1) : s1.envOf e1.who = some e1 := h.who ▸ h.seen

/-- What the issuer sees once the marks of its issue are used up. -/
theorem envOf_begun_eq (h : s.envOf e.who = some e) : (s.begun e).envOf e.who =
    some { who := e.who, tm := e.tm.modGrp e.who.grp (·.used e.key), gr := e.gr.used e.key, fr := e.fr.used } := by
  obtain ⟨-, ht, hg, hf⟩ := State.envOf_some h
  have ht' : AMap.find (s.begun e).teams e.who.tid = some (e.tm.modGrp e.who.grp (·.used e.key)) := by
    unfold State.begun State.modGrp
    rw [State.find_modTeam, if_pos rfl, ht]
    rfl
  have hg' : AMap.find (e.tm.modGrp e.who.grp (·.used e.key)).groups e.who.grp = some (e.gr.used e.key) := by
    rw [Team.find_modGrp, if_pos rfl, hg]
    rfl
  have hf' : AMap.find (e.gr.used e.key).frags e.who.frag = some e.fr.used := by
    unfold Group.used
    rw [Group.find_modFrag, if_pos (show e.who.frag = e.key.frag from rfl)]
    exact congrArg _ hf
  unfold State.envOf
  rw [ht']
  dsimp only
  rw [hg']
  dsimp only
  rw [hf']

/-- The marks of an issue leave what the group sees of a barrier. -/
theorem envOf_begun (h : s.envOf e.who = some e) : ∃ e', (s.begun e).envOf e.who = some e' ∧
    (∀ n, e'.barPassed n = e.barPassed n) ∧ ∀ n, e'.barOver n = e.barOver n :=
  ⟨_, envOf_begun_eq h, fun _ => rfl, fun _ => rfl⟩

/-- A barrier word whose group waits at its barrier is not tested by its fence again. -/
theorem issue_of_parked (h : Issues s e i) (hp : e.parked = true) :
    s.issue i body = .next (s.finish e i (body e (s.begun e))).tick := by
  unfold State.issue
  simp only [h.env, attempt_of_quiet h.quiet]
  unfold State.fenced State.fencedThen
  simp only [hp, Bool.not_true, Bool.and_false, Bool.false_eq_true, if_false, carryOut_of_issues h]

variable {n : Nat} {t : State} {k : Bar → Res}

theorem atBar_split (hs : e.splits ≠ []) : e.atBar n t k = e.instr .meldSplit t := if_pos (bne_iff_ne.mpr hs)

theorem atBar_range (hs : e.splits = []) (hn : e.tm.desc.bars ≤ n) : e.atBar n t k = e.view .barState t := by
  unfold Env.atBar
  rw [hs]
  exact if_pos hn

theorem atBar_of {b : Bar} (hs : e.splits = []) (hn : n < e.tm.desc.bars) (hb : AMap.find e.tm.bars n = some b) :
    e.atBar n t k = k b := by
  unfold Env.atBar
  rw [hs]
  exact (if_neg Bool.false_ne_true).trans ((if_neg (Nat.not_le.mpr hn)).trans (by rw [hb]))

theorem waitBar_passed {e' : Env} (h : t.envOf e.who = some e') (hp : e'.barPassed n = true) : t.waitBar e n = .done t := by
  unfold State.waitBar
  rw [h]
  exact if_pos hp

theorem waitBar_waits {e' : Env} (h : t.envOf e.who = some e') (hp : e'.barPassed n = false) :
    t.waitBar e n = .wait (if e'.barOver n then .freed n else .bar n) t := by
  unfold State.waitBar
  rw [h]
  exact if_neg (by rw [hp]; exact Bool.false_ne_true)

end

/-! The five words. -/

section
variable {s s1 : State} {e e1 : Env} {f : XF} {b : Bar}

theorem barWord_traps {i : Instr} {body : Env → State → Res} {ti : TrapInfo} (h : Passes s e i s1 e1)
    (hfl : e1.flagOf i = none) (hb : body e1 (s1.begun e1) = .trap ti (s1.begun e1)) :
    s.issue i body = .next (((s1.begun e1).chargeIssue e1 i).takeTrap e1 ti e1.fr.pos e1.after).tick := by
  rw [issue_of_passes h hfl, hb]
  rfl

theorem barWord_waits {i : Instr} {body : Env → State → Res} {w : Stall} {t : State} (h : Passes s e i s1 e1)
    (hfl : e1.flagOf i = none) (hb : body e1 (s1.begun e1) = .wait w t) :
    s.issue i body = .next ((t.openLog e1).waits e1 w).tick := by
  rw [issue_of_passes h hfl, hb]
  rfl

variable (hs : e1.splits = []) (hn : f.bar.toNat < e1.tm.desc.bars) (hb : AMap.find e1.tm.bars f.bar.toNat = some b)
include hs hn hb

theorem bini_sets (h : Passes s e (.bini f) s1 e1) (h63 : bits (e1.g f.gp.toNat) 63 20 = 0)
    (h0 : bits (e1.g f.gp.toNat) 7 0 ≠ 0)
    (hle : bits (e1.g f.gp.toNat) 7 0 ≤ (e1.tm.groups.filter (fun g => !g.2.ended)).length) (harr : b.arr = [])
    (hearr : b.earr = 0) (hbusy : s1.barBusy e1.tm e1.who.tid f.bar.toNat = false) :
    exec (.bini f) s = .next (((s1.begun e1).modTeam e1.who.tid (fun t =>
      { t with bars := AMap.insert t.bars f.bar.toNat
                         { ph := b.ph, grp := bits (e1.g f.gp.toNat) 7 0, eng := bits (e1.g f.gp.toNat) 19 8 } })).issued s1 e1 (.bini f)) := by
  refine passes_done h rfl ((atBar_of hs hn hb).trans (if_neg ?_))
  have hbusy' : (s1.begun e1).barBusy e1.tm e1.who.tid f.bar.toNat = false := hbusy
  rw [hbusy']
  simp [h63, h0, Nat.not_lt.mpr hle, harr, hearr]

theorem bini_traps (h : Passes s e (.bini f) s1 e1)
    (hbad : bits (e1.g f.gp.toNat) 63 20 ≠ 0 ∨ bits (e1.g f.gp.toNat) 7 0 = 0 ∨
      (e1.tm.groups.filter (fun g => !g.2.ended)).length < bits (e1.g f.gp.toNat) 7 0 ∨ b.arr ≠ [] ∨ b.earr ≠ 0 ∨
      s1.barBusy e1.tm e1.who.tid f.bar.toNat = true) :
    exec (.bini f) s = .next (((s1.begun e1).chargeIssue e1 (.bini f)).takeTrap e1 (e1.trapOf (.view .barState))
      e1.fr.pos e1.after).tick := by
  refine barWord_traps h rfl ((atBar_of hs hn hb).trans (if_pos ?_))
  have hbusy' : (s1.begun e1).barBusy e1.tm e1.who.tid f.bar.toNat = s1.barBusy e1.tm e1.who.tid f.bar.toNat := rfl
  rw [hbusy']
  rcases hbad with h | h | h | h | h | h <;> simp [h]

theorem barr_arrives (h : Passes s e (.barr f) s1 e1) (hc : b.arr.contains e1.who.grp = false) :
    exec (.barr f) s = .next ((((s1.begun e1).drainStores e1.gr.core e1.who).arrive e1.who f.bar.toNat).issued
      s1 e1 (.barr f)) :=
  passes_done h rfl ((atBar_of hs hn hb).trans (if_neg (by rw [hc]; exact Bool.false_ne_true)))

theorem barr_traps (h : Passes s e (.barr f) s1 e1) (hc : b.arr.contains e1.who.grp = true) :
    exec (.barr f) s = .next (((s1.begun e1).chargeIssue e1 (.barr f)).takeTrap e1 (e1.trapOf (.view .barState))
      e1.fr.pos e1.after).tick :=
  barWord_traps h rfl ((atBar_of hs hn hb).trans (if_pos hc))

theorem bwait_waits (h : Passes s e (.bwait f) s1 e1) (hl : (AMap.find e1.gr.lp f.bar.toNat).isSome = true) :
    (e1.barPassed f.bar.toNat = true → exec (.bwait f) s = .next ((s1.begun e1).issued s1 e1 (.bwait f))) ∧
    (e1.barPassed f.bar.toNat = false → exec (.bwait f) s = .next (((s1.begun e1).openLog e1).waits e1
      (if e1.barOver f.bar.toNat then .freed f.bar.toNat else .bar f.bar.toNat)).tick) := by
  obtain ⟨e', he', hpass, hover⟩ := envOf_begun h.seen'
  have hbody : (e1.atBar f.bar.toNat (s1.begun e1) fun _ =>
      if (AMap.find e1.gr.lp f.bar.toNat).isNone then e1.view .barState (s1.begun e1)
      else (s1.begun e1).waitBar e1 f.bar.toNat) = (s1.begun e1).waitBar e1 f.bar.toNat :=
    (atBar_of hs hn hb).trans (if_neg (by rw [Option.isNone_iff_eq_none, ← Option.not_isSome_iff_eq_none, hl]; simp))
  refine ⟨fun hp => passes_done h rfl (hbody.trans (waitBar_passed he' ((hpass _).trans hp))), fun hp => ?_⟩
  rw [← hover]
  exact barWord_waits h rfl (hbody.trans (waitBar_waits he' ((hpass _).trans hp)))

theorem bwait_traps (h : Passes s e (.bwait f) s1 e1) (hl : AMap.find e1.gr.lp f.bar.toNat = none) :
    exec (.bwait f) s = .next (((s1.begun e1).chargeIssue e1 (.bwait f)).takeTrap e1 (e1.trapOf (.view .barState))
      e1.fr.pos e1.after).tick :=
  barWord_traps h rfl ((atBar_of hs hn hb).trans (if_pos (by rw [hl]; rfl)))

theorem bsync_arrives (h : Passes s e (.bsync f) s1 e1) (hc : b.arr.contains e1.who.grp = false) {e2 : Env}
    (he2 : (((s1.begun e1).drainStores e1.gr.core e1.who).arrive e1.who f.bar.toNat).envOf e1.who = some e2) :
    (e2.barPassed f.bar.toNat = true → exec (.bsync f) s =
      .next ((((s1.begun e1).drainStores e1.gr.core e1.who).arrive e1.who f.bar.toNat).issued s1 e1 (.bsync f))) ∧
    (e2.barPassed f.bar.toNat = false → exec (.bsync f) s =
      .next (((((s1.begun e1).drainStores e1.gr.core e1.who).arrive e1.who f.bar.toNat).openLog e1).waits e1
        (if e2.barOver f.bar.toNat then .freed f.bar.toNat else .bar f.bar.toNat)).tick) := by
  have hbody : (e1.atBar f.bar.toNat (s1.begun e1) fun b => if e1.parked then (s1.begun e1).waitBar e1 f.bar.toNat
      else if b.arr.contains e1.who.grp then e1.view .barState (s1.begun e1)
      else ((s1.begun e1).arriveNow e1 f.bar.toNat).waitBar e1 f.bar.toNat) =
      ((s1.begun e1).arriveNow e1 f.bar.toNat).waitBar e1 f.bar.toNat := by
    rw [atBar_of hs hn hb, h.unparked, hc]
    rfl
  exact ⟨fun hp => passes_done h rfl (hbody.trans (waitBar_passed he2 hp)),
    fun hp => barWord_waits h rfl (hbody.trans (waitBar_waits he2 hp))⟩

theorem bsync_traps (h : Passes s e (.bsync f) s1 e1) (hc : b.arr.contains e1.who.grp = true) :
    exec (.bsync f) s = .next (((s1.begun e1).chargeIssue e1 (.bsync f)).takeTrap e1 (e1.trapOf (.view .barState))
      e1.fr.pos e1.after).tick := by
  refine barWord_traps h rfl ((atBar_of hs hn hb).trans ?_)
  rw [h.unparked, hc]
  rfl

theorem btest_tells (h : Passes s e (.btest f) s1 e1) :
    exec (.btest f) s = .next (((s1.begun e1).modGrp e1.who (fun g =>
      let passed := match AMap.find e1.gr.lp f.bar.toNat with | none => false | some p => p != b.ph
      { g.setGp (f.mode.extractLsb' 0 3).toNat passed with atCarve := passed && !e1.tm.granted.isEmpty })).issued
        s1 e1 (.btest f)) := by
  refine passes_done h rfl ((atBar_of hs hn hb).trans ?_)
  cases AMap.find e1.gr.lp f.bar.toNat <;> rfl

end

/-- `bsync` of a group that has arrived before and waits (R165, R166). -/
theorem bsync_goesOn {s : State} {e : Env} {f : XF} {b : Bar} (h : Issues s e (.bsync f)) (hp : e.parked = true)
    (hs : e.splits = []) (hn : f.bar.toNat < e.tm.desc.bars) (hb : AMap.find e.tm.bars f.bar.toNat = some b)
    (hpass : e.barPassed f.bar.toNat = true) :
    exec (.bsync f) s = .next ((s.begun e).issued s e (.bsync f)) := by
  obtain ⟨e', he', hpass', -⟩ := envOf_begun (State.env_some h.env).1
  have hbody : (e.atBar f.bar.toNat (s.begun e) fun b => if e.parked then (s.begun e).waitBar e f.bar.toNat
      else if b.arr.contains e.who.grp then e.view .barState (s.begun e)
      else ((s.begun e).arriveNow e f.bar.toNat).waitBar e f.bar.toNat) = .done (s.begun e) := by
    rw [atBar_of hs hn hb, hp, if_pos rfl]
    exact waitBar_passed he' ((hpass' _).trans hpass)
  show s.issue (.bsync f) _ = _
  rw [issue_of_parked h hp, hbody]
  rfl

/-- What every barrier word checks first (R266). -/
theorem barWords_check {s s1 : State} {e e1 : Env} {f : XF} {i : Instr}
    (hi : i = .bini f ∨ i = .barr f ∨ i = .bwait f ∨ i = .bsync f ∨ i = .btest f) (h : Passes s e i s1 e1) :
    ∃ k : Env → State → Bar → Res, e1.flagOf i = none ∧
      exec i s = s.issue i (fun e s => e.atBar f.bar.toNat s (k e s)) := by
  obtain rfl | rfl | rfl | rfl | rfl := hi <;> exact ⟨_, rfl, rfl⟩

/-! An arrival. -/

/-- A phase that is complete frees the fragments that wait for it. -/
theorem settleBars_frees {s : State} {tid n by_ : Nat} {x : Team} {b : Bar} (hx : AMap.find s.teams tid = some x)
    (hb : AMap.find x.bars n = some b) (hfull : b.full = true) {k j : Nat} {h : Group} {fr : Frag}
    (hg : AMap.find x.groups k = some h) (hf : AMap.find h.frags j = some fr) (hst : fr.stall = some (.bar n)) :
    ∃ y h' fr', AMap.find (s.settleBars tid by_ [n]).teams tid = some y ∧ AMap.find y.groups k = some h' ∧
      AMap.find h'.frags j = some fr' ∧ fr'.stall = some (.freed n) := by
  have hdone : [n].filter (fun n => (s.fullBar tid n).isSome) = [n] := by
    rw [List.filter_cons, fullBar_eq hx hb, hfull]
    rfl
  rcases settleBars_eq s tid by_ [n] with ⟨hd, -⟩ | hs
  · rw [hdone] at hd
    cases hd
  rw [hs, hdone]
  obtain ⟨y1, hy1, -, hg1⟩ := flipBars_through tid by_ [n] s tid x hx
  obtain ⟨y2, hy2, -, hg2⟩ := decideCarve_through (State.flipBars tid by_ [n] s) tid tid y1 hy1
  obtain ⟨g1, hf1, rfl⟩ := hg1 k h hg
  obtain ⟨g2, hf2, gp, c, z, rfl⟩ := hg2 k h hf1
  refine ⟨y2.freeBar n, { { h with gp := gp, carveGp := c, hzn := z } with frags := AMap.mapVal h.frags (fun _ f => f.freed n) },
    fr.freed n, ?_, ?_, ?_, ?_⟩
  · rw [State.find_modTeam, if_pos rfl, hy2]
    rfl
  · exact (AMap.find_mapVal y2.groups (fun _ g => { g with frags := AMap.mapVal g.frags (fun _ f => f.freed n) }) k).trans
      (by rw [hf2]; rfl)
  · exact (AMap.find_mapVal h.frags (fun _ f => f.freed n) j).trans (by rw [hf]; rfl)
  · unfold Frag.freed
    rw [hst, if_pos (beq_self_eq_true _)]

/-- The team as an arrival leaves it before the phase is looked at. -/
noncomputable def Team.arrived (t : Team) (w : Sel) (n : Nat) (b : Bar) : Team :=
  ({ t with bars := AMap.insert t.bars n { b with arr := b.arr ++ [w.grp] } }).modGrp w.grp
    (fun g => { g with lp := AMap.insert g.lp n b.ph })

/-- What an arrival leaves (R165). -/
theorem arrive_spec {s : State} {w : Sel} {n : Nat} {t : Team} {g : Group} {b : Bar}
    (ht : AMap.find s.teams w.tid = some t) (hg : AMap.find t.groups w.grp = some g) (hb : AMap.find t.bars n = some b) :
    ∃ t' g' b', AMap.find (s.arrive w n).teams w.tid = some t' ∧ AMap.find t'.groups w.grp = some g' ∧
      AMap.find t'.bars n = some b' ∧ AMap.find g'.lp n = some b.ph ∧
      (b.arr.length + 1 = b.grp → b.earr = b.eng →
        b' = { b with arr := b.arr ++ [w.grp] }.through ∧
        ∀ k h j fr, AMap.find t.groups k = some h → AMap.find h.frags j = some fr → fr.stall = some (.bar n) →
          ∃ h' fr', AMap.find t'.groups k = some h' ∧ AMap.find h'.frags j = some fr' ∧
            fr'.stall = some (.freed n)) ∧
      (b.arr.length + 1 ≠ b.grp ∨ b.earr ≠ b.eng → b' = { b with arr := b.arr ++ [w.grp] }) := by
  obtain ⟨s1, hs1⟩ : ∃ s1, s1 = (s.noteArrival w n w.grp).modTeam w.tid (fun t =>
    match AMap.find t.bars n with
    | none => t
    | some b => t.arrived w n b) := ⟨_, rfl⟩
  have harr : s.arrive w n = s1.settleBars w.tid w.grp [n] := by
    rw [hs1]
    rfl
  have ht1 : AMap.find s1.teams w.tid = some (t.arrived w n b) := by
    rw [hs1, State.find_modTeam, if_pos rfl, State.teams_noteArrival, ht]
    simp only [Option.map_some, hb]
  have hg1 (k : Nat) : AMap.find (t.arrived w n b).groups k = if k = w.grp then
      (AMap.find t.groups k).map (fun g => { g with lp := AMap.insert g.lp n b.ph }) else AMap.find t.groups k :=
    Team.find_modGrp _ _ _ _
  have hb1 : AMap.find (t.arrived w n b).bars n = some { b with arr := b.arr ++ [w.grp] } := by
    show AMap.find (AMap.insert t.bars n _) n = _
    rw [AMap.find_insert, if_pos rfl]
  have hgw := hg1 w.grp
  rw [if_pos rfl, hg] at hgw
  obtain ⟨t', ht', -, hgs⟩ := settleBars_through ht1 w.grp [n] w.tid _ ht1
  obtain ⟨g', hg', gp, fr, c, z, hgeq, -⟩ := hgs w.grp _ hgw
  obtain ⟨y, hy, hby⟩ := settleBars_bars ht1 w.grp (List.nodup_singleton n) hb1
  rw [ht'] at hy
  cases hy
  rw [if_pos (List.mem_singleton.mpr rfl)] at hby
  rw [harr]
  refine ⟨t', g', _, ht', hg', hby, ?_, fun h1 h2 => ?_, fun h => ?_⟩
  · rw [hgeq]
    show AMap.find (AMap.insert g.lp n b.ph) n = _
    rw [AMap.find_insert, if_pos rfl]
  · have hfull : Bar.full { b with arr := b.arr ++ [w.grp] } = true := by
      unfold Bar.full
      simp only [List.length_append, List.length_singleton, h1, h2, beq_self_eq_true, Bool.true_and, decide_eq_true_eq]
      omega
    refine ⟨Bar.settled_of_full hfull, fun k h j fr hk hj hst => ?_⟩
    obtain ⟨hh, hkk, hfr⟩ : ∃ hh, AMap.find (t.arrived w n b).groups k = some hh ∧ hh.frags = h.frags := by
      rw [hg1, hk]
      split
      · exact ⟨_, rfl, rfl⟩
      · exact ⟨h, rfl, rfl⟩
    obtain ⟨y, h', fr', hy, r⟩ := settleBars_frees (by_ := w.grp) ht1 hb1 hfull hkk (hfr ▸ hj) hst
    rw [ht'] at hy
    cases hy
    exact ⟨h', fr', r⟩
  · refine Bar.settled_of_not_full ?_
    unfold Bar.full
    rcases h with h | h
    · simp [h]
    · simp [h]

/-- Settles O26: the words, what they check first, and the end of a phase. -/
theorem barrierWords : Obligations.BarrierWords := by
  refine ⟨fun s s1 e e1 f b => ⟨?_, ?_, ?_, ?_, ?_, ?_, ?_, ?_, ?_, ?_⟩, fun s s1 e e1 f i hi h => ?_,
    fun s w n t g b ht hg hb => arrive_spec ht hg hb⟩
  · exact fun ⟨h, hs, hn, hb⟩ h1 h2 h3 h4 h5 h6 => bini_sets hs hn hb h h1 h2 h3 h4 h5 h6
  · exact fun ⟨h, hs, hn, hb⟩ hc => barr_arrives hs hn hb h hc
  · exact fun ⟨h, hs, hn, hb⟩ hl => bwait_waits hs hn hb h hl
  · exact fun ⟨h, hs, hn, hb⟩ hc e2 he2 => bsync_arrives hs hn hb h hc he2
  · exact fun h hp hs hn hb hpass => bsync_goesOn h hp hs hn hb hpass
  · exact fun ⟨h, hs, hn, hb⟩ => btest_tells hs hn hb h
  · exact fun ⟨h, hs, hn, hb⟩ hbad => bini_traps hs hn hb h hbad
  · exact fun ⟨h, hs, hn, hb⟩ hc => barr_traps hs hn hb h hc
  · exact fun ⟨h, hs, hn, hb⟩ hc => bsync_traps hs hn hb h hc
  · exact fun ⟨h, hs, hn, hb⟩ hl => bwait_traps hs hn hb h hl
  · obtain ⟨k, hfl, hk⟩ := barWords_check hi h
    rw [hk]
    exact ⟨fun hs => barWord_traps h hfl (atBar_split hs), fun hs hn => barWord_traps h hfl (atBar_range hs hn)⟩

end Sys2Proof.Machine
end

section
/-! What no byte of memory depends on: the changes of a state that leave its memory as it is. -/

namespace Sys2Proof.Machine

theorem foldl_mem {α : Type} {f : State → α → State} (h : ∀ s a, (f s a).mem = s.mem) (xs : List α) (s : State) :
    (xs.foldl f s).mem = s.mem := by
  induction xs generalizing s with
  | nil => rfl
  | cons a xs ih => exact (ih _).trans (h s a)

theorem State.mem_ite {p : Prop} [Decidable p] {a b : State} {m : List Host.Cell} (ha : a.mem = m) (hb : b.mem = m) :
    (if p then a else b).mem = m := by
  split
  · exact ha
  · exact hb

@[simp] theorem State.assisted_mem (s : State) : (State.assisted s).mem = s.mem := State.mem_ite rfl rfl

@[simp] theorem State.margins_mem (s : State) : (State.margins s).mem = s.mem := by
  unfold State.margins
  exact foldl_mem (fun s c => s.modCore_mem c _) _ s

@[simp] theorem State.raised_mem (old new : State) : (State.raised old new).mem = new.mem := rfl

@[simp] theorem State.failQueue_mem (s : State) (q : Nat) (reason : Nat) (head : BitVec 32) : (State.failQueue s q reason head).mem = s.mem := rfl

@[simp] theorem State.latch_mem (s : State) (n : Nat) : (State.latch s n).mem = s.mem := rfl

@[simp] theorem State.recall_mem (s : State) (writer : Option (Nat × Nat)) (keys : List Nat) : (State.recall s writer keys).mem = s.mem := rfl

@[simp] theorem State.exempt_mem (s : State) (e : Env) : (State.exempt s e).mem = s.mem := by
  unfold State.exempt
  split
  · rfl
  · rfl

@[simp] theorem State.l1Drop_mem (s : State) (core : Nat) (line : Nat) : (State.l1Drop s core line).mem = s.mem := rfl

@[simp] theorem State.runXunp_mem (s : State) (j : Job) (d : Nat) (signed : Bool) : (State.runXunp s j d signed).mem = s.mem := rfl

@[simp] theorem State.completed_mem (s : State) (w : Sel) (inH : Bool) : (State.completed s w inH).mem = s.mem := State.mem_ite rfl rfl

@[simp] theorem State.waits_mem (s : State) (e : Env) (w : Stall) : (State.waits s e w).mem = s.mem := rfl

@[simp] theorem State.chargeIssue_mem (s : State) (e : Env) (i : Instr) : (State.chargeIssue s e i).mem = s.mem := rfl

@[simp] theorem State.log_mem (s : State) (old : State) (e : Env) (i : Instr) : (State.log s old e i).mem = s.mem := by
  unfold State.log
  refine State.mem_ite rfl ?_
  split
  · rfl
  · exact State.mem_ite rfl (State.modTeam_mem _ _ _)

@[simp] theorem State.advance_mem (s : State) (e : Env) : (State.advance s e).mem = s.mem := rfl

@[simp] theorem State.jump_mem (s : State) (e : Env) (pc : Word) : (State.jump s e pc).mem = s.mem := rfl

@[simp] theorem State.enter_mem (s : State) (e : Env) (shown : Cause) (ti : TrapInfo) (word : Pos) (cont : Pos) : (State.enter s e shown ti word cont).mem = s.mem := rfl

@[simp] theorem State.openLog_mem (s : State) (e : Env) : (State.openLog s e).mem = s.mem := by
  unfold State.openLog
  refine State.mem_ite rfl ?_
  split
  · rfl
  · exact State.mem_ite rfl (State.modTeam_mem _ _ _)

@[simp] theorem State.modHost_mem (s : State) (f : HostRegs → HostRegs) : (State.modHost s f).mem = s.mem := rfl

@[simp] theorem State.writeModule_mem (s : State) (off : Nat) (x : Word) : (State.writeModule s off x).mem = s.mem := State.mem_ite rfl rfl

@[simp] theorem State.writeRatio_mem (s : State) (core : Nat) (slice : Nat) (n : Nat) : (State.writeRatio s core slice n).mem = s.mem := State.mem_ite rfl rfl

@[simp] theorem State.reseatFrags_mem (s : State) (tid : Nat) (t : Team) : (State.reseatFrags s tid t).mem = s.mem := by
  refine foldl_mem (fun s g => foldl_mem (fun s f => ?_) _ s) t.groups _
  refine State.mem_ite ?_ rfl
  split
  · rfl
  · exact State.mem_ite rfl rfl

@[simp] theorem State.accessError_mem (s : State) (bar4 : Bool) (read : Bool) (ia : Nat) : (State.accessError s bar4 read ia).mem = s.mem := State.mem_ite rfl rfl

@[simp] theorem State.keepTables_mem (s : State) (core : Nat) (ks : List Nat) (unseen : Job → Nat → Bool) : (State.keepTables s core ks unseen).mem = s.mem := State.mem_ite rfl rfl

@[simp] theorem State.keepOwn_mem (s : State) (core : Nat) (w : Sel) (bs : List StByte) : (State.keepOwn s core w bs).mem = s.mem := State.keepTables_mem s core _ _

@[simp] theorem State.track_mem (s : State) (e : Env) (i : Instr) (bytes : List StByte) (views : List View) (tag : Option (Nat × Nat)) (dsts : optParam (List Nat) []) : (State.track s e i bytes views tag dsts).mem = s.mem := by
  refine State.mem_ite rfl ?_
  rw [State.modGrp_mem, State.modCore_mem, State.keepOwn_mem]

@[simp] theorem State.keepOld_mem (s : State) (core : Nat) (tid : Nat) (bs : List StByte) : (State.keepOld s core tid bs).mem = s.mem := State.keepTables_mem s core _ _

@[simp] theorem State.provision_mem (s : State) (x : Word) : (State.provision s x).mem = s.mem := State.mem_ite rfl rfl

@[simp] theorem State.writeMgnctl_mem (s : State) (core : Nat) (x : Word) : (State.writeMgnctl s core x).mem = s.mem := rfl

@[simp] theorem State.putCmp_mem (s : State) (e : Env) (m : Word) (d : BitVec 8) (p : Nat → Bool) : (State.putCmp s e m d p).mem = s.mem := rfl

@[simp] theorem State.landHost_mem (s : State) (w : Sel) : (State.landHost s w).mem = s.mem := rfl

@[simp] theorem State.unhalt_mem (s : State) (w : Sel) : (State.unhalt s w).mem = s.mem := by
  unfold State.unhalt
  split
  · rfl
  · split
    · rfl
    · dsimp only
      split
      · rfl
      · split
        · rfl
        · rfl

@[simp] theorem State.resumeNow_mem (s : State) (w : Sel) : (State.resumeNow s w).mem = s.mem := by
  unfold State.resumeNow
  split
  · refine State.mem_ite rfl (State.mem_ite ?_ rfl)
    rw [State.unhalt_mem, State.landHost_mem]
  · rfl

@[simp] theorem State.portChange_mem (s : State) (port : Nat) (up : Bool) : (State.portChange s port up).mem = s.mem := State.mem_ite rfl rfl

@[simp] theorem State.postThrottle_mem (s : State) (core : Nat) : (State.postThrottle s core).mem = s.mem := rfl

@[simp] theorem State.endWindow_mem (s : State) (core : Nat) : (State.endWindow s core).mem = s.mem := State.mem_ite rfl rfl

@[simp] theorem State.headgateStep_mem (s : State) (core : Nat) : (State.headgateStep s core).mem = s.mem := State.mem_ite (State.writeRatio_mem _ core _ _) rfl

@[simp] theorem State.passCycle_mem (s : State) (core : Nat) (slice : Nat) : (State.passCycle s core slice).mem = s.mem := State.mem_ite rfl rfl

@[simp] theorem State.cycle_mem (s : State) (core : Nat) (slice : Nat) : (State.cycle s core slice).mem = s.mem := (State.passCycle_mem _ core slice).trans (State.mem_ite rfl rfl)

@[simp] theorem State.callFrom_mem (s : State) (e : Env) (ra : Word) : (State.callFrom s e ra).mem = s.mem := rfl

@[simp] theorem State.unsquash_mem (s : State) (old : State) (core : Nat) (slice : Nat) (w : Sel) : (State.unsquash s old core slice w).mem = s.mem := State.mem_ite rfl rfl

@[simp] theorem State.fillEntries_mem (core : Nat) (slice : Nat) (x2 : Nat) (x3 : State) : (State.fillEntries core slice x2 x3).mem = x3.mem := by
  induction x2 generalizing x3 with
  | zero => rfl
  | succ n ih =>
    refine State.mem_ite rfl ?_
    split
    · rfl
    · exact ih _

@[simp] theorem State.l1Invalidate_mem (s : State) (core : Nat) (ctx : Nat) (v : View) : (State.l1Invalidate s core ctx v).mem = s.mem := by
  unfold State.l1Invalidate
  split
  · rfl
  · rfl

@[simp] theorem State.sendLines_mem (s : State) (ls : List McLine) : (State.sendLines s ls).mem = s.mem := by
  refine foldl_mem (fun s l => ?_) ls s
  rfl

@[simp] theorem State.goStale_mem (s : State) (old : State) (w : Sel) (pages : List Nat) : (State.goStale s old w pages).mem = s.mem := rfl

@[simp] theorem State.freeSource_mem (s : State) (r : FRec) : (State.freeSource s r).mem = s.mem := by
  unfold State.freeSource
  split
  · rfl
  · exact State.mem_ite rfl rfl

@[simp] theorem State.modeAfter_mem (s : State) (old : State) (core : Nat) : (State.modeAfter s old core).mem = s.mem := State.mem_ite rfl rfl

@[simp] theorem State.vacated_mem (s : State) (old : State) (cores : List Nat) : (State.vacated s old cores).mem = s.mem := foldl_mem (fun s _ => (foldl_mem (fun s _ => State.fillEntries_mem _ _ _ s) _ _).trans (s.modeAfter_mem _ _)) cores s

@[simp] theorem State.replayFrom_mem (s : State) (old : State) (w : Sel) (first : Pos) : (State.replayFrom s old w first).mem = s.mem := rfl

@[simp] theorem State.replays_mem (s : State) (w : Sel) (left : List Again) (rs : List Again) : (State.replays s w left rs).mem = s.mem := rfl

@[simp] theorem State.writeQueue_mem (s : State) (q : Nat) (k : Nat) (x : Word) : (State.writeQueue s q k x).mem = s.mem := by
  unfold State.writeQueue
  grind [State.raised_mem, State.modQueue_mem]

@[simp] theorem State.changeRatio_mem (s : State) (core : Nat) (slice : Nat) : (State.changeRatio s core slice).mem = s.mem := State.mem_ite rfl rfl

@[simp] theorem State.vdata_mem (s : State) (core : Nat) (data : Option Word) : (State.vdata s core data).mem = s.mem := by
  unfold State.vdata
  cases s.opened core with
  | none => cases data with
    | none => rfl
    | some d => rfl
  | some v => cases data with
    | none => rfl
    | some d => exact State.mem_ite rfl rfl

@[simp] theorem State.toHostIf_mem (s : State) (bad : Bool) (bs : List Byte) : (State.toHostIf s bad bs).mem = s.mem := State.mem_ite rfl rfl

@[simp] theorem State.chargeStep_mem (s : State) (core : Nat) (slice : Nat) (width : Nat) : (State.chargeStep s core slice width).mem = s.mem := rfl

@[simp] theorem State.dropLoop_mem (s : State) (core : Nat) (id : Nat) (l : Loop) : (State.dropLoop s core id l).mem = s.mem := rfl

@[simp] theorem State.bar2Read_mem (s : State) (linkB : Bool) (ia : Nat) (n : Nat) : (State.bar2Read s linkB ia n).mem = s.mem := by
  have hp (a : List Byte × State) (p : Nat × Nat) : (a.2.bar2Piece p.1 p.2).2.mem = a.2.mem := by
    unfold State.bar2Piece
    split
    · split
      · exact State.accessError_mem _ _ _ _
      · rfl
    · exact State.accessError_mem _ _ _ _
  have hr (ps : List (Nat × Nat)) (a : List Byte × State) :
      (ps.foldl (fun a p => (a.1 ++ (a.2.bar2Piece p.1 p.2).1, (a.2.bar2Piece p.1 p.2).2)) a).2.mem = a.2.mem := by
    induction ps generalizing a with
    | nil => rfl
    | cons p ps ih => exact (ih _).trans (hp a p)
  exact State.mem_ite rfl ((State.toHostIf_mem _ _ _).trans (hr _ _))

@[simp] theorem State.stopLoop_mem (s : State) (core : Nat) (id : Nat) (w : Nat) (l : Loop) : (State.stopLoop s core id w l).mem = s.mem := rfl

@[simp] theorem State.takeLaunch_mem (s : State) (q : Nat) : (State.takeLaunch s q).mem = s.mem := by
  refine State.mem_ite rfl ?_
  dsimp only
  split
  · rfl
  · rfl

@[simp] theorem State.takeCores_mem (s : State) (t : Team) (whole : Nat → Bool) : (State.takeCores s t whole).mem = s.mem := by
  unfold State.takeCores
  exact foldl_mem (fun s c => s.modCore_mem c _) _ s

@[simp] theorem State.startTeam_mem (s : State) (lid : Nat) (l : Launch) (idx : Nat) (t : Team) : (State.startTeam s lid l idx t).mem = s.mem := by
  unfold State.startTeam
  exact State.takeCores_mem s t _

@[simp] theorem State.completeLaunch_mem (s : State) (lid : Nat) : (State.completeLaunch s lid).mem = s.mem := by
  unfold State.completeLaunch
  split
  · rfl
  · exact State.mem_ite rfl rfl

@[simp] theorem State.switchBin_mem (s : State) (die : Nat) : (State.switchBin s die).mem = s.mem := by
  unfold State.switchBin
  refine State.mem_ite ?_ rfl
  dsimp only
  exact foldl_mem (f := fun s c => s.modCore c (fun k => k.lower 0)) (fun s c => s.modCore_mem c _) _ s

@[simp] theorem State.sdata_mem (s : State) (core : Nat) (data : Option Word) : (State.sdata s core data).mem = s.mem := by
  unfold State.sdata
  cases s.opened core with
  | none => cases data with
    | none => rfl
    | some d => rfl
  | some v => cases data with
    | none => rfl
    | some d => exact State.mem_ite rfl rfl

@[simp] theorem State.sendWake_mem (s : State) (core : Nat) (x : Word) : (State.sendWake s core x).mem = s.mem := by
  unfold State.sendWake
  dsimp only
  split
  · rfl
  · exact State.mem_ite rfl (State.modGrp_mem _ _ _)

@[simp] theorem State.writeBin_mem (s : State) (die : Nat) (bin : Nat) : (State.writeBin s die bin).mem = s.mem := State.mem_ite rfl (State.mem_ite rfl rfl)

@[simp] theorem State.broadcast_mem (s : State) (off : Nat) (x : Word) : (State.broadcast s off x).mem = s.mem := State.mem_ite rfl (foldl_mem (fun s c => s.modCtrl_mem c _) _ s)

@[simp] theorem State.begun_mem (s : State) (e : Env) : (State.begun s e).mem = s.mem := rfl

end Sys2Proof.Machine
end

section
/-! Every operation of the model keeps the memory's canonical form (log 1): the bytes of memory change only by the writes of
`Laws/Mem`, each of which keeps it, and each operation is told by the operations that it is made of. -/

namespace Sys2Proof.Machine

/-- Memory is in its canonical form in the state that the meaning of a word leaves. -/
def Res.Wf : Res → Prop
  | .done t | .go t _ | .gone t | .trap _ t | .wait _ t | .stop _ t => Memory.wf t.mem = true

/-- What a page move changes beside memory leaves memory as it is. -/
theorem moved_mem (s : State) (m : Option PageMove) (cs : AMap Core) (ts : AMap Team) (st : AMap Stale) :
    { s with move := m, cores := cs, teams := ts, stale := st }.mem = s.mem := rfl

/-- The switch of a page move with its walk of the table given, which no proof about the switch is to unfold. -/
noncomputable def State.switchBy (page : Nat → Option (Nat × Word × Nat × Nat)) (s : State) : State :=
  match s.move with
  | none => s
  | some m =>
    match page m.ia with
    | none => { s with move := none }
    | some (ea, e, pa, n) =>
      let s1 := s.copyRange pa m.frame.toNat n
      let s2 := s1.wrEntry ea ((e &&& ~~~0xFFFFFF0000#64) ||| (m.frame &&& 0xFFFFFF0000#64))
      let p0 := m.ia / n * n / 2 ^ 16
      { s2 with move := none
                cores := AMap.mapVal s2.cores (fun _ c => c.rekey m.ia n pa m.frame.toNat)
                teams := AMap.mapVal s2.teams (fun _ t => t.rekey m.ia n pa m.frame.toNat)
                stale := s2.stale.filter (fun p => decide (p.1 < p0) || decide (p0 + n / 2 ^ 16 ≤ p.1)) }

theorem moveSwitch_eq (s : State) : s.moveSwitch = State.switchBy s.leafAt s := rfl

/-- Memory is in its canonical form. The kernel compares two arguments of this predicate as they stand, where it would
evaluate the translation of an address to compare their memories. -/
def MemWf (s : State) : Prop := Memory.wf s.mem = true

/-- Memory is in its canonical form in what the encoding of a block has reached. -/
def BlockWf (a : State × Dy × Bool) : Prop := MemWf a.1

theorem blockWf_mk {s : State} (h : MemWf s) (x : Dy) (b : Bool) : BlockWf (s, x, b) := h

theorem memWf_counted {s : State} (h : MemWf s) (cs : AMap Ctrl) : MemWf { s with ctrls := cs } := h

theorem counted_mem (s : State) (cs : AMap Ctrl) : { s with ctrls := cs }.mem = s.mem := rfl

theorem State.wf_ite {p : Prop} [Decidable p] {a b : State} (ha : Memory.wf a.mem = true)
    (hb : Memory.wf b.mem = true) : Memory.wf (if p then a else b).mem = true := by
  split
  · exact ha
  · exact hb

theorem Res.wf_ite {c : Prop} [Decidable c] {a b : Res} (ha : a.Wf) (hb : b.Wf) : (if c then a else b).Wf := by
  split
  · exact ha
  · exact hb

theorem wf_fst_ite {α : Type} {c : Prop} [Decidable c] {a b : State × α} (ha : Memory.wf a.1.mem = true)
    (hb : Memory.wf b.1.mem = true) : Memory.wf (if c then a else b).1.mem = true := by
  split
  · exact ha
  · exact hb

theorem wf_snd_ite {α : Type} {c : Prop} [Decidable c] {a b : α × State} (ha : Memory.wf a.2.mem = true)
    (hb : Memory.wf b.2.mem = true) : Memory.wf (if c then a else b).2.mem = true := by
  split
  · exact ha
  · exact hb

section
variable {s : State} (hw : Memory.wf s.mem = true)
include hw

theorem State.wf_modCore (core f) : Memory.wf (s.modCore core f).mem = true := hw

theorem State.wf_modGrp (w f) : Memory.wf (s.modGrp w f).mem = true := hw

theorem State.wf_modTeam (tid f) : Memory.wf (s.modTeam tid f).mem = true := hw

theorem State.wf_modFrag (w f) : Memory.wf (s.modFrag w f).mem = true := hw

theorem State.wf_modSlice (core slice f) : Memory.wf (s.modSlice core slice f).mem = true := hw

theorem State.wf_copyRange (src dst n) : Memory.wf (s.copyRange src dst n).mem = true :=
  State.wf_foldl _ (fun t _ ht => t.wf_wrStack _ _ ht) _ hw

theorem State.wf_switchBy (page) : Memory.wf (State.switchBy page s).mem = true := by
  have h (src dst n pa : Nat) (x : Word) : Memory.wf ((s.copyRange src dst n).wrEntry pa x).mem = true :=
    State.wf_wrEntry _ _ _ (State.wf_copyRange hw src dst n)
  unfold State.switchBy
  split
  · exact hw
  · split
    · exact hw
    · exact (congrArg Memory.wf (moved_mem _ _ _ _ _)).trans (h _ _ _ _ _)

theorem State.wf_moveSwitch : Memory.wf s.moveSwitch.mem = true := by
  rw [moveSwitch_eq]
  exact State.wf_switchBy hw s.leafAt

theorem State.wf_startFails (r cold step) : Memory.wf (s.startFails r cold step).mem = true := by
  unfold State.startFails
  rw [State.assisted_mem]
  dsimp only
  split
  · exact s.wf_restarted
  · split
    · rw [State.margins_mem]
      exact hw
    · exact hw

theorem State.wf_alarmLog (level source) : Memory.wf (s.alarmLog level source).mem = true := by
  unfold State.alarmLog
  dsimp only
  split
  · exact hw
  · exact State.wf_startFails hw _ _ _

theorem State.wf_send (buf r) : Memory.wf (s.send buf r).1.mem = true := by
  refine wf_fst_ite hw (wf_fst_ite ?_ (wf_fst_ite hw ?_))
  · exact State.wf_ite hw hw
  · exact s.wf_wrBytes _ _ hw

theorem State.wf_sendCounted (r) : Memory.wf (s.sendCounted r).mem = true := by
  have h1 {p : Prop} [Decidable p] (buf r) : Memory.wf (if p then (s, true) else s.send buf r).1.mem = true :=
    wf_fst_ite hw (State.wf_send hw buf r)
  unfold State.sendCounted
  refine State.wf_ite (State.wf_ite ?_ ?_) (State.wf_modCore (h1 _ _) _ _)
  · exact State.wf_send (State.wf_modCore (h1 _ _) _ _) _ _
  · exact State.wf_modCore (State.wf_send (State.wf_modCore (h1 _ _) _ _) _ _) _ _

theorem State.wf_emit (core srcs r) : Memory.wf (s.emit core srcs r).mem = true := by
  have h1 {p : Prop} [Decidable p] (f : Core → Core) : Memory.wf (if p then s else s.modCore core f).mem = true :=
    State.wf_ite hw hw
  cases r with
  | none => exact h1 _
  | some r => exact State.wf_ite (State.wf_sendCounted (h1 _) _) (h1 _)

theorem State.wf_noteTask (w core kind engine seq opc pc last) :
    Memory.wf (s.noteTask w core kind engine seq opc pc last).mem = true := State.wf_emit hw _ _ _

theorem State.wf_enqueue (e c) : Memory.wf (s.enqueue e c).mem = true := State.wf_noteTask (State.wf_modGrp (State.wf_modTeam (State.wf_modCore hw _ _) _ _) _ _) _ _ _ _ _ _ _ _

theorem State.wf_stopGroup (w c) : Memory.wf (s.stopGroup w c).mem = true := by
  unfold State.stopGroup
  split
  · exact hw
  · exact State.wf_ite hw (State.wf_emit (State.wf_modGrp hw _ _) _ _ _)

theorem State.wf_debugStop (e c team) : Memory.wf (s.debugStop e c team).mem = true := by
  have hgs (gs : List (Nat × Group)) {t : State} (ht : Memory.wf t.mem = true) :
      Memory.wf (gs.foldl (fun s g => s.stopGroup { e.who with grp := g.1, frag := 0 } c) t).mem = true :=
    State.wf_foldl _ (fun _ _ ht => State.wf_stopGroup ht _ _) gs ht
  have h1 := State.wf_emit (State.wf_modGrp hw e.who (fun g => g.stop c)) e.gr.core []
    (some (e.trec 0x0D [c.zeroExtend 64, e.pc]))
  exact State.wf_ite (hgs _ h1) h1

theorem State.wf_attemptThen (e i) {go : State → State} (hgo : ∀ t, Memory.wf t.mem = true → Memory.wf (go t).mem = true) :
    Memory.wf (s.attemptThen e i go).mem = true := by
  unfold State.attemptThen
  refine State.wf_ite ?_ (hgo _ hw)
  dsimp only
  split
  · rw [State.exempt_mem]
    exact State.wf_debugStop (State.wf_ite hw (State.wf_emit hw _ _ _)) _ _ _
  · exact hgo _ (State.wf_ite hw (State.wf_emit hw _ _ _))

theorem State.wf_performRaw (core id) : Memory.wf (s.performRaw core id).mem = true := by
  unfold State.performRaw
  split
  · exact hw
  · exact State.wf_ite (State.wf_modCore (s.wf_perform _ _ _ hw) _ _) hw

theorem State.wf_settleBytes (core here) : Memory.wf (s.settleBytes core here).mem = true :=
  State.wf_foldl _ (fun _ _ ht => State.wf_performRaw ht _ _) _ hw

theorem State.wf_settleLine (core ia) : Memory.wf (s.settleLine core ia).mem = true := State.wf_settleBytes hw core _

theorem State.wf_l1Fill (core ia key) : Memory.wf (s.l1Fill core ia key).mem = true := by
  have h := State.wf_settleLine hw core ia
  unfold State.l1Fill
  split
  · exact hw
  · exact State.wf_ite ((congrArg _ (State.l1Drop_mem _ _ _)).trans h) (State.wf_modCore h _ _)

theorem State.wf_loadMem (core poc ia keys) : Memory.wf (s.loadMem core poc ia keys).2.mem = true := by
  have hfill (xs : List (Nat × Nat)) : Memory.wf (xs.foldl (fun s ki => s.l1Fill core (ia + ki.2) ki.1) s).mem = true :=
    State.wf_foldl _ (fun _ _ ht => State.wf_l1Fill ht _ _ _) xs hw
  have hdrop (xs : List Nat) :
      Memory.wf (xs.foldl (fun s i => (s.settleLine core (ia + i)).l1Drop core ((ia + i) / 128)) s).mem = true :=
    State.wf_foldl _ (fun t i ht => ((congrArg _ (State.l1Drop_mem _ core _)).trans (State.wf_settleLine ht core (ia + i)))) xs hw
  exact wf_snd_ite (hfill _) (State.wf_ite (hdrop _) hw)

theorem State.wf_load (who core poc p n) : Memory.wf (s.load who core poc p n).2.mem = true := by
  unfold State.load
  split
  · exact hw
  · have h := State.wf_loadMem hw core poc
    exact State.wf_ite (State.wf_modCore (h _ _) _ _) (h _ _)

theorem State.wf_runXlut (core j d) (t) (hn : s.runXlut core j d = some t) : Memory.wf t.mem = true := by
  unfold State.runXlut at hn
  split at hn
  · cases hn
  · dsimp only at hn
    split at hn
    · cases hn
    · cases hn
      exact State.wf_modGrp hw _ _

theorem State.wf_ringWrite (r) : Memory.wf (s.ringWrite r).mem = true := s.wf_wrBytes _ _ hw

theorem State.wf_post (r) : Memory.wf (s.post r).mem = true := State.wf_ite (State.wf_ringWrite hw r) (State.wf_ite hw (State.wf_ite hw hw))

theorem State.wf_postDead (w) : Memory.wf (s.postDead w).mem = true := by
  have hpost (ds : List Deferred) (r : Deferred → FRec) {t : State} (ht : Memory.wf t.mem = true) :
      Memory.wf (ds.foldl (fun s d => s.post (r d)) t).mem = true :=
    State.wf_foldl _ (fun _ _ ht => State.wf_post ht _) ds ht
  unfold State.postDead
  split
  · exact hw
  · split
    · exact hw
    · exact State.wf_ite hw (State.wf_ite (hpost _ _ hw) (hpost _ _ hw))

theorem State.wf_defer (w d) : Memory.wf (s.defer w d).mem = true := State.wf_postDead (State.wf_modGrp hw w _) w

theorem State.wf_performOp (core id) : Memory.wf (s.performOp core id).mem = true := by
  unfold State.performOp
  split
  · exact hw
  · exact State.wf_performRaw (State.wf_settleBytes hw _ _) _ _

theorem State.wf_releaseWhere (core want) : Memory.wf (s.releaseWhere core want).mem = true :=
  State.wf_foldl _ (fun _ _ ht => State.wf_performOp ht _ _) _ hw

theorem State.wf_drainStores (core w) : Memory.wf (s.drainStores core w).mem = true := State.wf_releaseWhere hw core _

theorem State.wf_passGate (who core bytes views) : Memory.wf (s.passGate who core bytes views).mem = true := by
  refine State.wf_perform _ _ _ _ ?_
  exact State.wf_settleBytes (State.wf_releaseWhere hw _ _) _ _

theorem runWf_runXlz (core j reg inH) : OfRun (fun s => Memory.wf s.mem = true) (s.runXlz core j reg inH) :=
  runXlz_of (fun _ _ _ _ _ _ h => State.wf_load h _ _ _ _ _) (fun _ _ _ _ h => State.wf_passGate h _ _ _ _)
    (fun _ _ hu => State.wf_defer (State.wf_modGrp hu _ _) _ _)
    (fun _ _ hu => (congrArg _ (State.completed_mem _ _ _)).trans (State.wf_modGrp hu _ _)) hw (State.wf_drainStores hw core j.who)

theorem runWf_jobOutcome (core j) : OfRun (fun s => Memory.wf s.mem = true) (s.jobOutcome core j) := by
  refine State.jobOutcome_cases (p := OfRun _) (fun d => OfRun.map fun t h => ?_) (fun _ _ => ?_) (fun _ => ?_) ?_
  · exact State.wf_runXlut hw _ _ d t h
  · exact (congrArg _ (s.runXunp_mem _ _ _)).trans hw
  · exact runWf_runXlz hw _ _ _ _
  · exact hw

theorem State.wf_runJob (core pipe) : Memory.wf (s.runJob core pipe).mem = true := by
  refine runJob_of (p := fun s => Memory.wf s.mem = true) hw (runWf_jobOutcome hw core) fun u f w a b q o n l hu => ?_
  exact State.wf_noteTask (State.wf_modCore hu core f) w core a b q o n l

theorem State.wf_drainPipe (w core pipe n) : Memory.wf (State.drainPipe w core pipe n s).mem = true := by
  induction n generalizing s with
  | zero => exact hw
  | succ n ih => exact State.wf_ite (State.wf_ite (ih (State.wf_runJob hw core pipe)) hw) hw

theorem State.wf_release (core id) : Memory.wf (s.release core id).mem = true := State.wf_releaseWhere hw core _

theorem State.wf_completeOp (core id) : Memory.wf (s.completeOp core id).mem = true := by
  unfold State.completeOp
  split
  · exact hw
  · rename_i o _
    have h := State.wf_modGrp (State.wf_modCore (State.wf_release hw core id) core
      (fun c => { c with ops := AMap.erase c.ops id })) o.who (fun g => (g.settled id).flagDown o.flag)
    dsimp only
    split
    · exact State.wf_emit h _ _ _
    · exact h

theorem State.wf_completeOps (core w) : Memory.wf (s.completeOps core w).mem = true :=
  State.wf_foldl _ (fun _ _ ht => State.wf_completeOp ht _ _) _ hw

theorem State.wf_complete (core slice w) : Memory.wf (s.complete core slice w).mem = true := State.wf_completeOps (State.wf_drainPipe hw w core _ _) core w

theorem State.wf_stepStop (e) : Memory.wf (s.stepStop e).mem = true := State.wf_ite ((congrArg _ (State.exempt_mem _ _)).trans (State.wf_debugStop hw e _ _)) hw

theorem State.wf_retire (old e i) : Memory.wf (s.retire old e i).mem = true := by
  refine State.wf_stepStop ((congrArg _ (State.log_mem _ _ _ _)).trans (State.wf_ite ?_ ?_)) e
  · exact (congrArg _ (s.chargeIssue_mem e i)).trans hw
  · exact (congrArg _ ((State.completed_mem _ _ _).trans (s.chargeIssue_mem e i))).trans hw

theorem State.wf_halt (e cause inner ti word cont) : Memory.wf (s.halt e cause inner ti word cont).mem = true := by
  unfold State.halt
  dsimp only
  split
  · exact State.wf_modGrp hw _ _
  · exact State.wf_post (State.wf_modGrp hw _ _) _

theorem State.wf_noteTrap (e ti) : Memory.wf (s.noteTrap e ti).mem = true := State.wf_emit hw _ _ _

theorem State.wf_enterTrap (e ti word cont) : Memory.wf (s.enterTrap e ti word cont).mem = true := by
  have h1 := State.wf_complete hw e.gr.core e.gr.slice e.who
  unfold State.enterTrap
  split
  · exact State.wf_ite (State.wf_halt (State.wf_noteTrap hw _ _) _ _ _ _ _ _) (State.wf_modFrag hw _ _)
  · refine State.wf_ite (State.wf_modFrag h1 _ _) ?_
    split
    · exact h1
    · have h3 (f) := State.wf_modGrp (State.wf_noteTrap h1 e ti) e.who f
      refine State.wf_ite (State.wf_halt (State.wf_modGrp (h3 _) _ _) _ _ _ _ _ _)
        (State.wf_ite (State.wf_halt (State.wf_modGrp (h3 _) _ _) _ _ _ _ _ _) ?_)
      exact (congrArg _ (State.enter_mem _ _ _ _ _ _)).trans (h3 _)

theorem State.wf_takeTrap (e ti word cont) : Memory.wf (s.takeTrap e ti word cont).mem = true := State.wf_stepStop (State.wf_enterTrap hw e ti word cont) e

omit hw in
theorem State.wf_finish (e i) {r : Res} (hr : r.Wf) : Memory.wf (s.finish e i r).mem = true := by
  cases r with
  | done t => exact State.wf_retire (s := t.advance e) ((congrArg _ (t.advance_mem e)).trans hr) _ _ _
  | go t pc => exact State.wf_retire (s := t.jump e pc) ((congrArg _ (t.jump_mem e pc)).trans hr) _ _ _
  | gone t => exact State.wf_retire (s := t) hr _ _ _
  | trap ti t => exact State.wf_takeTrap (s := t.chargeIssue e i) ((congrArg _ (t.chargeIssue_mem e i)).trans hr) _ _ _ _
  | wait w t => exact (congrArg _ ((State.waits_mem _ _ _).trans (t.openLog_mem e))).trans hr
  | stop c t => exact State.wf_debugStop (s := t) hr _ _ _

theorem State.wf_fencedThen (e i) {go : Env → State → State} (hgo : ∀ e t, Memory.wf t.mem = true → Memory.wf (go e t).mem = true) :
    Memory.wf (s.fencedThen e i go).mem = true := by
  have h1 := State.wf_complete hw e.gr.core e.gr.slice e.who
  unfold State.fencedThen
  refine State.wf_ite (State.wf_ite ((congrArg _ (State.waits_mem _ _ _)).trans h1) ?_) (hgo e _ hw)
  split
  · exact h1
  · exact State.wf_ite (State.wf_finish _ _ h1) (hgo _ _ h1)

theorem State.wf_carryOut (e i) {body : Env → State → Res} (hb : ∀ e t, Memory.wf t.mem = true → (body e t).Wf) :
    Memory.wf (s.carryOut e i body).mem = true := by
  have h0 := State.wf_modGrp hw e.who (·.used e.key)
  have hwaits (w) : Memory.wf (s.waits e w).mem = true := (congrArg _ (s.waits_mem e w)).trans hw
  unfold State.carryOut
  dsimp only
  split
  · exact State.wf_finish e i h0
  · refine State.wf_ite (hwaits _) (State.wf_ite (State.wf_finish e i h0) (State.wf_ite (hwaits _) ?_))
    split
    · exact State.wf_ite (hwaits _) (State.wf_finish e i (hb e _ h0))
    · exact State.wf_finish e i (hb e _ h0)

theorem State.wf_fenced (e i) {body : Env → State → Res} (hb : ∀ e t, Memory.wf t.mem = true → (body e t).Wf) :
    Memory.wf (s.fenced e i body).mem = true :=
  State.wf_fencedThen hw e i fun e _ ht => State.wf_carryOut ht e i hb

theorem State.wf_attempt (e i) {body : Env → State → Res} (hb : ∀ e t, Memory.wf t.mem = true → (body e t).Wf) :
    Memory.wf (s.attempt e i body).mem = true :=
  State.wf_attemptThen hw e i fun _ ht => State.wf_fenced ht e i hb

theorem Env.wf_instr (e c) : (Env.instr e c s).Wf := hw

theorem State.wf_queueJob (e i gs vs exec dsts) : (s.queueJob e i gs vs exec dsts).Wf := State.wf_noteTask (State.wf_modGrp (State.wf_modCore hw _ _) _ _) _ _ _ _ _ _ _ _

theorem Env.wf_viInt (e i f op) : (Env.viInt e i f op s).Wf := by
  unfold Env.viInt
  dsimp only
  split <;> exact hw

theorem Env.wf_viFlt (e i f op) : (Env.viFlt e i f op s).Wf := by
  unfold Env.viFlt
  dsimp only
  split <;> exact hw

theorem State.wf_maintL1 (core clean drop p) : Memory.wf (s.maintL1 core clean drop p).mem = true := by
  have h {c : Prop} [Decidable c] (want) : Memory.wf (if c then s.releaseWhere core want else s).mem = true :=
    State.wf_ite (State.wf_releaseWhere hw core want) hw
  exact State.wf_ite (State.wf_modCore (h _) _ _) (h _)

theorem Env.wf_vFun (e i f op) : (Env.vFun e i f op s).Wf := Res.wf_ite hw hw

theorem State.wf_escalate (core slice va) : Memory.wf (s.escalate core slice va).mem = true := State.wf_post (State.wf_modCore hw _ _) _

theorem Env.wf_vmInt (e f op) : (Env.vmInt e f op s).Wf := by
  unfold Env.vmInt
  dsimp only
  split
  · exact hw
  · refine State.wf_foldl _ (fun t x ht => ?_) _ hw
    exact ht

theorem Env.wf_transfer (e va) {k : State → State} (hk : Memory.wf (k s).mem = true) : (Env.transfer e va s k).Wf := by
  unfold Env.transfer
  split
  · exact hw
  · exact hk

theorem State.wf_loadLanes (e poc n put ps) : Memory.wf (s.loadLanes e poc n put ps).mem = true := by
  refine State.wf_foldl _ (fun t p ht => ?_) ps hw
  exact State.wf_load ht e.who e.gr.core poc p.2 n

theorem Env.wf_endAccess (t) : (Env.endAccess t s).Wf := by
  cases t <;> exact hw

theorem State.wf_tagLoad (e poc ws) : Memory.wf (s.tagLoad e poc ws).1.mem = true := by
  unfold State.tagLoad
  dsimp only
  split
  · exact wf_fst_ite (wf_fst_ite hw hw) hw
  · exact hw

theorem State.wf_laneLoad (e i f) : (s.laneLoad e i f).Wf := by
  refine Res.wf_ite hw (Res.wf_ite hw (Env.wf_endAccess ?_ _))
  exact (congrArg _ (State.track_mem _ _ _ _ _ _ _)).trans (State.wf_loadLanes (State.wf_tagLoad hw _ _ _) _ _ _ _ _)

theorem State.wf_flushPlace (e w n) : Memory.wf (s.flushPlace e w n).mem = true := State.wf_releaseWhere hw _ _

theorem State.wf_atomic (e w n new) : Memory.wf (s.atomic e w n new).2.mem = true := by
  have h1 := State.wf_flushPlace hw e w n
  have hput {u : State} (hu : Memory.wf u.mem = true) (bs f) :
      Memory.wf (((u.keepOwn e.gr.core e.who bs).perform e.who e.gr.core bs).modGrp e.who f).mem = true :=
    State.wf_modGrp (State.wf_perform _ _ _ _ ((congrArg _ (State.keepOwn_mem _ _ _ _)).trans hu)) _ _
  unfold State.atomic
  cases w with
  | scr o =>
    dsimp only
    split
    · exact h1
    · exact hput h1 _ _
  | mem ia keys =>
    have h2 := State.wf_ite (p := cached ia = true) ((congrArg _ (State.l1Drop_mem _ e.gr.core (ia / 128))).trans
      (State.wf_settleLine h1 e.gr.core ia)) h1
    dsimp only
    split
    · exact h2
    · exact hput h2 _ _

theorem State.wf_atomLanes (e f new ps) : Memory.wf (s.atomLanes e f new ps).mem = true := by
  refine State.wf_foldl _ (fun t p ht => ?_) ps hw
  have h := State.wf_atomic ht e p.2 f.bytes (new p.1)
  exact State.wf_ite (State.wf_modGrp h _ _) h

theorem State.wf_releaseIf (e ord) : Memory.wf (s.releaseIf e ord).mem = true := State.wf_ite (State.wf_drainStores hw _ _) hw

theorem State.wf_laneAtomic (e i f new) : (s.laneAtomic e i f new).Wf := by
  refine Res.wf_ite hw (Env.wf_endAccess ?_ _)
  exact (congrArg _ (State.track_mem _ _ _ _ _ _ _)).trans (State.wf_atomLanes (State.wf_releaseIf hw _ _) _ _ _ _)

theorem Env.wf_vFlt (e i f op) : (Env.vFlt e i f op s).Wf := by
  unfold Env.vFlt
  dsimp only
  split <;> exact hw

theorem Env.wf_putsG (e d x fl) : (Env.putsG e d x s fl).Wf := State.wf_modGrp hw _ _

theorem Env.wf_gop (e f zeroExt op) : (Env.gop e f zeroExt op s).Wf := hw

theorem State.wf_stopTeam (reason tid) : Memory.wf (s.stopTeam reason tid).mem = true := by
  rw [stopTeam_eq]
  have hemit (cs : List Nat) (r : Nat → Option TRec) {t : State} (ht : Memory.wf t.mem = true) :
      Memory.wf (cs.foldl (fun s c => s.emit c [] (r c)) t).mem = true :=
    State.wf_foldl _ (fun _ c ht => State.wf_emit ht c [] (r c)) cs ht
  split
  · exact hw
  · split
    · exact hw
    · exact hemit _ _ hw

theorem State.wf_forceOut : Memory.wf s.forceOut.mem = true := by
  refine State.wf_foldl _ (fun t u ht => ?_) s.teams hw
  refine State.wf_ite ht ?_
  split
  · exact State.wf_stopTeam ht _ _
  · exact ht

theorem State.wf_drainMeet (core w v) : Memory.wf (s.drainMeet core w v).mem = true := State.wf_releaseWhere hw _ _

theorem State.wf_drainView (core tid v) : Memory.wf (s.drainView core tid v).mem = true := State.wf_releaseWhere hw _ _

theorem State.wf_drainFor (core c) : Memory.wf (s.drainFor core c).mem = true :=
  State.wf_foldl _ (fun _ _ ht => State.wf_drainMeet ht _ _ _) _
    (State.wf_foldl _ (fun _ _ ht => State.wf_drainView ht _ _ _) _ hw)

theorem State.wf_engineWrite (who cores bs) : Memory.wf (s.engineWrite who cores bs).mem = true := by
  have hkeep : Memory.wf (cores.foldl (fun s c => s.keepOld c who.tid bs) s).mem = true :=
    State.wf_foldl _ (fun t c ht => (t.keepOld_mem c who.tid bs).symm ▸ ht) cores hw
  refine State.wf_foldl _ (fun t b ht => ?_) bs (State.wf_recall _ _ _ hkeep)
  split
  · exact ht
  · split
    · refine State.wf_foldl _ (fun u c hu => ?_) cores (State.wf_wrKey t _ _ ht)
      exact hu
    · exact State.wf_wrKey t _ _ ht

theorem State.wf_performMoves (tid core cores c ps opened) :
    Memory.wf (s.performMoves tid core cores c ps opened).mem = true := by
  unfold State.performMoves
  refine State.wf_foldl _ (fun t n ht => ?_) _ hw
  refine State.wf_foldl _ (fun u p hu => ?_) _ ht
  exact State.wf_engineWrite hu _ _ _

theorem State.wf_scratchLine (tid line) : Memory.wf (s.scratchLine tid line).mem = true := by
  unfold State.scratchLine
  split
  · exact hw
  · split
    · exact hw
    · refine State.wf_ite hw (State.wf_ite hw ?_)
      exact State.wf_modCore (State.wf_modTeam (State.wf_performMoves (State.wf_drainFor hw _ _) _ _ _ _ _ _) _ _) _ _

theorem State.wf_posted (e) : (s.posted e).Wf := by
  unfold State.posted
  split <;> exact hw

theorem State.wf_backOne (core w) : Memory.wf (s.backOne core w).mem = true := by
  unfold State.backOne
  split
  · refine State.wf_ite hw ?_
    split
    · exact State.wf_ite (State.wf_emit (State.wf_modGrp hw _ _) _ _ _) hw
    · exact State.wf_modTeam (State.wf_perform _ _ _ _ (State.wf_drainStores hw _ _)) _ _
  · exact hw

theorem State.wf_obey (core w g back) (t) (hn : s.obey core w g back = some t) : Memory.wf t.mem = true := by
  cases back with
  | false =>
    cases hn
    exact (congrArg _ (s.resumeNow_mem w)).trans hw
  | true =>
    have h1 := State.wf_complete hw core g.slice w
    unfold State.obey at hn
    rw [Bool.not_true, if_neg Bool.false_ne_true] at hn
    dsimp only at hn
    split at hn
    · cases hn
    · cases hn
      exact State.wf_backOne h1 core w

theorem State.wf_hostCmd (core w g back) : Memory.wf (s.hostCmd core w g back).mem = true := by
  unfold State.hostCmd
  split
  · rename_i t ht
    split at ht
    · exact State.wf_obey hw _ _ _ _ _ ht
    · cases ht
  · exact State.wf_modGrp hw _ _

theorem State.wf_resumeCmd (core) : Memory.wf (s.resumeCmd core).mem = true := by
  unfold State.resumeCmd
  split
  · exact hw
  · exact State.wf_hostCmd hw _ _ _ _

theorem State.wf_completeTeam (tid t) : Memory.wf (s.completeTeam tid t).mem = true :=
  State.wf_foldl _ (fun _ _ ht => State.wf_drainStores (State.wf_completeOps ht _ _) _ _) _ hw

theorem State.wf_prefetch (core w) : Memory.wf (s.prefetch core w).mem = true := by
  unfold State.prefetch
  split
  · exact hw
  · split
    · refine State.wf_foldl _ (fun t ki ht => ?_) _ hw
      exact State.wf_l1Fill ht core _ ki.1
    · exact hw

theorem State.wf_stopAll : Memory.wf s.stopAll.mem = true :=
  State.wf_foldl _ (fun _ _ ht => State.wf_stopGroup ht _ _) _ hw

theorem State.wf_alarm (level source) : Memory.wf (s.alarm level source).mem = true := by
  refine (congrArg _ (State.latch_mem _ _)).trans (State.wf_stopAll (State.wf_alarmLog ?_ _ _))
  exact State.wf_ite hw hw

theorem State.wf_noteArrival (w n by_) : Memory.wf (s.noteArrival w n by_).mem = true := by
  unfold State.noteArrival
  split
  · exact State.wf_emit hw _ _ _
  · exact hw

theorem State.wf_flipBar (tid n by_ k) : Memory.wf (State.flipBar tid n by_ k s).mem = true := by
  have hemit (cs : List Nat) (r : Nat → Option TRec) {t : State} (ht : Memory.wf t.mem = true) :
      Memory.wf (cs.foldl (fun s c => s.emit c [] (r c)) t).mem = true :=
    State.wf_foldl _ (fun _ c ht => State.wf_emit ht c [] (r c)) cs ht
  induction k generalizing s with
  | zero => exact hw
  | succ k ih =>
    unfold State.flipBar
    split
    · exact hw
    · exact ih (hemit _ _ hw)

theorem State.wf_decideCarve (tid) : Memory.wf (s.decideCarve tid).mem = true := by
  have hstop (vs : List Nat) : Memory.wf (vs.foldl (fun s v => s.stopTeam 1 v) s).mem = true :=
    State.wf_foldl _ (fun _ _ ht => State.wf_stopTeam ht _ _) vs hw
  unfold State.decideCarve
  split
  · exact hw
  · split
    · exact hw
    · dsimp only
      split
      · exact State.wf_modTeam (hstop _) _ _
      · exact State.wf_modTeam hw _ _

theorem State.wf_settleBars (tid by_ ns) : Memory.wf (s.settleBars tid by_ ns).mem = true := by
  rcases settleBars_eq s tid by_ ns with ⟨-, h⟩ | h
  · rw [h]
    exact hw
  · rw [h]
    exact State.wf_decideCarve (State.wf_foldl _ (fun _ _ ht => State.wf_flipBar ht _ _ _ _) _ hw) tid

theorem State.wf_engineArrive (w n seq) : Memory.wf (s.engineArrive w n seq).mem = true := State.wf_settleBars (State.wf_modTeam (State.wf_noteArrival hw _ _ _) _ _) _ _ _

theorem State.wf_endCmd (core id c fault) : Memory.wf (s.endCmd core id c fault).mem = true := by
  have h3 (code) := State.wf_noteTask (State.wf_modGrp (State.wf_modTeam (State.wf_modCore hw core
    (fun k => { k with cmds := AMap.erase k.cmds id })) c.who.tid (fun t => t.present c.lines)) c.who
    (fun g => g.flagDown c.flag)) c.who core 0x02 0 c.seq c.instr.opc c.pc [BitVec.ofNat 64 code]
  cases fault with
  | some t => exact State.wf_defer (h3 _) _ _
  | none =>
    unfold State.endCmd
    dsimp only
    split
    · exact (congrArg _ (State.completed_mem _ _ _)).trans (h3 0)
    · exact State.wf_engineArrive ((congrArg _ (State.completed_mem _ _ _)).trans (h3 0)) _ _ _

/-- A choice by the commands that do not end by their moves. -/
noncomputable def endsBy (i : Instr) (v : Option (View × Word × Word)) (table : XF → View × Word × Word → State) (acts cast moves : State) :
    State :=
  match i, v with
  | .xtab f, some v => table f v
  | .eptab _, _ => acts
  | .cpm _, _ => cast
  | _, _ => moves

omit hw in
theorem endsBy_cases {p : State → Prop} {i : Instr} {v : Option (View × Word × Word)}
    {table : XF → View × Word × Word → State} {acts cast moves : State}
    (ht : ∀ f v, p (table f v)) (ha : p acts) (hc : p cast) (hm : p moves) : p (endsBy i v table acts cast moves) := by
  unfold endsBy
  cases i with
  | xtab f =>
    cases v with
    | none => exact hm
    | some v => exact ht f v
  | eptab f => exact ha
  | cpm f => exact hc
  | _ => exact hm

omit hw in
theorem State.runCmd_eq (core id c) : s.runCmd core id c =
    match AMap.find s.teams c.who.tid with
    | none => s.modCore core (fun k => { k with cmds := AMap.erase k.cmds id })
    | some t =>
      let s1 := s.drainFor core c
      endsBy c.instr c.src
        (fun f v =>
          let n := (f.mode.extractLsb' 0 2).toNat
          let oob := v.1.noisy && (List.range 256).any (fun k => (v.1.addr v.2 (ix2 (k : Nat) 0)).isNone)
          let s2 := s1.modGrp c.who (fun g => g.raise (flIf oob flOOB))
          match s2.readRow t c.who.tid c v 256 0 with
          | .error m => (s2.modCore core (fun k => { k with cvt := AMap.erase k.cvt n })).endCmd core id c
              (c.faultOf [(0, m)])
          | .ok xs => (s2.modCore core (fun k =>
              { k with cvt := AMap.insert k.cvt n (c.who.tid, xs.map (BitVec.ofNat 16)) })).endCmd core id c none)
        ((s1.modSlice core (s1.sliceOf c.who) (fun l => { l with act := some (c.who.tid, c.gs) })).endCmd core id c none)
        (({ s1 with mcast := s1.mcast.filter (fun l => !(l.2.core == core && l.2.cmd == id)) }).endCmd core id c
          (c.faultOf (s1.castFault t core id)))
        (((s1.performMoves c.who.tid core t.cores c (s1.planned t c c.moves)
            (fun k => !(k.1 && c.arrived.contains (k.2 / 128)))).modGrp c.who
              (fun g => g.raise (flIf (c.moves.any (fun m => m.oob)) flOOB))).endCmd core id c
                (c.faultOf (s1.moveFaults t c))) := rfl

theorem State.wf_runCmd (core id c) : Memory.wf (s.runCmd core id c).mem = true := by
  have h1 := State.wf_drainFor hw core c
  have hcast (m f) : Memory.wf ({ s.drainFor core c with mcast := m }.endCmd core id c f).mem = true :=
    State.wf_endCmd (s := { s.drainFor core c with mcast := m }) h1 _ _ _ _
  rw [State.runCmd_eq]
  split
  · exact State.wf_modCore hw _ _
  · refine endsBy_cases (p := fun s : State => Memory.wf s.mem = true) (fun f v => ?_) ?_ ?_ ?_
    · dsimp only
      split
      · exact State.wf_endCmd (State.wf_modCore (State.wf_modGrp h1 _ _) _ _) _ _ _ _
      · exact State.wf_endCmd (State.wf_modCore (State.wf_modGrp h1 _ _) _ _) _ _ _ _
    · exact State.wf_endCmd (State.wf_modSlice h1 _ _ _) _ _ _ _
    · exact hcast _ _
    · exact State.wf_endCmd (State.wf_modGrp (State.wf_performMoves h1 _ _ _ _ _ _) _ _) _ _ _ _

theorem Env.wf_vInt (e i f op) : (Env.vInt e i f op s).Wf := by
  unfold Env.vInt
  dsimp only
  split <;> exact hw

theorem Env.wf_view (e c) : (Env.view e c s).Wf := hw

theorem Env.wf_atBar (e n) {k : Bar → Res} (hk : ∀ b, (k b).Wf) : (Env.atBar e n s k).Wf := by
  refine Res.wf_ite hw (Res.wf_ite hw ?_)
  split
  · exact hw
  · exact hk _

theorem State.wf_viewStore (e i xs stat) : (s.viewStore e i xs stat).Wf := by
  refine Res.wf_ite hw (Res.wf_ite hw (Env.wf_endAccess ?_ _))
  exact (congrArg _ (State.track_mem _ _ _ _ _ _ _)).trans (State.wf_modGrp hw _ _)

theorem State.wf_arrive (w n) : Memory.wf (s.arrive w n).mem = true := State.wf_settleBars (State.wf_modTeam (State.wf_noteArrival hw _ _ _) _ _) _ _ _

theorem Env.wf_groupMem (e k r a) : (Env.groupMem e k r a s).Wf := hw

theorem Env.wf_vShift (e i f op) : (Env.vShift e i f op s).Wf := by
  unfold Env.vShift
  dsimp only
  split <;> exact hw

theorem State.wf_laneStore (e i f) : (s.laneStore e i f).Wf := by
  refine Res.wf_ite hw (Res.wf_ite hw (Env.wf_endAccess ?_ _))
  exact (congrArg _ (State.track_mem _ _ _ _ _ _ _)).trans (State.wf_releaseIf hw _ _)

theorem State.wf_iaWrite (ia bs) : Memory.wf (s.iaWrite ia bs).mem = true := by
  refine State.wf_foldl _ (fun t b ht => ?_) _ (State.wf_recall _ _ _ hw)
  grind [State.wf_wrKey]

theorem State.wf_enterPending (w) : Memory.wf (s.enterPending w).mem = true := by
  unfold State.enterPending
  split
  · exact hw
  · dsimp only
    split
    · refine State.wf_ite ?_ hw
      split
      · exact State.wf_modFrag hw _ _
      · exact State.wf_enterTrap (State.wf_modFrag hw _ _) _ _ _ _
    · exact hw

theorem State.wf_takeDeferred (w) : Memory.wf (s.takeDeferred w).mem = true := by
  unfold State.takeDeferred
  split
  · exact hw
  · split
    · dsimp only
      split
      · exact State.wf_modGrp hw _ _
      · exact State.wf_takeTrap (State.wf_modGrp hw _ _) _ _ _ _
    · exact hw

theorem State.wf_deliverThrottle (e) : Memory.wf (s.deliverThrottle e).mem = true := by
  unfold State.deliverThrottle
  split
  · exact State.wf_takeTrap hw _ _ _ _
  · exact State.wf_modGrp ((congrArg _ (s.callFrom_mem e e.pc)).trans hw) _ _

theorem State.wf_startClause (e) : Memory.wf (s.startClause e).mem = true := by
  refine State.wf_ite hw ?_
  split
  · exact State.wf_takeTrap hw _ _ _ _
  · exact State.wf_ite (State.wf_takeDeferred hw _) (State.wf_ite (State.wf_deliverThrottle hw _)
      (State.wf_ite (State.wf_modFrag hw _ _) hw))

theorem State.wf_joinThen (e j) {k : State → Res} (hk : (k s).Wf) : (s.joinThen e j k).Wf := by
  unfold State.joinThen
  split
  · exact hw
  · exact hw
  · exact hk

theorem State.wf_loadWords (e as ws t) (hn : State.loadWords e as s = .ok (ws, t)) : Memory.wf t.mem = true := by
  induction as generalizing s ws with
  | nil =>
    cases hn
    exact hw
  | cons a as ih =>
    unfold State.loadWords at hn
    grind [State.wf_load]

theorem State.wf_loadThen (e as) {k : List Word → State → Res} (hk : ∀ ws t, Memory.wf t.mem = true → (k ws t).Wf) :
    (s.loadThen e as k).Wf := by
  unfold State.loadThen
  split
  · exact hw
  · exact hw
  · rename_i h
    exact hk _ _ (State.wf_loadWords hw _ _ _ _ h)

theorem State.wf_completeReads (core slice w) : Memory.wf (s.completeReads core slice w).mem = true :=
  State.wf_foldl _ (fun _ _ ht => State.wf_completeOp ht _ _) _ (State.wf_drainPipe hw _ _ _ _)

theorem State.wf_exitArrive (w) : Memory.wf (s.exitArrive w).mem = true := by
  have hnote : Memory.wf ((s.barsLeft w).foldl (fun s n => s.noteArrival w n w.grp) s).mem = true :=
    State.wf_foldl _ (fun _ _ ht => State.wf_noteArrival ht _ _ _) _ hw
  exact State.wf_settleBars (State.wf_modTeam hnote _ _) _ _ _

theorem State.wf_endGroup (w) : Memory.wf (s.endGroup w).mem = true := by
  refine State.wf_postDead (State.wf_exitArrive (State.wf_modGrp ?_ _ _) _) _
  exact State.wf_ite hw (State.wf_drainStores hw _ _)

theorem State.wf_exitLanes (e ended) : Memory.wf (s.exitLanes e ended).mem = true := by
  have h1 (f) := State.wf_modGrp hw e.who f
  have hfill {u : State} (hu : Memory.wf u.mem = true) (core slice n) :
      Memory.wf (State.fillEntries core slice n u).mem = true := (congrArg _ (State.fillEntries_mem _ _ _ _)).trans hu
  unfold State.exitLanes
  dsimp only
  split
  · exact h1 _
  · exact State.wf_ite (hfill (State.wf_endGroup (h1 _) _) _ _ _)
      (State.wf_postDead (hfill (State.wf_modGrp (h1 _) _ _) _ _ _) _)

theorem State.wf_startLoop (e f a b bias dst) : (s.startLoop e f a b bias dst).Wf := Res.wf_ite hw (Res.wf_ite hw (State.wf_modGrp (State.wf_modCore hw _ _) _ _))

theorem State.wf_submit (e c) : (s.submit e c).Wf := Res.wf_ite hw (State.wf_enqueue hw e c)

theorem memWf_encodeBlock (f b i0 vals) : MemWf (s.encodeBlock f b i0 vals) := by
  unfold State.encodeBlock
  extract_lets sc step r s1
  have hstep (a : State × Dy × Bool) (x : FVal × Nat) (ha : BlockWf a) : BlockWf (step a x) := by
    refine blockWf_mk ?_ _ _
    split
    · exact a.1.wf_wrStack _ _ ha
    · exact ha
  have hr : BlockWf r := List.foldlRecOn (motive := BlockWf) _ _ (blockWf_mk hw _ _) fun a ha x _ => hstep a x ha
  clear_value r
  have hs1 : MemWf s1 := by
    unfold s1
    split
    · exact r.1.wf_wrStack _ _ hr
    · exact hr
  clear_value s1
  split
  · exact memWf_counted hs1 _
  · exact hs1

theorem State.wf_encodeBlock (f b i0 vals) : Memory.wf (s.encodeBlock f b i0 vals).mem = true :=
  memWf_encodeBlock hw f b i0 vals

theorem State.wf_writeBack (line) : Memory.wf (s.writeBack line).mem = true := by
  unfold State.writeBack
  split
  · exact hw
  · dsimp only
    split
    · split
      · exact hw
      · exact State.wf_foldl _ (fun _ _ ht => State.wf_encodeBlock ht _ _ _ _) _ hw
    · exact hw

theorem State.wf_maintL2 (lose drop p) : Memory.wf (s.maintL2 lose drop p).mem = true := by
  have hback (ls : List Nat) : Memory.wf (ls.foldl State.writeBack s).mem = true :=
    State.wf_foldl _ (fun _ _ ht => State.wf_writeBack ht _) ls hw
  have h1 {c : Prop} [Decidable c] (ls : List Nat) : Memory.wf (if c then s else ls.foldl State.writeBack s).mem = true :=
    State.wf_ite hw (hback ls)
  have h2 {c : Prop} [Decidable c] {u : State} (hu : Memory.wf u.mem = true) (m : AMap AperLine) :
      Memory.wf (if c then { u with aper := m } else u).mem = true := State.wf_ite hu hu
  refine State.wf_ite hw ?_
  dsimp only
  split
  · exact h2 (h1 _) _
  · exact State.wf_dropL2 _ _ _ _ (h2 (h1 _) _)

theorem State.wf_maintain (e i f clean drop lose) : (s.maintain e i f clean drop lose).Wf := by
  have h1 (ps : List Piece) (c : Piece → Bool) {t : State} (ht : Memory.wf t.mem = true) :
      Memory.wf (ps.foldl (fun s p => s.maintL1 e.gr.core (c p) drop p) t).mem = true :=
    State.wf_foldl _ (fun _ p ht => State.wf_maintL1 ht e.gr.core (c p) drop p) ps ht
  have h2 (ps : List Piece) {t : State} (ht : Memory.wf t.mem = true) :
      Memory.wf (ps.foldl (fun s p => s.maintL2 lose drop p) t).mem = true :=
    State.wf_foldl _ (fun _ p ht => State.wf_maintL2 ht lose drop p) ps ht
  have h0 := State.wf_drainStores hw e.gr.core e.who
  unfold State.maintain
  dsimp only
  split
  · exact hw
  · split
    · exact hw
    · split
      · exact hw
      · split
        · exact hw
        · refine (congrArg _ (State.track_mem _ _ _ _ _ _ _)).trans ?_
          split
          · refine h2 _ ?_
            split
            · exact h1 _ _ h0
            · exact h0
          · split
            · exact h1 _ _ h0
            · exact h0

theorem State.wf_releaseViews (cores v mine) : Memory.wf (s.releaseViews cores v mine).mem = true :=
  State.wf_foldl _ (fun _ _ ht => State.wf_releaseWhere ht _ _) cores hw

theorem Env.wf_viewWord (e i f) {go : List ViewLane → State → Res} (hgo : ∀ xs, (go xs s).Wf) : (Env.viewWord e i f go s).Wf := by
  refine Res.wf_ite hw ?_
  split
  · exact hw
  · exact Res.wf_ite hw (hgo _)

theorem State.wf_viewLoad (e i xs stat) : (s.viewLoad e i xs stat).Wf := by
  have hmeet (vs : List View) : Memory.wf (vs.foldl (fun s v => s.drainMeet e.gr.core e.who v) s).mem = true :=
    State.wf_foldl _ (fun _ _ ht => State.wf_drainMeet ht _ _ _) vs hw
  have hload (ps : List (ViewLane × Where)) {t : State} (ht : Memory.wf t.mem = true) :
      Memory.wf (ps.foldl (fun s p => (s.load e.who e.gr.core false p.2 p.1.v.esize).2.modGrp e.who (fun g =>
        g.putElem p.1.v p.1.r p.1.l (leVal (s.load e.who e.gr.core false p.2 p.1.v.esize).1))) t).mem = true :=
    State.wf_foldl _ (fun _ p ht => State.wf_load ht e.who e.gr.core false p.2 p.1.v.esize) ps ht
  unfold State.viewLoad
  grind [Res.Wf, Env.wf_endAccess, State.track_mem, State.modGrp_mem, State.wf_tagLoad]

theorem State.wf_enqueueNone (e c) : Memory.wf (s.enqueueNone e c).mem = true := by
  have h := State.wf_noteTask (State.wf_noteTask (State.wf_modCore hw e.gr.core
    (fun k => { k with cmdseq := k.cmdseq + 1 })) e.who e.gr.core 0x01 0 (s.core e.gr.core).cmdseq c.instr.opc c.pc [])
    e.who e.gr.core 0x02 0 (s.core e.gr.core).cmdseq c.instr.opc c.pc [0]
  unfold State.enqueueNone
  dsimp only
  split
  · exact h
  · exact State.wf_engineArrive h _ _ _

theorem Env.wf_rows (e i f n) : (Env.rows e i f n s).Wf := by
  refine Res.wf_ite hw ?_
  split
  · refine Res.wf_ite hw (Res.wf_ite hw ?_)
    split
    · exact hw
    · exact Res.wf_ite (State.wf_enqueueNone hw _ _) (State.wf_submit hw _ _)
  · exact hw

theorem State.wf_arriveNow (e n) : Memory.wf (s.arriveNow e n).mem = true := State.wf_arrive (State.wf_drainStores hw _ _) _ _

theorem State.wf_waitBar (e n) : (s.waitBar e n).Wf := by
  unfold State.waitBar
  split
  · exact hw
  · split <;> exact hw

theorem State.wf_drainScr (core w lo len) : Memory.wf (s.drainScr core w lo len).mem = true := State.wf_releaseWhere hw _ _

theorem State.wf_doubleFault (e h c) : Memory.wf (s.doubleFault e h c).mem = true := State.wf_halt hw _ _ _ _ _ _

theorem Env.wf_viShift (e i f op) : (Env.viShift e i f op s).Wf := by
  unfold Env.viShift
  dsimp only
  split <;> exact hw

theorem Env.wf_vmShift (e f op) : (Env.vmShift e f op s).Wf := by
  unfold Env.vmShift
  split
  · exact hw
  · refine State.wf_foldl _ (fun t x ht => ?_) _ hw
    exact ht

theorem Env.wf_vmFlt (e f op) : (Env.vmFlt e f op s).Wf := by
  unfold Env.vmFlt
  split
  · exact hw
  · refine State.wf_foldl _ (fun t x ht => ?_) _ hw
    exact ht

theorem Env.wf_viewMelded (e f reg) {go : List ViewLane → State → Res} (hgo : ∀ xs, (go xs s).Wf) :
    (Env.viewMelded e f reg go s).Wf := Res.wf_ite hw (Res.wf_ite hw (Res.wf_ite hw (hgo _)))

end

end Sys2Proof.Machine
end

section
/-! Every word keeps the memory's canonical form (log 1). -/

namespace Sys2Proof.Machine

/-- Memory is in its canonical form in the state that a step answers, if it answers one. -/
def Kept (o : Host.Outcome State Fault Refusal) : Prop := ∀ t, o = .next t → Memory.wf t.mem = true

section
variable {s : State} (hw : Memory.wf s.mem = true)
include hw

theorem State.wf_track (e i bs vs tag dsts) : Memory.wf (s.track e i bs vs tag dsts).mem = true :=
  (congrArg _ (s.track_mem e i bs vs tag dsts)).trans hw

theorem kept_next : Kept (.next s) := fun _ h => Host.Outcome.next.inj h ▸ hw

theorem wf_issue (i) {body : Env → State → Res} (hb : ∀ e t, Memory.wf t.mem = true → (body e t).Wf) :
    Kept (s.issue i body) := by
  intro t ht
  unfold State.issue at ht
  split at ht
  · cases ht
  · cases ht
    exact State.wf_attempt hw _ _ hb

theorem State.wf_loopElem (t core w v i x o u) (hn : s.loopElem t core w v i = .ok (x, o, u)) : Memory.wf u.mem = true := by
  unfold State.loopElem at hn
  split at hn
  · cases hn
    exact hw
  · split at hn
    · cases hn
    · cases hn
      exact State.wf_load hw _ _ _ _ _

theorem State.wf_loopElems (t core w v is xs o u) (hn : State.loopElems t core w v is s = .ok (xs, o, u)) :
    Memory.wf u.mem = true := by
  induction is generalizing s xs o with
  | nil =>
    cases hn
    exact hw
  | cons i is ih =>
    unfold State.loopElems at hn
    grind [State.wf_loopElem]

/-! Words whose own effect leaves memory as it is. -/

theorem wf_execNop (f) : Kept (execNop f s) := wf_issue hw _ fun _ _ ht => ht

theorem wf_execIdle (f) : Kept (execIdle f s) := wf_issue hw _ fun _ _ ht => ht

theorem wf_execGadd (f) : Kept (execGadd f s) := wf_issue hw _ fun _ _ ht => ht

theorem wf_execGsub (f) : Kept (execGsub f s) := wf_issue hw _ fun _ _ ht => ht

theorem wf_execGmul (f) : Kept (execGmul f s) := wf_issue hw _ fun _ _ ht => ht

theorem wf_execGmulh (f) : Kept (execGmulh f s) := wf_issue hw _ fun _ _ ht => ht

theorem wf_execGmad (f) : Kept (execGmad f s) := wf_issue hw _ fun _ _ ht => ht

theorem wf_execGdiv (f) : Kept (execGdiv f s) := wf_issue hw _ fun _ _ ht => ht

theorem wf_execGrem (f) : Kept (execGrem f s) := wf_issue hw _ fun _ _ ht => ht

theorem wf_execGand (f) : Kept (execGand f s) := wf_issue hw _ fun _ _ ht => ht

theorem wf_execGor (f) : Kept (execGor f s) := wf_issue hw _ fun _ _ ht => ht

theorem wf_execGxor (f) : Kept (execGxor f s) := wf_issue hw _ fun _ _ ht => ht

theorem wf_execGshl (f) : Kept (execGshl f s) := wf_issue hw _ fun _ _ ht => ht

theorem wf_execGshr (f) : Kept (execGshr f s) := wf_issue hw _ fun _ _ ht => ht

theorem wf_execGsar (f) : Kept (execGsar f s) := wf_issue hw _ fun _ _ ht => ht

theorem wf_execGmin (f) : Kept (execGmin f s) := wf_issue hw _ fun _ _ ht => ht

theorem wf_execGmax (f) : Kept (execGmax f s) := wf_issue hw _ fun _ _ ht => ht

theorem wf_execGmov (f) : Kept (execGmov f s) := wf_issue hw _ fun _ _ ht => ht

theorem wf_execGmovh (f) : Kept (execGmovh f s) := wf_issue hw _ fun _ _ ht => ht

theorem wf_execGcmp (f) : Kept (execGcmp f s) := wf_issue hw _ fun _ _ ht => ht

theorem wf_execGsel (f) : Kept (execGsel f s) := wf_issue hw _ fun _ _ ht => ht

theorem wf_execGbits (f) : Kept (execGbits f s) := wf_issue hw _ fun _ _ ht => ht

theorem wf_execGplog (f) : Kept (execGplog f s) := wf_issue hw _ fun _ _ ht => ht

theorem wf_execPlog (f) : Kept (execPlog f s) := wf_issue hw _ fun _ _ ht => ht

theorem wf_execTrap (f) : Kept (execTrap f s) := wf_issue hw _ fun _ _ ht => ht

theorem wf_execTfence (f) : Kept (execTfence f s) := wf_issue hw _ fun _ _ ht => ht

theorem wf_execBrk (f) : Kept (execBrk f s) := wf_issue hw _ fun _ _ ht => ht

/-! Words with an effect that may move bytes, or that is told case by case. -/

theorem wf_execBra (f) : Kept (execBra f s) := by
  refine wf_issue hw _ fun e t ht => ?_
  grind [Res.Wf, Env.wf_transfer]

theorem wf_execBrg (f) : Kept (execBrg f s) := by
  refine wf_issue hw _ fun e t ht => ?_
  grind [Res.Wf, Env.wf_transfer]

theorem wf_execBri (f) : Kept (execBri f s) := by
  refine wf_issue hw _ fun e t ht => ?_
  grind [Res.Wf, Env.wf_transfer]

theorem wf_execCall (f) : Kept (execCall f s) := by
  refine wf_issue hw _ fun e t ht => ?_
  grind [Res.Wf, Env.wf_transfer, State.callFrom_mem]

theorem wf_execCalli (f) : Kept (execCalli f s) := by
  refine wf_issue hw _ fun e t ht => ?_
  grind [Res.Wf, Env.wf_transfer, State.callFrom_mem]

theorem wf_execRet (f) : Kept (execRet f s) := by
  refine wf_issue hw _ fun e t ht => ?_
  grind [Res.Wf, Env.wf_instr, Env.wf_transfer, State.modGrp_mem]

theorem wf_execYield (f) : Kept (execYield f s) := by
  refine wf_issue hw _ fun e t ht => ?_
  grind [Res.Wf, Env.wf_transfer, State.modSlice_mem, State.modFrag_mem]

theorem wf_execLnch (f) : Kept (execLnch f s) := by
  refine wf_issue hw _ fun e t ht => ?_
  refine Res.wf_ite ht ?_
  split
  · exact ht
  · have h2 (p f) := State.wf_modGrp (State.wf_load ht e.who e.gr.core false p 64) e.who f
    refine Res.wf_ite ht (Res.wf_ite (h2 _ _) ?_)
    refine State.wf_modGrp ((congrArg _ (State.modQueue_mem _ _ _)).trans ?_) _ _
    exact State.wf_iaWrite (State.wf_drainStores (h2 _ _) _ _) _ _

theorem wf_execBrv (f) : Kept (execBrv f s) := by
  refine wf_issue hw _ fun e t ht => ?_
  dsimp only
  split
  · exact ht
  · split
    · exact ht
    · exact State.wf_joinThen ht _ _ (Res.wf_ite ht (Res.wf_ite ht (Res.wf_ite ht (State.wf_modGrp ht _ _))))

theorem wf_execBriv (f) : Kept (execBriv f s) := by
  refine wf_issue hw _ fun e t ht => Res.wf_ite ht (Res.wf_ite ht ?_)
  refine State.wf_loadThen ht e _ fun tbs t1 h1 => State.wf_loadThen h1 e _ fun ws t2 h2 => ?_
  refine Res.wf_ite h2 (Res.wf_ite h2 (Res.wf_ite h2 (State.wf_loadThen h2 e _ fun tgts t3 h3 => ?_)))
  split
  · exact h3
  · refine State.wf_joinThen h3 e _ ?_
    split
    · exact h3
    · exact h3
    · exact Res.wf_ite h3 (State.wf_modGrp h3 _ _)

theorem wf_execExit (f) : Kept (execExit f s) := by
  refine wf_issue hw _ fun e t ht => ?_
  have h1 := State.wf_completeReads ht e.gr.core e.gr.slice e.who
  exact Res.wf_ite (Res.wf_ite h1 (State.wf_exitLanes h1 _ _)) (State.wf_exitLanes ht _ _)

theorem wf_execJoin (f) : Kept (execJoin f s) := by
  refine wf_issue hw _ fun e t ht => ?_
  split
  · exact ht
  · exact Res.wf_ite ((congrArg _ (State.fillEntries_mem _ _ _ _)).trans (State.wf_modGrp ht _ _)) (Res.wf_ite ht ht)

theorem wf_execMopen (f) : Kept (execMopen f s) := by
  refine wf_issue hw _ fun e t ht => ?_
  grind [Res.Wf, Env.wf_instr, State.modGrp_mem]

theorem wf_execMclose (f) : Kept (execMclose f s) := by
  refine wf_issue hw _ fun e t ht => Res.wf_ite ht (Res.wf_ite ht ?_)
  split
  · exact ht
  · exact ht

theorem wf_execMrep (f) : Kept (execMrep f s) := wf_issue hw _ fun _ _ ht => Res.wf_ite ht (Res.wf_ite ht (Res.wf_ite ht (Res.wf_ite (State.wf_modGrp ht _ _)
  (Env.wf_transfer ht _ _ (State.wf_modGrp ht _ _)))))

theorem wf_execEmov (f) : Kept (execEmov f s) := by
  refine wf_issue hw _ fun e t ht => ?_
  split <;> exact ht

theorem wf_execBallot (f) : Kept (execBallot f s) := by
  refine wf_issue hw _ fun e t ht => ?_
  split <;> exact ht

theorem wf_execVbc (f) : Kept (execVbc f s) := by
  refine wf_issue hw _ fun e t ht => ?_
  dsimp only
  split <;> exact ht

theorem wf_execVrdl (f) : Kept (execVrdl f s) := wf_issue hw _ fun _ _ ht => Res.wf_ite ht (Res.wf_ite ht (Env.wf_putsG ht _ _ _ _))

theorem wf_execVred (f) : Kept (execVred f s) := wf_issue hw _ fun _ _ ht => Res.wf_ite ht (Res.wf_ite (Env.wf_putsG ht _ _ _ _) (Env.wf_putsG ht _ _ _ _))

theorem wf_execVshfl (f) : Kept (execVshfl f s) := wf_issue hw _ fun _ _ ht => Res.wf_ite ht (Res.wf_ite ht ht)

theorem wf_execVadd (f) : Kept (execVadd f s) := by
  refine wf_issue hw _ fun e t ht => ?_
  grind [Res.Wf, Env.wf_vInt]

theorem wf_execVsub (f) : Kept (execVsub f s) := by
  refine wf_issue hw _ fun e t ht => ?_
  grind [Res.Wf, Env.wf_vInt]

theorem wf_execVmul (f) : Kept (execVmul f s) := by
  refine wf_issue hw _ fun e t ht => ?_
  grind [Res.Wf, Env.wf_vInt]

theorem wf_execVmulh (f) : Kept (execVmulh f s) := by
  refine wf_issue hw _ fun e t ht => ?_
  grind [Res.Wf, Env.wf_vInt]

theorem wf_execVmad (f) : Kept (execVmad f s) := by
  refine wf_issue hw _ fun e t ht => ?_
  dsimp only
  split <;> exact ht

theorem wf_execVand (f) : Kept (execVand f s) := by
  refine wf_issue hw _ fun e t ht => ?_
  grind [Res.Wf, Env.wf_vInt]

theorem wf_execVor (f) : Kept (execVor f s) := by
  refine wf_issue hw _ fun e t ht => ?_
  grind [Res.Wf, Env.wf_vInt]

theorem wf_execVxor (f) : Kept (execVxor f s) := by
  refine wf_issue hw _ fun e t ht => ?_
  grind [Res.Wf, Env.wf_vInt]

theorem wf_execVshl (f) : Kept (execVshl f s) := by
  refine wf_issue hw _ fun e t ht => ?_
  grind [Res.Wf, Env.wf_vShift]

theorem wf_execVshr (f) : Kept (execVshr f s) := by
  refine wf_issue hw _ fun e t ht => ?_
  grind [Res.Wf, Env.wf_vShift]

theorem wf_execVsar (f) : Kept (execVsar f s) := by
  refine wf_issue hw _ fun e t ht => ?_
  grind [Res.Wf, Env.wf_vShift]

theorem wf_execVmin (f) : Kept (execVmin f s) := by
  refine wf_issue hw _ fun e t ht => ?_
  grind [Res.Wf, Env.wf_vInt]

theorem wf_execVmax (f) : Kept (execVmax f s) := by
  refine wf_issue hw _ fun e t ht => ?_
  grind [Res.Wf, Env.wf_vInt]

theorem wf_execVabs (f) : Kept (execVabs f s) := by
  refine wf_issue hw _ fun e t ht => ?_
  dsimp only
  split <;> exact ht

theorem wf_execVbits (f) : Kept (execVbits f s) := wf_issue hw _ fun _ _ ht => Res.wf_ite ht ht

theorem wf_execVbfe (f) : Kept (execVbfe f s) := by
  refine wf_issue hw _ fun e t ht => ?_
  dsimp only
  split <;> exact ht

theorem wf_execVbfi (f) : Kept (execVbfi f s) := by
  refine wf_issue hw _ fun e t ht => ?_
  dsimp only
  split <;> exact ht

theorem wf_execVcmp (f) : Kept (execVcmp f s) := by
  refine wf_issue hw _ fun e t ht => ?_
  dsimp only
  split <;> exact ht

theorem wf_execVsel (f) : Kept (execVsel f s) := by
  refine wf_issue hw _ fun e t ht => ?_
  dsimp only
  split <;> exact ht

theorem wf_execVmov (f) : Kept (execVmov f s) := by
  refine wf_issue hw _ fun e t ht => ?_
  grind [Res.Wf, Env.wf_instr, State.modGrp_mem]

theorem wf_execVfadd (f) : Kept (execVfadd f s) := by
  refine wf_issue hw _ fun e t ht => ?_
  grind [Res.Wf, Env.wf_vFlt]

theorem wf_execVfsub (f) : Kept (execVfsub f s) := by
  refine wf_issue hw _ fun e t ht => ?_
  grind [Res.Wf, Env.wf_vFlt]

theorem wf_execVfmul (f) : Kept (execVfmul f s) := by
  refine wf_issue hw _ fun e t ht => ?_
  grind [Res.Wf, Env.wf_vFlt]

theorem wf_execVfma (f) : Kept (execVfma f s) := by
  refine wf_issue hw _ fun e t ht => ?_
  dsimp only
  split <;> exact ht

theorem wf_execVfmin (f) : Kept (execVfmin f s) := by
  refine wf_issue hw _ fun e t ht => ?_
  grind [Res.Wf, Env.wf_vFlt]

theorem wf_execVfmax (f) : Kept (execVfmax f s) := by
  refine wf_issue hw _ fun e t ht => ?_
  grind [Res.Wf, Env.wf_vFlt]

theorem wf_execVfcmp (f) : Kept (execVfcmp f s) := by
  refine wf_issue hw _ fun e t ht => ?_
  dsimp only
  split <;> exact ht

theorem wf_execVfrcp (f) : Kept (execVfrcp f s) := by
  refine wf_issue hw _ fun e t ht => ?_
  grind [Res.Wf, Env.wf_vFun]

theorem wf_execVfrsq (f) : Kept (execVfrsq f s) := by
  refine wf_issue hw _ fun e t ht => ?_
  grind [Res.Wf, Env.wf_vFun]

theorem wf_execVfsqrt (f) : Kept (execVfsqrt f s) := by
  refine wf_issue hw _ fun e t ht => ?_
  grind [Res.Wf, Env.wf_vFun]

theorem wf_execVfex2 (f) : Kept (execVfex2 f s) := by
  refine wf_issue hw _ fun e t ht => ?_
  grind [Res.Wf, Env.wf_vFun]

theorem wf_execVflg2 (f) : Kept (execVflg2 f s) := by
  refine wf_issue hw _ fun e t ht => ?_
  grind [Res.Wf, Env.wf_vFun]

theorem wf_execVfsin (f) : Kept (execVfsin f s) := by
  refine wf_issue hw _ fun e t ht => ?_
  grind [Res.Wf, Env.wf_vFun]

theorem wf_execVfcos (f) : Kept (execVfcos f s) := by
  refine wf_issue hw _ fun e t ht => ?_
  grind [Res.Wf, Env.wf_vFun]

theorem wf_execVfcls (f) : Kept (execVfcls f s) := by
  refine wf_issue hw _ fun e t ht => ?_
  grind [Res.Wf, Env.wf_vFun]

theorem wf_execVfscl (f) : Kept (execVfscl f s) := by
  refine wf_issue hw _ fun e t ht => ?_
  grind [Res.Wf, Env.wf_vFlt]

theorem wf_execVfdp4 (f) : Kept (execVfdp4 f s) := wf_issue hw _ fun _ _ ht => Res.wf_ite ht ht

theorem wf_execVcvt (f) : Kept (execVcvt f s) := wf_issue hw _ fun _ _ ht => Res.wf_ite ht (Res.wf_ite ht ht)

theorem wf_execVnarw (f) : Kept (execVnarw f s) := by
  refine wf_issue hw _ fun e t ht => Res.wf_ite ht ?_
  split
  · exact ht
  · exact ht

theorem wf_execVwide (f) : Kept (execVwide f s) := by
  refine wf_issue hw _ fun e t ht => Res.wf_ite ht ?_
  split
  · exact ht
  · exact ht

theorem wf_execVscl (f) : Kept (execVscl f s) := by
  refine wf_issue hw _ fun e t ht => ?_
  grind [Res.Wf, Env.wf_instr, Env.wf_putsG]

theorem wf_execVpack (f) : Kept (execVpack f s) := by
  refine wf_issue hw _ fun e t ht => ?_
  dsimp only
  split <;> exact ht

theorem wf_execVunpk (f) : Kept (execVunpk f s) := by
  refine wf_issue hw _ fun e t ht => ?_
  dsimp only
  split <;> exact ht

theorem wf_execMmas (f) : Kept (execMmas f s) := by
  refine wf_issue hw _ fun e t ht => Res.wf_ite ht ?_
  split
  · exact ht
  · exact Res.wf_ite ht ht

theorem wf_execXlut (f) : Kept (execXlut f s) := by
  refine wf_issue hw _ fun e t ht => Res.wf_ite ht ?_
  split
  · exact ht
  · exact State.wf_queueJob ht _ _ _ _ _ _

theorem wf_execXunp (f) : Kept (execXunp f s) := wf_issue hw _ fun _ _ ht => Res.wf_ite ht (Res.wf_ite ht (State.wf_queueJob ht _ _ _ _ _ _))

theorem wf_execMmlp (f) : Kept (execMmlp f s) := by
  refine wf_issue hw _ fun e t ht => Res.wf_ite ht (Res.wf_ite ht (Res.wf_ite ht ?_))
  split
  · refine Res.wf_ite ht (Res.wf_ite ht (Res.wf_ite ht (Res.wf_ite ht (Res.wf_ite ht ?_))))
    split
    · exact ht
    · split
      · exact ht
      · exact State.wf_startLoop ht e _ _ _ _ _
  · exact ht

theorem wf_execEptab (f) : Kept (execEptab f s) := by
  refine wf_issue hw _ fun e t ht => Res.wf_ite ht ?_
  split
  · exact ht
  · refine Res.wf_ite ht ?_
    split
    · refine Res.wf_ite ht (Res.wf_ite ht ?_)
      split
      · exact ht
      · rename_i h
        exact State.wf_submit (State.wf_modGrp (State.wf_loopElems (State.wf_drainMeet ht _ _ _) _ _ _ _ _ _ _ _ h) _ _) _ _
    · exact ht

theorem wf_execXtab (f) : Kept (execXtab f s) := by
  refine wf_issue hw _ fun e t ht => ?_
  dsimp only
  split
  · exact ht
  · exact Res.wf_ite ht (State.wf_submit ht _ _)

theorem wf_execXlz (f) : Kept (execXlz f s) := by
  refine wf_issue hw _ fun e t ht => ?_
  grind [Res.Wf, Env.wf_instr, State.wf_queueJob]

theorem wf_execLd (f) : Kept (execLd f s) := by
  refine wf_issue hw _ fun e t ht => ?_
  grind [Res.Wf, State.wf_laneLoad]

theorem wf_execSt (f) : Kept (execSt f s) := by
  refine wf_issue hw _ fun e t ht => ?_
  grind [Res.Wf, State.wf_laneStore]

theorem wf_execAtom (f) : Kept (execAtom f s) := by
  refine wf_issue hw _ fun e t ht => ?_
  grind [Res.Wf, Env.wf_instr, State.wf_laneAtomic]

theorem wf_execAcas (f) : Kept (execAcas f s) := wf_issue hw _ fun _ _ ht => Res.wf_ite ht (State.wf_laneAtomic ht _ _ _ _)

theorem wf_execGld (f) : Kept (execGld f s) := by
  refine wf_issue hw _ fun e t ht => ?_
  dsimp only
  split
  · exact ht
  · split
    · exact ht
    · exact (congrArg _ (State.track_mem _ _ _ _ _ _ _)).trans (State.wf_load (State.wf_tagLoad ht e _ _) _ _ _ _ _)

theorem wf_execGst (f) : Kept (execGst f s) := by
  refine wf_issue hw _ fun e t ht => ?_
  grind [Res.Wf, Env.wf_groupMem, State.track_mem, State.wf_releaseIf]

theorem wf_execGatom (f) : Kept (execGatom f s) := by
  refine wf_issue hw _ fun e t ht => ?_
  dsimp only
  split
  · exact ht
  · have h1 (w n new) := State.wf_atomic (State.wf_releaseIf ht e ‹MF›.ord) e w n new
    exact Res.wf_ite ht (State.wf_track (State.wf_ite (State.wf_modGrp (h1 _ _ _) _ _) (h1 _ _ _)) _ _ _ _ _ _)

theorem wf_execFence (f) : Kept (execFence f s) := by
  refine wf_issue hw _ fun e t ht => ?_
  grind [Res.Wf, State.track_mem, State.wf_drainStores]

theorem wf_execCclean (f) : Kept (execCclean f s) := by
  refine wf_issue hw _ fun e t ht => ?_
  grind [Res.Wf, State.wf_maintain]

theorem wf_execCinval (f) : Kept (execCinval f s) := by
  refine wf_issue hw _ fun e t ht => ?_
  grind [Res.Wf, State.wf_maintain]

theorem wf_execCflush (f) : Kept (execCflush f s) := by
  refine wf_issue hw _ fun e t ht => ?_
  grind [Res.Wf, State.wf_maintain]

theorem wf_execPtsync (f) : Kept (execPtsync f s) := wf_issue hw _ fun _ _ ht => Res.wf_ite ht (Res.wf_ite ht ht)

theorem wf_execPrf (f) : Kept (execPrf f s) := by
  refine wf_issue hw _ fun e t ht => ?_
  dsimp only
  split
  · exact ht
  · exact State.wf_foldl _ (fun _ p hu => State.wf_prefetch hu e.gr.core p.2) _ ht

theorem wf_execWopen (f) : Kept (execWopen f s) := by
  refine wf_issue hw _ fun e t ht => ?_
  refine Res.wf_ite ht (Res.wf_ite ht (Res.wf_ite ht (Res.wf_ite ht ?_)))
  have hold {u : State} (hu : Memory.wf u.mem = true) {c : Prop} [Decidable c] (f v) :
      Memory.wf ((if c then (u.modGrp e.who f).l1Invalidate e.gr.core e.tm.ctx v else u.modGrp e.who f).track e
        (.wopen ‹_›) [] [] none).mem = true :=
    State.wf_track (State.wf_ite ((congrArg _ (State.l1Invalidate_mem _ _ _ _)).trans (State.wf_modGrp hu _ _))
      (State.wf_modGrp hu _ _)) _ _ _ _ _ _
  dsimp only
  split
  · exact Res.wf_ite (hold ht _ _) ht
  · exact hold (State.wf_modTeam ht _ _) _ _

theorem wf_execWret (f) : Kept (execWret f s) := by
  refine wf_issue hw _ fun e t ht => ?_
  dsimp only
  split
  · exact ht
  · have h1 (vs v mine f) := State.wf_modGrp (State.wf_releaseViews ht vs v mine) e.who f
    exact Res.wf_ite ht (Res.wf_ite ht (State.wf_track (State.wf_ite
      (State.wf_modTeam (State.wf_releaseViews (h1 _ _ _ _) _ _ _) _ _) (h1 _ _ _ _)) _ _ _ _ _ _))

theorem wf_execWld (f) : Kept (execWld f s) := by
  refine wf_issue hw _ fun e t ht => ?_
  grind [Res.Wf, Env.wf_viewWord, State.wf_viewLoad]

theorem wf_execWst (f) : Kept (execWst f s) := by
  refine wf_issue hw _ fun e t ht => ?_
  grind [Res.Wf, Env.wf_viewWord, State.wf_viewStore]

theorem wf_execWadv (f) : Kept (execWadv f s) := by
  refine wf_issue hw _ fun e t ht => Res.wf_ite ht ?_
  split
  · exact ht
  · exact ht

theorem wf_execWget (f) : Kept (execWget f s) := by
  refine wf_issue hw _ fun e t ht => ?_
  grind [Res.Wf, Env.wf_instr, Env.wf_view, State.modGrp_mem]

theorem wf_execWchk (f) : Kept (execWchk f s) := by
  refine wf_issue hw _ fun e t ht => ?_
  split <;> exact ht

theorem wf_execCpa (f) : Kept (execCpa f s) := by
  refine wf_issue hw _ fun e t ht => Res.wf_ite ht ?_
  split
  · exact ht
  · exact State.wf_submit ht _ _

theorem wf_execCpg (f) : Kept (execCpg f s) := by
  refine wf_issue hw _ fun e t ht => ?_
  grind [Res.Wf, Env.wf_rows]

theorem wf_execCpx (f) : Kept (execCpx f s) := by
  refine wf_issue hw _ fun e t ht => ?_
  grind [Res.Wf, Env.wf_rows]

theorem wf_execCpw (f) : Kept (execCpw f s) := by
  refine wf_issue hw _ fun e t ht => ?_
  dsimp only
  split
  · refine Res.wf_ite ht (Res.wf_ite ht (Res.wf_ite ht (Res.wf_ite ht ?_)))
    split
    · exact ht
    · exact State.wf_submit ht _ _
  · exact ht

theorem wf_execCpm (f) : Kept (execCpm f s) := by
  refine wf_issue hw _ fun e t ht => Res.wf_ite ht ?_
  split
  · exact ht
  · split
    · exact ht
    · refine Res.wf_ite ht ?_
      split
      · exact ht
      · refine Res.wf_ite (State.wf_enqueueNone ht e _) ?_
        have h := State.wf_submit ht e
        split
        · rename_i hc
          exact (congrArg _ (State.sendLines_mem _ _)).trans (show Res.Wf (.done _) from hc ▸ h _)
        · exact h _

theorem wf_execBini (f) : Kept (execBini f s) := wf_issue hw _ fun _ _ ht => Env.wf_atBar ht _ _ fun _ => Res.wf_ite ht (State.wf_modTeam ht _ _)

theorem wf_execBarr (f) : Kept (execBarr f s) := by
  refine wf_issue hw _ fun e t ht => ?_
  grind [Res.Wf, Env.wf_atBar, Env.wf_view, State.wf_arriveNow]

theorem wf_execBwait (f) : Kept (execBwait f s) := by
  refine wf_issue hw _ fun e t ht => ?_
  grind [Res.Wf, Env.wf_atBar, Env.wf_view, State.wf_waitBar]

theorem wf_execBsync (f) : Kept (execBsync f s) := by
  refine wf_issue hw _ fun e t ht => ?_
  grind [Res.Wf, Env.wf_atBar, State.wf_waitBar, Env.wf_view, State.wf_arriveNow]

theorem wf_execBtest (f) : Kept (execBtest f s) := wf_issue hw _ fun _ _ ht => Env.wf_atBar ht _ _ fun _ => State.wf_modGrp ht _ _

theorem wf_execCrv (f) : Kept (execCrv f s) := by
  refine wf_issue hw _ fun e t ht => ?_
  dsimp only
  split <;> exact ht

theorem wf_execGrant (f) : Kept (execGrant f s) := wf_issue hw _ fun _ _ ht => Res.wf_ite ht (Res.wf_ite ht (Res.wf_ite ht
  (Res.wf_ite ht (State.wf_track (State.wf_modGrp (State.wf_modTeam
    (State.wf_drainScr ht _ _ _ _) _ _) _ _) _ _ _ _ _ _))))

theorem wf_execRevk (f) : Kept (execRevk f s) := by
  refine wf_issue hw _ fun e t ht => ?_
  grind [Res.Wf, State.track_mem, State.modTeam_mem]

theorem wf_execTrret (f) : Kept (execTrret f s) := by
  refine wf_issue hw _ fun e t ht => ?_
  split
  · exact Res.wf_ite (State.wf_doubleFault ht _ _ _) (Res.wf_ite (State.wf_doubleFault ht _ _ _)
      (Res.wf_ite (State.wf_doubleFault ht _ _ _) (Res.wf_ite (State.wf_doubleFault ht _ _ _) (State.wf_modGrp ht _ _))))
  · exact ht

theorem wf_execSrd (f) : Kept (execSrd f s) := by
  refine wf_issue hw _ fun e t ht => ?_
  have h1 := State.wf_complete ht e.gr.core e.gr.slice e.who
  refine Res.wf_ite ht (Res.wf_ite (Res.wf_ite h1 ?_) (State.wf_modGrp ht _ _))
  split
  · exact h1
  · exact State.wf_modGrp h1 _ _

theorem wf_execSwr (f) : Kept (execSwr f s) := by
  refine wf_issue hw _ fun e t ht => ?_
  dsimp only
  split <;> exact ht

theorem wf_execPgtk (f) : Kept (execPgtk f s) := by
  refine wf_issue hw _ fun e t ht => ?_
  refine Res.wf_ite ht (Res.wf_ite (State.wf_posted ht _) ?_)
  split
  · exact State.wf_posted (State.wf_post (State.wf_modGrp ht _ _) _) _
  · have hframe {u : State} (hu : Memory.wf u.mem = true) (m a n f) :
        Memory.wf (({ u with pool := m }.zeroFrame a n).modGrp e.who f).mem = true :=
      State.wf_modGrp (State.wf_zeroFrame { u with pool := m } _ _ hu) _ _
    exact State.wf_track (hframe ht _ _ _ _) _ _ _ _ _ _

theorem wf_execPgmap (f) : Kept (execPgmap f s) := by
  refine wf_issue hw _ fun e t ht => ?_
  refine Res.wf_ite ht ?_
  split
  · exact ht
  · exact Res.wf_ite ht (Res.wf_ite ht (Res.wf_ite ht (Res.wf_ite (State.wf_track (State.wf_modGrp ht _ _) _ _ _ _ _ _)
      (State.wf_track (State.wf_modGrp ((congrArg _ (State.goStale_mem _ _ _ _)).trans
        (t.wf_wrEntry _ _ ht)) _ _) _ _ _ _ _ _))))

theorem wf_execMark (f) : Kept (execMark f s) := by
  refine wf_issue hw _ fun e t ht => ?_
  grind [Res.Wf, State.wf_emit]

theorem wf_execSig (f) : Kept (execSig f s) := by
  refine wf_issue hw _ fun e t ht => ?_
  grind [Res.Wf, State.wf_posted, State.wf_post, State.wf_drainStores]

theorem wf_execVaddImm (f) : Kept (execVaddImm f s) := by
  refine wf_issue hw _ fun e t ht => ?_
  grind [Res.Wf, Env.wf_viInt]

theorem wf_execVsubImm (f) : Kept (execVsubImm f s) := by
  refine wf_issue hw _ fun e t ht => ?_
  grind [Res.Wf, Env.wf_viInt]

theorem wf_execVmulImm (f) : Kept (execVmulImm f s) := by
  refine wf_issue hw _ fun e t ht => ?_
  grind [Res.Wf, Env.wf_viInt]

theorem wf_execVmulhImm (f) : Kept (execVmulhImm f s) := by
  refine wf_issue hw _ fun e t ht => ?_
  grind [Res.Wf, Env.wf_viInt]

theorem wf_execVandImm (f) : Kept (execVandImm f s) := by
  refine wf_issue hw _ fun e t ht => ?_
  grind [Res.Wf, Env.wf_viInt]

theorem wf_execVorImm (f) : Kept (execVorImm f s) := by
  refine wf_issue hw _ fun e t ht => ?_
  grind [Res.Wf, Env.wf_viInt]

theorem wf_execVxorImm (f) : Kept (execVxorImm f s) := by
  refine wf_issue hw _ fun e t ht => ?_
  grind [Res.Wf, Env.wf_viInt]

theorem wf_execVshlImm (f) : Kept (execVshlImm f s) := by
  refine wf_issue hw _ fun e t ht => ?_
  grind [Res.Wf, Env.wf_viShift]

theorem wf_execVshrImm (f) : Kept (execVshrImm f s) := by
  refine wf_issue hw _ fun e t ht => ?_
  grind [Res.Wf, Env.wf_viShift]

theorem wf_execVsarImm (f) : Kept (execVsarImm f s) := by
  refine wf_issue hw _ fun e t ht => ?_
  grind [Res.Wf, Env.wf_viShift]

theorem wf_execVminImm (f) : Kept (execVminImm f s) := by
  refine wf_issue hw _ fun e t ht => ?_
  grind [Res.Wf, Env.wf_viInt]

theorem wf_execVmaxImm (f) : Kept (execVmaxImm f s) := by
  refine wf_issue hw _ fun e t ht => ?_
  grind [Res.Wf, Env.wf_viInt]

theorem wf_execVcmpImm (f) : Kept (execVcmpImm f s) := by
  refine wf_issue hw _ fun e t ht => ?_
  dsimp only
  split <;> exact ht

theorem wf_execVmovImm (f) : Kept (execVmovImm f s) := by
  refine wf_issue hw _ fun e t ht => ?_
  dsimp only
  split <;> exact ht

theorem wf_execVfaddImm (f) : Kept (execVfaddImm f s) := by
  refine wf_issue hw _ fun e t ht => ?_
  grind [Res.Wf, Env.wf_viFlt]

theorem wf_execVfsubImm (f) : Kept (execVfsubImm f s) := by
  refine wf_issue hw _ fun e t ht => ?_
  grind [Res.Wf, Env.wf_viFlt]

theorem wf_execVfmulImm (f) : Kept (execVfmulImm f s) := by
  refine wf_issue hw _ fun e t ht => ?_
  grind [Res.Wf, Env.wf_viFlt]

theorem wf_execVfminImm (f) : Kept (execVfminImm f s) := by
  refine wf_issue hw _ fun e t ht => ?_
  grind [Res.Wf, Env.wf_viFlt]

theorem wf_execVfmaxImm (f) : Kept (execVfmaxImm f s) := by
  refine wf_issue hw _ fun e t ht => ?_
  grind [Res.Wf, Env.wf_viFlt]

theorem wf_execVfcmpImm (f) : Kept (execVfcmpImm f s) := by
  refine wf_issue hw _ fun e t ht => ?_
  dsimp only
  split <;> exact ht

theorem wf_execVaddMelded (f) : Kept (execVaddMelded f s) := by
  refine wf_issue hw _ fun e t ht => ?_
  grind [Res.Wf, Env.wf_vmInt]

theorem wf_execVsubMelded (f) : Kept (execVsubMelded f s) := by
  refine wf_issue hw _ fun e t ht => ?_
  grind [Res.Wf, Env.wf_vmInt]

theorem wf_execVmulMelded (f) : Kept (execVmulMelded f s) := by
  refine wf_issue hw _ fun e t ht => ?_
  grind [Res.Wf, Env.wf_vmInt]

theorem wf_execVmadMelded (f) : Kept (execVmadMelded f s) := by
  refine wf_issue hw _ fun e t ht => ?_
  grind [Res.Wf, Env.wf_vmInt]

theorem wf_execVandMelded (f) : Kept (execVandMelded f s) := by
  refine wf_issue hw _ fun e t ht => ?_
  grind [Res.Wf, Env.wf_vmInt]

theorem wf_execVorMelded (f) : Kept (execVorMelded f s) := by
  refine wf_issue hw _ fun e t ht => ?_
  grind [Res.Wf, Env.wf_vmInt]

theorem wf_execVxorMelded (f) : Kept (execVxorMelded f s) := by
  refine wf_issue hw _ fun e t ht => ?_
  grind [Res.Wf, Env.wf_vmInt]

theorem wf_execVshlMelded (f) : Kept (execVshlMelded f s) := by
  refine wf_issue hw _ fun e t ht => ?_
  grind [Res.Wf, Env.wf_vmShift]

theorem wf_execVshrMelded (f) : Kept (execVshrMelded f s) := by
  refine wf_issue hw _ fun e t ht => ?_
  grind [Res.Wf, Env.wf_vmShift]

theorem wf_execVsarMelded (f) : Kept (execVsarMelded f s) := by
  refine wf_issue hw _ fun e t ht => ?_
  grind [Res.Wf, Env.wf_vmShift]

theorem wf_execVminMelded (f) : Kept (execVminMelded f s) := by
  refine wf_issue hw _ fun e t ht => ?_
  grind [Res.Wf, Env.wf_vmInt]

theorem wf_execVmaxMelded (f) : Kept (execVmaxMelded f s) := by
  refine wf_issue hw _ fun e t ht => ?_
  grind [Res.Wf, Env.wf_vmInt]

theorem wf_execVcmpMelded (f) : Kept (execVcmpMelded f s) := by
  refine wf_issue hw _ fun e t ht => ?_
  split
  · exact ht
  · refine State.wf_foldl _ (fun u x hu => ?_) _ ht
    exact hu

theorem wf_execVmovMelded (f) : Kept (execVmovMelded f s) := by
  refine wf_issue hw _ fun e t ht => ?_
  split
  · exact ht
  · refine State.wf_foldl _ (fun u x hu => ?_) _ ht
    exact hu

theorem wf_execVfaddMelded (f) : Kept (execVfaddMelded f s) := by
  refine wf_issue hw _ fun e t ht => ?_
  grind [Res.Wf, Env.wf_vmFlt]

theorem wf_execVfsubMelded (f) : Kept (execVfsubMelded f s) := by
  refine wf_issue hw _ fun e t ht => ?_
  grind [Res.Wf, Env.wf_vmFlt]

theorem wf_execVfmulMelded (f) : Kept (execVfmulMelded f s) := by
  refine wf_issue hw _ fun e t ht => ?_
  grind [Res.Wf, Env.wf_vmFlt]

theorem wf_execVfmaMelded (f) : Kept (execVfmaMelded f s) := by
  refine wf_issue hw _ fun e t ht => ?_
  grind [Res.Wf, Env.wf_vmFlt]

theorem wf_execVfminMelded (f) : Kept (execVfminMelded f s) := by
  refine wf_issue hw _ fun e t ht => ?_
  grind [Res.Wf, Env.wf_vmFlt]

theorem wf_execVfmaxMelded (f) : Kept (execVfmaxMelded f s) := by
  refine wf_issue hw _ fun e t ht => ?_
  grind [Res.Wf, Env.wf_vmFlt]

theorem wf_execVfcmpMelded (f) : Kept (execVfcmpMelded f s) := by
  refine wf_issue hw _ fun e t ht => ?_
  split
  · exact ht
  · refine State.wf_foldl _ (fun u x hu => ?_) _ ht
    exact hu

theorem wf_execLdMelded (f) : Kept (execLdMelded f s) := wf_issue hw _ fun _ _ ht => Res.wf_ite ht (Res.wf_ite ht (Env.wf_endAccess
  (State.wf_track (State.wf_loadLanes (State.wf_tagLoad ht _ _ _) _ _ _ _ _) _ _ _ _ _ _) _))

theorem wf_execStMelded (f) : Kept (execStMelded f s) := wf_issue hw _ fun _ _ ht => Res.wf_ite ht (Res.wf_ite ht (Env.wf_endAccess (State.wf_track ht _ _ _ _ _ _) _))

theorem wf_execWldMelded (f) : Kept (execWldMelded f s) := by
  refine wf_issue hw _ fun e t ht => ?_
  grind [Res.Wf, Env.wf_viewMelded, State.wf_viewLoad]

theorem wf_execWstMelded (f) : Kept (execWstMelded f s) := by
  refine wf_issue hw _ fun e t ht => ?_
  grind [Res.Wf, Env.wf_viewMelded, State.wf_viewStore]

/-- A word that a slice issues. -/
theorem wf_runWord (i : Instr) : Kept (runWord i s) := by
  induction i with
  | bra f => exact wf_execBra hw f
  | brg f => exact wf_execBrg hw f
  | bri f => exact wf_execBri hw f
  | call f => exact wf_execCall hw f
  | calli f => exact wf_execCalli hw f
  | ret f => exact wf_execRet hw f
  | yield f => exact wf_execYield hw f
  | nop f => exact wf_execNop hw f
  | idle f => exact wf_execIdle hw f
  | lnch f => exact wf_execLnch hw f
  | brv f => exact wf_execBrv hw f
  | briv f => exact wf_execBriv hw f
  | exit f => exact wf_execExit hw f
  | join f => exact wf_execJoin hw f
  | mopen f => exact wf_execMopen hw f
  | mclose f => exact wf_execMclose hw f
  | mrep f => exact wf_execMrep hw f
  | gadd f => exact wf_execGadd hw f
  | gsub f => exact wf_execGsub hw f
  | gmul f => exact wf_execGmul hw f
  | gmulh f => exact wf_execGmulh hw f
  | gmad f => exact wf_execGmad hw f
  | gdiv f => exact wf_execGdiv hw f
  | grem f => exact wf_execGrem hw f
  | gand f => exact wf_execGand hw f
  | gor f => exact wf_execGor hw f
  | gxor f => exact wf_execGxor hw f
  | gshl f => exact wf_execGshl hw f
  | gshr f => exact wf_execGshr hw f
  | gsar f => exact wf_execGsar hw f
  | gmin f => exact wf_execGmin hw f
  | gmax f => exact wf_execGmax hw f
  | gmov f => exact wf_execGmov hw f
  | gmovh f => exact wf_execGmovh hw f
  | gcmp f => exact wf_execGcmp hw f
  | gsel f => exact wf_execGsel hw f
  | gbits f => exact wf_execGbits hw f
  | gplog f => exact wf_execGplog hw f
  | emov f => exact wf_execEmov hw f
  | plog f => exact wf_execPlog hw f
  | ballot f => exact wf_execBallot hw f
  | vbc f => exact wf_execVbc hw f
  | vrdl f => exact wf_execVrdl hw f
  | vred f => exact wf_execVred hw f
  | vshfl f => exact wf_execVshfl hw f
  | vadd f => exact wf_execVadd hw f
  | vsub f => exact wf_execVsub hw f
  | vmul f => exact wf_execVmul hw f
  | vmulh f => exact wf_execVmulh hw f
  | vmad f => exact wf_execVmad hw f
  | vand f => exact wf_execVand hw f
  | vor f => exact wf_execVor hw f
  | vxor f => exact wf_execVxor hw f
  | vshl f => exact wf_execVshl hw f
  | vshr f => exact wf_execVshr hw f
  | vsar f => exact wf_execVsar hw f
  | vmin f => exact wf_execVmin hw f
  | vmax f => exact wf_execVmax hw f
  | vabs f => exact wf_execVabs hw f
  | vbits f => exact wf_execVbits hw f
  | vbfe f => exact wf_execVbfe hw f
  | vbfi f => exact wf_execVbfi hw f
  | vcmp f => exact wf_execVcmp hw f
  | vsel f => exact wf_execVsel hw f
  | vmov f => exact wf_execVmov hw f
  | vfadd f => exact wf_execVfadd hw f
  | vfsub f => exact wf_execVfsub hw f
  | vfmul f => exact wf_execVfmul hw f
  | vfma f => exact wf_execVfma hw f
  | vfmin f => exact wf_execVfmin hw f
  | vfmax f => exact wf_execVfmax hw f
  | vfcmp f => exact wf_execVfcmp hw f
  | vfrcp f => exact wf_execVfrcp hw f
  | vfrsq f => exact wf_execVfrsq hw f
  | vfsqrt f => exact wf_execVfsqrt hw f
  | vfex2 f => exact wf_execVfex2 hw f
  | vflg2 f => exact wf_execVflg2 hw f
  | vfsin f => exact wf_execVfsin hw f
  | vfcos f => exact wf_execVfcos hw f
  | vfcls f => exact wf_execVfcls hw f
  | vfscl f => exact wf_execVfscl hw f
  | vfdp4 f => exact wf_execVfdp4 hw f
  | vcvt f => exact wf_execVcvt hw f
  | vnarw f => exact wf_execVnarw hw f
  | vwide f => exact wf_execVwide hw f
  | vscl f => exact wf_execVscl hw f
  | vpack f => exact wf_execVpack hw f
  | vunpk f => exact wf_execVunpk hw f
  | mmas f => exact wf_execMmas hw f
  | xlut f => exact wf_execXlut hw f
  | xunp f => exact wf_execXunp hw f
  | mmlp f => exact wf_execMmlp hw f
  | eptab f => exact wf_execEptab hw f
  | xtab f => exact wf_execXtab hw f
  | xlz f => exact wf_execXlz hw f
  | ld f => exact wf_execLd hw f
  | st f => exact wf_execSt hw f
  | atom f => exact wf_execAtom hw f
  | acas f => exact wf_execAcas hw f
  | gld f => exact wf_execGld hw f
  | gst f => exact wf_execGst hw f
  | gatom f => exact wf_execGatom hw f
  | fence f => exact wf_execFence hw f
  | cclean f => exact wf_execCclean hw f
  | cinval f => exact wf_execCinval hw f
  | cflush f => exact wf_execCflush hw f
  | ptsync f => exact wf_execPtsync hw f
  | prf f => exact wf_execPrf hw f
  | wopen f => exact wf_execWopen hw f
  | wret f => exact wf_execWret hw f
  | wld f => exact wf_execWld hw f
  | wst f => exact wf_execWst hw f
  | wadv f => exact wf_execWadv hw f
  | wget f => exact wf_execWget hw f
  | wchk f => exact wf_execWchk hw f
  | cpa f => exact wf_execCpa hw f
  | cpg f => exact wf_execCpg hw f
  | cpx f => exact wf_execCpx hw f
  | cpw f => exact wf_execCpw hw f
  | cpm f => exact wf_execCpm hw f
  | bini f => exact wf_execBini hw f
  | barr f => exact wf_execBarr hw f
  | bwait f => exact wf_execBwait hw f
  | bsync f => exact wf_execBsync hw f
  | btest f => exact wf_execBtest hw f
  | crv f => exact wf_execCrv hw f
  | grant f => exact wf_execGrant hw f
  | revk f => exact wf_execRevk hw f
  | trap f => exact wf_execTrap hw f
  | trret f => exact wf_execTrret hw f
  | tfence f => exact wf_execTfence hw f
  | brk f => exact wf_execBrk hw f
  | srd f => exact wf_execSrd hw f
  | swr f => exact wf_execSwr hw f
  | pgtk f => exact wf_execPgtk hw f
  | pgmap f => exact wf_execPgmap hw f
  | mark f => exact wf_execMark hw f
  | sig f => exact wf_execSig hw f
  | vaddImm f => exact wf_execVaddImm hw f
  | vsubImm f => exact wf_execVsubImm hw f
  | vmulImm f => exact wf_execVmulImm hw f
  | vmulhImm f => exact wf_execVmulhImm hw f
  | vandImm f => exact wf_execVandImm hw f
  | vorImm f => exact wf_execVorImm hw f
  | vxorImm f => exact wf_execVxorImm hw f
  | vshlImm f => exact wf_execVshlImm hw f
  | vshrImm f => exact wf_execVshrImm hw f
  | vsarImm f => exact wf_execVsarImm hw f
  | vminImm f => exact wf_execVminImm hw f
  | vmaxImm f => exact wf_execVmaxImm hw f
  | vcmpImm f => exact wf_execVcmpImm hw f
  | vmovImm f => exact wf_execVmovImm hw f
  | vfaddImm f => exact wf_execVfaddImm hw f
  | vfsubImm f => exact wf_execVfsubImm hw f
  | vfmulImm f => exact wf_execVfmulImm hw f
  | vfminImm f => exact wf_execVfminImm hw f
  | vfmaxImm f => exact wf_execVfmaxImm hw f
  | vfcmpImm f => exact wf_execVfcmpImm hw f
  | vaddMelded f => exact wf_execVaddMelded hw f
  | vsubMelded f => exact wf_execVsubMelded hw f
  | vmulMelded f => exact wf_execVmulMelded hw f
  | vmadMelded f => exact wf_execVmadMelded hw f
  | vandMelded f => exact wf_execVandMelded hw f
  | vorMelded f => exact wf_execVorMelded hw f
  | vxorMelded f => exact wf_execVxorMelded hw f
  | vshlMelded f => exact wf_execVshlMelded hw f
  | vshrMelded f => exact wf_execVshrMelded hw f
  | vsarMelded f => exact wf_execVsarMelded hw f
  | vminMelded f => exact wf_execVminMelded hw f
  | vmaxMelded f => exact wf_execVmaxMelded hw f
  | vcmpMelded f => exact wf_execVcmpMelded hw f
  | vmovMelded f => exact wf_execVmovMelded hw f
  | vfaddMelded f => exact wf_execVfaddMelded hw f
  | vfsubMelded f => exact wf_execVfsubMelded hw f
  | vfmulMelded f => exact wf_execVfmulMelded hw f
  | vfmaMelded f => exact wf_execVfmaMelded hw f
  | vfminMelded f => exact wf_execVfminMelded hw f
  | vfmaxMelded f => exact wf_execVfmaxMelded hw f
  | vfcmpMelded f => exact wf_execVfcmpMelded hw f
  | ldMelded f => exact wf_execLdMelded hw f
  | stMelded f => exact wf_execStMelded hw f
  | wldMelded f => exact wf_execWldMelded hw f
  | wstMelded f => exact wf_execWstMelded hw f
  | _ => exact kept_next hw

end

end Sys2Proof.Machine
end

section
/-! The operations of the events keep the memory's canonical form (log 1). -/

namespace Sys2Proof.Machine

/-- Memory is in its canonical form in the state that the cells of an epilogue leave. -/
def CellsWf : Except (Miss × State) State → Prop
  | .ok u | .error (_, u) => Memory.wf u.mem = true

section
variable {s : State} (hw : Memory.wf s.mem = true)
include hw

theorem wf_execClauseStart : Kept (execClauseStart s) := by
  unfold execClauseStart
  split
  · exact fun _ h => nomatch h
  · exact kept_next ((congrArg _ (State.tick_mem _)).trans (State.wf_startClause hw _))

theorem wf_execDeferredFaultTaken (who) : Kept (execDeferredFaultTaken who s) := kept_next ((congrArg _ (State.tick_mem _)).trans (State.wf_takeDeferred hw who))

theorem wf_execPendingTrapEntry (who) : Kept (execPendingTrapEntry who s) := kept_next ((congrArg _ (State.tick_mem _)).trans (State.wf_enterPending hw who))

theorem wf_issueBad (t) : Kept (State.issueBad t s) := wf_issue hw _ fun _ _ ht => ht

theorem wf_issueMeldOp : Kept s.issueMeldOp := by
  have h (e : Env) (i j : Instr) : Memory.wf (s.attemptThen e i (fun s => s.fencedThen e j (fun e s =>
      s.carryOut e i (fun e s => .trap (e.trapOf (.instr .meldOp)) s)))).mem = true :=
    State.wf_attemptThen hw e i fun _ ht => State.wf_fencedThen ht e j fun e _ hu => State.wf_carryOut hu e i fun _ _ hv => hv
  unfold State.issueMeldOp
  split
  · intro t ht
    cases ht
  · exact kept_next (h _ _ _)

omit hw in
theorem Kept.ite {c : Prop} [Decidable c] {a b : Host.Outcome State Fault Refusal} (ha : Kept a) (hb : Kept b) :
    Kept (if c then a else b) := by
  split
  · exact ha
  · exact hb

omit hw in
theorem kept_fault (r : Fault) : Kept (.fault r) := fun _ h => nomatch h

omit hw in
theorem kept_refused (r : Refusal) : Kept (.refused r) := fun _ h => nomatch h

section
variable {ex : Instr → State → Host.Outcome State Fault Refusal}
  (hex : ∀ i s, Memory.wf s.mem = true → Kept (ex i s))
include hex

theorem wf_runWordOf (w) : Kept (s.runWordOf ex w) := by
  unfold State.runWordOf
  split
  · exact kept_next hw
  · split
    · exact wf_issueBad hw _
    · exact wf_issueMeldOp hw
    · exact wf_issueBad hw _
    · exact hex _ _ hw

theorem wf_runFragOf (w) : Kept (s.runFragOf ex w) := by
  have h1 := wf_execClauseStart (s := { s with cur := some w }) hw
  unfold State.runFragOf
  dsimp only
  split
  · exact kept_next ((congrArg _ s.tick_mem).trans hw)
  · refine Kept.ite ?_ (Kept.ite (wf_execDeferredFaultTaken (s := { s with cur := some w }) hw w)
      (wf_runWordOf (s := { s with cur := some w }) hw hex w))
    split
    · rename_i ht
      have h := h1 _ ht
      exact Kept.ite (wf_runWordOf h hex w) (kept_next h)
    · exact h1

theorem wf_issueFirstOf (core slice ws) : Kept (State.issueFirstOf ex core slice ws s) := by
  induction ws with
  | nil => exact kept_next ((congrArg _ s.tick_mem).trans hw)
  | cons w ws ih =>
    have h := wf_runFragOf hw hex w
    unfold State.issueFirstOf
    split
    · rename_i ht
      exact Kept.ite ih (kept_next ((congrArg _ (State.unsquash_mem _ _ _ _ _)).trans (h _ ht)))
    · exact kept_fault _
    · exact kept_refused _

theorem wf_sliceCycleOf (core slice) : Kept (State.sliceCycleOf ex s core slice) := by
  have hc : Memory.wf (s.cycle core slice).mem = true := (congrArg _ (s.cycle_mem core slice)).trans hw
  refine Kept.ite (kept_next ((congrArg _ ((State.tick_mem _).trans (s.passCycle_mem core slice))).trans hw)) ?_
  split
  · exact wf_execPendingTrapEntry hc _
  · exact wf_issueFirstOf hc hex core slice _

end

theorem State.wf_issueRun (core slice ws) : Memory.wf (State.issueRun core slice ws s).2.mem = true := by
  induction ws generalizing s with
  | nil => exact hw
  | cons w ws ih =>
    have hcycle := wf_sliceCycleOf hw (fun i s hs => wf_runWord hs i) core slice
    unfold State.issueRun
    split
    · rename_i ht
      exact wf_snd_ite (ih (hcycle _ ht)) hw
    · exact hw

theorem State.wf_endTeam (tid) : Memory.wf (s.endTeam tid).mem = true := by
  unfold State.endTeam
  split
  · exact hw
  · refine State.wf_ite hw ?_
    rw [State.vacated_mem]
    exact State.wf_completeTeam hw _ _

theorem State.wf_releaseBefore (core id o) : Memory.wf (s.releaseBefore core id o).mem = true := State.wf_releaseWhere hw _ _

theorem State.wf_applyOp (core id) : Memory.wf (s.applyOp core id).mem = true := by
  unfold State.applyOp
  split
  · exact hw
  · exact State.wf_ite (State.wf_modCore (State.wf_settleBytes (State.wf_releaseBefore hw _ _ _) _ _) _ _) hw

theorem State.wf_releasePart (core id) : Memory.wf (s.releasePart core id).mem = true := by
  unfold State.releasePart
  split
  · exact hw
  · exact State.wf_ite (State.wf_release hw _ _) (State.wf_modCore (State.wf_perform _ _ _ _
      (State.wf_settleBytes (State.wf_releaseBefore hw _ _ _) _ _)) _ _)

theorem State.wf_leaveGate (core id) : Memory.wf (s.leaveGate core id).mem = true := State.wf_ite (State.wf_release hw _ _) (State.wf_ite (State.wf_applyOp hw _ _) (State.wf_releasePart hw _ _))

theorem State.wf_squash (core x) : Memory.wf (s.squash core x).mem = true := State.wf_ite hw (State.wf_emit hw _ _ _)

theorem State.wf_squashAll (old t core slice n xs) : Memory.wf (s.squashAll old t core slice n xs).mem = true := by
  have h1 : Memory.wf (xs.foldl (fun s x => s.squash core x) s).mem = true :=
    State.wf_foldl _ (fun _ x hu => State.wf_squash hu core x) xs hw
  refine State.wf_foldl _ (fun u w hu => ?_) _ (State.wf_foldl _ (fun u w hu => ?_) _ ?_)
  · exact (congrArg _ (u.replays_mem _ _ _)).trans hu
  · exact (congrArg _ (u.replayFrom_mem _ _ _)).trans hu
  · exact h1

theorem State.wf_quarOut (core) : Memory.wf (s.quarOut core).mem = true := State.wf_ite (State.wf_post (State.wf_modCore (State.wf_forceOut hw) _ _) _) (State.wf_forceOut hw)

theorem State.wf_dropTeam (tid) : Memory.wf (s.dropTeam tid).mem = true := by
  unfold State.dropTeam
  split
  · exact hw
  · rw [State.vacated_mem]
    refine State.wf_foldl _ (fun u c hu => ?_) _ (State.wf_completeTeam hw tid _)
    refine State.wf_foldl _ (fun v m hv => ?_) _ hu
    split
    · exact State.wf_runCmd hv c m.1 m.2
    · exact hv

theorem State.wf_failLaunch (lid reason) : Memory.wf (s.failLaunch lid reason).mem = true := by
  unfold State.failLaunch
  split
  · exact hw
  · rw [State.failQueue_mem]
    exact State.wf_foldl _ (fun _ t hu => State.wf_dropTeam hu t) _ hw

theorem State.wf_quarantine (core slice va) : Memory.wf (s.quarantine core slice va).mem = true := by
  refine State.wf_foldl _ (fun u l hu => State.wf_failLaunch (s := u.tick) hu l.1 4) _ (State.wf_post ?_ _)
  refine State.wf_quarOut ?_ core
  exact hw

omit hw in
/-- What a timing event can hit leaves memory as it is. -/
theorem hits_mem (core slice : Nat) (w : Sel) : ∀ h ∈ s.hits core slice w, h.s.mem = s.mem := by
  have hjob (mine) : ∀ h ∈ s.jobHits core slice mine, h.s.mem = s.mem := by
    unfold State.jobHits
    split
    · exact List.forall_mem_nil _
    · split
      · exact List.forall_mem_map.mpr fun _ _ => rfl
      · exact List.forall_mem_nil _
  have hsave : ∀ h ∈ s.saveHit w, h.s.mem = s.mem := by
    unfold State.saveHit
    split
    · exact List.forall_mem_nil _
    · split
      · exact List.forall_mem_singleton.mpr rfl
      · exact List.forall_mem_nil _
  have hmap {α : Type} (xs : List α) (f : α → Hit) (hf : ∀ x, (f x).s.mem = s.mem) : ∀ h ∈ xs.map f, h.s.mem = s.mem :=
    List.forall_mem_map.mpr fun x _ => hf x
  unfold State.hits
  dsimp only
  split
  · split
    · exact List.forall_mem_append.mpr ⟨List.forall_mem_append.mpr ⟨List.forall_mem_append.mpr ⟨List.forall_mem_append.mpr
        ⟨List.forall_mem_append.mpr ⟨hmap _ _ fun _ => rfl, hmap _ _ fun _ => rfl⟩, hjob _⟩, hmap _ _ fun _ => rfl⟩,
        hmap _ _ fun _ => rfl⟩, hsave⟩
    · exact List.forall_mem_nil _
  · exact List.forall_mem_nil _

omit hw in
theorem hit_mem {core slice : Nat} {w : Sel} {h : Hit} (hh : s.hit core slice w = some h) : h.s.mem = s.mem := by
  refine hits_mem core slice w h ?_
  unfold State.hit at hh
  split at hh
  · cases hh
  · rename_i hs
    cases hh
    exact hs ▸ List.mem_singleton_self _
  · exact List.mem_of_getElem? hh

theorem State.wf_timing (core slice victim behind) : Memory.wf (s.timing core slice victim behind).mem = true := by
  unfold State.timing
  split
  · exact hw
  · rename_i h heq
    have hs : Memory.wf h.s.mem = true := (congrArg _ (hit_mem heq)).trans hw
    have h3 (x k f g) := State.wf_modCore (State.wf_modGrp (State.wf_squashAll hs s x core slice k
      (State.issueRun core slice (if h.alone then [] else if h.squash then victim :: behind else behind) s).1) victim f)
      core g
    have h5 {u : State} (hu : Memory.wf u.mem = true) {c : Prop} [Decidable c] (srcs r) :
        Memory.wf (if c then (u.emit core srcs r).escalate core slice h.va else u.emit core srcs r).mem = true :=
      State.wf_ite (State.wf_escalate (State.wf_emit hu _ _ _) _ _ _) (State.wf_emit hu _ _ _)
    refine State.wf_ite (h5 (h3 _ _ _ _) _ _) ?_
    rw [State.headgateStep_mem]
    exact State.wf_ite (State.wf_quarantine (h5 (h3 _ _ _ _) _ _) _ _ _) (h5 (h3 _ _ _ _) _ _)

theorem State.wf_alarm1 : Memory.wf (s.alarm1).mem = true := State.wf_alarmLog hw _ _

theorem State.wf_castLine (n) : Memory.wf (s.castLine n).mem = true := by
  have hkeep (cs : List Nat) (tid : Nat) (bs : List StByte) (u : State) (hu : Memory.wf u.mem = true) :
      Memory.wf (cs.foldl (fun s c => s.keepOld c tid bs) u).mem = true :=
    State.wf_foldl _ (fun v c hv => (congrArg _ (v.keepOld_mem c tid bs)).trans hv) cs hu
  unfold State.castLine
  split
  · exact hw
  · rename_i l _
    extract_lets s0
    have h0 : Memory.wf s0.mem = true := by
      unfold s0
      split
      · exact hw
      · exact State.wf_drainFor hw _ _
    split
    · exact hw
    · split
      · exact hw
      · dsimp only
        split
        · exact hkeep _ _ _ _ h0
        · exact h0

theorem State.wf_bootEnd (cold failed) : Memory.wf (s.bootEnd cold failed).mem = true := by
  unfold State.bootEnd
  dsimp only
  split
  · exact State.wf_startFails hw _ _ _
  · rw [State.margins_mem]
    exact hw

theorem State.wf_takeSample (core slice) : Memory.wf (s.takeSample core slice).mem = true := by
  refine State.wf_ite hw ?_
  split
  · exact hw
  · have h1 (f) := State.wf_modSlice hw core slice f
    dsimp only
    split
    · exact h1 _
    · split
      · exact State.wf_emit (h1 _) _ _ _
      · exact State.wf_emit (h1 _) _ _ _

theorem State.wf_serveHost (core w n) : Memory.wf (State.serveHost core w n s).mem = true := by
  induction n generalizing s with
  | zero => exact hw
  | succ n ih =>
    unfold State.serveHost
    split
    · exact hw
    · split
      · exact hw
      · split
        · exact hw
        · rename_i ht
          exact ih (State.wf_obey (State.wf_modGrp hw _ _) _ _ _ _ _ ht)

theorem State.wf_afterOps (core) : Memory.wf (s.afterOps core).mem = true := by
  refine State.wf_foldl _ (fun u t hu => ?_) _ hw
  exact State.wf_foldl _ (fun _ g hv => State.wf_serveHost hv core _ _) _ hu

omit hw in
theorem State.wf_hostServed {t : State} (ht : Memory.wf t.mem = true) (core) : Memory.wf (s.hostServed t core).mem = true := by
  unfold State.hostServed
  split
  · exact State.wf_afterOps ht core
  · exact ht

theorem State.wf_ringAccept : Memory.wf (s.ringAccept).mem = true := by
  have hring (rs : List FRec) (r) : Memory.wf ({ s with hold := rs }.ringWrite r).mem = true :=
    State.wf_ringWrite (s := { s with hold := rs }) hw r
  unfold State.ringAccept
  split
  · exact hw
  · refine State.wf_ite ?_ hw
    dsimp only
    split
    · exact hring _ _
    · rw [State.freeSource_mem]
      exact hring _ _

theorem State.wf_restartLoop (tid grp) : Memory.wf (s.restartLoop tid grp).mem = true := by
  unfold State.restartLoop
  dsimp only
  split
  · split
    · exact hw
    · have h1 (f) := State.wf_modGrp hw { tid := tid, grp := grp, frag := 0 } f
      refine State.wf_ite (State.wf_defer (h1 _) _ _) ?_
      rw [State.tick_mem]
      exact State.wf_modGrp (State.wf_modCore (h1 _) _ _) _ _
  · exact hw

omit hw in
theorem State.wf_boot (cold failed) : Memory.wf (s.boot cold failed).mem = true := s.wf_restarted

theorem State.wf_deliver (core tid) : Memory.wf (s.deliver core tid).mem = true :=
  State.wf_foldl _ (fun _ l hu => State.wf_castLine hu l.1) _ hw

theorem State.wf_completeCmd (core id) : Memory.wf (s.completeCmd core id).mem = true := by
  unfold State.completeCmd
  split
  · exact hw
  · exact State.wf_ite hw (State.wf_runCmd hw _ _ _)

theorem State.wf_drainTeam (tid t) : Memory.wf (s.drainTeam tid t).mem = true := by
  refine State.wf_foldl _ (fun u c hu => ?_) t.cores (State.wf_foldl _ (fun u c hu => ?_) t.cores
    (State.wf_completeTeam (State.wf_foldl _ (fun _ g hu => State.wf_complete hu _ _ _) _ hw) tid t))
  · exact State.wf_foldl _ (fun _ m hv => State.wf_completeCmd hv c m.1) _ (State.wf_deliver hu c tid)
  · refine State.wf_foldl _ (fun v l hv => ?_) _ hu
    rw [State.modGrp_mem, State.stopLoop_mem]
    exact hv

theorem State.wf_saveTeam (tid) : Memory.wf (s.saveTeam tid).mem = true := by
  have hforget (cs : List Nat) {u : State} (hu : Memory.wf u.mem = true) :
      Memory.wf (cs.foldl (fun s c => s.modCore c (fun k => k.forget tid)) u).mem = true :=
    State.wf_foldl _ (fun v c hv => (congrArg _ (v.modCore_mem c _)).trans hv) cs hu
  unfold State.saveTeam
  split
  · exact hw
  · rename_i t0 _
    have hd := State.wf_drainTeam hw tid t0
    refine State.wf_ite hw ?_
    dsimp only
    split
    · exact hd
    · refine State.wf_ite hd ?_
      split
      · exact hd
      · rw [State.vacated_mem]
        exact hforget _ (State.wf_modTeam (State.wf_putFrame _ _ _ hd) _ _)

theorem State.wf_startAll (lid n cs u) (hn : State.startAll lid n cs s = some u) : Memory.wf u.mem = true := by
  induction n generalizing s cs with
  | zero => cases hn
  | succ n ih =>
    cases cs with
    | nil => cases hn
    | cons c cs =>
      have hstart (l i t) : Memory.wf (s.startTeam lid l i t).mem = true := (congrArg _ (s.startTeam_mem lid l i t)).trans hw
      unfold State.startAll at hn
      split at hn
      · cases hn
      · dsimp only at hn
        split at hn
        · cases hn
          exact hw
        · split at hn
          · split at hn
            · cases hn
              exact hstart _ _ _
            · exact ih (hstart _ _ _) _ hn
          · exact ih hw _ hn

theorem State.wf_admitTeam (lid c) : Memory.wf (s.admitTeam lid c).mem = true := by
  have hstop (vs : List Nat) : Memory.wf (vs.foldl (fun s v => s.stopTeam 2 v) s).mem = true :=
    State.wf_foldl _ (fun _ v hu => State.wf_stopTeam hu 2 v) vs hw
  have hall (f : State → State) (hf : ∀ u, (f u).mem = u.mem) (n : Nat) (cs : List Nat) :
      Memory.wf (((State.startAll lid n cs s).map f).getD s).mem = true := by
    cases h : State.startAll lid n cs s with
    | none => exact hw
    | some u => exact (congrArg _ (hf u)).trans (State.wf_startAll hw lid n cs u h)
  unfold State.admitTeam
  split
  · exact hw
  · refine State.wf_ite hw (State.wf_ite (State.wf_ite ?_ ?_) (State.wf_ite ?_ hw))
    · exact hall _ (fun _ => by rfl) _ _
    · split
      · rw [State.startTeam_mem]
        exact hw
      · exact hw
    · split
      · exact hstop _
      · exact hw

omit hw in
theorem State.wf_hostBack {t : State} (ht : Memory.wf t.mem = true) (tid) : Memory.wf (s.hostBack t tid).mem = true := by
  unfold State.hostBack
  split
  · cases AMap.find t.teams tid with
    | none => exact ht
    | some u => exact State.wf_foldl _ (fun _ c hv => State.wf_afterOps hv c) u.cores ht
  · exact ht

theorem State.wf_resumeAt (tid t) : Memory.wf (s.resumeAt tid t).mem = true := by
  have hemit (cs : List Nat) (r : Nat → Option TRec) {u : State} (hu : Memory.wf u.mem = true) :
      Memory.wf (cs.foldl (fun s c => s.emit c [] (r c)) u).mem = true :=
    State.wf_foldl _ (fun _ c hv => State.wf_emit hv c [] (r c)) cs hu
  have henter (gs : List (Nat × Group)) {u : State} (hu : Memory.wf u.mem = true) :
      Memory.wf (gs.foldl (fun s g => g.2.frags.foldl (fun s f =>
        s.enterPending { tid := tid, grp := g.1, frag := f.1 }) s) u).mem = true :=
    State.wf_foldl _ (fun _ g hv => State.wf_foldl _ (fun _ f hx => State.wf_enterPending hx _) g.2.frags hv) gs hu
  have hloop (gs : List (Nat × Group)) {u : State} (hu : Memory.wf u.mem = true) :
      Memory.wf (gs.foldl (fun s g => s.restartLoop tid g.1) u).mem = true :=
    State.wf_foldl _ (fun _ g hv => State.wf_restartLoop hv tid g.1) gs hu
  unfold State.resumeAt
  extract_lets same t1 s1 s2 s3 s4 s5 s6
  have h2 : Memory.wf s3.mem = true := by
    refine State.wf_foldl _ (fun u v hu => ?_) _ ((congrArg _ (State.takeCores_mem _ _ _)).trans hw)
    split
    · exact State.wf_foldl _ (fun x c hx => (congrArg _ (x.l1Invalidate_mem c t1.ctx v.2)).trans hx) _ hu
    · exact hu
  have h4 : Memory.wf s4.mem = true := (congrArg _ (State.reseatFrags_mem _ _ _)).trans h2
  exact hemit _ _ (henter _ (hloop _ h4))

theorem State.wf_resumeTeam (tid c) : Memory.wf (s.resumeTeam tid c).mem = true := by
  unfold State.resumeTeam
  split
  · exact hw
  · refine State.wf_ite hw ?_
    split
    · exact hw
    · rename_i t _ _ t1 _
      exact State.wf_resumeAt (s := { s with rr := t.ctx }) hw tid t1

theorem State.wf_carveNow (tid) : Memory.wf (s.carveNow tid).mem = true := by
  unfold State.carveNow
  split
  · exact hw
  · split
    · exact hw
    · split
      · exact hw
      · refine State.wf_foldl _ (fun u c hu => ?_) _ ((congrArg _ (State.modTeam_mem _ _ _)).trans (State.wf_completeTeam hw tid _))
        exact (congrArg _ (u.modCore_mem c _)).trans hu

theorem State.wf_faultLoop (core id w l m) : Memory.wf (s.faultLoop core id w l m).mem = true := State.wf_defer ((congrArg _ (s.stopLoop_mem core id w l)).trans hw) _ _

theorem State.wf_drainCells (t core l tab ps res) : CellsWf (State.drainCells t core l tab ps res s) := by
  have hpass {u : State} (hu : Memory.wf u.mem = true) (ks unseen bs vs) :
      Memory.wf ((u.keepTables core ks unseen).passGate l.who core bs vs).mem = true := by
    refine State.wf_passGate ?_ l.who core bs vs
    rw [State.keepTables_mem]
    exact hu
  induction ps generalizing s res with
  | nil => exact hw
  | cons p ps ih =>
    obtain ⟨j, i⟩ := p
    unfold State.drainCells
    extract_lets w c biased
    have hb (x f u) (h : biased = .ok (x, f, u)) : Memory.wf u.mem = true := by
      unfold biased at h
      grind [State.wf_loopElem]
    clear_value biased
    cases biased with
    | error m => exact hw
    | ok r =>
      obtain ⟨x1, f1, s1⟩ := r
      have h1 := hb x1 f1 s1 rfl
      dsimp only
      split
      · exact h1
      · split
        · refine ih ?_ _
          exact h1
        · split
          · exact h1
          · refine ih (hpass ?_ _ _ _ _) _
            exact h1

omit hw in
theorem cellsWf_of_eq {a b : Except (Miss × State) State} (h : a = b) (ha : CellsWf a) : CellsWf b := h ▸ ha

theorem State.wf_endLoop (t core id l) : Memory.wf (s.endLoop t core id l).mem = true := by
  have hcells (tab ps) := State.wf_drainCells hw t core l tab ps Dy.zero
  have hdone {u : State} (hu : Memory.wf u.mem = true) : Memory.wf ((u.dropLoop core id l).completed l.who l.inH).mem = true :=
    (congrArg _ ((State.completed_mem _ _ _).trans (u.dropLoop_mem core id l))).trans hu
  refine State.wf_ite ?_ ?_
  · split
    · rename_i h
      exact State.wf_faultLoop (cellsWf_of_eq h (hcells _ _)) _ _ _ _ _
    · rename_i h
      exact hdone (cellsWf_of_eq h (hcells _ _))
  · rw [State.completed_mem, State.modGrp_mem, State.dropLoop_mem]
    exact hw

theorem State.wf_stepLoop (t core id l) : Memory.wf (s.stepLoop t core id l).mem = true := by
  unfold State.stepLoop
  split
  · dsimp only
    split
    · exact State.wf_faultLoop hw core id _ l _
    · rename_i h1
      have hs1 := State.wf_loopElems hw _ _ _ _ _ _ _ _ h1
      split
      · exact State.wf_faultLoop hs1 core id _ l _
      · rename_i h2
        rw [State.modGrp_mem, State.modCore_mem]
        exact State.wf_loopElems hs1 _ _ _ _ _ _ _ _ h2
  · exact hw

theorem State.wf_moveLoop (core id) : Memory.wf (s.moveLoop core id).mem = true := by
  have hmeet (vs : List View) (w : Sel) : Memory.wf (vs.foldl (fun s v => s.drainMeet core w v) s).mem = true :=
    State.wf_foldl _ (fun _ v hu => State.wf_drainMeet hu core w v) vs hw
  unfold State.moveLoop
  split
  · exact hw
  · split
    · exact hw
    · refine State.wf_ite (State.wf_ite hw (State.wf_modCore hw _ _)) (State.wf_ite hw (State.wf_ite
        (State.wf_endLoop (hmeet _ _) _ _ _ _) (State.wf_ite (State.wf_modCore hw _ _) (State.wf_stepLoop ?_ _ _ _ _))))
      rw [State.chargeStep_mem]
      exact hmeet _ _

theorem State.wf_moveCopy (ia frame) : Memory.wf (s.moveCopy ia frame).mem = true := by
  unfold State.moveCopy
  split
  · split
    · exact State.wf_copyRange hw _ _ _
    · exact hw
  · exact hw

theorem State.wf_attestEnd : Memory.wf (s.attestEnd).mem = true := by
  refine State.wf_ite hw ?_
  split
  · exact State.wf_alarm1 (s := { s with start := _ }) hw
  · exact hw

theorem State.wf_provisionEnd : Memory.wf (s.provisionEnd).mem = true := State.wf_ite hw (State.wf_ite hw (State.wf_alarm1 (s := { s with start := _ }) hw))

theorem State.wf_stepBack (core) : Memory.wf (s.stepBack core).mem = true := by
  unfold State.stepBack
  split
  · exact hw
  · exact State.wf_ite (State.wf_hostCmd hw _ _ _ _) hw

theorem State.wf_endCmdLaunch (core) : Memory.wf (s.endCmdLaunch core).mem = true := by
  unfold State.endCmdLaunch
  split
  · exact hw
  · exact State.wf_failLaunch hw _ _

omit hw in
theorem State.wf_warmStart (failed) : Memory.wf (s.warmStart failed).mem = true := State.wf_boot _ failed

theorem State.wf_attest (x) : Memory.wf (s.attest x).mem = true := State.wf_ite hw (State.wf_ite hw (State.wf_alarm1 hw))

theorem State.wf_writeStart (off x) : Memory.wf (s.writeStart off x).mem = true := by
  have hkeep (u : State) (hu : u.mem = s.mem) : Memory.wf u.mem = true := (congrArg _ hu).trans hw
  unfold State.writeStart
  exact State.wf_ite (State.wf_ite (State.wf_warmStart _) (State.wf_ite (State.wf_boot _ _) (State.wf_alarm1 hw)))
    (State.wf_ite (State.wf_ite hw hw) (State.wf_ite (State.wf_attest hw x) (State.wf_ite (State.wf_ite hw hw)
    (State.wf_ite hw (State.wf_ite (hkeep _ (s.writeBin_mem _ _)) (State.wf_ite (hkeep _ (s.provision_mem x))
    (State.wf_ite hw hw)))))))

theorem State.wf_writeWindow (core off x) : Memory.wf (s.writeWindow core off x).mem = true := by
  have hcmd : Memory.wf (if x = 1 then s.resumeCmd core else if x = 2 then s.stepBack core
      else if x = 3 then s.endCmdLaunch core else s).mem = true :=
    State.wf_ite (State.wf_resumeCmd hw core) (State.wf_ite (State.wf_stepBack hw core)
      (State.wf_ite (State.wf_endCmdLaunch hw core) hw))
  have hrec : Memory.wf (match s.opened core with
      | none => s
      | some (w, _, _) => s.modGrp w (fun g =>
        { g with hostRec := AMap.insert g.hostRec (off - 0x9000) x })).mem = true := by
    cases s.opened core with
    | none => exact hw
    | some v => exact (congrArg _ (s.modGrp_mem v.1 _)).trans hw
  have hregs : Memory.wf (if 0x2A ≤ off / 8 ∧ off / 8 ≤ 0x2F then s.writeRatio core (off / 8 - 0x2A) (bits x 3 0)
      else if off / 8 = 0x30 then s.writeMgnctl core x
      else s.modCore core (fun c => c.write (off / 8) x)).mem = true := by
    refine State.wf_ite ?_ (State.wf_ite ?_ ?_)
    · rw [State.writeRatio_mem]
      exact hw
    · rw [State.writeMgnctl_mem]
      exact hw
    · rw [State.modCore_mem]
      exact hw
  have hcore (f : Core → Core) : Memory.wf (s.modCore core f).mem = true :=
    (congrArg _ (s.modCore_mem core f)).trans hw
  have hdata (u : State) (hu : u.mem = s.mem) : Memory.wf u.mem = true := (congrArg _ hu).trans hw
  unfold State.writeWindow
  exact State.wf_ite hw (State.wf_ite hregs (State.wf_ite (hcore _) (State.wf_ite hcmd (State.wf_ite (hcore _)
    (State.wf_ite (hdata _ (s.sendWake_mem core x)) (State.wf_ite (hcore _)
    (State.wf_ite (hdata _ (s.vdata_mem core (some x))) (State.wf_ite (State.wf_ite (hcore _) hw)
    (State.wf_ite (hdata _ (s.sdata_mem core (some x))) (State.wf_ite hrec hw))))))))))

theorem State.wf_writeBar0 (off x) : Memory.wf (s.writeBar0 off x).mem = true := by
  have hkeep (u : State) (hu : u.mem = s.mem) : Memory.wf u.mem = true := (congrArg _ hu).trans hw
  unfold State.writeBar0
  exact State.wf_ite hw (State.wf_ite (State.wf_writeStart hw _ x) (State.wf_ite hw
    (State.wf_ite (hkeep _ (s.writeQueue_mem _ _ x)) (State.wf_ite hw
    (State.wf_ite (hkeep _ (s.writeModule_mem off x)) (State.wf_ite hw
    (State.wf_ite (hkeep _ (s.modCtrl_mem _ _)) (State.wf_ite (hkeep _ (s.broadcast_mem _ x))
    (State.wf_ite (State.wf_writeWindow hw _ _ x) hw)))))))))

theorem State.wf_bar2Write (linkB ia data) : Memory.wf (s.bar2Write linkB ia data).mem = true := by
  unfold State.bar2Write
  split
  · exact hw
  · refine State.wf_foldl _ (fun u p hu => ?_) _ hw
    exact State.wf_ite (State.wf_iaWrite hu _ _) ((congrArg _ (u.accessError_mem _ _ _)).trans hu)

omit hw in
theorem bar4Piece_mem (s : State) (off n) : (s.bar4Piece off n).2.2.mem = s.mem :=
  State.mem_ite (s.accessError_mem _ _ _) rfl

theorem State.wf_bar4 (linkB off n data) : Memory.wf (s.bar4 linkB off n data).mem = true := by
  have hread (ps : List (Nat × Nat)) (a : List Byte × Bool × State) (ha : Memory.wf a.2.2.mem = true) :
      Memory.wf (ps.foldl (fun (a : List Byte × Bool × State) p => (a.1 ++ (a.2.2.bar4Piece p.1 p.2).1,
        a.2.1 || (a.2.2.bar4Piece p.1 p.2).2.1, (a.2.2.bar4Piece p.1 p.2).2.2)) a).2.2.mem = true :=
    List.foldlRecOn (motive := fun a : List Byte × Bool × State => Memory.wf a.2.2.mem = true) _ _ ha
      fun b hb p _ => (congrArg _ (bar4Piece_mem b.2.2 p.1 p.2)).trans hb
  have hwrite (bs : List (Byte × Nat)) :
      Memory.wf (bs.foldl (fun s b => if vaultAt (off + b.2) then s.wrKey (2 ^ 48 + off + b.2) b.1 else s) s).mem = true := by
    refine State.wf_foldl _ (fun u b hu => ?_) bs hw
    split
    · exact u.wf_wrKey _ _ hu
    · exact hu
  cases data with
  | none => exact State.wf_ite hw ((congrArg _ (State.toHostIf_mem _ _ _)).trans (hread _ _ hw))
  | some bs => exact State.wf_ite hw (hwrite _)

theorem State.wf_peerAccess (port ia n data) : Memory.wf (s.peerAccess port ia n data).mem = true := by
  cases data with
  | none => exact State.wf_ite hw hw
  | some bs => exact State.wf_ite hw (State.wf_iaWrite hw _ _)

end

end Sys2Proof.Machine
end

section
/-! Every event, and with it every step, keeps the memory's canonical form (log 1). -/

namespace Sys2Proof.Machine

section
variable {s : State} (hw : Memory.wf s.mem = true)
include hw

omit hw in
theorem kept_tick {t : State} (ht : Memory.wf t.mem = true) : Kept (.next t.tick) :=
  kept_next ((congrArg _ t.tick_mem).trans ht)

theorem State.wf_told {f : State → State} (hf : Memory.wf (f s).mem = true) : Memory.wf (s.told f).mem = true :=
  State.wf_ite hf hw

theorem wf_execThrottleDelivery : Kept (execThrottleDelivery s) := by
  unfold execThrottleDelivery
  cases s.env with
  | none => exact fun _ h => nomatch h
  | some e => exact kept_tick (State.wf_ite (State.wf_startClause hw e) hw)

theorem wf_execGraceIssue (who) : Kept (execGraceIssue who s) := by
  refine kept_tick ?_
  cases s.envOf who with
  | none => exact hw
  | some e => exact State.wf_ite ((congrArg _ (s.modFrag_mem who _)).trans hw) hw

theorem wf_execStarvationPromotion (who) : Kept (execStarvationPromotion who s) := by
  refine kept_tick ?_
  cases s.envOf who with
  | none => exact hw
  | some e => exact State.wf_ite ((congrArg _ (s.modFrag_mem who _)).trans hw) hw

theorem wf_execPowerOnStart (failed) : Kept (execPowerOnStart failed s) := by
  unfold execPowerOnStart
  split
  · exact kept_tick (State.wf_bootEnd hw _ _)
  · exact kept_tick (State.wf_ite (State.wf_boot true failed) hw)

theorem wf_exec (i : Instr) : Kept (exec i s) := by
  suffices h : Kept (runWord i s) → Kept (exec i s) from h (wf_runWord hw i)
  induction i with
  | clauseStart => exact fun _ => wf_execClauseStart hw
  | meterWindowEnd core => exact fun _ => kept_tick ((congrArg _ (s.endWindow_mem core)).trans hw)
  | throttleDelivery => exact fun _ => wf_execThrottleDelivery hw
  | graceIssue who => exact fun _ => wf_execGraceIssue hw who
  | starvationPromotion who => exact fun _ => wf_execStarvationPromotion hw who
  | timingEvent core slice victim behind => exact fun _ => kept_tick (State.wf_timing hw core slice victim behind)
  | replayBubbleEnd core slice => exact fun _ => kept_tick ((congrArg _ (s.modSlice_mem core slice _)).trans hw)
  | limpModeEnd core slice => exact fun _ => kept_tick (State.wf_ite hw ((congrArg _ (s.modSlice_mem core slice _)).trans hw))
  | supplySettled core => exact fun _ => kept_tick ((congrArg _ (s.modCore_mem core _)).trans hw)
  | quietPeriodExpiry core => exact fun _ => kept_tick ((congrArg _ (s.modCore_mem core _)).trans hw)
  | teWindowEnd core => exact fun _ => kept_tick ((congrArg _ (s.modCore_mem core _)).trans hw)
  | egressGateRelease core op => exact fun _ => kept_tick (State.wf_leaveGate hw core op)
  | launchTake q => exact fun _ => kept_tick ((congrArg _ (s.takeLaunch_mem q)).trans hw)
  | teamAdmission lid core => exact fun _ => kept_tick (State.wf_admitTeam hw lid core)
  | preemptionSave tid => exact fun _ => kept_tick (State.wf_saveTeam hw tid)
  | saveFrameFree => exact fun _ => kept_tick (State.wf_forceOut hw)
  | teamResume tid core => exact fun _ => kept_tick (State.wf_hostBack (State.wf_resumeTeam hw tid core) tid)
  | teamEnd tid => exact fun _ => kept_tick (State.wf_endTeam hw tid)
  | launchComplete lid => exact fun _ => kept_tick ((congrArg _ (s.completeLaunch_mem lid)).trans hw)
  | carveEffect tid => exact fun _ => kept_tick (State.wf_carveNow hw tid)
  | operationCompletion core op => exact fun _ => kept_tick (State.wf_completeOp hw core op)
  | engineCommandCompletion core cmd => exact fun _ => kept_tick (State.wf_completeCmd hw core cmd)
  | mmlpStep core loop => exact fun _ => kept_tick (State.wf_hostServed (State.wf_moveLoop hw core loop) core)
  | pipeJobReply core pipe => exact fun _ => kept_tick (State.wf_hostServed (State.wf_runJob hw core pipe) core)
  | scratchLineArrival tid line => exact fun _ => kept_tick (State.wf_scratchLine hw tid line)
  | multicastLineArrival n => exact fun _ => kept_tick (State.wf_castLine hw n)
  | deferredFaultTaken who => exact fun _ => wf_execDeferredFaultTaken hw who
  | pendingTrapEntry who => exact fun _ => wf_execPendingTrapEntry hw who
  | pcSample core slice => exact fun _ => kept_tick (State.wf_takeSample hw core slice)
  | faultRingAccept => exact fun _ => kept_tick (State.wf_ringAccept hw)
  | pageMoveCopy ia frame => exact fun _ => kept_tick (State.wf_moveCopy hw ia frame)
  | pageMoveSwitch => exact fun _ => kept_tick (State.wf_moveSwitch hw)
  | apertureWriteback line => exact fun _ => kept_tick (State.wf_writeBack hw line)
  | sliceRatioChange core slice => exact fun _ => kept_tick ((congrArg _ (s.changeRatio_mem core slice)).trans hw)
  | ratioDeadline core slice => exact fun _ => kept_tick (State.wf_ite (State.wf_forceOut ((congrArg _ (s.modSlice_mem core slice _)).trans hw)) hw)
  | binDeadline die => exact fun _ => kept_tick (State.wf_ite (State.wf_forceOut (s := { s with dies := _ }) hw) hw)
  | binSwitch die => exact fun _ => kept_tick ((congrArg _ (s.switchBin_mem die)).trans hw)
  | powerOnStart failed => exact fun _ => wf_execPowerOnStart hw failed
  | alarmLevel2 source => exact fun _ => kept_tick (State.wf_alarm hw _ source)
  | alarmLevel3 source => exact fun _ => kept_tick (State.wf_alarm hw 3 source)
  | linkStateChange linkB up => exact fun _ => kept_tick (State.wf_ite (a := { s with linkB := up }) (b := { s with linkA := up }) hw hw)
  | attestationDone => exact fun _ => kept_tick (State.wf_attestEnd hw)
  | provisionDone => exact fun _ => kept_tick (State.wf_provisionEnd hw)
  | qtailWrite q x => exact fun _ => kept_tick ((congrArg _ (s.writeQueue_mem q 3 x)).trans hw)
  | qctlWrite q x => exact fun _ => kept_tick ((congrArg _ (s.writeQueue_mem q 1 x)).trans hw)
  | qerrClear q x => exact fun _ => kept_tick ((congrArg _ (s.writeQueue_mem q 4 x)).trans hw)
  | hfqheadWrite x => exact fun _ => kept_tick ((congrArg _ (s.writeModule_mem 0x20018 x)).trans hw)
  | intstatClear x => exact fun _ => kept_tick ((congrArg _ (s.writeModule_mem 0x20040 x)).trans hw)
  | intmaskWrite x => exact fun _ => kept_tick ((congrArg _ (s.writeModule_mem 0x20048 x)).trans hw)
  | dbgcmdResume core => exact fun _ => kept_tick (State.wf_told hw (State.wf_resumeCmd hw core))
  | dbgcmdStepBack core => exact fun _ => kept_tick (State.wf_told hw (State.wf_stepBack hw core))
  | dbgcmdEndLaunch core => exact fun _ => kept_tick (State.wf_told hw (State.wf_endCmdLaunch hw core))
  | dbgvdataAccess core data => exact fun _ => kept_tick (State.wf_told hw ((congrArg _ (s.vdata_mem core data)).trans hw))
  | dbgsdataAccess core data => exact fun _ => kept_tick (State.wf_told hw ((congrArg _ (s.sdata_mem core data)).trans hw))
  | wake core x => exact fun _ => kept_tick (State.wf_told hw ((congrArg _ (s.sendWake_mem core x)).trans hw))
  | sratioWrite core slice x => exact fun _ => kept_tick (State.wf_told hw ((congrArg _ (s.writeRatio_mem core slice _)).trans hw))
  | mgnctlWrite core x => exact fun _ => kept_tick (State.wf_told hw ((congrArg _ (s.writeMgnctl_mem core x)).trans hw))
  | qstatClear core x => exact fun _ => kept_tick (State.wf_told hw ((congrArg _ (s.modCore_mem core _)).trans hw))
  | dieclkWrite die x => exact fun _ => kept_tick ((congrArg _ (s.writeBin_mem die _)).trans hw)
  | stcmdWarm failed => exact fun _ => kept_tick (State.wf_warmStart failed)
  | stcmdCold failed => exact fun _ => kept_tick (State.wf_boot true failed)
  | atcmd x => exact fun _ => kept_tick (State.wf_attest hw x)
  | provcmd x => exact fun _ => kept_tick ((congrArg _ (s.provision_mem x)).trans hw)
  | trgctlWrite core x => exact fun _ => kept_tick (State.wf_told hw ((congrArg _ (s.modCore_mem core _)).trans hw))
  | broadcastWrite off x => exact fun _ => kept_tick ((congrArg _ (s.broadcast_mem off x)).trans hw)
  | registerWrite off x => exact fun _ => kept_tick (State.wf_writeBar0 hw off x)
  | hostBar2Read linkB ia n => exact fun _ => kept_tick ((congrArg _ (s.bar2Read_mem linkB ia n)).trans hw)
  | hostBar2Write linkB ia data => exact fun _ => kept_tick (State.wf_bar2Write hw linkB ia data)
  | hostBar4Access linkB off n data => exact fun _ => kept_tick (State.wf_bar4 hw linkB off n data)
  | peerAccessArrival port ia n data => exact fun _ => kept_tick (State.wf_peerAccess hw port ia n data)
  | peerPortStateChange port up => exact fun _ => kept_tick ((congrArg _ (s.portChange_mem port up)).trans hw)
  | _ => exact id

theorem wf_move1 (m) : Kept (s.move1 m) := by
  cases m with
  | event who i =>
    unfold State.move1
    dsimp only
    split
    · exact wf_exec (s := { s with cur := who }) hw i
    · exact kept_tick hw
  | issue c n => exact wf_sliceCycleOf hw (fun i _ ht => wf_exec ht i) c n

theorem State.wf_nextTurn : Memory.wf s.nextTurn.2.mem = true := by
  unfold State.nextTurn
  split <;> exact hw

theorem wf_step : Kept (step s) := wf_move1 (State.wf_nextTurn hw) _

end

/-- Settles O59: each word and each event keeps the form, and so does the slice cycle that issues a word; equal reads
are equal memories by the list's order. -/
theorem memoryForm : Obligations.MemoryForm := by
  unfold Obligations.MemoryForm
  exact ⟨fun _ t hw h => wf_step hw t h, fun _ _ hs ht h => Memory.ext hs ht h⟩

end Sys2Proof.Machine
end

section
/-! The carve and the grants (R289, R291, R311). -/

namespace Sys2Proof.Machine

theorem crv_carves {s : State} {e : Env} {f : XF} (h : Issues s e (.crv f)) (hbars : e.tm.desc.bars ≠ 0)
    (hhigh : bits (e.g f.gp.toNat) 63 16 = 0) (hregs : bits (e.g f.gp.toNat) 15 8 ≤ 32)
    (hscr : bits (e.g f.gp.toNat) 7 0 ≤ 64 ∨ bits (e.g f.gp.toNat) 7 0 = 0xFF) :
    exec (.crv f) s = .next ((((s.begun e).modTeam e.who.tid (fun t =>
      { t with carve := some { regs := bits (e.g f.gp.toNat) 15 8,
                               scr := if bits (e.g f.gp.toNat) 7 0 = 0xFF then none else some (bits (e.g f.gp.toNat) 7 0) } })).modGrp
        e.who (fun g => { g.setGp (f.mode.extractLsb' 0 3).toNat false with
                          carveGp := some (f.mode.extractLsb' 0 3).toNat })).issued s e (.crv f)) := by
  have hs : (decide (64 < bits (e.g f.gp.toNat) 7 0) && bits (e.g f.gp.toNat) 7 0 != 0xFF) = false := by
    rcases hscr with h | h
    · rw [decide_eq_false (Nat.not_lt.mpr h), Bool.false_and]
    · rw [h]
      rfl
  refine issue_done h rfl (if_neg ?_)
  rw [hs, beq_eq_false_iff_ne.mpr hbars, hhigh, decide_eq_false (Nat.not_lt.mpr hregs)]
  exact Bool.false_ne_true

theorem grant_opens {s : State} {e : Env} {f : XF} (h : Issues s e (.grant f)) (hp : f.gp.toNat ≤ 62)
    (hn : AMap.find e.tm.grants (f.mode.extractLsb' 8 2).toNat = none) {o len : Nat} (ho : (e.g f.gp.toNat).toNat = o)
    (hl : (e.g (f.gp.toNat + 1)).toNat = len) (ho8 : o % 128 = 0) (hl8 : len % 128 = 0) (hl0 : len ≠ 0)
    (hlo : (e.tm.scrPart e.gr.core).1 ≤ o) (hhi : o + len ≤ (e.tm.scrPart e.gr.core).1 + (e.tm.scrPart e.gr.core).2)
    (hw : ((s.begun e).drainScr e.gr.core e.who o len).workReaches e o len = false) :
    exec (.grant f) s = .next ((((((s.begun e).drainScr e.gr.core e.who o len).modTeam e.who.tid (fun t =>
      { t.clearLines ((List.range (len / 128)).map (o / 128 + ·)) with
        grants := AMap.insert t.grants (f.mode.extractLsb' 8 2).toNat { lo := o, len := len, core := e.gr.core } })).modGrp
          e.who (e.putG (f.mode.extractLsb' 0 6).toNat
            (tokenOf (AMap.get 0 (s.core e.gr.core).inst (e.tm.slotOn e.gr.core)).toNat e.gr.core (e.tm.slotOn e.gr.core)
              (f.mode.extractLsb' 8 2).toNat))).track e (.grant f) [] [] none).issued s e (.grant f)) := by
  subst ho hl
  refine issue_done h rfl ((if_neg (Nat.not_lt.mpr hp)).trans ((if_neg (by rw [hn]; exact Bool.false_ne_true)).trans
    ((if_neg ?_).trans (if_neg (by rw [hw]; exact Bool.false_ne_true)))))
  rintro (h | h | h | h | h)
  · exact h ho8
  · exact h hl8
  · exact hl0 h
  · exact absurd hlo (Nat.not_le.mpr h)
  · exact absurd hhi (Nat.not_le.mpr h)

/-- Settles O27: each word passes its checks and answers its body's state. -/
theorem carveAndGrant : Obligations.CarveAndGrant :=
  fun _ _ _ => ⟨fun h hb h1 h2 h3 => crv_carves h hb h1 h2 h3,
    fun h hp hn ho hl hl0 hlo hhi hw => grant_opens h hp hn rfl rfl ho hl hl0 hlo hhi hw,
    fun h => issue_done h rfl rfl⟩

end Sys2Proof.Machine
end

section
/-! Marks, signals and launches from device code (R298, R310, R177). -/

namespace Sys2Proof.Machine

theorem Settles.queues {s t : State} (h : Settles s t) : t.queues = s.queues := by
  obtain ⟨_, _, _, _, _, _, rfl⟩ := h.rest
  rfl

theorem OnlyBytes.queues {s t : State} (h : OnlyBytes s t) : t.queues = s.queues := by
  obtain ⟨_, _, _, _, rfl⟩ := h
  rfl

/-- A record that finds room in an empty queue of waiting ones does not wait. -/
theorem State.waiting_post {s : State} (r : FRec) (hw : s.waiting = []) (hh : s.hold.length < 256) :
    (s.post r).waiting = [] := by
  unfold State.post
  split
  · obtain ⟨m, l, a, z, e⟩ := onlyBytes_wrBytes s (hostKey (s.host.hfqbase.toNat + 64 * (s.host.hfqtail.toNat % 2 ^ s.host.hfqS)))
      ((r.words.map (fun w => leBytes 8 w.toNat)).flatten)
    exact (congrArg State.waiting e).trans hw
  · exact hw

theorem sig_posts {s : State} {e : Env} {f : SF} (h : Issues s e (.sig f)) (hp : e.fr.stall ≠ some .post)
    (hh : s.hold.length < 256) (hw : s.waiting = []) :
    exec (.sig f) s = .next ((((s.begun e).drainStores e.gr.core e.who).post
      (e.sigRecord (f.imm.extractLsb' 0 6).toNat (e.g f.g.toNat))).issued s e (.sig f)) := by
  obtain ⟨_, _, _, _, _, _, hrest⟩ := (settles_drainStores (s.begun e) e.gr.core e.who).rest
  have hpost : (((s.begun e).drainStores e.gr.core e.who).post
      (e.sigRecord (f.imm.extractLsb' 0 6).toNat (e.g f.g.toNat))).waiting = [] :=
    State.waiting_post _ ((congrArg State.waiting hrest).trans hw)
      (lt_of_eq_of_lt (congrArg (fun s : State => s.hold.length) hrest) hh)
  refine issue_done h rfl ((if_neg (fun hs => hp (eq_of_beq hs))).trans ?_)
  unfold State.posted
  rw [hpost]
  rfl

theorem onlyBytes_iaWrite (s : State) (ia : Nat) (bs : List Byte) : OnlyBytes s (s.iaWrite ia bs) := by
  refine (show OnlyBytes s (s.recall _ _) from ⟨_, _, _, _, rfl⟩).trans (onlyBytes_foldl _ (fun s b => ?_) _ _)
  split
  · exact onlyBytes_wrKey s _ _
  · exact .refl s

section
variable {s : State} {e : Env} {f : CF} (h : Issues s e (.lnch f))
include h

theorem lnch_misaligned (ha : (e.g (f.aux.extractLsb' 0 6).toNat).toNat % 64 ≠ 0) :
    exec (.lnch f) s = .next (s.trapped e (.lnch f) (e.memTrap .load (.misalign, e.g (f.aux.extractLsb' 0 6).toNat))) :=
  issue_trapped h rfl (if_pos ha)

variable {w : Where} (ha : (e.g (f.aux.extractLsb' 0 6).toNat).toNat % 64 = 0)
  (hacc : s.access e.tm { n := 64, rd := true, wr := false, noIo := true, feet := s.feet e .load }
    (e.g (f.aux.extractLsb' 0 6).toNat) = .ok w) (hab : e.absent 64 w = false)
include ha hacc hab

/-- The body of `lnch` once its record is read. -/
theorem lnch_reads {t : State}
    (ht : (let q := (f.aux.extractLsb' 6 6).toNat
           let r := (s.begun e).load e.who e.gr.core false w 64
           let s2 := r.2.modGrp e.who (fun g => g.setGp (f.aux.extractLsb' 12 3).toNat false)
           if !(s2.queue q).takesDev || !recOk (wordsOf r.1) then s2
           else (((s2.drainStores e.gr.core e.who).iaWrite
             ((s2.queue q).base.toNat + 64 * ((s2.queue q).tail.toNat % 2 ^ (s2.queue q).size)) r.1).modQueue q
               (fun u => { u with tail := u.tail + 1 })).modGrp e.who
                 (fun g => g.setGp (f.aux.extractLsb' 12 3).toNat true)) = t) :
    exec (.lnch f) s = .next (t.issued s e (.lnch f)) := by
  have hacc' : (s.begun e).access e.tm { n := 64, rd := true, wr := false, noIo := true, feet := (s.begun e).feet e .load }
    (e.g (f.aux.extractLsb' 0 6).toNat) = .ok w := (State.access_modGrp ..).trans hacc
  refine issue_done h rfl ((if_neg (not_not.mpr ha)).trans ?_)
  rw [hacc']
  refine (if_neg ?_).trans ?_
  · cases w with
    | scr o => exact fun hc => Bool.false_ne_true (hab.symm.trans hc)
    | mem ks c => exact Bool.false_ne_true
  · rw [← ht]
    exact (apply_ite Res.done _ _ _).symm

end

/-- What a queue is after the load of a record. -/
theorem queues_lnchRead (s : State) (e : Env) (w : Where) (d : Nat) :
    ((((s.begun e).load e.who e.gr.core false w 64).2).modGrp e.who (fun g => g.setGp d false)).queues = s.queues :=
  (settles_load (s.begun e) e.who e.gr.core false w 64).queues

/-- A queue that has taken a record. -/
theorem queue_after_lnch (s : State) (core : Nat) (w : Sel) (ia : Nat) (bs : List Byte) (q : Nat) (f : Group → Group) :
    ((((s.drainStores core w).iaWrite ia bs).modQueue q (fun u => { u with tail := u.tail + 1 })).modGrp w f).queue q =
      { s.queue q with tail := (s.queue q).tail + 1 } := by
  have hq : ((s.drainStores core w).iaWrite ia bs).queue q = s.queue q :=
    congrArg (fun m => AMap.get ({} : Queue) m q)
      ((onlyBytes_iaWrite (s.drainStores core w) ia bs).queues.trans (settles_drainStores s core w).queues)
  refine (AMap.get_set ({} : Queue) _ q _ q).trans ((if_pos rfl).trans ?_)
  rw [hq]

/-- Settles O30: the three words, and what a queue holds once `lnch` has written to it. -/
theorem marksAndSignals : Obligations.MarksAndSignals := by
  refine ⟨fun s e f => ⟨fun h => issue_done h rfl rfl, fun h hp hh hw => ⟨sig_posts h hp hh hw, rfl⟩⟩,
    fun s e f h => ⟨lnch_misaligned h, fun w ha hacc hab => ?_⟩⟩
  have hq := queues_lnchRead s e w (f.aux.extractLsb' 12 3).toNat
  have hu : ((((s.begun e).load e.who e.gr.core false w 64).2).modGrp e.who
      (fun g => g.setGp (f.aux.extractLsb' 12 3).toNat false)).queue (f.aux.extractLsb' 6 6).toNat =
        s.queue (f.aux.extractLsb' 6 6).toNat :=
    congrArg (fun m => AMap.get ({} : Queue) m (f.aux.extractLsb' 6 6).toNat) hq
  refine ⟨fun hno => ⟨lnch_reads h ha hacc hab (if_pos ?_), hq⟩, fun hd hr => ⟨lnch_reads h ha hacc hab ?_, ?_⟩⟩
  · rw [hu, Bool.or_eq_true, Bool.not_eq_true', Bool.not_eq_true']
    exact hno
  · refine (if_neg ?_).trans ?_
    · rw [hu, hd, hr]
      exact Bool.false_ne_true
    · rw [hu]
  · exact (queue_after_lnch ..).trans (congrArg (fun u : Queue => { u with tail := u.tail + 1 }) hu)

end Sys2Proof.Machine
end

section
/-! `srd` and `swr` (R304, R305). -/

namespace Sys2Proof.Machine

section
variable {s : State} {e : Env} {f : SF}

theorem srd_priv (h : Issues s e (.srd f)) (hp : (sysSv f.sys.toNat || sysHc f.sys.toNat) = true) (hh : e.fr.inH = false) :
    exec (.srd f) s = .next (s.trapped e (.srd f) (e.trapOf (.instr .priv))) := by
  refine issue_instr h rfl (if_pos ?_)
  rw [hp, hh]
  rfl

/-- A register that the issuer may read is no register of the first trap. -/
theorem srd_allowed {n : Nat} (hp : (sysSv n || sysHc n) = false ∨ e.fr.inH = true) :
    ¬ ((sysSv n || sysHc n) && !e.fr.inH) = true := by
  rcases hp with h | h
  · rw [h]
    exact Bool.false_ne_true
  · rw [h, Bool.not_true, Bool.and_false]
    exact Bool.false_ne_true

theorem sysReg_begun (s : State) (e d : Env) (n : Nat) : (s.begun d).sysReg e n = s.sysReg e n := by
  have hc (k : Nat) : (s.begun d).core k = s.core k := rfl
  have hl : (s.begun d).sluiceReg = s.sluiceReg := rfl
  unfold State.sysReg
  rw [hc, hl]

theorem srd_reads (h : Issues s e (.srd f)) (hp : (sysSv f.sys.toNat || sysHc f.sys.toNat) = false ∨ e.fr.inH = true)
    (hn : f.sys.toNat ≠ 0x10) :
    exec (.srd f) s = .next (s.wrote e (.srd f) (e.putG f.g.toNat (s.sysReg e f.sys.toNat))) := by
  refine issue_done (t := (s.begun e).modGrp e.who (e.putG f.g.toNat (s.sysReg e f.sys.toNat))) h rfl
    ((if_neg (srd_allowed hp)).trans ((if_neg hn).trans ?_))
  rw [sysReg_begun]

theorem settled_begun (h : Settled s e) : Settled (s.begun e) e := h

theorem srd_gstat (h : Issues s e (.srd f)) (hn : f.sys.toNat = 0x10) (hs : Settled s e) :
    exec (.srd f) s = .next (s.wrote e (.srd f) (e.putG f.g.toNat (e.gr.gstat.setWidth 64))) := by
  refine issue_done h rfl ((if_neg ?_).trans ((if_pos hn).trans ?_))
  · rw [hn]
    exact Bool.false_ne_true
  · rw [complete_settled (settled_begun hs)]
    dsimp only
    rw [(settled_begun hs).1, envOf_begun_eq (State.env_some h.env).1, hn]
    rfl

theorem swr_priv (h : Issues s e (.swr f)) (hp : sysHc f.sys.toNat = true ∨ (sysSv f.sys.toNat = true ∧ e.fr.inH = false)) :
    exec (.swr f) s = .next (s.trapped e (.swr f) (e.trapOf (.instr .priv))) := by
  refine issue_instr h rfl (if_pos ?_)
  rcases hp with hc | ⟨hs, hh⟩
  · rw [hc]
    rfl
  · rw [hs, hh]
    exact Bool.or_true _

theorem swr_writes (h : Issues s e (.swr f)) (hc : sysHc f.sys.toNat = false)
    (hs : sysSv f.sys.toNat = false ∨ e.fr.inH = true) :
    exec (.swr f) s = .next (s.wrote e (.swr f) (fun g => g.swr f.sys.toNat (e.g f.g.toNat))) := by
  refine issue_done h rfl (if_neg ?_)
  rw [hc]
  rcases hs with hs | hs
  · rw [hs]
    exact Bool.false_ne_true
  · rw [hs, Bool.not_true, Bool.and_false]
    exact Bool.false_ne_true

end

/-- The lowest lane of a mask. -/
theorem lowLane_eq {m : Word} {l : Nat} (hl : m.getLsbD l = true) (hk : ∀ k, k < l → m.getLsbD k = false) : lowLane m = l := by
  have hlt : l < 64 := BitVec.lt_of_getLsbD hl
  have hnil : (List.range l).filter (fun l => m.getLsbD l) = [] :=
    List.filter_eq_nil_iff.mpr fun k hm => by rw [hk k (List.mem_range.mp hm)]; exact Bool.false_ne_true
  have hsplit : List.range 64 = List.range l ++ (List.range (64 - l)).map (l + ·) := by
    rw [← List.range_add, Nat.add_sub_cancel' hlt.le]
  have hcons : 64 - l = (63 - l) + 1 := by lia
  unfold lowLane lanesOf
  rw [hsplit, List.filter_append, hnil, List.nil_append, hcons, List.range_succ_eq_map, List.map_cons, Nat.add_zero,
    List.filter_cons_of_pos hl]
  rfl

/-- `%mstk` holds DEPTH and FLOOR and no more. -/
theorem bits_depth : ∀ d, d < 5 → ∀ f, f < 5 →
    bits (BitVec.ofNat 64 (d + 8 * f)) 63 6 = 0 ∧ bits (BitVec.ofNat 64 (d + 8 * f)) 5 3 = f ∧
      bits (BitVec.ofNat 64 (d + 8 * f)) 2 0 = d := by
  decide

theorem swr_low (g : Group) (x : Word) {n : Nat} (hn : n < 0x10) : g.swr n x = g := by
  interval_cases n <;> rfl

theorem swr_counters (g : Group) (x : Word) {n : Nat} (h1 : 0x21 ≤ n) (h2 : n ≤ 0x24) : g.swr n x = g := by
  interval_cases n <;> rfl

theorem swr_readOnly (g : Group) (x : Word) {n : Nat}
    (hn : n < 0x10 ∨ n = 0x12 ∨ n = 0x13 ∨ n = 0x14 ∨ (0x21 ≤ n ∧ n ≤ 0x24) ∨ n = 0x31) : g.swr n x = g := by
  rcases hn with h | rfl | rfl | rfl | ⟨h1, h2⟩ | rfl
  · exact swr_low g x h
  · rfl
  · rfl
  · rfl
  · exact swr_counters g x h1 h2
  · rfl

theorem tpc_swr (g : Group) (x : Word) : (g.swr 0x1A x).tpc = x := by
  show (Group.tpcWritten _).tpc = x
  unfold Group.tpcWritten
  split <;> rfl

theorem low8 (x : Word) : x.setWidth 8 = x.extractLsb' 0 8 := by
  ext i
  simp

/-- Settles O28: the words, the registers that a group reads, and what a write to each changes. -/
theorem systemRegisters : Obligations.SystemRegisters := by
  refine ⟨fun s e f => ⟨srd_priv, srd_reads, srd_gstat, swr_priv, fun h hc hs => swr_writes h hc hs⟩, fun s e => ?_, fun g x => ?_⟩
  · exact ⟨fun l hl hk => congrArg (BitVec.ofNat 64) (lowLane_eq hl hk), rfl, rfl, rfl, rfl, rfl, rfl, rfl, rfl, rfl, rfl, rfl,
      rfl, rfl, rfl, rfl, rfl, rfl, rfl, rfl, rfl, rfl, rfl, rfl, fun hd hf => bits_depth _ (Nat.lt_succ_of_le hd) _ (Nat.lt_succ_of_le hf)⟩
  · refine ⟨by rw [low8]; rfl, by rw [low8]; rfl, rfl, rfl, rfl, rfl, rfl, rfl, rfl, rfl, tpc_swr g x, fun h hh => ?_, fun h hh => ?_,
      rfl, fun h => ?_, fun h => ?_, fun n hn => swr_readOnly g x hn⟩
    · exact ⟨{ h with tpcWritten := true }, by show (Group.tpcWritten _).hnd = _; unfold Group.tpcWritten; rw [hh], rfl⟩
    · show { g with tlanes := x &&& g.trapExec } = _
      unfold Group.trapExec
      rw [hh]
    · show (g.thrp && !bit x 32) = false
      rw [h, Bool.not_true, Bool.and_false]
    · show (g.thrp && !bit x 32) = g.thrp
      rw [h, Bool.not_false, Bool.and_true]

end Sys2Proof.Machine
end

section
/-! The meter's window, the promotions and the supply's timers (R184, R185, R213 to R221). -/

namespace Sys2Proof.Machine

/-! Maps with a default. -/

theorem AMap.get_mapVal {α : Type} {d : α} {f : Nat → α → α} (hd : ∀ k, f k d = d) (m : AMap α) (k : Nat) :
    AMap.get d (AMap.mapVal m f) k = f k (AMap.get d m k) := by
  unfold AMap.get
  rw [AMap.find_mapVal]
  cases AMap.find m k with
  | none => exact (hd k).symm
  | some x => rfl

theorem AMap.sorted_mapVal {α : Type} {m : AMap α} (f : Nat → α → α) (hs : AMap.sorted m = true) :
    AMap.sorted (AMap.mapVal m f) = true := by
  rw [AMap.sorted_iff_pairwise] at hs ⊢
  exact List.pairwise_map.mpr hs

/-- Entries equal to the default need not be listed. -/
theorem AMap.get_filter_ne {α : Type} [DecidableEq α] {d : α} {m : AMap α} (hs : AMap.sorted m = true) (k : Nat) :
    AMap.get d (m.filter (fun l => l.2 != d)) k = AMap.get d m k := by
  unfold AMap.get
  cases h : AMap.find m k with
  | some x =>
    rw [AMap.find_filter hs _ h]
    by_cases hx : x = d
    · rw [if_neg (by simp [hx]), hx]
      rfl
    · rw [if_pos (bne_iff_ne.mpr hx)]
  | none =>
    cases hf : AMap.find (m.filter (fun l => l.2 != d)) k with
    | none => rfl
    | some y =>
      have hy := AMap.find_of_mem hs (List.mem_filter.mp (AMap.mem_of_find hf)).1
      rw [h] at hy
      cases hy

section
variable {s : State} {core slice : Nat}

/-- Only one core differs, and no memory. -/
theorem modCore_only (s : State) (core : Nat) (f : Core → Core) :
    (s.modCore core f).tick.core core = f (s.core core) ∧ (∀ k, k ≠ core → (s.modCore core f).tick.core k = s.core k) ∧
      (s.modCore core f).tick.mem = s.mem :=
  ⟨(s.core_modCore ..).trans (if_pos rfl), fun k hk => (s.core_modCore ..).trans (if_neg hk), rfl⟩

/-- Only one slice of one core differs. -/
theorem modSlice_only (s : State) (core slice : Nat) (f : Slice → Slice) :
    ((s.modSlice core slice f).tick.core core).slice slice = f ((s.core core).slice slice) ∧
      (∀ n, n ≠ slice → ((s.modSlice core slice f).tick.core core).slice n = (s.core core).slice n) ∧
      (∀ k, k ≠ core → (s.modSlice core slice f).tick.core k = s.core k) ∧
      (s.modSlice core slice f).tick.teams = s.teams ∧ (s.modSlice core slice f).tick.mem = s.mem := by
  have h : (s.modSlice core slice f).tick.core core = (s.core core).modSlice slice f :=
    (modCore_only s core (fun k => k.modSlice slice f)).1
  rw [h, Core.slice_modSlice]
  exact ⟨if_pos rfl, fun n hn => (Core.slice_modSlice ..).trans (if_neg hn),
    (modCore_only s core (fun k => k.modSlice slice f)).2.1, rfl, rfl⟩

/-- What the end of a window leaves of a group. -/
theorem grp_postThrottle {tid n : Nat} {t : Team} {g : Group} (ht : AMap.find s.teams tid = some t)
    (hg : AMap.find t.groups n = some g) : (s.postThrottle core).grp? { tid := tid, grp := n, frag := 0 } =
      some (if t.onCore core = true ∧ g.thr = true then { g with thrp := true } else g) := by
  unfold State.grp? State.postThrottle
  dsimp only
  rw [AMap.find_mapVal, ht]
  dsimp only [Option.map_some]
  cases hc : t.onCore core with
  | false =>
    rw [if_neg Bool.false_ne_true, hg]
    rfl
  | true =>
    rw [if_pos rfl]
    dsimp only
    rw [AMap.find_mapVal, hg]
    cases hr : g.thr <;> simp [hr]

theorem endWindow_core (s : State) (core j : Nat) : (s.endWindow core).core j = (s.modCore core (fun c =>
    { c with curmSum := c.sum % 2 ^ 32, curmDen := min c.denials 0xFFFF, sum := 0, denials := 0 })).core j := by
  unfold State.endWindow
  dsimp only
  split <;> rfl

theorem endWindow_group {tid n : Nat} {t : Team} {g : Group} (ht : AMap.find s.teams tid = some t)
    (hg : AMap.find t.groups n = some g) : (s.endWindow core).grp? { tid := tid, grp := n, frag := 0 } =
      some (if (s.core core).denials ≠ 0 ∧ t.onCore core = true ∧ g.thr = true then { g with thrp := true } else g) := by
  unfold State.endWindow
  dsimp only
  by_cases hd : (s.core core).denials = 0
  · rw [if_pos hd, if_neg (fun h => h.1 hd)]
    show (match AMap.find s.teams tid with | none => none | some t => AMap.find t.groups n) = _
    rw [ht]
    exact hg
  · rw [if_neg hd]
    refine (grp_postThrottle (s := s.modCore core _) ht hg).trans (congrArg some ?_)
    simp only [ne_eq, hd, not_false_eq_true, true_and]

theorem graceIssue_graces {who : Sel} {e : Env} (he : s.envOf who = some e) (hc : e.canIssue = true) (ht : e.gr.thrp = true)
    (hd : s.denied e = true) :
    exec (.graceIssue who) s = .next (s.modFrag who (fun f => { f with grace := true })).tick := by
  show execGraceIssue who s = _
  unfold execGraceIssue
  rw [he]
  dsimp only
  rw [hc, ht, hd]
  rfl

theorem graceIssue_none {who : Sel} {e : Env} (he : s.envOf who = some e) (ht : e.gr.thrp = false) :
    exec (.graceIssue who) s = .next s.tick := by
  show execGraceIssue who s = _
  unfold execGraceIssue
  rw [he]
  dsimp only
  rw [ht, Bool.and_false, Bool.false_and]
  rfl

theorem starvation_eq {who : Sel} {e : Env} (he : s.envOf who = some e) : exec (.starvationPromotion who) s =
    .next (if s.willing e && !s.denied e && !e.stuck then s.modFrag who (fun f => { f with promoted := true }) else s).tick := by
  show execStarvationPromotion who s = _
  unfold execStarvationPromotion
  rw [he]

theorem starvation_none {who : Sel} {e : Env} (he : s.envOf who = some e)
    (h : s.willing e = false ∨ s.denied e = true ∨ e.stuck = true) : exec (.starvationPromotion who) s = .next s.tick := by
  rw [starvation_eq he, if_neg]
  rcases h with h | h | h <;> simp [h]

theorem quietPeriod_core (s : State) (core : Nat) (c : Core) :
    (if s.mgnHw core && !c.quar && decide (c.ofs < c.omax) then c.raiseOfs (c.ofs + 1) else c) =
      if s.mgnHw core = true ∧ c.quar = false ∧ c.ofs < c.omax then { c with ofs := c.ofs + 1, slew := true } else c := by
  have hr : c.raiseOfs (c.ofs + 1) = { c with ofs := c.ofs + 1, slew := true } := if_pos (Nat.lt_succ_self _)
  rw [hr]
  refine if_congr ?_ rfl rfl
  rw [Bool.and_eq_true, Bool.and_eq_true, Bool.not_eq_true', decide_eq_true_iff, and_assoc]

theorem teWindow_slice {c : Core} (hs : AMap.sorted c.slices = true) (n : Nat) :
    AMap.get ({} : Slice) ((AMap.mapVal c.slices (fun _ l => { l with teWin := 0 })).filter (fun l => l.2 != {})) n =
      { c.slice n with teWin := 0 } :=
  (AMap.get_filter_ne (AMap.sorted_mapVal _ hs) n).trans (AMap.get_mapVal (fun _ => rfl) _ _)

end

/-- Settles O46: each timer from what its event does to the core, the slice or the fragment. -/
theorem marginTimers : Obligations.MarginTimers := by
  intro s core slice
  refine ⟨⟨_, rfl, ⟨?_, fun k hk => ?_, ?_⟩, fun tid tm n g ht hg => endWindow_group ht hg⟩,
    fun who e he => ⟨graceIssue_graces he, graceIssue_none he, fun hw hd hs => ?_, starvation_none he⟩,
    ⟨_, rfl, modSlice_only ..⟩, fun hq => ⟨_, congrArg (fun t : State => Host.Outcome.next t.tick) (if_neg ?_), modSlice_only ..⟩,
    fun hq => congrArg (fun t : State => Host.Outcome.next t.tick) (if_pos hq), ⟨_, rfl, modCore_only ..⟩,
    ⟨_, rfl, (modCore_only ..).1.trans (quietPeriod_core ..), (modCore_only ..).2⟩, fun hs => ⟨_, rfl, ?_, ?_, fun n => ?_⟩⟩
  · exact (endWindow_core ..).trans ((s.core_modCore ..).trans (if_pos rfl))
  · exact (endWindow_core ..).trans ((s.core_modCore ..).trans (if_neg hk))
  · exact State.mem_ite rfl rfl
  · rw [starvation_eq he, hw, hd, hs]
    rfl
  · rw [hq]
    exact Bool.false_ne_true
  · exact congrArg Core.win (modCore_only ..).1
  · exact congrArg Core.stepped (modCore_only ..).1
  · rw [(modCore_only ..).1]
    exact teWindow_slice hs n

end Sys2Proof.Machine
end

section
/-! The lane stores (R315, R59), and what the lanes of an access plan. -/

namespace Sys2Proof.Machine

/-! A plan in which every lane passes. -/

section
variable {s : State} {e : Env} {acc : Acc} {m : Word} {ea : Nat → Word} {place : Nat → Where}

theorem plan_begun (s : State) (e : Env) (k : MemKind) (n : Nat) (ea : Nat → Word) (m : Word) :
    (s.begun e).plan e ((s.begun e).acc e k n) ea m = s.plan e (s.acc e k n) ea m :=
  List.map_congr_left fun l _ => congrArg (Prod.mk l) (State.access_modGrp ..)

/-- The lanes of a mask, each with its place. -/
noncomputable def placesOf (m : Word) (place : Nat → Where) : List (Nat × Where) := (lanesOf m).map (fun l => (l, place l))

theorem plan_of_reaches (h : Reaches s e acc m ea place) :
    s.plan e acc ea m = (placesOf m place).map (fun p => (p.1, .ok p.2)) := by
  unfold State.plan placesOf
  rw [List.map_map]
  exact List.map_congr_left fun l hl => congrArg (Prod.mk l) (h l (mem_lanesOf.mp hl).2).1

theorem passed_ok (ps : List (Nat × Where)) : passed (ps.map (fun p => (p.1, .ok p.2))) = ps := by
  unfold passed
  rw [List.filterMap_map]
  exact List.filterMap_some

theorem failed_ok (ps : List (Nat × Where)) : failed (ps.map (fun p => (p.1, .ok p.2))) = [] := by
  unfold failed
  rw [List.filterMap_map]
  exact List.filterMap_eq_nil_iff.mpr fun _ _ => rfl

theorem present_of_reaches (h : Reaches s e acc m ea place) :
    ¬ (placesOf m place).any (fun x => e.absent acc.n x.2) = true := by
  rw [Bool.not_eq_true, List.any_eq_false]
  intro x hx
  obtain ⟨l, hl, rfl⟩ := List.mem_map.mp hx
  exact Bool.not_eq_true _ ▸ (h l (mem_lanesOf.mp hl).2).2

end

theorem storeLanes_placesOf (m : Word) (place : Nat → Where) (val : Nat → List Byte) :
    storeLanes (placesOf m place) val = (lanesOf m).flatMap (fun l => lanePieces l (storeBytes (place l) (val l))) :=
  List.flatMap_map ..

theorem st_stores {s : State} {e : Env} {f : MF} {place : Nat → Where} (h : Issues s e (.st f))
    (hb : e.badBlock f.bytes f.data.toNat = false) (hv : e.badVo f = false)
    (hr : Reaches s e (s.acc e .store f.bytes) (e.active (Instr.st f).guard) (f.ea e f.off15) place) :
    exec (.st f) s = .next ((((s.begun e).releaseIf e f.ord).track e (.st f)
      ((lanesOf (e.active (Instr.st f).guard)).flatMap (fun l =>
        lanePieces l (storeBytes (place l) (e.gr.storeVal f.data.toNat l f.bytes)))) [] none).issued s e (.st f)) := by
  refine issue_done h rfl ((if_neg ?_).trans ?_)
  · rw [hb, hv]
    exact Bool.false_ne_true
  · dsimp only
    rw [plan_begun, show e.lanesFor (.st f) = e.active (Instr.st f).guard from rfl, plan_of_reaches hr, passed_ok, failed_ok]
    refine (if_neg (present_of_reaches hr)).trans ?_
    rw [storeLanes_placesOf]
    rfl

/-- The issue of a word moves no byte, with the trace of single steps aside. -/
theorem issued_mem (u s : State) (e : Env) (i : Instr) (hs : e.gr.stepOn = false) : (u.issued s e i).mem = u.mem := by
  show ((_ : State).stepStop e).mem = _
  unfold State.stepStop
  rw [hs, if_neg Bool.false_ne_true, State.log_mem]
  exact State.mem_ite rfl (State.completed_mem ..)

/-- A relaxed store moves no byte before the gate lets it go. -/
theorem st_relaxed {s : State} {e : Env} {f : MF} (bs : List StByte) (ho : f.ord = 0) (hs : e.gr.stepOn = false) (a : Nat) :
    ((((s.begun e).releaseIf e f.ord).track e (.st f) bs [] none).issued s e (.st f)).rd a = s.rd a := by
  refine congrArg (fun m => AMap.get 0 m a) ((issued_mem _ _ _ _ hs).trans ((State.track_mem ..).trans ?_))
  rw [ho]
  rfl

/-! The melded forms. -/

/-- With the lanes of the arms apart, each lane has at most one arm. -/
theorem flatMap_arms {α : Type} {arms : List Arm} (ha : apart arms) (g : Arm → List α) (l : Nat) :
    arms.flatMap (fun x => if x.m.getLsbD l then g x else []) = ((arms.find? (fun x => x.m.getLsbD l)).map g).getD [] := by
  induction arms with
  | nil => rfl
  | cons x xs ih =>
    obtain ⟨hx, hxs⟩ := List.pairwise_cons.mp ha
    rw [List.flatMap_cons, List.find?_cons]
    cases hm : x.m.getLsbD l with
    | false => exact ih hxs
    | true =>
      have hnil : xs.flatMap (fun x => if x.m.getLsbD l then g x else []) = [] := by
        refine List.flatMap_eq_nil_iff.mpr fun y hy => if_neg fun hc => ?_
        have h0 := congrArg (BitVec.getLsbD · l) (hx y hy)
        rw [BitVec.getLsbD_and, hm, hc] at h0
        simp at h0
      rw [hnil]
      exact List.append_nil _

theorem filter_lane {α : Type} (m : Word) (h : Nat → α) {l : Nat} (hl : l < 64) :
    ((lanesOf m).map (fun k => (k, h k))).filter (fun x => x.1 == l) = if m.getLsbD l then [(l, h l)] else [] := by
  have hf : (lanesOf m).filter (fun k => k == l) = if m.getLsbD l then [l] else [] := by
    have hnd : (lanesOf m).Nodup := List.nodup_range.filter _
    rw [List.filter_beq, hnd.count]
    by_cases hm : m.getLsbD l = true
    · rw [if_pos (mem_lanesOf.mpr ⟨hl, hm⟩), if_pos hm]
      rfl
    · rw [if_neg fun hc => hm (mem_lanesOf.mp hc).2, if_neg hm]
      rfl
  rw [List.filter_map]
  show ((lanesOf m).filter (fun k => k == l)).map _ = _
  rw [hf]
  split <;> rfl

theorem byLane_arms {α : Type} {arms : List Arm} (ha : apart arms) (h : Arm → Nat → α) :
    byLane (arms.flatMap (fun x => (lanesOf x.m).map (fun l => (l, h x l)))) =
      (List.range 64).flatMap (fun l => ((arms.find? (fun x => x.m.getLsbD l)).map (fun x => [(l, h x l)])).getD []) := by
  unfold byLane
  refine List.flatMap_congr fun l hl => ?_
  rw [List.filter_flatMap, ← flatMap_arms ha]
  exact List.flatMap_congr fun x _ => filter_lane x.m (h x) (List.mem_range.mp hl)

section
variable {s : State} {e : Env} {f : VMF} {acc : Acc} {place : Nat → Where}
  (hr : ∀ x, x ∈ f.arms e → Reaches s e acc x.m (fun l => e.gr.vReg64 x.a l) place)

/-- The lanes of the arms in ascending order, each with its place. -/
noncomputable def armPlaces (arms : List Arm) (place : Nat → Where) : List (Nat × Where) :=
  (List.range 64).flatMap (fun l => ((arms.find? (fun x => x.m.getLsbD l)).map (fun _ => [(l, place l)])).getD [])

theorem armPlaces_eq (ha : apart (f.arms e)) :
    armPlaces (f.arms e) place = byLane ((f.arms e).flatMap (fun x => placesOf x.m place)) :=
  (byLane_arms ha fun _ l => place l).symm

include hr

theorem plan_arms : byLane ((f.arms e).flatMap (fun x => s.plan e acc (fun l => e.gr.vReg64 x.a l) x.m)) =
    (armPlaces (f.arms e) place).map (fun p => (p.1, .ok p.2)) := by
  rw [List.flatMap_congr fun x hx => plan_of_reaches (hr x hx), armPlaces_eq (apart_arms f e)]
  unfold byLane
  rw [List.map_flatMap]
  refine List.flatMap_congr fun l _ => ?_
  rw [← List.map_flatMap, List.filter_map]
  rfl

theorem present_of_arms : ¬ (armPlaces (f.arms e) place).any (fun x => e.absent acc.n x.2) = true := by
  rw [Bool.not_eq_true, List.any_eq_false, armPlaces_eq (apart_arms f e)]
  intro p hp
  obtain ⟨l, -, hl⟩ := List.mem_flatMap.mp hp
  obtain ⟨x, hx, hpx⟩ := List.mem_flatMap.mp (List.mem_filter.mp hl).1
  exact List.any_eq_false.mp (Bool.not_eq_true _ ▸ present_of_reaches (hr x hx)) p hpx

end

theorem storeLanes_arms {arms : List Arm} {place : Nat → Where} {v : Nat → List Byte} {val : Arm → Nat → List Byte}
    (hv : ∀ l x, arms.find? (fun x => x.m.getLsbD l) = some x → v l = val x l) :
    storeLanes (armPlaces arms place) v =
      (List.range 64).flatMap (fun l => match arms.find? (fun x => x.m.getLsbD l) with
        | none => []
        | some x => lanePieces l (storeBytes (place l) (val x l))) := by
  unfold storeLanes armPlaces
  rw [List.flatMap_assoc]
  refine List.flatMap_congr fun l _ => ?_
  cases h : arms.find? (fun x => x.m.getLsbD l) with
  | none => rfl
  | some x => exact (List.append_nil _).trans (congrArg (fun b => lanePieces l (storeBytes (place l) b)) (hv l x h))

/-- Registers that every arm may name. -/
theorem arms_in_range {arms : List Arm} {p q : Arm → Bool}
    (h : arms.all (fun x => !p x && x.a % 2 == 0 && !q x) = true) :
    ¬ arms.any (fun x => p x || x.a % 2 == 1 || q x) = true := by
  rw [Bool.not_eq_true, List.any_eq_false]
  intro x hx hc
  have hx' := List.all_eq_true.mp h x hx
  rw [Bool.and_eq_true, Bool.and_eq_true, Bool.not_eq_true', Bool.not_eq_true'] at hx'
  obtain ⟨⟨hp, ha⟩, hq⟩ := hx'
  rw [hp, hq, eq_of_beq ha] at hc
  exact Bool.false_ne_true hc

theorem stMelded_stores {s : State} {e : Env} {f : VMF} {place : Nat → Where} (h : Issues s e (.stMelded f))
    (ha : (f.arms e).all (fun x => !e.over x.b && x.a % 2 == 0 && !e.over (x.a + 1)) = true)
    (hr : ∀ x, x ∈ f.arms e → Reaches s e (s.acc e .store 4) x.m (fun l => e.gr.vReg64 x.a l) place) :
    exec (.stMelded f) s = .next (((s.begun e).track e (.stMelded f)
      ((List.range 64).flatMap (fun l => match (f.arms e).find? (fun x => x.m.getLsbD l) with
        | none => []
        | some x => lanePieces l (storeBytes (place l) (leBytes 4 (e.gr.vReg x.b l).toNat)))) [] none).issued s e
          (.stMelded f)) := by
  refine issue_done h rfl ((if_neg (arms_in_range ha)).trans ?_)
  dsimp only
  rw [List.flatMap_congr fun x _ => plan_begun s e .store 4 (fun l => e.gr.vReg64 x.a l) x.m, plan_arms hr, passed_ok,
    failed_ok]
  refine (if_neg (present_of_arms hr)).trans ?_
  rw [storeLanes_arms (val := fun x l => leBytes 4 (e.gr.vReg x.b l).toNat) fun l x hx => by rw [hx]; rfl]
  rfl

/-- Settles O33: each lane's bytes stand at the gate, in the order of the lanes. -/
theorem laneStores : Obligations.LaneStores := by
  refine fun s e place => ⟨fun f h hb hv hr => ⟨st_stores h hb hv hr, fun ho hs => ⟨_, st_stores h hb hv hr, fun a => ?_⟩⟩,
    fun f h ha hr => stMelded_stores h ha hr⟩
  exact st_relaxed _ ho hs a

end Sys2Proof.Machine
end

section
/-! Group stores, atomics and their faults (R261, R262, R287, R288). -/

namespace Sys2Proof.Machine

section
variable {s : State} {e : Env} {f : MF} {w : Where}

/-- An access is checked as it stood before the issue. -/
theorem access_begun (s : State) (e : Env) (t : Team) (k : MemKind) (n : Nat) (a : Word) :
    (s.begun e).access t ((s.begun e).acc e k n) a = s.access t (s.acc e k n) a := State.access_modGrp ..

theorem loadAccess_begun (s : State) (e : Env) (t : Team) (poc : Bool) (n : Nat) (a : Word) :
    (s.begun e).access t ((s.begun e).loadAcc e poc n) a = s.access t (s.loadAcc e poc n) a := State.access_modGrp ..

theorem gst_stores (h : Issues s e (.gst f)) (ha : s.access e.tm (s.acc e .store f.bytes) (e.groupEa f f.off15) = .ok w)
    (hw : e.absent f.bytes w = false) :
    exec (.gst f) s = .next ((((s.begun e).releaseIf e f.ord).track e (.gst f)
      (storeBytes w (leBytes f.bytes (e.g f.data.toNat).toNat)) [] none).issued s e (.gst f)) := by
  refine issue_done h rfl ?_
  dsimp only
  rw [access_begun, ha]
  dsimp only
  rw [hw]
  rfl

theorem gatom_replaces (h : Issues s e (.gatom f))
    (ha : s.access e.tm (s.acc e .atomic f.bytes) (e.groupEa f f.off10) = .ok w) (hw : e.absent f.bytes w = false) :
    exec (.gatom f) s = .next (let r := ((s.begun e).releaseIf e f.ord).atomic e w f.bytes (fun old =>
        some (atomOp f.op.toNat (8 * f.bytes) old ((e.g f.data.toNat).toNat % 256 ^ f.bytes)))
      ((if f.off.getLsbD 10 then r.2.modGrp e.who (e.putG f.data.toNat (BitVec.ofNat 64 r.1)) else r.2).track e (.gatom f) [] []
        none (if f.off.getLsbD 10 then [e.sbG f.data.toNat] else [])).issued s e (.gatom f)) := by
  refine issue_done h rfl ?_
  dsimp only
  rw [access_begun, ha]
  dsimp only
  rw [hw]
  rfl

/-- The lanes of a mask are none where the mask is zero. -/
theorem placesOf_ne_nil {m : Word} {place : Nat → Where} : (placesOf m place != []) = decide (m ≠ 0) := by
  rw [Bool.eq_iff_iff, bne_iff_ne, decide_eq_true_iff, not_iff_not]
  unfold placesOf
  rw [List.map_eq_nil_iff]
  refine ⟨fun h => BitVec.eq_of_getLsbD_eq fun l hl => ?_, fun h => ?_⟩
  · refine (Bool.not_eq_true _ ▸ fun hm => ?_ : m.getLsbD l = false).trans (BitVec.getLsbD_zero (w := 64)).symm
    exact List.not_mem_nil (h ▸ mem_lanesOf.mpr ⟨hl, hm⟩)
  · refine List.eq_nil_iff_forall_not_mem.mpr fun l hl => Bool.false_ne_true ?_
    exact (BitVec.getLsbD_zero (w := 64)).symm.trans (h ▸ (mem_lanesOf.mp hl).2)

theorem laneAtomic_done {i : Instr} {new : Nat → Nat → Option (Nat × Flags)} {place : Nat → Where}
    (hr : Reaches s e (s.acc e .atomic f.bytes) (e.lanesFor i) (f.ea e f.off10) place) :
    (s.begun e).laneAtomic e i f new =
      .done ((((s.begun e).releaseIf e f.ord).atomLanes e f new (placesOf (e.lanesFor i) place)).track e i [] [] none
        (if f.off.getLsbD 10 = true ∧ e.lanesFor i ≠ 0 then dataRegs f.data.toNat f.bytes else [])) := by
  unfold State.laneAtomic
  dsimp only
  rw [plan_begun, plan_of_reaches hr, passed_ok, failed_ok]
  refine (if_neg (present_of_reaches hr)).trans ?_
  rw [placesOf_ne_nil]
  simp only [Bool.and_eq_true, decide_eq_true_iff]
  rfl

theorem atom_replaces {place : Nat → Where} (h : Issues s e (.atom f)) (hb : e.badBlock f.bytes f.data.toNat = false)
    (hv : e.badVo f = false) (hr : Reaches s e (s.acc e .atomic f.bytes) (e.lanesFor (.atom f)) (f.ea e f.off10) place) :
    exec (.atom f) s = .next (((((s.begun e).releaseIf e f.ord).atomLanes e f
      (fun l old => some (atomOp f.op.toNat (8 * f.bytes) old (e.gr.atomVal f.data.toNat l f.bytes)))
        (placesOf (e.lanesFor (.atom f)) place)).track e (.atom f) [] [] none
          (if f.off.getLsbD 10 = true ∧ e.lanesFor (.atom f) ≠ 0 then dataRegs f.data.toNat f.bytes else [])).issued s e
            (.atom f)) := by
  refine issue_done h rfl ((if_neg ?_).trans (laneAtomic_done hr))
  rw [hb, hv]
  exact Bool.false_ne_true

theorem acas_replaces {place : Nat → Where} (h : Issues s e (.acas f)) (hb : e.badBlock f.bytes f.data.toNat = false)
    (ho : e.over (f.data.toNat + f.bytes / 2 - 1) = false) (hv : e.badVo f = false)
    (hr : Reaches s e (s.acc e .atomic f.bytes) (e.lanesFor (.acas f)) (f.ea e f.off10) place) :
    exec (.acas f) s = .next (((((s.begun e).releaseIf e f.ord).atomLanes e f
      (fun l old => if old = e.gr.atomVal f.data.toNat l f.bytes then
        some (e.gr.atomVal (f.data.toNat + f.bytes / 4) l f.bytes, 0) else none)
        (placesOf (e.lanesFor (.acas f)) place)).track e (.acas f) [] [] none
          (if f.off.getLsbD 10 = true ∧ e.lanesFor (.acas f) ≠ 0 then dataRegs f.data.toNat f.bytes else [])).issued s e
            (.acas f)) := by
  refine issue_done h rfl ((if_neg ?_).trans (laneAtomic_done hr))
  rw [hb, ho, hv]
  exact Bool.false_ne_true

/-- The fault of a group access. -/
theorem groupAccess_faults {i : Instr} {k : MemKind} {acc : Acc} {a b : Word} {r : MemReason}
    (hi : (i = .gld f ∧ k = .load ∧ acc = s.loadAcc e (readsPoc f) f.bytes ∧ a = e.groupEa f f.off15) ∨
      (i = .gst f ∧ k = .store ∧ acc = s.acc e .store f.bytes ∧ a = e.groupEa f f.off15) ∨
      (i = .gatom f ∧ k = .atomic ∧ acc = s.acc e .atomic f.bytes ∧ a = e.groupEa f f.off10))
    (h : Issues s e i) (ha : s.access e.tm acc a = .error (r, b)) :
    exec i s = .next (s.trapped e i { cause := .mem k r, pc := e.pc, va := a, lanes := e.fr.exec }) := by
  rcases hi with ⟨rfl, rfl, rfl, rfl⟩ | ⟨rfl, rfl, rfl, rfl⟩ | ⟨rfl, rfl, rfl, rfl⟩
  · refine issue_trapped h rfl ?_
    dsimp only
    rw [loadAccess_begun, ha]
    rfl
  · refine issue_trapped h rfl ?_
    dsimp only
    rw [access_begun, ha]
    rfl
  · refine issue_trapped h rfl ?_
    dsimp only
    rw [access_begun, ha]
    rfl

end

/-! The operations (R261). -/

section
variable {w : Nat} (hw : 0 < w) (a b : BitVec w)
include hw

theorem toInt_eq_signed : a.toInt = if 2 ^ (w - 1) ≤ a.toNat then (a.toNat : Int) - 2 ^ w else a.toNat := by
  have h2 : 2 ^ w = 2 * 2 ^ (w - 1) := by rw [← pow_succ', Nat.sub_add_cancel hw]
  rw [BitVec.toInt_eq_toNat_cond, h2]
  by_cases h : 2 ^ (w - 1) ≤ a.toNat
  · rw [if_pos h, if_neg (Nat.not_lt.mpr (Nat.mul_le_mul_left 2 h))]
    exact congrArg ((a.toNat : Int) - ·) (by rw [← h2, Nat.cast_pow]; rfl : ((2 * 2 ^ (w - 1) : Nat) : Int) = 2 ^ w)
  · rw [if_neg h, if_pos (Nat.mul_lt_mul_of_pos_left (Nat.not_le.mp h) (by decide))]

theorem atomOp_ints :
    atomOp 0 w a.toNat b.toNat = ((a + b).toNat, 0) ∧ atomOp 1 w a.toNat b.toNat = ((a &&& b).toNat, 0) ∧
    atomOp 2 w a.toNat b.toNat = ((a ||| b).toNat, 0) ∧ atomOp 3 w a.toNat b.toNat = ((a ^^^ b).toNat, 0) ∧
    atomOp 4 w a.toNat b.toNat = ((if b.toInt < a.toInt then b else a).toNat, 0) ∧
    atomOp 5 w a.toNat b.toNat = ((if a.toInt < b.toInt then b else a).toNat, 0) ∧
    atomOp 6 w a.toNat b.toNat = ((if b < a then b else a).toNat, 0) ∧
    atomOp 7 w a.toNat b.toNat = ((if a < b then b else a).toNat, 0) ∧ atomOp 8 w a.toNat b.toNat = (b.toNat, 0) := by
  refine ⟨?_, ?_, ?_, ?_, ?_, ?_, ?_, ?_, rfl⟩
  · exact congrArg (·, 0) (BitVec.toNat_add a b).symm
  · exact congrArg (·, 0) (BitVec.toNat_and ..).symm
  · exact congrArg (·, 0) (BitVec.toNat_or ..).symm
  · exact congrArg (·, 0) (BitVec.toNat_xor ..).symm
  · rw [apply_ite BitVec.toNat, toInt_eq_signed hw, toInt_eq_signed hw]
    rfl
  · rw [apply_ite BitVec.toNat, toInt_eq_signed hw, toInt_eq_signed hw]
    rfl
  · rw [apply_ite BitVec.toNat]
    exact congrArg (·, 0) ((min_comm ..).trans (min_def_lt ..))
  · rw [apply_ite BitVec.toNat]
    exact congrArg (·, 0) (max_def_lt ..)

end

theorem atomOp_floats (a b : Lane) :
    atomOp 9 32 a.toNat b.toNat = ((fadd .rne a b).1.toNat, (fadd .rne a b).2) ∧
    atomOp 10 32 a.toNat b.toNat = ((fmin a b).1.toNat, (fmin a b).2) ∧
    atomOp 11 32 a.toNat b.toNat = ((fmax a b).1.toNat, (fmax a b).2) := by
  unfold atomOp
  rw [BitVec.ofNat_toNat, BitVec.ofNat_toNat, BitVec.setWidth_eq, BitVec.setWidth_eq]
  exact ⟨rfl, rfl, rfl⟩

/-- Settles O35: the words where their accesses reach, the faults, and the operations. -/
theorem storesAndAtomics : Obligations.StoresAndAtomics := by
  refine ⟨fun s e f => ⟨fun w h => gst_stores h, fun w h => gatom_replaces h, fun i new place hi h hb hv hr => ?_,
    fun i k acc a r b hi h ha => groupAccess_faults hi h ha⟩, fun w hw a b => atomOp_ints ?_ a b, atomOp_floats⟩
  · rcases hi with ⟨rfl, rfl⟩ | ⟨rfl, ho, rfl⟩
    · exact atom_replaces h hb hv hr
    · exact acas_replaces h hb ho hv hr
  · rcases hw with rfl | rfl
    · decide
    · decide

end Sys2Proof.Machine
end

section
/-! Opening and retiring views, and the view registers (R110 to R112). -/

namespace Sys2Proof.Machine

theorem gReg_setG (g : Group) (inH : Bool) (n m : Nat) (x : Word) :
    (g.setG inH n x).gReg inH m = if m = n then x else g.gReg inH m := by
  unfold Group.gReg
  rw [setG_eq]
  cases hn : inH && decide (56 ≤ n) <;> cases hm : inH && decide (56 ≤ m)
  · exact AMap.get_set ..
  · refine (if_neg fun h => ?_).symm
    rw [h, hn] at hm
    exact Bool.false_ne_true hm
  · refine (if_neg fun h => ?_).symm
    rw [h, hn] at hm
    exact Bool.false_ne_true hm.symm
  · have h1 := of_decide_eq_true (Bool.and_eq_true_iff.mp hn).2
    have h2 := of_decide_eq_true (Bool.and_eq_true_iff.mp hm).2
    refine (AMap.get_set ..).trans (if_congr ⟨fun h => ?_, fun h => by rw [h]⟩ rfl rfl)
    rw [← Nat.sub_add_cancel h1, ← h, Nat.sub_add_cancel h2]

/-- Words written to registers one after another. -/
theorem gReg_putBlock (e : Env) (n : Nat) (ws : List Word) (g : Group) (m : Nat) :
    (e.putBlock n ws g).gReg e.fr.inH m = if n ≤ m ∧ m < n + ws.length then ws.getD (m - n) 0 else g.gReg e.fr.inH m := by
  have key (ks : List Word) (k : Nat) (g : Group) :
      ((ks.zip (List.range' k ks.length)).foldl (fun g wi => e.putG (n + wi.2) wi.1 g) g).gReg e.fr.inH m =
        if n + k ≤ m ∧ m < n + k + ks.length then ks.getD (m - (n + k)) 0 else g.gReg e.fr.inH m := by
    induction ks generalizing k g with
    | nil => exact (if_neg fun h => absurd h.2 (Nat.not_lt.mpr h.1)).symm
    | cons x ks ih =>
      rw [List.length_cons, List.range'_succ, List.zip_cons_cons, List.foldl_cons, ih]
      unfold Env.putG
      rw [gReg_setG]
      by_cases hk : m = n + k
      · subst hk
        rw [if_neg (fun h => by lia), if_pos rfl, if_pos ⟨le_rfl, by lia⟩, Nat.sub_self]
        rfl
      · rw [if_neg hk]
        by_cases hr : n + (k + 1) ≤ m ∧ m < n + (k + 1) + ks.length
        · rw [if_pos hr, if_pos ⟨by lia, by lia⟩, show m - (n + k) = m - (n + (k + 1)) + 1 by lia]
          rfl
        · rw [if_neg hr, if_neg (fun h => hr ⟨by lia, by lia⟩)]
  unfold Env.putBlock
  rw [List.range_eq_range']
  exact key ws 0 g

theorem halves_addHalves (x y : Word) :
    (addHalves x y).extractLsb' 0 32 = x.extractLsb' 0 32 + y.extractLsb' 0 32 ∧
      (addHalves x y).extractLsb' 32 32 = x.extractLsb' 32 32 + y.extractLsb' 32 32 :=
  ⟨extractLsb'_append_last _ _ rfl, (BitVec.extractLsb'_append_eq_of_le (by decide)).trans (extractLsb'_self _ rfl)⟩

section
variable {s : State} {e : Env} {f : XF}

theorem wadv_moves {v : View} {o : Word × Word} (h : Issues s e (.wadv f)) (hh : e.held f.w1.toNat = some (v, o))
    (ha : f.gp.toNat ≤ 62) :
    exec (.wadv f) s = .next (s.wrote e (.wadv f) (fun g =>
      { g with holds := AMap.insert g.holds f.w1.toNat (addHalves o.1 (e.g f.gp.toNat), addHalves o.2 (e.g (f.gp.toNat + 1))) })) := by
  refine issue_done h rfl ((if_neg (Nat.not_lt.mpr ha)).trans ?_)
  rw [hh]

theorem wget_reads {v : View} {o : Word × Word} (h : Issues s e (.wget f)) (hh : e.held f.w1.toNat = some (v, o))
    (ha : f.gp.toNat % 8 = 0) :
    exec (.wget f) s = .next (s.wrote e (.wget f) (e.putBlock f.gp.toNat (v.words o))) := by
  refine issue_done h rfl ((if_neg ?_).trans ?_)
  · rw [ha]
    exact Bool.false_ne_true
  · rw [hh]

theorem wchk_writes {v w : View} {o q : Word × Word} (h : Issues s e (.wchk f)) (hv : e.held f.w1.toNat = some (v, o))
    (hw : e.held f.w2.toNat = some (w, q)) :
    exec (.wchk f) s = .next (s.wrote e (.wchk f) (fun g =>
      g.setGp (f.mode.extractLsb' 0 3).toNat (mayMeet v w))) := by
  refine issue_done h rfl ?_
  rw [hv, hw]

theorem teams_l1Invalidate (s : State) (core ctx : Nat) (v : View) : (s.l1Invalidate core ctx v).teams = s.teams := by
  unfold State.l1Invalidate
  split <;> rfl

/-- The issuer's group and the views of its team. -/
def Holding (u : State) (w : Sel) (g : Group) (vs : AMap View) : Prop :=
  ∃ t, AMap.find u.teams w.tid = some t ∧ AMap.find t.groups w.grp = some g ∧ t.views = vs

namespace Holding
variable {u u' : State} {w : Sel} {g : Group} {vs : AMap View} (h : Holding u w g vs)
include h

theorem of_teams (hu : u'.teams = u.teams) : Holding u' w g vs := by
  obtain ⟨t, ht, hr⟩ := h
  exact ⟨t, (congrArg (AMap.find · w.tid) hu).trans ht, hr⟩

theorem of_settles (hu : Settles u u') : Holding u' w g vs := by
  obtain ⟨t, ht, hr⟩ := h
  obtain ⟨sc, hs⟩ := hu.team w.tid
  exact ⟨{ t with scr := sc t }, hs.trans (by rw [ht]; rfl), hr⟩

theorem modGrp (f : Group → Group) : Holding (u.modGrp w f) w (f g) vs := by
  obtain ⟨t, ht, hg, hv⟩ := h
  refine ⟨t.modGrp w.grp f, (State.find_modTeam ..).trans ((if_pos rfl).trans (by rw [ht]; rfl)), ?_, hv⟩
  rw [Team.find_modGrp, if_pos rfl, hg]
  rfl

theorem modViews (f : AMap View → AMap View) :
    Holding (u.modTeam w.tid (fun t => { t with views := f t.views })) w g (f vs) := by
  obtain ⟨t, ht, hg, hv⟩ := h
  exact ⟨{ t with views := f t.views }, (State.find_modTeam ..).trans ((if_pos rfl).trans (by rw [ht]; rfl)), hg,
    congrArg f hv⟩

theorem grp : u.grp? w = some g := by
  obtain ⟨t, ht, hg, -⟩ := h
  unfold State.grp?
  rw [ht]
  exact hg

end Holding

theorem holding_begun (h : s.env = some e) : Holding (s.begun e) e.who (e.gr.used e.key) e.tm.views := by
  obtain ⟨-, ht, hg, -⟩ := State.envOf_some (envOf_begun_eq (State.env_some h).1)
  exact ⟨_, ht, hg, rfl⟩

theorem View.same_self (v : View) : v.same v = true := by
  unfold View.same
  simp only [beq_self_eq_true, Bool.and_self]

/-- The record that `wopen` reads. -/
noncomputable def recordOf (e : Env) (f : XF) : View :=
  { base := e.g f.gp.toNat, ctl := e.g (f.gp.toNat + 1), ext10 := e.g (f.gp.toNat + 2), ext32 := e.g (f.gp.toNat + 3),
    str10 := e.g (f.gp.toNat + 4), str32 := e.g (f.gp.toNat + 5), scope := f.mode.toNat }

/-- The group holds a view with these origins. -/
noncomputable def Group.hold (g : Group) (k : Nat) (o : Word × Word) : Group := { g with holds := AMap.insert g.holds k o }

/-- The state with the view held by the group, and its lines dropped from the L1 where the scope asks for it. -/
noncomputable def State.afterWopen (u : State) (e : Env) (f : XF) : State :=
  let v := u.modGrp e.who (·.hold f.w1.toNat (e.g (f.gp.toNat + 6), e.g (f.gp.toNat + 7)))
  if 3 ≤ f.mode.toNat then v.l1Invalidate e.gr.core e.tm.ctx (recordOf e f) else v

theorem afterWopen_mem (u : State) (e : Env) (f : XF) : (u.afterWopen e f).mem = u.mem :=
  State.mem_ite (State.l1Invalidate_mem ..) rfl

theorem Holding.afterWopen {u : State} {g : Group} {vs : AMap View} (h : Holding u e.who g vs) :
    Holding (u.afterWopen e f) e.who (g.hold f.w1.toNat (e.g (f.gp.toNat + 6), e.g (f.gp.toNat + 7))) vs := by
  unfold State.afterWopen
  dsimp only
  split
  · exact (h.modGrp _).of_teams (teams_l1Invalidate ..)
  · exact h.modGrp _

theorem wopen_opens (h : Issues s e (.wopen f)) (hp : f.gp.toNat ≤ 56) (hk : f.w1.toNat < e.tm.desc.views)
    (hn : AMap.find e.gr.holds f.w1.toNat = none) (hok : (recordOf e f).ok = true)
    (hv : AMap.find e.tm.views f.w1.toNat = none ∨
      ∃ w, AMap.find e.tm.views f.w1.toNat = some w ∧ w.same (recordOf e f) = true) :
    ∃ u vs w, exec (.wopen f) s = .next (((u.afterWopen e f).track e (.wopen f) [] [] none).issued s e (.wopen f)) ∧
      Holding u e.who (e.gr.used e.key) vs ∧ AMap.find vs f.w1.toNat = some w ∧ w.same (recordOf e f) = true ∧
      u.mem = s.mem := by
  have hb : ¬ (AMap.find e.gr.holds f.w1.toNat).isSome = true := by
    rw [hn]
    exact Bool.false_ne_true
  have hr : ¬ (!(recordOf e f).ok) = true := by
    rw [hok]
    exact Bool.false_ne_true
  have hx {u : State} (hu : _ = Res.done ((u.afterWopen e f).track e (.wopen f) [] [] none)) :
      exec (.wopen f) s = .next (((u.afterWopen e f).track e (.wopen f) [] [] none).issued s e (.wopen f)) :=
    issue_done h rfl ((if_neg (Nat.not_lt.mpr hp)).trans ((if_neg (Nat.not_le.mpr hk)).trans ((if_neg hb).trans
      ((if_neg hr).trans hu))))
  rcases hv with hv | ⟨w, hw, hs⟩
  · refine ⟨_, _, recordOf e f, hx (u := (s.begun e).modTeam e.who.tid (fun t => { t with views := AMap.insert t.views f.w1.toNat (recordOf e f) })) ?_,
      (holding_begun h.env).modViews (AMap.insert · f.w1.toNat (recordOf e f)), (AMap.find_insert ..).trans (if_pos rfl), View.same_self _, rfl⟩
    rw [hv]
    rfl
  · refine ⟨_, _, w, hx (u := s.begun e) ?_, holding_begun h.env, hw, hs, rfl⟩
    rw [hw]
    exact (if_pos hs).trans rfl

theorem held_view {k : Nat} {v : View} {o : Word × Word} (h : e.held k = some (v, o)) : AMap.find e.tm.views k = some v := by
  unfold Env.held at h
  split at h
  · split at h
    · next hv _ => rw [hv, (Prod.mk.inj (Option.some.inj h)).1]
    · cases h
  · cases h

/-- The group holds the view no longer. -/
noncomputable def Group.unhold (g : Group) (k : Nat) : Group := { g with holds := AMap.erase g.holds k }

/-- The state with the group's hold gone, and the team's view with it where no other group holds it. -/
noncomputable def State.retired (u : State) (e : Env) (v : View) (k : Nat) : State :=
  let u1 := (u.releaseViews [e.gr.core] v (fun w => w.tid == e.who.tid && w.grp == e.who.grp)).modGrp e.who (·.unhold k)
  if e.tm.groups.all (fun g => g.1 == e.who.grp || (AMap.find g.2.holds k).isNone) then
    (u1.releaseViews e.tm.cores v (fun w => w.tid == e.who.tid)).modTeam e.who.tid
      (fun t => { t with views := AMap.erase t.views k })
  else u1

theorem settles_releaseViews (u : State) (cores : List Nat) (v : View) (mine : Sel → Bool) :
    Settles u (u.releaseViews cores v mine) :=
  settles_foldl _ (fun _ _ => settles_releaseWhere ..) _ _

theorem Holding.retired {u : State} {g : Group} {vs : AMap View} (h : Holding u e.who g vs) (v : View) (k : Nat) :
    Holding (u.retired e v k) e.who (g.unhold k)
      (if e.tm.groups.all (fun g => g.1 == e.who.grp || (AMap.find g.2.holds k).isNone) then AMap.erase vs k else vs) := by
  have h1 := (h.of_settles (settles_releaseViews u [e.gr.core] v (fun w => w.tid == e.who.tid && w.grp == e.who.grp))).modGrp
    (·.unhold k)
  unfold State.retired
  dsimp only
  split
  · exact (h1.of_settles (settles_releaseViews ..)).modViews (AMap.erase · k)
  · exact h1

/-- Where no work of a team names a view, none of a group of it does. -/
theorem any_of_naming {c : Core} (w : Sel) {k : Nat} (h : c.naming w.tid k = false) :
    (c.cmds.any (fun m => m.2.who.tid == w.tid && m.2.who.grp == w.grp && (viewsNamed m.2.instr m.2.gs).contains k) ||
      c.loops.any (fun l => l.2.who.tid == w.tid && l.2.who.grp == w.grp && (viewsNamed l.2.instr l.2.gs).contains k)) = false := by
  have hand {a b d : Bool} (x : (a && b && d) = true) : (a && d) = true := by
    obtain ⟨hab, hd⟩ := Bool.and_eq_true_iff.mp x
    exact Bool.and_eq_true_iff.mpr ⟨(Bool.and_eq_true_iff.mp hab).1, hd⟩
  obtain ⟨h1, h2⟩ := Bool.or_eq_false_iff.mp h
  exact Bool.or_eq_false_iff.mpr ⟨List.any_eq_false.mpr fun m hm hx => List.any_eq_false.mp h1 m hm (hand hx),
    List.any_eq_false.mpr fun m hm hx => List.any_eq_false.mp h2 m hm (hand hx)⟩

theorem wret_retires {v : View} {o : Word × Word} (h : Issues s e (.wret f)) (hh : e.held f.w1.toNat = some (v, o))
    (hn : (e.tm.cores.all (fun c => !(s.core c).naming e.who.tid f.w1.toNat) &&
      !(s.core e.gr.core).naming e.who.tid f.w1.toNat) = true) :
    exec (.wret f) s = .next ((((s.begun e).retired e v f.w1.toNat).track e (.wret f) [] [] none).issued s e (.wret f)) := by
  obtain ⟨hcs, hc⟩ := Bool.and_eq_true_iff.mp hn
  refine issue_done h rfl ?_
  dsimp only
  rw [hh]
  refine (if_neg ?_).trans ((if_neg ?_).trans rfl)
  · exact Bool.eq_false_iff.mp (any_of_naming e.who ((Bool.not_eq_eq_eq_not ..).mp hc))
  · refine Bool.eq_false_iff.mp ((Bool.and_eq_false_iff ..).mpr (.inr (List.any_eq_false.mpr fun c hm hx => ?_)))
    have hnc := List.all_eq_true.mp hcs c hm
    exact Bool.false_ne_true (((Bool.not_eq_eq_eq_not ..).mp hnc).symm.trans hx)

end

/-- Settles O38: `wopen` and `wret` by what the group and its team hold after them, `wadv` by the halves of its sums, and
`wget` by the registers it writes in a row. -/
theorem viewHolds : Obligations.ViewHolds := by
  unfold Obligations.ViewHolds
  refine ⟨fun s e f => ⟨fun h hp hk hn hok hv => ?_, fun v o h hh hn => ?_⟩, fun s e f v w o q hh => ⟨fun h ha => ?_,
    fun h ha => ⟨_, wget_reads h hh ha, gReg_putBlock e _ (v.words o)⟩, fun h hw => wchk_writes h hh hw⟩⟩
  · obtain ⟨u, vs, w, hx, hu, hw, hs, hm⟩ := wopen_opens h hp hk hn hok hv
    refine ⟨_, hx, ⟨_, hu.afterWopen.grp, (AMap.find_insert ..).trans (if_pos rfl), rfl, rfl⟩, ?_, (afterWopen_mem ..).trans hm⟩
    obtain ⟨t, ht, -, rfl⟩ := hu.afterWopen (f := f)
    exact ⟨t, w, ht, hw, hs⟩
  · have hu := (holding_begun h.env).retired v f.w1.toNat
    refine ⟨_, wret_retires h hh hn, ⟨_, hu.grp, (AMap.find_erase ..).trans (if_pos rfl), rfl, rfl⟩, fun t ht => ?_⟩
    obtain ⟨t', ht', -, hv⟩ := hu
    rw [Option.some.inj (ht.symm.trans ht'), hv]
    have hheld : AMap.find e.tm.views f.w1.toNat = some v := held_view hh
    split
    · next hl => exact ⟨fun _ => hl, fun _ => (AMap.find_erase ..).trans (if_pos rfl)⟩
    · next hl => exact ⟨fun hn => absurd (hheld.symm.trans hn) (Option.some_ne_none _), fun h => absurd h hl⟩
  · exact ⟨_, wadv_moves h hh ha, (halves_addHalves ..).1, (halves_addHalves ..).2, (halves_addHalves ..).1,
      (halves_addHalves ..).2⟩

end Sys2Proof.Machine
end
